-- ==== Sys2Proof/Word.lean ====
section
/-! DEFINITION. The word types of the manual (00_scope, "Numbers and units"): bytes, 64-bit registers, byte strings. -/

namespace Sys2Proof

/-- A byte. Multi-byte values are stored little-endian (00_scope). -/
abbrev Byte := BitVec 8
/-- A 64-bit register. -/
abbrev Word := BitVec 64
/-- A byte string: a payload, a frame, a message. -/
abbrev Bytes := List Byte

end Sys2Proof
end

