-- ==== Sys2Proof/Config.lean ====
section
/-! DEFINITION. What an implementation fixes, and the free values: constants with no body where the manual leaves a value
open or names an outside standard for it. -/

namespace Sys2Proof.Config

open Sys2Proof

/-- A fresh unconstrained word for draw number `n` (log 3): values the manual does not state. -/
opaque freeWord : Nat → Word
/-- SHA-384 (R579, R594, R351 and others name it; its definition is FIPS 180's): 48 bytes (log 4). -/
opaque sha384 : Bytes → Bytes
/-- ECDSA on brainpoolP384r1 with SHA-384, verification: key, message, signature (R594, R615; log 4). -/
opaque ecdsaVerify : Bytes → Bytes → Bytes → Bool
/-- ECDSA signature with the chip's DevID key (R598, R614; log 4). -/
opaque devIdSign : Bytes → Bytes
/-- True where the compressed point is on brainpoolP384r1 (R600; log 4). -/
opaque onCurve : Bytes → Bool
/-- The key of a blob entry, opened by the steps of R600 (ECDH, HKDF, RFC 3394): the chip's serial, blob bytes 0 to 95, the
wrapped key. `none` where the unwrap's integrity check fails (log 4). -/
opaque unwrapKey : Word → Bytes → Bytes → Option (BitVec 256)
/-- AES-256-GCM sealing of 208 bytes: key, IV, associated data, plaintext; 224 bytes (R604; log 4). -/
opaque gcmSeal : BitVec 256 → Bytes → Bytes → Bytes → Bytes
/-- AES-256-GCM opening: `none` where the tag check fails (R604, R607; log 4). -/
opaque gcmOpen : BitVec 256 → Bytes → Bytes → Bytes → Option Bytes
/-- What a 64-byte block encrypted under one pool key reads as when it is decrypted under another (XTS-AES-256, R486, R610;
log 4): the two keys, the tweak, the content written. -/
opaque xtsCross : BitVec 256 → BitVec 256 → Nat → Bytes → Bytes
/-- The certificate chain of a report or an SPDM answer (R598, R614; log 4). -/
opaque certChain : Bytes
/-- Whether a certificate chain reaches the fused Dvorkoist root digest (R595, R706; log 4). -/
opaque chainReachesRoot : Bytes → Bool
/-- The public key a certificate chain ends in (R706; log 4). -/
opaque chainKey : Bytes → Bytes
/-- The Dvorkoist licence key the running script carries (R615; log 4). -/
opaque licenceKey : Bytes
/-- Whether a DER certificate is one self-signed brainpoolP384r1 CA certificate (R727; log 4). -/
opaque isAnchorCert : Bytes → Bool
/-- The answer of the SPDM 1.3 responder (R737): request, signed report (log 4). -/
opaque spdmAnswer : Bytes → Bytes → Bytes
/-- The answer of the CXL primary mailbox (R539) to a command CXL 3.1 makes mandatory: opcode, input (log 5). -/
opaque mailboxAnswer : Nat → Bytes → Bytes
/-- The estimator's projection (R636): its inputs' history to end of life, low and high end of the band (log 6). -/
opaque lifeProjection : List (List Nat) → Nat → Nat × Nat × Nat
/-- SHA-384 of the ROM and of the stage-1 loader (R614; log 4). -/
opaque romDigest : Bytes
opaque loaderDigest : Bytes

/-- Whether a debug token is one Dvorkoist signed for a chip serial (R596 gives no format; log 4). -/
opaque debugTokenGood : Word → Bytes → Bool

/-- SVC_CODE of the notices whose layout the manual does not give: a domain that goes down (R283), a mirror write and a request
for the mirror (R353, R354); log 50. -/
opaque svcDomainDown : BitVec 16
opaque svcMirrorWrite : BitVec 16
opaque svcRestore : BitVec 16

/-- The expert table a Belug cuts and places tokens by (R395 gives it to reducers alone): group, AUX; TOPK, H, CAP and the rank of
each expert (log 56). -/
opaque seatTable : Nat → Nat → Nat × Nat × Nat × List Nat
/-- MAX_FLIGHT at a Belug, ns (R185 computes it from the chart, which Belug does not hold; log 57). -/
opaque seatMaxFlight : Nat

end Sys2Proof.Config
end

