-- ==== Sys2Proof/Syntax.lean ====
section
/-! DEFINITION. The commands of the block (spec/opcode_table.json) and the types of their operands. -/

namespace Sys2Proof

/-- The two chips of the block. -/
inductive Side where
  | itv | blg
  deriving DecidableEq, Repr

/-- A logical port: 0 to 71 of Itvos, BP0 to BP23 of Belug (R14, R499). -/
inductive PortRef where
  | itv (p : Fin 72)
  | blg (p : Fin 24)
  deriving DecidableEq, Repr

/-- A flit: the header fields of R80 and the 224 payload bytes. -/
structure Flit where
  dst : BitVec 16 := 0
  src : BitVec 16 := 0
  ctx : BitVec 16 := 0
  e2e : BitVec 32 := 0
  seq : BitVec 20 := 0
  kind : BitVec 5 := 0
  dk : Bool := false
  sk : Bool := false
  enc : Bool := false
  cm : Bool := false
  down : Bool := false
  crv : BitVec 3 := 0
  crn : BitVec 5 := 0
  hops : BitVec 4 := 0
  payload : Bytes := List.replicate 224 0
  deriving DecidableEq, Repr

/-- An apron message: the header of R505 (`tail` is bytes 16 to 63) and the bytes of its data words. -/
structure ApronMsg where
  typ : Byte
  opt : Byte := 0
  tag : BitVec 16 := 0
  ctx : BitVec 16 := 0
  size : Byte := 0
  b7 : Byte := 0
  addr : Word := 0
  tail : Bytes := List.replicate 48 0
  data : Bytes := []
  deriving DecidableEq, Repr

/-- What a read of a host buffer returned: its bytes, or the failure of R549. -/
inductive HostRead where
  | ok (data : Bytes)
  | failed
  deriving DecidableEq, Repr

/-- What the home's checked hardware met while it performed a request: nothing, an uncorrectable block (R478), or a mismatch
of the duplicated units of R623. -/
inductive HomeHw where
  | ok | uncorrectable | arithMismatch | xtsMismatch
  deriving DecidableEq, Repr

/-- What DETECT sees (R47, R66): per data lane (bit 8: the clock lane) a shorted transmit leg, a sensed far termination; and
whether any signal is received. -/
structure DetectObs where
  short : BitVec 9
  term : BitVec 9
  signal : Bool
  deriving DecidableEq, Repr

/-- What CLOCK sees (R42, R47): an edge on the clock lane, on data lane 7, on data lane 0, of the receive direction; and
whether this end's own transmit clock lane works. -/
structure ClockObs where
  clk : Bool
  lane7 : Bool
  lane0 : Bool
  txClk : Bool
  deriving DecidableEq, Repr

/-- What ALIGN sees (R49, R66): the transmitter lane number that arrives on each receiver lane (none: no pattern), the
inverted lanes (bit 8: clock lane), the skew of each lane in ps. -/
structure AlignObs where
  order : List (Option Nat)
  inverted : BitVec 9
  skew : List Nat
  deriving DecidableEq, Repr

/-- What one receiver counted over a dress rehearsal or over the running monitor's second (R62-R64): flits that failed their
CRC after FEC, codewords that needed three corrections, byte errors per lane. -/
structure DressObs where
  crcFails : Nat
  threeCorr : Nat
  laneErrs : List Nat
  deriving DecidableEq, Repr

/-- Which flit the core places (R105): the one that arrived first and is not yet placed, among those of an input port, or of
an internal end; or one that was still on its internal path. The number picks it in its list. -/
inductive PlaceSel where
  | port (p : PortRef) (i : Nat)
  | internal (i : Nat)
  | path (i : Nat)
  deriving DecidableEq, Repr

/-- What happens to a placed flit between its input and the output buffer (R122, R123): it arrives, it fails parity, or it is
still on its internal path. -/
inductive CoreFate where
  | arrives | parity | delayed
  deriving DecidableEq, Repr

/-- Which flit has aged (R183): one in an input's landing reserve, one in an output's buffer, or one received by Belug and
not delivered. -/
inductive AgedAt where
  | landing (p : PortRef) (i : Nat)
  | output (p : PortRef) (i : Nat)
  | inbox (i : Nat)
  deriving DecidableEq, Repr

/-- Which pace is updated (R115, R524). -/
inductive PaceOf where
  | die (d : Fin 2)
  | belug
  deriving DecidableEq, Repr

/-- A register write: BAR0 by the master (R540), CFG_WR of an apron channel with its TAG (R506, R523), or the master's write
of Bus Master Enable and of the HDM decoder's commit in PCIe configuration space (R548, R558). -/
inductive RegWrite where
  | bar0 (addr : Nat) (value : Word)
  | cfg (ch : Fin 24) (tag : BitVec 16) (addr : Nat) (value : Word)
  | pcie (busMaster hdmCommit : Bool)
  deriving DecidableEq, Repr

/-- An SRAM budget of R468 with the part of the tables that R626 distinguishes. -/
inductive SramPart where
  /-- the flit at a place of an output's queue; the entry of a line (node x 2^41 + line number) -/
  | outputBuffer (port : Fin 72) (i : Nat) | directory (line : Nat) | chorusStaging (cluster : Fin 18)
  /-- a 128-byte line of the pool -/
  | wardrobeCache (offset : Nat)
  /-- kind x 65,536 + index: 0 seat, 1 house, 2 switch, 3 relay, 4 group -/
  | routing (key : Nat)
  /-- a group's cast list or cue sheet; a combining table entry; a seat's flow to a home of this switch -/
  | castList (group : Nat) | combining (id : Nat) | flowState (seat : Fin 72)
  /-- a job key by WIRE_CTX; a pool key slot of a partition -/
  | jobKey (ctx : BitVec 16) | poolKey (part : Fin 16) (slot : Bool) | prompter
  deriving DecidableEq, Repr

/-- What a scrub read (R470, R477): good, corrected (for SRAM: and whether the row already erred within 24 h), or lost. -/
inductive ScrubFound where
  | good | corrected (again : Bool) | lost
  deriving DecidableEq, Repr

/-- A power record's or a pin's rail (R750). -/
inductive Rail where
  | sram | serdes | cxl | hbm | hbmq | ddrq | a1v2 | v1v8
  deriving DecidableEq, Repr

/-- The verification of an image slot at a start (R704, R706): whether the slot's image passes. -/
structure SlotCheck where
  slot0 : Bool
  slot1 : Bool
  deriving DecidableEq, Repr

/-- A population of the gallery as the SPDs give it (R473): modules per channel, type (0 RDIMM, 1 MRDIMM), module GiB, MT/s. -/
structure Population where
  perChannel : Nat
  mrdimm : Bool
  gib : Nat
  mts : Nat
  deriving DecidableEq, Repr

/-- The hourly inputs of the estimator (R636). -/
structure EstInputs where
  paceDrift : Nat
  serdesTrend : Nat
  correctedPerDay : Nat
  vddHigh : Bool
  deriving DecidableEq, Repr

/-- The commands: one constructor per row of spec/opcode_table.json, in its order. -/
inductive Instr where
  /-- IDENT (R562) -/
  | ident (slot : Fin 8)
  /-- LINK_STATUS (R566) -/
  | linkStatus (slot : Fin 8)
  /-- SEATING_LOAD (R567) -/
  | seatingLoad (slot : Fin 8) (host : HostRead)
  /-- ROUTE_STAGE (R568) -/
  | routeStage (slot : Fin 8) (host : HostRead)
  /-- ROUTE_COMMIT (R173) -/
  | routeCommit (slot : Fin 8)
  /-- ROUTE_DRAIN_END (R173) -/
  | routeDrainEnd
  /-- CAST_SET (R569) -/
  | castSet (slot : Fin 8) (host : HostRead)
  /-- CUE_SHEET_ADD (R570) -/
  | cueSheetAdd (slot : Fin 8)
  /-- CUE_ARM (R571) -/
  | cueArm (slot : Fin 8)
  /-- CURTAIN_SET (R572) -/
  | curtainSet (slot : Fin 8)
  /-- UNDERSTUDY_SWAP (R349) -/
  | understudySwap (slot : Fin 8)
  /-- PROMPT_BOOK_READ (R574) -/
  | promptBookRead (slot : Fin 8) (landed : Bool)
  /-- ENTRANCE_READ (R574) -/
  | entranceRead (slot : Fin 8) (landed : Bool)
  /-- CHORUS_LOAD (R434) -/
  | chorusLoad (slot : Fin 8) (host : HostRead)
  /-- CHORUS_CHECK (R575) -/
  | chorusCheck (slot : Fin 8) (host : HostRead)
  /-- POOL_CARVE_CREATE (R576) -/
  | poolCarveCreate (slot : Fin 8)
  /-- POOL_CARVE_RELEASE (R576) -/
  | poolCarveRelease (slot : Fin 8)
  /-- POOL_CARVE_WINDOW (R576) -/
  | poolCarveWindow (slot : Fin 8)
  /-- POOL_CARVE_CLEAR_WINDOW (R576) -/
  | poolCarveClearWindow (slot : Fin 8)
  /-- TIER_POLICY_SETTINGS (R481) -/
  | tierPolicySettings (slot : Fin 8)
  /-- TIER_POLICY_CLASS (R480) -/
  | tierPolicyClass (slot : Fin 8)
  /-- WARDROBE_CARVE_CREATE (R578) -/
  | wardrobeCarveCreate (slot : Fin 8)
  /-- WARDROBE_CARVE_RELEASE (R450) -/
  | wardrobeCarveRelease (slot : Fin 8)
  /-- WARDROBE_CARVE_RECLAIM (R466) -/
  | wardrobeCarveReclaim (slot : Fin 8)
  /-- PARTITION_SET (R579) -/
  | partitionSet (slot : Fin 8)
  /-- KEY_INSTALL_JOB (R603) -/
  | keyInstallJob (slot : Fin 8)
  /-- KEY_INSTALL_POOL (R486) -/
  | keyInstallPool (slot : Fin 8)
  /-- KEY_ROTATE (R487) -/
  | keyRotate (slot : Fin 8)
  /-- STRIKE (R611) -/
  | strike (slot : Fin 8)
  /-- POWER_CAP (R650) -/
  | powerCap (slot : Fin 8)
  /-- GHOST_SET (R655) -/
  | ghostSet (slot : Fin 8)
  /-- PACE_READ (R583) -/
  | paceRead (slot : Fin 8)
  /-- RUN_LENGTH_READ (R584) -/
  | runLengthRead (slot : Fin 8)
  /-- COUNTERS_READ (R585) -/
  | countersRead (slot : Fin 8) (landed : Bool)
  /-- PEEPHOLE_SET (R142) -/
  | peepholeSet (slot : Fin 8)
  /-- RESET_PROMPTER (R555) -/
  | resetPrompter (slot : Fin 8)
  /-- RESET_PORT_REHEARSE (R586) -/
  | resetPortRehearse (slot : Fin 8)
  /-- RESET_PORT_DISABLE (R74) -/
  | resetPortDisable (slot : Fin 8)
  /-- RESET_PORT_ENABLE (R586) -/
  | resetPortEnable (slot : Fin 8)
  /-- RESET_CLUSTER (R691) -/
  | resetCluster (slot : Fin 8)
  /-- RESET_CORE (R690) -/
  | resetCore (slot : Fin 8)
  /-- RESET_PARTITION (R692) -/
  | resetPartition (slot : Fin 8)
  /-- RESET_WHOLE_CHIP (R586) -/
  | resetWholeChip (slot : Fin 8)
  /-- SCRIPT_STAGE (R708) -/
  | scriptStage (slot : Fin 8) (host : HostRead)
  /-- SCRIPT_SWITCH (R713) -/
  | scriptSwitch (slot : Fin 8)
  /-- SCRIPT_BOW (R716) -/
  | scriptBow (slot : Fin 8)
  /-- LICENCE_APPLY (R588) -/
  | licenceApply (slot : Fin 8)
  /-- ATTEST_FETCH (R589) -/
  | attestFetch (slot : Fin 8) (landed : Bool)
  /-- UNKNOWN_COMMAND (R562) -/
  | unknownCommand (slot : Fin 8)
  /-- CALLBOARD_HW_ANSWER (R556) -/
  | callboardHwAnswer (slot : Fin 8)
  /-- COMMAND_TIMEOUT (R555) -/
  | commandTimeout (slot : Fin 8) (applied : Bool)
  /-- REGISTER_WRITE (R523) -/
  | registerWrite (w : RegWrite)
  /-- EVENT_CAUSE_WRITE (R544) -/
  | eventCauseWrite (v : Word)
  /-- MSIX_VECTOR_UNMASK (R544) -/
  | msixVectorUnmask (v : Fin 16)
  /-- MIRROR_REFRESH (R542) -/
  | mirrorRefresh
  /-- FUNCTION_LEVEL_RESET (R558) -/
  | functionLevelReset
  /-- PERST_N (R679) -/
  | perstN (level : Bool)
  /-- CXL_LINK_DOWN (R537) -/
  | cxlLinkDown
  /-- CXL_MEM_READ (R492) -/
  | cxlMemRead (offset : Nat) (hw : HomeHw)
  /-- CXL_MEM_WRITE (R492) -/
  | cxlMemWrite (offset : Nat) (data : Bytes)
  /-- PORT_RETRY (R48) -/
  | portRetry (r : PortRef)
  /-- DETECT (R47) -/
  | detect (r : PortRef) (obs : DetectObs)
  /-- CLOCK (R47) -/
  | clock (r : PortRef) (obs : ClockObs)
  /-- ALIGN (R49) -/
  | align (r : PortRef) (obs : AlignObs)
  /-- OFFER_FRAME (R51) -/
  | offerFrame (r : PortRef) (frame : Bytes)
  /-- NAMES (R58) -/
  | names (r : PortRef)
  /-- SHIFT (R47) -/
  | shift (r : PortRef)
  /-- TAP_REQUEST (R45) -/
  | tapRequest (r : PortRef) (lane : Fin 9) (pre : BitVec 2) (mid : BitVec 2) (post : BitVec 2)
  /-- TUNE_DONE (R46) -/
  | tuneDone (r : PortRef)
  /-- TUNE_TIMEOUT (R46) -/
  | tuneTimeout (r : PortRef)
  /-- DRESS_REHEARSAL (R62) -/
  | dressRehearsal (r : PortRef) (own : DressObs) (partner : DressObs)
  /-- REHEARSAL_TIMEOUT (R47) -/
  | rehearsalTimeout (r : PortRef)
  /-- RUNNING_MONITOR (R64) -/
  | runningMonitor (r : PortRef) (obs : DressObs)
  /-- PHASE_RECENTRE (R39) -/
  | phaseRecentre (r : PortRef) (steps : List Int)
  /-- SHORT_PROBE (R66) -/
  | shortProbe (r : PortRef) (lane : Fin 9) (still : Bool)
  /-- CLOCK_LOSS (R67) -/
  | clockLoss (r : PortRef)
  /-- STANDIN_TIMEOUT (R168) -/
  | standinTimeout (r : PortRef)
  /-- REFCLK_LOSS (R70) -/
  | refclkLoss (side : Side) (inputB : Bool)
  /-- REFCLK_HOLDOVER_END (R72) -/
  | refclkHoldoverEnd (side : Side)
  /-- REFCLK_RETURN (R71) -/
  | refclkReturn (side : Side) (inputB : Bool)
  /-- FLIT_ARRIVAL (R91) -/
  | flitArrival (r : PortRef) (raw : Bytes)
  /-- FLIT_PLACE (R105) -/
  | flitPlace (sel : PlaceSel) (fate : CoreFate)
  /-- FLIT_TRANSMIT (R126) -/
  | flitTransmit (r : PortRef)
  /-- RESEQ_SKIP (R122) -/
  | reseqSkip (inp : Nat) (out : Fin 72) (vc : Fin 8)
  /-- PATH_RETIRE (R123) -/
  | pathRetire (die : Fin 2) (path : Fin 8)
  /-- PACE_UPDATE (R115) -/
  | paceUpdate (of : PaceOf) (readings : List Nat)
  /-- FLIT_AGED (R183) -/
  | flitAged (loc : AgedAt)
  /-- LINK_CTL (R95) -/
  | linkCtl (r : PortRef) (f : Flit)
  /-- RESYNC_REQ (R94) -/
  | resyncReq (r : PortRef)
  /-- RESYNC_REPEAT (R94) -/
  | resyncRepeat (r : PortRef)
  /-- STANDIN_REQ (R68) -/
  | standinReq (r : PortRef)
  /-- ALIGN_DONE (R68) -/
  | alignDone (r : PortRef) (f : Flit) (lanes : BitVec 8)
  /-- CUE_STAMP_TIMER (R297) -/
  | cueStampTimer (r : PortRef)
  /-- PARENT_TIMEOUT (R302) -/
  | parentTimeout (side : Side)
  /-- ROOT_CLAIM (R303) -/
  | rootClaim
  /-- DIR_REQUEST (R255) -/
  | dirRequest (f : Flit)
  /-- LOAD (R191) -/
  | load (side : Side) (f : Flit) (hw : HomeHw)
  /-- STORE (R191) -/
  | store (side : Side) (f : Flit) (hw : HomeHw)
  /-- ATOMIC (R264) -/
  | atomic (side : Side) (f : Flit) (hw : HomeHw)
  /-- FENCE (R268) -/
  | fence (f : Flit)
  /-- RMEM (R382) -/
  | rmem (side : Side) (f : Flit) (hw : HomeHw)
  /-- BULK (R181) -/
  | bulk (side : Side) (f : Flit) (hw : HomeHw)
  /-- BULK_MSG (R521) -/
  | bulkMsg (side : Side) (f : Flit)
  /-- PMSG (R181) -/
  | pmsg (side : Side) (f : Flit)
  /-- DATA (R182) -/
  | data (side : Side) (f : Flit)
  /-- DONE (R182) -/
  | done (side : Side) (f : Flit)
  /-- INV (R258) -/
  | inv (f : Flit)
  /-- INV_ACK (R257) -/
  | invAck (f : Flit)
  /-- FWD (R260) -/
  | fwd (f : Flit)
  /-- INV_RESEND (R257) -/
  | invResend (seat : Fin 72) (seq : Nat)
  /-- INV_ORPHAN (R261) -/
  | invOrphan (seat : Fin 72) (seq : Nat)
  /-- DOMAIN_DOWN_NOTICE (R283) -/
  | domainDownNotice (part : Fin 16)
  /-- DIR_LATE (R256) -/
  | dirLate (line : Nat) (i : Nat)
  /-- SERVICE_LATE (R184) -/
  | serviceLate (side : Side) (node : BitVec 16) (seq : BitVec 20)
  /-- RESEND_TIMEOUT (R188) -/
  | resendTimeout (side : Side) (node : BitVec 16) (seq : BitVec 20)
  /-- HOME_WAIT_TIMEOUT (R156) -/
  | homeWaitTimeout (node : BitVec 16) (seq : BitVec 20)
  /-- HOME_USABLE (R205) -/
  | homeUsable (plane : Fin 24)
  /-- APRON_LOAD (R243) -/
  | apronLoad (ch : Fin 24) (m : ApronMsg)
  /-- APRON_STORE (R247) -/
  | apronStore (ch : Fin 24) (m : ApronMsg)
  /-- APRON_ATOMIC (R264) -/
  | apronAtomic (ch : Fin 24) (m : ApronMsg)
  /-- APRON_FENCE (R267) -/
  | apronFence (ch : Fin 24) (m : ApronMsg)
  /-- INV_RANGE (R246) -/
  | invRange (ch : Fin 24) (m : ApronMsg)
  /-- SLOT_POST (R514) -/
  | slotPost (ch : Fin 24) (m : ApronMsg)
  /-- COLL_POST (R519) -/
  | collPost (ch : Fin 24) (m : ApronMsg)
  /-- TALLY_READ (R517) -/
  | tallyRead (ch : Fin 24) (m : ApronMsg)
  /-- TALLY_WAIT_TIMEOUT (R517) -/
  | tallyWaitTimeout (i : Nat)
  /-- KSTART (R522) -/
  | kstart (ch : Fin 24) (m : ApronMsg)
  /-- APRON_RMEM (R382) -/
  | apronRmem (ch : Fin 24) (m : ApronMsg)
  /-- LMEM_RSP (R511) -/
  | lmemRsp (ch : Fin 24) (m : ApronMsg)
  /-- APRON_RETRY (R504) -/
  | apronRetry (ch : Fin 24)
  /-- APRON_REPLAY_TIMEOUT (R504) -/
  | apronReplayTimeout (ch : Fin 24)
  /-- APRON_RETRAIN (R504) -/
  | apronRetrain (ch : Fin 24) (ok : Bool)
  /-- APRON_RST_N (R528) -/
  | apronRstN
  /-- XLAT_INV_RANGE (R223) -/
  | xlatInvRange (n : Fin 4)
  /-- XLAT_INV_CONTEXT (R223) -/
  | xlatInvContext (n : Fin 4)
  /-- XLAT_INV_ALL (R223) -/
  | xlatInvAll (n : Fin 4)
  /-- INV_SLOT_COMPLETE (R224) -/
  | invSlotComplete (n : Fin 4)
  /-- INT_CAUSE_WRITE (R526) -/
  | intCauseWrite (v : Word)
  /-- HOME_MAP_WRITE (R525) -/
  | homeMapWrite (k : Fin 3) (v : Word)
  /-- VC_WEIGHT_WRITE (R525) -/
  | vcWeightWrite (v : Word)
  /-- TALLY_WRITE (R517) -/
  | tallyWrite (t : Fin 4096) (v : Word)
  /-- GROUP_TABLE_WRITE (R518) -/
  | groupTableWrite (g : Fin 256) (word : Fin 4) (v : Word)
  /-- STAGEHAND_RESET (R528) -/
  | stagehandReset (n : Fin 32)
  /-- BP_RESET (R528) -/
  | bpReset (p : Fin 24)
  /-- BELUG_RESET (R528) -/
  | belugReset
  /-- BELUG_START_WAIT_END (R528) -/
  | belugStartWaitEnd
  /-- STAGEHAND_DESCRIPTOR (R516) -/
  | stagehandDescriptor (n : Fin 32)
  /-- PRINCIPAL_TOKEN (R137) -/
  | principalToken (p : Fin 24)
  /-- CUE_LAUNCH (R304) -/
  | cueLaunch (group : Nat) (cueSeq : BitVec 16) (input : Bytes)
  /-- CURTAIN_RELEASE (R307) -/
  | curtainRelease (group : Nat) (cueSeq : BitVec 16)
  /-- CONTRIB (R334) -/
  | contrib (f : Flit) (residueBad : Bool)
  /-- RESULT (R336) -/
  | result (f : Flit)
  /-- MCAST (R397) -/
  | mcast (f : Flit)
  /-- ABORT (R339) -/
  | abort (side : Side) (f : Flit)
  /-- REMAP (R348) -/
  | remap (side : Side) (f : Flit)
  /-- REPORT (R341) -/
  | report (f : Flit)
  /-- COLL_RESEND (R335) -/
  | collResend (group : Nat) (cueSeq : BitVec 16) (stripe : Nat)
  /-- COLL_MEMBER_TIMEOUT (R337) -/
  | collMemberTimeout (group : Nat) (cueSeq : BitVec 16)
  /-- HOLD_EXPIRY (R344) -/
  | holdExpiry (group : Nat) (cueSeq : BitVec 16) (step : Nat)
  /-- RESULT_KEEP_EXPIRY (R335) -/
  | resultKeepExpiry (group : Nat) (cueSeq : BitVec 16) (stripe : Nat)
  /-- MIRROR_WRITE (R353) -/
  | mirrorWrite (f : Flit)
  /-- MERGE (R429) -/
  | merge (f : Flit)
  /-- FINISH (R429) -/
  | finish (group : Nat) (cueSeq : BitVec 16) (chunk : Nat)
  /-- CHORUS_WORD (R416) -/
  | chorusWord (core : Fin 72) (fault : Bool)
  /-- CLUSTER_SELF_TEST (R678) -/
  | clusterSelfTest (cluster : Fin 18) (pass : Bool)
  /-- ALLOC (R447) -/
  | alloc (f : Flit)
  /-- HAND_ON (R454) -/
  | handOn (f : Flit)
  /-- FREE (R454) -/
  | free (f : Flit)
  /-- FREE_CACHE_REFILL (R461) -/
  | freeCacheRefill (w : Fin 17) (pool : Fin 8)
  /-- DECAY (R479) -/
  | decay
  /-- MOVE_START (R482) -/
  | moveStart
  /-- MOVE_COMPLETE (R483) -/
  | moveComplete (page : Nat)
  /-- SWEEP_STEP (R487) -/
  | sweepStep (part : Fin 16) (hw : HomeHw)
  /-- SCRUB_DONE (R490) -/
  | scrubDone (i : Nat)
  /-- PATROL_SCRUB (R477) -/
  | patrolScrub (block : Nat) (found : ScrubFound)
  /-- SRAM_SCRUB (R470) -/
  | sramScrub (die : Fin 2) (part : SramPart) (found : ScrubFound)
  /-- KEY_PUSH (R609) -/
  | keyPush (r : Fin 24) (f : Flit)
  /-- KEY_REVOKE (R612) -/
  | keyRevoke (f : Flit)
  /-- PARTITION_CLEAR (R693) -/
  | partitionClear (f : Flit)
  /-- KEY_PUSH_REPEAT (R608) -/
  | keyPushRepeat (i : Nat)
  /-- KEY_USE_AFTER (R605) -/
  | keyUseAfter (side : Side) (ctx : BitVec 16)
  /-- PREVIOUS_KEY_ERASE (R605) -/
  | previousKeyErase (side : Side) (ctx : BitVec 16)
  /-- STRIKE_SETTLE (R611) -/
  | strikeSettle (part : Fin 16)
  /-- DEBUG_UNLOCK (R596) -/
  | debugUnlock (token : Bytes)
  /-- POWER_SAMPLE (R642) -/
  | powerSample (real : Nat)
  /-- SPRINT_ACCOUNT (R648) -/
  | sprintAccount
  /-- CAP_MISSED (R651) -/
  | capMissed
  /-- FLOOR_END (R652) -/
  | floorEnd
  /-- TJ_SAMPLE (R659) -/
  | tjSample (tj : Nat)
  /-- THERMAL_TRIP (R660) -/
  | thermalTrip
  /-- PWR_SHED_N (R661) -/
  | pwrShedN
  /-- PWR_SHED_RELEASE (R661) -/
  | pwrShedRelease
  /-- HEARTBEAT_LOST (R663) -/
  | heartbeatLost
  /-- COOLANT_STALE (R643) -/
  | coolantStale
  /-- BROWN_OUT (R662) -/
  | brownOut
  /-- RAIL_FAULT (R753) -/
  | railFault (rail : Rail)
  /-- AVS_RETRY (R755) -/
  | avsRetry (acked : Bool)
  /-- RESET_N (R679) -/
  | resetN (level : Bool) (strap : Bool)
  /-- ROM_PHASE (R680) -/
  | romPhase (loaderOk : Bool)
  /-- LOADER_PHASE (R704) -/
  | loaderPhase (chk : SlotCheck)
  /-- YALNY_START (R682) -/
  | yalnyStart (storeOk : Bool)
  /-- STALLS_TRAINED (R684) -/
  | stallsTrained (ok : Bool)
  /-- GALLERY_TRAINED (R474) -/
  | galleryTrained (found : Option Population) (trained : Bool)
  /-- PROMPT_BOOK_RESTORED (R354) -/
  | promptBookRestored (own : Option (List Bytes)) (mirror : Option (List Bytes))
  /-- ORIGINATE_ALLOWED (R686) -/
  | originateAllowed
  /-- WATCHDOG_EXPIRY (R694) -/
  | watchdogExpiry
  /-- PROMPTER_RESTART (R714) -/
  | prompterRestart (chk : SlotCheck)
  /-- BOW_DEADLINE (R717) -/
  | bowDeadline
  /-- RELAY_OFFER_TIMER (R711) -/
  | relayOfferTimer
  /-- RELAY_SKIP (R711) -/
  | relaySkip
  /-- RELAY_WINDOW_TIMEOUT (R711) -/
  | relayWindowTimeout
  /-- OFFER (R711) -/
  | relayOffer (f : Flit)
  /-- RELAY_DATA (R711) -/
  | relayData (f : Flit)
  /-- ACK (R711) -/
  | relayAck (f : Flit)
  /-- HAVE (R711) -/
  | relayHave (f : Flit)
  /-- REFUSE (R711) -/
  | relayRefuse (f : Flit)
  /-- SESSION_OPEN (R726) -/
  | sessionOpen (handshake : Bool)
  /-- HELLO (R731) -/
  | hello (k : Nat) (seq : Word) (body : Bytes)
  /-- COMMAND (R730) -/
  | command (k : Nat) (seq : Word) (body : Bytes)
  /-- HEARTBEAT (R731) -/
  | heartbeat (k : Nat)
  /-- POWER_SET (R732) -/
  | powerSet (k : Nat) (seq : Word) (body : Bytes)
  /-- SUBSCRIBE (R740) -/
  | subscribe (k : Nat) (seq : Word) (body : Bytes)
  /-- TELEMETRY_SNAPSHOT (R740) -/
  | telemetrySnapshot (k : Nat)
  /-- RESULT_UNREAD_TIMEOUT (R741) -/
  | resultUnreadTimeout (k : Nat)
  /-- SPDM (R737) -/
  | spdm (k : Option Nat) (msg : Bytes)
  /-- ANCHOR_SET (R727) -/
  | anchorSet (k : Nat) (seq : Word) (cert : Bytes)
  /-- COOLANT_IN (R739) -/
  | coolantIn (v : Nat)
  /-- APRON_ACK (R504) -/
  | apronAck (ch : Fin 24)
  /-- APRON_CRC_ERROR (R503) -/
  | apronCrcError (ch : Fin 24) (word : Bytes) (ctl : BitVec 24)
  /-- APRON_RESERVED_TYPE (R505) -/
  | apronReservedType (ch : Fin 24) (m : ApronMsg)
  /-- STANDIN_DESKEWED (R68) -/
  | standinDeskewed (r : PortRef) (lanes : BitVec 8)
  /-- CXL_LINK_UP (R544) -/
  | cxlLinkUp (rate : Nat) (width : Nat)
  /-- CXL_MAILBOX_COMMAND (R539) -/
  | cxlMailboxCommand (op : Nat) (input : Bytes)
  /-- SESSION_CLOSE (R743) -/
  | sessionClose (k : Nat)
  /-- NYMCO_UNKNOWN_TYPE (R728) -/
  | nymcoUnknownType (k : Nat) (typ : Nat) (seq : Word)
  /-- ESTIMATOR_UPDATE (R636) -/
  | estimatorUpdate (inp : EstInputs)
  /-- SCRIPT_STAGED (R708) -/
  | scriptStaged (ok : Bool)
  /-- RESTORE_FROM_MIRROR (R354) -/
  | restoreFromMirror (f : Flit)
  /-- TABLE_RELOAD (R626) -/
  | tableReload (key : Nat)
  deriving DecidableEq, Repr

end Sys2Proof
end

