-- ==== Sys2Proof/Machine/State.lean ====
section
/-! DEFINITION. The state of the block: everything the manual gives Itvos and Belug, as plain data, and its reset value.
Each field's comment names its rule; its default is its value at reset. "log n" names the assumption-log entry of a value
the manual does not give. -/

namespace Sys2Proof.Machine

open Sys2Proof

/-! ## Tables -/

/-- A sparse table: keys strictly rising (Sys2Proof/Machine/Ops.lean keeps the order). -/
abbrev KMap (α : Type) := List (Nat × α)
/-- Byte memory: sorted cells, none equal to what an unlisted address reads as, which is 0 (R475, R490; log 7). -/
abbrev Mem := List (Nat × BitVec 8)

/-! ## Links -/

/-- The states of R47 with HELD and DOWN, in the order of R566. -/
inductive LinkState where
  | dark | detect | clock | align | offer | names | shift | tune | dress | ready | held | down
  deriving DecidableEq, Repr

/-- The reasons of R566, in the order of its codes. -/
inductive Reason where
  | none | short | opened | clockLane | facing | laneOrder | miswired | refclkA | refclkB | refclk | rev | minMode | dress
  | noChart | degraded | disabled | nodeConflict | partnerHeld
  deriving DecidableEq, Repr

/-- The offer frame of R51, its fields in byte order. -/
structure Offer where
  rev : Byte := 0x12
  rates : Byte := 7
  features : Byte := 0
  txLanes : Byte := 0xFF
  rxLanes : Byte := 0xFF
  clkSrc : Byte := 0
  part : Byte := 1
  ownId : BitVec 16 := 0xFFFF
  ownPort : Byte := 0
  minMode : Byte := 11
  dressLog2 : Byte := 28
  planes : Byte := 0
  form : Byte := 0
  verdict : Byte := 0
  assigned : BitVec 16 := 0xFFFF
  expectId : BitVec 16 := 0xFFFF
  expectPort : Byte := 0
  ack : Byte := 0
  heldReason : Byte := 0
  serial : Word := 0
  deriving DecidableEq, Repr

/-- A flit in an input's landing reserve (R99, R105). -/
structure Landed where
  flit : Flit
  at_ : Nat
  /-- the directory has passed this VC1 request (R255) -/
  dirDone : Bool := false
  /-- formed by this switch: leaves with HOPS 0 (R166) -/
  own : Bool := false
  /-- targets of a multicast formed by this switch (R128): output ports -/
  mc : List Nat := []
  deriving DecidableEq, Repr

/-- A flit in the output buffer of a port (R104, R120, R128). -/
structure QEntry where
  flit : Flit
  at_ : Nat
  inp : Nat := 0
  isn : Nat := 0
  die : Nat := 0
  released : Bool := true
  /-- the stored copy this pointer names (R128) -/
  copy : Option Nat := none
  /-- on the express path: its landing slot is still held (R133) -/
  express : Bool := false
  /-- originated here: HOPS stays 0 (R166) -/
  own : Bool := false
  /-- the input side of the internal path it took (R118, R123) -/
  path : Nat := 0
  deriving DecidableEq, Repr

/-- Peephole settings of one port (R142). -/
structure Peep where
  /-- [R142 04] watched directions, bit 0 ingress, bit 1 egress -/
  dirs : BitVec 2 := 0
  /-- [R142 04] VC mask -/
  mask : Byte := 0
  /-- [R142 04] k; N = 2^k -/
  k : Nat := 0
  /-- [R142 04] RANDOM mode -/
  random : Bool := false
  /-- [R142 04] flits counted since the settings, ingress and egress -/
  seenIn : Nat := 0
  seenOut : Nat := 0
  /-- [R142 04] the LFSRs, ingress and egress (log 40) -/
  lfsrIn : BitVec 24 := 0
  lfsrOut : BitVec 24 := 0
  deriving DecidableEq, Repr

/-- One port: its rehearsal machine, its link layer, its buffers (R37 to R109). -/
structure Port where
  /-- [R47 02] rehearsal state; reset DARK -/
  st : LinkState := .dark
  /-- [R76 02] reason reported -/
  reason : Reason := .none
  /-- [R74 02] enabled; a disabled port stays in DARK -/
  enabled : Bool := true
  /-- [R48 02] wait after the next failed attempt, ms; 100 at first -/
  retryMs : Nat := 100
  /-- [R48 02] the wait in force before this port leaves DARK, ms -/
  waitMs : Nat := 0
  /-- [R47 02] time of entry to the present state, ns -/
  since : Nat := 0
  /-- [R40 02] usable transmit and receive data lanes -/
  txUse : BitVec 8 := 0xFF
  rxUse : BitVec 8 := 0xFF
  /-- [R63 02] receive lanes marked unusable by a failed dress rehearsal or by the running monitor -/
  rxOut : BitVec 8 := 0
  /-- [R64 R97 02] the port re-rehearses from ALIGN at this rate (2: 224, 1: 112, 0: 56 Gb/s) -/
  redo : Option Nat := none
  /-- [R42 R51 02] clock source of each direction: 0 clock lane, 1 stand-in lane 7, 2 stand-in lane 0, 3 none -/
  clkTx : Nat := 0
  clkRx : Nat := 0
  /-- [R66 02] lanes found shorted, their drivers off (bit 8 the clock lane) -/
  shorted : BitVec 9 := 0
  /-- [R49 02] lanes inverted at this receiver -/
  inverted : BitVec 9 := 0
  /-- [R49 02] lane order received reversed -/
  reversed : Bool := false
  /-- [R38 02] skew measured and removed, ps per lane -/
  skew : List Nat := []
  /-- [R51 02] the partner frame being received, and its consecutive identical good copies -/
  heard : Bytes := []
  copies : Nat := 0
  /-- [R51 R76 02] the partner's offer frame as last accepted -/
  partner : Option Offer := none
  /-- [R51 02] ACK set in this end's frame; ACK seen in the partner's -/
  ackSent : Bool := false
  ackSeen : Bool := false
  /-- [R769 02] this end's verdict and held reason -/
  verdict : Nat := 0
  heldFor : Reason := .none
  /-- [R52 02] protocol revision in force; 0 none -/
  rev : Nat := 0
  /-- [R53 02] features enabled on the link, bits of offer byte 3 -/
  features : BitVec 4 := 0
  /-- [R54 02] modes of each direction; none while none runs -/
  modeTx : Option Nat := none
  modeRx : Option Nat := none
  /-- [R54 02] the higher MIN_MODE in force -/
  minMode : Nat := 11
  /-- [R57 02] dress length exponent in force -/
  dressLog2 : Nat := 28
  /-- [R44 02] C(-1), C(+1) of lanes 0 to 7 and the clock lane; reset 4, 8 -/
  taps : List (Nat × Nat) := List.replicate 9 (4, 8)
  /-- [R66 02] faults counted per lane (entry 8 the clock lane) -/
  laneFaults : List Nat := List.replicate 9 0
  /-- [R39 02] sampling phase of each data lane, 1/64 UI -/
  phase : List Int := List.replicate 8 0
  /-- [R93 03] flits sent per VC, mod 2^16 -/
  txCount : List Nat := List.replicate 8 0
  /-- [R95 03] flits received intact per VC -/
  rxCount : List Nat := List.replicate 8 0
  /-- [R93 03] credits this end has returned -/
  retSent : List Nat := List.replicate 8 0
  /-- [R95 R99 03] credits the partner has returned -/
  retGot : List Nat := List.replicate 8 0
  /-- [R99 R164 03] the partner's first grant, CRED of the downstream link -/
  peerCred : List Nat := List.replicate 8 0
  /-- [R95 03] LINK_CTL flits received and not yet acted on -/
  ctlIn : List Flit := []
  /-- [R101 03] credits owed to the partner per VC, and the VCs in order of waiting -/
  owed : List Nat := List.replicate 8 0
  owedQ : List Nat := []
  /-- [R99 03] the first LINK_CTL, which grants CRED, is sent -/
  granted : Bool := false
  /-- [R102 03] CRED of this receiver; 64 by R102 (F = 24) -/
  cred : Nat := 64
  /-- [R94 03] a RESYNC_REQ of this end is unanswered; time of its last send -/
  resyncOut : Bool := false
  resyncAt : Nat := 0
  /-- [R94 R68 R297 03] LINK_CTL codes due, oldest first -/
  ctlDue : List Nat := []
  /-- [R297 08] time the last LINK_CTL was sent -/
  ctlAt : Nat := 0
  /-- [R67 02] receiver has declared clock loss; when -/
  clockLost : Bool := false
  lostAt : Nat := 0
  /-- [R168 05] excluded from new choices -/
  excluded : Bool := false
  /-- [R68 02] this transmitter drives the stand-in and sends no flit -/
  standin : Bool := false
  /-- [R99 03] landing reserve -/
  landing : List Landed := []
  /-- [R103 R104 03] output buffer of the port (Belug: its transmit queue) -/
  outq : List QEntry := []
  /-- [R126 04] COUNTER[v] of the output arbiter -/
  arb : List Int := List.replicate 8 0
  /-- [R118 04] the path this input used last -/
  lastPath : Nat := 7
  /-- [R164 05] the port this input chose last, per group -/
  lastChoice : KMap Nat := []
  /-- [R137 R138 04] token bucket: tokens and the time of the last gain -/
  tokens : Nat := 4
  tokenAt : Nat := 0
  /-- [R139 04] arrival times of VC0 flits bound for this output -/
  vc0Times : List Nat := []
  /-- [R298 08] own stamps sent: low 16 bits, stamp, time -/
  stamps : List (Nat × Nat × Nat) := []
  /-- [R297 08] partner stamps received: stamp, arrival count, arrival time -/
  heardStamps : List (Nat × Nat × Nat) := []
  /-- [R295 R296 08] partner's advertised level and LOCKED -/
  peerLevel : Option Nat := none
  peerLocked : Bool := false
  /-- [R302 08] time of the last echoed LINK_CTL -/
  echoAt : Nat := 0
  /-- [R299 08] last offset measured on this port -/
  offset : Int := 0
  /-- [R142 04] peephole -/
  peep : Peep := {}
  deriving DecidableEq, Repr

/-! ## Cue counter -/

/-- R293. -/
inductive CueState where
  | unset | locked | holdover
  deriving DecidableEq, Repr

/-- The cue counter of one chip (R292 to R303). -/
structure Cue where
  /-- [R292 08] the counter; reset 0 (R524 CUE) -/
  count : Word := 0
  /-- [R293 08] state; reset UNSET -/
  st : CueState := .unset
  /-- [R295 08] own level; none (0xFF) at reset -/
  level : Option Nat := none
  /-- [R295 08] the level last held -/
  heldLevel : Option Nat := none
  /-- [R295 08] parent port; none (0xFF) at reset -/
  parent : Option Nat := none
  /-- [R293 08] last offset applied -/
  offset : Int := 0
  /-- [R300 08] ticks left to slew -/
  slew : Int := 0
  /-- [R300 08] ticks left to hold still -/
  hold : Nat := 0
  /-- [R300 08] ticks since the last slewed tick -/
  phase : Nat := 0
  /-- [R300 08] offsets of the last 16 corrections, from which the rate is trimmed -/
  recent : List Int := []
  /-- [R303 08] time the first port became READY since the start -/
  firstReady : Option Nat := none
  /-- [R293 R294 08] this chip holds the root role -/
  root : Bool := false
  deriving DecidableEq, Repr

/-! ## Flows -/

/-- A stored atomic result of R190. -/
structure AtomRes where
  seq : Nat
  old : Bytes
  status : Nat
  deriving DecidableEq, Repr

/-- One inbound flow (R190). -/
structure InFlow where
  /-- [R190 05] HIGH -/
  high : Nat := 0
  /-- [R190 05] accepted SEQs of the window -/
  marks : List Nat := []
  /-- [R190 05] ring of 32 atomic results, newest first -/
  ring : List AtomRes := []
  /-- [R190 05] cue counter at the last arrival -/
  lastSeen : Nat := 0
  /-- [R184 R192 05] requests still in service: SEQ and arrival time -/
  serving : List (Nat × Nat) := []
  /-- [R627 18] state lost: every request is dropped until this time -/
  lostUntil : Option Nat := none
  deriving DecidableEq, Repr

/-- Generation state of one encrypted flow at its receiver (R606). -/
structure GenRx where
  high : Nat := 0
  gHigh : Nat := 0
  lastSeen : Nat := 0
  deriving DecidableEq, Repr

/-- A request accepted from an apron channel, with the physical address, WIRE_CTX and NOCACHE of its translation once it has
one (R508, R214). -/
structure AOp where
  id : Nat
  ch : Nat
  m : ApronMsg
  phys : Word := 0
  wire : BitVec 16 := 0
  nocache : Bool := false
  deriving DecidableEq, Repr

/-- Why a request was sent: what its completion continues (R181, R249, R250, R267, R265, R278). -/
inductive Purpose where
  /-- a piece of a stagehand descriptor, and the part of its source a GET reads -/
  | piece (hand slot id part : Nat)
  /-- an apron request sent as it came -/
  | apron (op : AOp)
  /-- a far-cache fill: node x 2^41 + line -/
  | fill (line : Nat)
  /-- claim, fill and publish of the owner-cache entry with this number -/
  | claim (id : Nat)
  | ocFill (id : Nat)
  | publish (id : Nat)
  /-- FENCE of a house release -/
  | relFence (fence plane : Nat)
  /-- an Itvos's merged STORE and combined ATOMIC -/
  | mergedStore (id : Nat)
  | combined (id : Nat)
  deriving DecidableEq, Repr

/-- One outstanding request (R178, R188). -/
structure Outst where
  seq : Nat
  flit : Flit
  purpose : Purpose
  /-- port of the last send; where FENCE and the home-bound kinds must go -/
  port : Nat := 0
  sends : Nat := 0
  lastSend : Nat := 0
  born : Nat := 0
  /-- waiting at the source for its port (R156) or for the start wait (R528): not yet sent -/
  waiting : Bool := false
  /-- counted HOME_UNREACHABLE (R156) -/
  counted : Bool := false
  /-- the flow's turn at its first send (R606) -/
  turn : Nat := 0
  /-- sent encrypted -/
  sealed_ : Bool := false
  /-- met an INV for its line between send and reply (R259) -/
  metInv : Bool := false
  deriving DecidableEq, Repr

/-- A request held back by its flow's window or for want of a flow entry (R178, R195, R198). -/
structure Queued where
  flit : Flit
  purpose : Purpose
  plane : Nat
  deriving DecidableEq, Repr

/-- One outbound flow (R177, R195, R198). -/
structure OutFlow where
  /-- [R177 05] next SEQ -/
  next : Nat := 0
  /-- [R178 05] outstanding requests -/
  outst : List Outst := []
  /-- [R178 R198 05] requests that wait for the window, oldest first -/
  queue : List Queued := []
  /-- [R198 05] CWND; reset 4,096 -/
  cwnd : Nat := 4096
  /-- [R198 05] time of the last cut -/
  cutAt : Option Nat := none
  /-- [R198 05] unmarked replies since the last change -/
  unmarked : Nat := 0
  /-- [R195 05] time of the last send -/
  lastSend : Nat := 0
  deriving DecidableEq, Repr

/-! ## Routing -/

/-- One table set (R157 to R159): entries by index, absent entries 0; groups hold ALTERNATE and PRIMARY in 144 bits. -/
structure RouteSet where
  seat : KMap (BitVec 16) := []
  house : KMap (BitVec 16) := []
  switch : KMap (BitVec 16) := []
  relay : BitVec 16 := 0
  groups : KMap (BitVec 144) := []
  deriving DecidableEq, Repr

/-- A port entry of the chart (R734). -/
structure ChartPort where
  part : Nat := 0
  up : Bool := false
  fecBypass : Bool := false
  weightsGiven : Bool := false
  peerId : BitVec 16 := 0
  peerPort : Nat := 0
  dressLog2 : Nat := 0
  minMode : Nat := 0
  length : Nat := 0
  modNear : Nat := 0
  modFar : Nat := 0
  weights : List Nat := []
  deriving DecidableEq, Repr

/-- A seating chart (R733). -/
structure Chart where
  form : Nat
  rootPlane : Nat
  version : Nat
  planes : BitVec 24
  serial : Word
  swid : BitVec 16
  principalLimit : Nat
  retryMax : Nat
  e2eTimeout : Nat
  ageLimit : Nat
  longestL : Nat
  relayNext : List (BitVec 16)
  ports : List ChartPort
  deriving DecidableEq, Repr

/-- Why a drain runs (R172, R174, R74, R586). -/
inductive DrainWhy where
  | commit | left | disable | rehearse
  deriving DecidableEq, Repr

/-- A drain (R172 to R174). -/
structure Drain where
  why : DrainWhy
  ports : BitVec 72
  start : Nat
  lastSent : Nat
  /-- who disabled the port or sent it to DARK: a callboard slot, or a session and its SEQ (R586) -/
  slot : Option Nat := none
  sess : Option (Nat × Word) := none
  deriving DecidableEq, Repr

/-- Routing state of Itvos (R157). -/
structure Routing where
  /-- [R157 05] active set -/
  active : RouteSet := {}
  /-- [R157 05] staged set -/
  staged : RouteSet := {}
  /-- [R568 16] a set was staged since the last commit -/
  stagedNew : Bool := false
  /-- [R567 16] some set was ever active -/
  everActive : Bool := false
  /-- [R172 R174 05] drains running -/
  drains : List Drain := []
  /-- [R173 05] a commit drain has ended and awaits its route-commit -/
  drained : Bool := false
  /-- [R159 05] PORT_CLASS, 1 = UP -/
  portClass : BitVec 72 := 0
  /-- [R733 22] chart in force -/
  chart : Option Chart := none
  /-- [R185 05] MAX_FLIGHT, ns -/
  maxFlight : Nat := 0
  deriving DecidableEq, Repr

/-! ## Switch core -/

/-- One stream of R119: input, output and VC make its key. -/
structure Stream where
  next : Nat := 0
  rel : Nat := 0
  holeAt : Option Nat := none
  deriving DecidableEq, Repr

/-- A flit on an internal path that has not arrived (R120, R122). -/
structure OnPath where
  flit : Flit
  at_ : Nat
  inp : Nat
  path : Nat
  /-- target outputs with the ISN taken from each stream (R119, R129) -/
  outs : List (Nat × Nat)
  own : Bool := false
  /-- a stored multicast copy (R128) -/
  multi : Bool := false
  deriving DecidableEq, Repr

/-- One switch die (R110, R115, R123). -/
structure Die where
  /-- [R123 04] paths retired -/
  retired : BitVec 8 := 0
  /-- [R123 04] times of core drops per path -/
  drops : List (Nat × Nat) := []
  /-- [R115 04] the 16 monitor readings -/
  monitors : List Nat := List.replicate 16 0
  /-- [R115 04] pace of the die; reset 0 (R541) -/
  pace : Nat := 0
  deriving DecidableEq, Repr

/-- The switch core (R110 to R152). -/
structure Core where
  dies : Vector Die 2 := Vector.replicate 2 {}
  /-- [R119 04] streams by (input x 80 + output) x 8 + VC -/
  streams : KMap Stream := []
  /-- [R128 04] multicast copies: id, reference count and die -/
  copies : KMap (Nat × Nat) := []
  nextCopy : Nat := 0
  /-- [R118 R164 04] the internal ends' last path and last choice per group -/
  lastPath : Nat := 7
  lastChoice : KMap Nat := []
  /-- [R113 04] flits of internal ends waiting for placement -/
  internal : List Landed := []
  /-- [R120 04] flits on internal paths -/
  onPath : List OnPath := []
  /-- [R144 04] SAMPLE_NO -/
  sampleNo : BitVec 16 := 0
  /-- [R146 04] the second being counted, and samples taken in it -/
  peepSec : Nat := 0
  peepIn : Nat := 0
  /-- [R113 R160 04] flits delivered to internal ends, not yet served -/
  inbox : List Flit := []
  deriving DecidableEq, Repr

/-! ## Directory and home -/

/-- R254; INVALID is an absent entry. -/
inductive DirSt where
  | shared | owned | recall
  deriving DecidableEq, Repr

/-- A directory entry (R254, R256). -/
structure DirEntry where
  st : DirSt := .shared
  sharers : BitVec 72 := 0
  /-- the owner, also while it is being recalled -/
  owner : Option Nat := none
  /-- requests held in RECALL, in order of arrival, with their times (R256) -/
  held : List (Flit × Nat) := []
  /-- the recall is an eviction (R262) -/
  evict : Bool := false
  /-- the owner's publish has passed during the recall (R256) -/
  published : Bool := false
  used : Nat := 0
  deriving DecidableEq, Repr

/-- An outstanding INV (R257): `group` none: of a recall or an eviction. -/
structure InvOut where
  seat : Nat
  seq : Nat
  line : Nat
  toOwner : Bool
  group : Option Nat
  sends : Nat := 1
  lastSend : Nat := 0
  deriving DecidableEq, Repr

/-- An open invalidation group (R255): the seat whose request opened it. -/
structure InvGroup where
  id : Nat
  seat : Nat
  deriving DecidableEq, Repr

/-- An atomic in flight from this Itvos to a seat home, and those that wait in the combining table (R265). -/
structure Combine where
  id : Nat
  /-- the atomic in flight, as one of those it carries -/
  flit : Flit
  waiting : List Flit := []
  /-- the combined atomics carried by the one in flight; empty for a plain one -/
  carried : List Flit := []
  at_ : Nat := 0
  deriving DecidableEq, Repr

/-- A merged store in flight to a seat home, and the originals it carries (R278). -/
structure Merge where
  id : Nat
  carried : List Flit := []
  deriving DecidableEq, Repr

/-- What a combined atomic or a merged store answered an original with, kept for its duplicates (R192, R194). -/
structure Answered where
  seat : Nat
  dst : BitVec 16
  seq : Nat
  at_ : Nat
  atom : Bool
  old : Bytes := []
  status : Nat
  deriving DecidableEq, Repr

/-- The directory of Itvos (R252 to R291). -/
structure Directory where
  /-- [R254 07] entries by line -/
  entries : KMap DirEntry := []
  /-- [R257 07] INVs not acknowledged -/
  invs : List InvOut := []
  /-- [R255 07] open groups -/
  groups : List InvGroup := []
  nextGroup : Nat := 0
  /-- [R257 07] next INV SEQ per seat -/
  invSeq : KMap Nat := []
  /-- [R268 07] FENCEs waiting for groups -/
  fences : List (Flit × List Nat) := []
  /-- [R265 07] combining tables -/
  combine : List Combine := []
  /-- [R278 07] store merges -/
  merges : List Merge := []
  /-- [R192 R194 05] answers given to combined and merged originals -/
  answered : List Answered := []
  /-- [R255 07] requests passed to this Itvos's own pool home, in order -/
  home : List Flit := []
  /-- [R283 07] partitions whose domain is down -/
  down : BitVec 16 := 0
  /-- [R262 07] requests held because every way is in RECALL, with their times -/
  wayWait : List (Flit × Nat) := []
  useClock : Nat := 0
  deriving DecidableEq, Repr

/-- A 64-byte block whose ZERO is clear (R475, R486): its metadata, and the key its ciphertext was made with. -/
structure Block where
  epoch : Bool := false
  poison : Bool := false
  key : BitVec 256 := 0
  deriving DecidableEq, Repr

/-- Classes of R480. -/
inductive TierClass where
  | auto | stalls | gallery
  deriving DecidableEq, Repr

/-- A carve (R235, R576). -/
structure Carve where
  base : Nat
  len : Nat
  part : Nat
  ctxValue : BitVec 16
  ctxMask : BitVec 16
  rights : BitVec 3
  cls : TierClass
  ward : Bool := false
  deriving DecidableEq, Repr

/-- A tier map entry (R237). -/
structure TierEntry where
  gallery : Bool
  moving : Bool := false
  pin : Bool := false
  carve : Nat
  access : Nat := 0
  frame : Nat
  deriving DecidableEq, Repr

/-- A move in flight (R483): the page, the reserved frame. -/
structure Move where
  page : Nat
  toGallery : Bool
  frame : Nat
  /-- the queued page that takes the frame this demotion frees (R482) -/
  next : Option Nat := none
  deriving DecidableEq, Repr

/-- A background scrub (R490): pool pages [lo, hi) still to set ZERO; the start scrub of a tier counts frames (`tier`: false
stalls, true gallery). -/
structure Scrub where
  lo : Nat
  hi : Nat
  tier : Option Bool := none
  deriving DecidableEq, Repr

/-- A re-key sweep (R487). -/
structure Sweep where
  part : Nat
  /-- pages not yet visited, ascending; the block of the first that comes next -/
  left : List Nat
  block : Nat := 0
  deriving DecidableEq, Repr

/-- Pool memory and the mover (R468 to R498). -/
structure Pool where
  /-- [R235 06] contents by pool offset -/
  mem : Mem := []
  /-- [R475 13] metadata of blocks whose ZERO is clear, by offset / 64 -/
  blocks : KMap Block := []
  /-- [R235 06] carves by number -/
  carves : KMap Carve := []
  /-- [R237 06] tier map by page -/
  tier : KMap TierEntry := []
  /-- [R482 13] promotion queue -/
  queue : List Nat := []
  /-- [R482 13] clock hand over stalls frames -/
  hand : Nat := 0
  moves : List Move := []
  /-- [R481 13] ENABLE, DECAY ms, PROMOTE, DEMOTE, SHARE, SWEEP_RATE at their defaults -/
  enable : Bool := true
  decayMs : Nat := 10
  promote : Nat := 64
  demote : Nat := 8
  share : Nat := 4
  sweepRate : Nat := 300
  decayAt : Nat := 0
  /-- [R490 13] background scrubs -/
  scrubs : List Scrub := []
  /-- [R490 13] the start scrubs are done -/
  stallsScrubbed : Bool := false
  galleryScrubbed : Bool := false
  sweeps : List Sweep := []
  /-- [R491 13] the window carve -/
  window : Option Nat := none
  /-- [R473 R474 13] gallery found, GiB in the pool, and GALLERY_OFF reason -/
  found : Option Population := none
  galleryGiB : Nat := 0
  galleryOff : Nat := 0
  /-- [R478 13] offsets of uncorrectable blocks met -/
  ueLog : List Nat := []
  /-- [R623 18] times of mismatches of duplicated units within the last second -/
  mismatches : List Nat := []
  deriving DecidableEq, Repr

/-- One wardrobe (R446 to R467). -/
structure Wardrobe where
  base : Nat := 0
  carve : Nat := 0
  counts : List Nat := List.replicate 8 0
  /-- owner (node, CTX) of each owned buffer, by pool x 2^24 + index (R451) -/
  owners : KMap (BitVec 16 × BitVec 16) := []
  /-- free-buffer cache per pool, newest first (R461) -/
  cache : List (List Nat) := List.replicate 8 []
  /-- ring of free indices per pool, as ranges (first, count), oldest first (R461) -/
  ring : List (List (Nat × Nat)) := List.replicate 8 []
  lowest : List Nat := List.replicate 8 0
  deriving DecidableEq, Repr

/-! ## Collectives -/

/-- A descriptor (R321). -/
structure Desc where
  op : Nat := 0
  opr : Nat := 0
  fmt : Nat := 0
  ofmt : Nat := 0
  flags : Byte := 0
  count : Nat := 0
  kernel : Nat := 0
  aux : Nat := 0
  root : Nat := 0
  deriving DecidableEq, Repr

/-- A cue-sheet entry (R321, R324, R351); one whose last step has ended is no longer outstanding. -/
structure CueEntry where
  seq : Nat
  ext : Nat
  desc : Desc
  digest : BitVec 32
  armed : Bool := false
  ended : Bool := false
  deriving DecidableEq, Repr

/-- An expert table (R395). -/
structure ExpertTable where
  topk : Nat
  h : Nat
  cap : Nat
  rank : List Nat
  deriving DecidableEq, Repr

/-- A cast list with its cue sheet (R317, R570). -/
structure Cast where
  nodes : List (BitVec 16)
  planes : BitVec 24
  live : BitVec 24
  /-- HOLD, ns -/
  hold : Nat
  tables : List ExpertTable := []
  part : Nat := 0
  lead : Nat := 256
  sheet : List CueEntry := []
  /-- [R324 R351 09] the next CUE_SEQ; none before the first entry; the last CUE_EXT given -/
  nextSeq : Option Nat := none
  lastExt : Nat := 0
  deriving DecidableEq, Repr

/-- Ledger (R369, R371): an exact integer and its flags; `width` is the class's width. -/
structure Ledger where
  width : Nat
  val : Int := 0
  nan : Bool := false
  pinf : Bool := false
  ninf : Bool := false
  allpz : Bool := true
  allnz : Bool := true
  deriving DecidableEq, Repr

/-- A value of a format, exact: NaN, infinities, zeros, and m x 2^e (R365, R370). -/
inductive Num where
  | nan
  | inf (neg : Bool)
  | zero (neg : Bool)
  | fin (m : Int) (e : Int)
  deriving DecidableEq, Repr

/-- A chunk held at a reducer or a member: who sent it (a rank, or a switch ID), CHUNK, and a field that tells apart flits of one
CHUNK (RANK of a partial, R377; EXPERT of a record, R398). -/
structure Got where
  who : Nat
  chunk : Nat
  field : Nat := 0
  valid : Nat
  data : Bytes
  deriving DecidableEq, Repr

/-- One stripe at this reducer (R334, R335, R391). -/
structure StripeRun where
  stripe : Nat
  /-- chunks of the members below, merged (R334); what their ledgers hold is computed from them -/
  got : List Got := []
  /-- partial flits of the reducers below (R377) -/
  parts : List Got := []
  /-- [R391 10] the global maximum of each chunk, FP32 bits, once known -/
  maxima : KMap Nat := []
  /-- [R333 R391 R427 09] wardrobe buffers of its chunks: key, wardrobe, pool, index -/
  bufs : List (Nat × Nat × Nat × Nat) := []
  /-- [R408 11] cores in service when its first chunk was admitted -/
  cores : List Nat := []
  /-- the maxima, the partial have gone up -/
  maxSent : Bool := false
  partSent : Bool := false
  /-- time of completion, kept results, time of the last resend per member (R335) -/
  complete : Option Nat := none
  results : List Flit := []
  resent : KMap Nat := []
  deriving DecidableEq, Repr

/-- One step at this reducer (R343, R344): the time and the cue count of its first arrival, each member's first arrival. -/
structure StepRun where
  step : Nat
  opened : Nat
  first : Nat
  arrivals : List (Nat × Nat) := []
  ended : Bool := false
  deriving DecidableEq, Repr

/-- What this reducer knows of one collective (R334 to R344). -/
structure Run where
  group : Nat
  seq : Nat
  /-- CTX of its flits -/
  ctx : BitVec 16 := 0
  /-- [R572 16] CURTAIN_LEAD at the first arrival -/
  lead : Nat := 256
  /-- [R341 R342 09] ranks compared here; reducers below with the members they have compared; lowest rank mismatched -/
  compared : List Nat := []
  covered : List (Nat × Nat) := []
  mism : Option Nat := none
  reported : Bool := false
  steps : List StepRun := []
  stripes : List StripeRun := []
  aborted : Bool := false
  deriving DecidableEq, Repr

/-- A loaded kernel (R434). -/
structure Kernel where
  obj : Bytes
  gen : Nat
  deriving DecidableEq, Repr

/-- A loop in progress: first word, last word, runs left (R424). -/
structure LoopFrame where
  first : Nat
  last : Nat
  left : Nat
  deriving DecidableEq, Repr

/-- The architectural state of a chorus core and the entry it runs (R410, R426). -/
structure ChorusCore where
  /-- an entry runs: FINISH or MERGE, and of which chunk -/
  active : Bool := false
  finish : Bool := false
  group : Nat := 0
  seq : Nat := 0
  chunk : Nat := 0
  rank : Nat := 0
  /-- kernel slot -/
  slot : Nat := 0
  /-- its SEND is discarded (R442), its state freed unread (R441) -/
  dead : Bool := false
  pc : Nat := 0
  sregs : List Word := List.replicate 32 0
  fregs : List Bytes := List.replicate 16 (List.replicate 256 0)
  preds : List Bool := List.replicate 8 false
  /-- [R412 11] WORK bytes written in this entry -/
  work : Mem := []
  /-- [R424 11] loops in progress, innermost first -/
  loops : List LoopFrame := []
  /-- [R423 11] the outbox: element bytes with VALID -/
  outbox : List (Bytes × Nat) := []
  deriving DecidableEq, Repr

/-- A chunk's state buffer (R427): its wardrobe buffer, window bytes, ledgers by handle. -/
structure StateBuf where
  group : Nat
  seq : Nat
  chunk : Nat
  /-- [R408 11] the core that serves the chunk -/
  core : Nat
  ward : Nat
  pool : Nat
  idx : Nat
  w0 : Mem := []
  ledgers : List (List Ledger) := []
  /-- [R429 11] member chunks admitted and not yet merged: rank, flit, its 256-byte buffer (pool and index) in ORDERED mode -/
  waiting : List (Nat × Flit × Option (Nat × Nat)) := []
  merged : List Nat := []
  /-- FINISH has run, and what it sent -/
  finished : Option (Bytes × Nat) := none
  deriving DecidableEq, Repr

/-- Collectives and chorus on Itvos (R317 to R445). -/
structure Coll where
  casts : KMap Cast := []
  runs : List Run := []
  /-- [R352 09] prompt book, own and mirror records, oldest first -/
  book : List Bytes := []
  mirror : List Bytes := []
  /-- [R343 09] entrance records, oldest first -/
  entrances : List Bytes := []
  /-- [R434 11] kernels loaded, by slot -/
  kernels : KMap Kernel := []
  /-- [R434 11] generation of each slot -/
  gens : KMap Nat := []
  cores : KMap ChorusCore := []
  bufs : List StateBuf := []
  /-- [R399 R676 10] clusters retired -/
  retired : BitVec 18 := 0
  /-- [R691 20] clusters in reset; by cluster who asked: a callboard slot, or a session and its SEQ -/
  resetting : BitVec 18 := 0
  resetBy : KMap (Option Nat × Option (Nat × Word)) := []
  deriving DecidableEq, Repr

/-! ## Security -/

/-- A job key context (R603, R605). -/
structure JobKey where
  part : Nat
  key : BitVec 256
  epoch : Nat
  useAfter : Nat
  /-- [R605 17] USE_AFTER of the newest key has passed -/
  inForce : Bool := false
  prev : Option (BitVec 256) := none
  /-- [R605 17] some USE_AFTER of this CTX has passed -/
  strictSince : Bool := false
  /-- [R606 17] turns of the outbound flows when each key was installed: its generation 0 -/
  base : KMap Nat := []
  prevBase : KMap Nat := []
  /-- [R606 17] generations of the inbound flows under each key -/
  rx : KMap GenRx := []
  prevRx : KMap GenRx := []
  deriving DecidableEq, Repr

/-- Pool keys of a partition (R486). -/
structure PoolKeys where
  key0 : Option (BitVec 256) := none
  key1 : Option (BitVec 256) := none
  cur : Bool := false
  window : Bool := false
  deriving DecidableEq, Repr

/-- A push, revoke or clear being repeated (R608). -/
structure Push where
  port : Nat
  flit : Flit
  sends : Nat := 1
  lastSend : Nat := 0
  deriving DecidableEq, Repr

/-- A strike under way (R611). -/
structure StrikeRun where
  part : Nat
  /-- who asked: a callboard slot, or a session and its SEQ -/
  slot : Option Nat
  sess : Option (Nat × Word) := none
  lastDrop : Nat
  deriving DecidableEq, Repr

/-- Pin and epochs of a partition, kept in flash (R601). -/
structure PinRec where
  pin : Option Bytes := none
  jobEpoch : Nat := 0
  poolEpoch : Nat := 0
  deriving DecidableEq, Repr

/-- Key store and partitions of Itvos (chapter 17). -/
structure Security where
  /-- [R579 16] partition layout: COUNT (0 single-tenant) and SEAT_PART -/
  parts : Nat := 0
  seatPart : List Nat := List.replicate 72 0xFF
  layoutDigest : Bytes := List.replicate 48 0
  struck : BitVec 16 := 0
  jobKeys : KMap JobKey := []
  poolKeys : KMap PoolKeys := []
  pushes : List Push := []
  strikes : List StrikeRun := []
  /-- [R608 17] job-key blobs accepted, by WIRE_CTX: pushed again to a seat that returns -/
  blobs : KMap Bytes := []
  /-- [R608 17] slots whose key-install has first pushes still to leave, and those pushes -/
  installing : List (Nat × List Flit) := []
  deriving DecidableEq, Repr

/-! ## Power -/

/-- Thermal states of R659. -/
inductive Therm where
  | normal | hot | floor | trip
  deriving DecidableEq, Repr

/-- Power and thermal state (chapter 19). -/
structure Power where
  /-- [R541 R650 15] CAP; reset 0 in the mirror; 1,200 W in force before any power-cap (log 20) -/
  cap : Nat := 1200
  capAt : Nat := 0
  /-- [R644 19] VSET, mV; default 720 -/
  vset : Nat := 720
  /-- [R644 19] VDD_CORE, in uV; 720,000 (R754) -/
  vdd : Nat := 720000
  /-- [R655 19] ghost light FLOOR, UP_SLEW, DOWN_SLEW (log 20) -/
  floor : Nat := 0
  upSlew : Nat := 1
  downSlew : Nat := 1
  /-- [R655 19] T and G, in units of 10 mW -/
  ghostT : Nat := 0
  ghostG : Nat := 0
  /-- [R642 19] the last 100 draw samples of 10 us, newest first, W -/
  samples : List Nat := []
  /-- [R648 19] SPRINT_LEFT in 0.1 s; 20 at power-on -/
  sprint : Nat := 20
  sprinting : Bool := false
  /-- [R652 19] end of the cap-driven floor state -/
  shedUntil : Option Nat := none
  /-- [R661 19] PWR_SHED_N asserted since; the PIN_SHED record as of that moment -/
  pinSince : Option Nat := none
  pinRec : Bytes := []
  /-- [R652 R661 19] floor state ended at: the rise of 100 W/ms starts there -/
  floorEndAt : Option Nat := none
  /-- [R659 19] thermal state, and since when Tj is below the exit value -/
  therm : Therm := .normal
  coolSince : Option Nat := none
  /-- [R659 R663 19] when the thermal floor began; when the heartbeat was found missing -/
  floorSince : Nat := 0
  lostBeatAt : Nat := 0
  /-- [R643 19] Tj, 0.1 C -/
  tj : Nat := 0
  /-- [R739 22] COOLANT_IN, 0.1 C, and when written -/
  coolant : Nat := 0
  coolantAt : Option Nat := none
  throttle : Bool := false
  chorusPaused : Bool := false
  /-- [R653 R651 19] overshoot being integrated above the new cap: in W x 10 us; still above since acceptance -/
  overshoot : Option Nat := none
  /-- [R653 19] KIND of the record that takes the overshoot: 2 FAST_SHED, 8 CAP_MISSED, 0 none yet -/
  overKind : Nat := 0
  /-- [R647 R649 19] a clamp acts since; a sprint ends since -/
  clampAt : Option Nat := none
  sprintEndAt : Option Nat := none
  /-- [R651 19] a cap change awaits its 5 ms judgement -/
  capJudge : Bool := false
  /-- [R647 R646 19] times of 100 us windows above 1,200 W in the last second -/
  peaks : List Nat := []
  /-- [R665 19] records, newest first, at most 256 -/
  records : List Bytes := []
  /-- [R663 19] time of the last heartbeat; missing flag -/
  beatAt : Nat := 0
  beatMissing : Bool := false
  /-- [R755 23] an AVSBus write is unacknowledged -/
  avsWait : Bool := false
  /-- [R671 19] settings stored until floor state or the heartbeat loss ends -/
  stored : Option (Nat × Nat × Nat) := none
  /-- [R744 22] VSET and CAP of a POWER_SET that wait likewise -/
  storedSet : Option (Option Nat × Option Nat) := none
  /-- [R660 23] THERM_TRIP_N asserted -/
  tripPin : Bool := false
  deriving DecidableEq, Repr

/-! ## Start-up, flash, firmware -/

/-- STATE.MODE (R541). -/
inductive Mode where
  | starting | ready | switching | greenroom
  deriving DecidableEq, Repr

/-- Slot states of R703. -/
inductive ImgSt where
  | empty | staged | active | trial | failed
  deriving DecidableEq, Repr

/-- An image slot (R703, R705). -/
structure Img where
  st : ImgSt := .empty
  version : Nat := 0
  svn : Nat := 0
  configFormat : Nat := 0
  configOldest : Nat := 0
  /-- SHA-384 of the whole image (R710), and the image -/
  digest : Bytes := []
  body : Bytes := []
  deriving DecidableEq, Repr

/-- A configuration store (R719): its format, chart and power settings: VSET, CAP, and FLOOR with UP_SLEW and DOWN_SLEW. -/
structure Store where
  format : Nat := 0
  chart : Option Chart := none
  vset : Option Nat := none
  cap : Option Nat := none
  ghost : Option (Nat × Nat × Nat) := none
  deriving DecidableEq, Repr

/-- What flash and fuses hold (R695); the values of a chip as shipped are the log's (log 8). -/
structure Flash where
  img0 : Img := { st := .active }
  img1 : Img := {}
  /-- [R704 21] boot record -/
  activeSlot : Nat := 0
  trialSlot : Option Nat := none
  trialArmed : Bool := false
  rollback : Nat := 0
  /-- [R719 21] the store in force, and the other -/
  store : Store := {}
  other : Option Store := none
  /-- [R616 17] licences: feature, epoch, raw -/
  licences : KMap (Nat × Bytes) := []
  pins : KMap PinRec := []
  anchor : Option Bytes := none
  /-- [R678 20] physical clusters recorded as failed -/
  clusterBad : List Nat := []
  /-- [R721 21] SHA-384 of a stage-1 loader written in the field -/
  loader : Option Bytes := none
  /-- [R470 13] rows replaced on each die -/
  rowRepairs : List Nat := [0, 0]
  /-- [R636 18] estimator: hours, wear hours, hourly inputs -/
  hours : Nat := 0
  wearHours : Nat := 0
  highHours : Nat := 0
  history : List (List Nat) := []
  deriving DecidableEq, Repr

/-- Fused values of Itvos (R541, R676; log 8). -/
structure Fuses where
  gradeP : Bool := true
  letter : Byte := 0x42
  digit : Byte := 0x30
  serial : Word := 0
  portMap : List Nat := (List.range 36) ++ (List.range 36).map (· + 38)
  clusterMap : List Nat := (List.range 9) ++ (List.range 9).map (· + 10)
  banks0 : Nat := 0
  banks1 : Nat := 0
  deriving DecidableEq, Repr

/-- Progress of start-up (R680). -/
structure Boot where
  /-- [R541 15] MODE; reset STARTING -/
  mode : Mode := .starting
  /-- [R660 R679 20] held in reset: RESET_N low, or a trip -/
  held : Bool := false
  releasedAt : Nat := 0
  romDone : Bool := false
  loaderDone : Bool := false
  yalny : Bool := false
  stallsTrained : Bool := false
  stallsFailed : Bool := false
  galleryDone : Bool := false
  bookDone : Bool := false
  originate : Bool := false
  /-- [R541 15] image slot in use; 3 in greenroom -/
  slot : Nat := 0
  /-- [R715 21] BOW_PENDING and when it became 1 -/
  bowPending : Bool := false
  bowAt : Nat := 0
  /-- [R713 R694 21] the prompters are restarting -/
  restarting : Bool := false
  /-- [R680 20] the Yalny start phase is done: ports, stalls and gallery may start -/
  started : Bool := false
  /-- [R678 20] physical cluster of each logical cluster -/
  clusterMap : List Nat := []
  /-- [R614 17] greenroom entered since reset; debug port opened -/
  greenSince : Bool := false
  debugUnlocked : Bool := false
  /-- [R586 16] who asked for the prompter reset: completed after the restart -/
  restartSlot : Option Nat := none
  /-- [R717 21] Yalny has stopped serving the watchdog -/
  watchdogStopped : Option Nat := none
  strapLow : Bool := false
  /-- [R586 16] a level 5 reset is due (time of its completion) -/
  level5At : Option Nat := none
  /-- [R4 R541 15] features held: bit 0 POOL, 1 CHORUS, 2 KERNEL; reset 0 -/
  licences : BitVec 3 := 0
  /-- [R70 02] reference inputs lost (A, B), the input in use (false A), time both were lost -/
  lostA : Bool := false
  lostB : Bool := false
  useB : Bool := false
  bothLost : Option Nat := none
  deriving DecidableEq, Repr

/-- The script relay (R709 to R711): sender and receiver. -/
structure Relay where
  /-- sender: the image being passed on (its stalls copy), index in RELAY_NEXT, offset acknowledged, DATA flows, time of the
  last OFFER, of the last answer, of the last window -/
  sending : Option Img := none
  hop : Nat := 0
  acked : Nat := 0
  flowing : Bool := false
  offerAt : Nat := 0
  answerAt : Nat := 0
  windowAt : Nat := 0
  /-- receiver: bytes so far, length, version, digest, sender -/
  receiving : Bool := false
  got : Bytes := []
  total : Nat := 0
  version : Nat := 0
  digest : Bytes := []
  from_ : BitVec 16 := 0
  /-- script-stage writing flash: slot (2: the stage-1 loader) and image, whether by relay, who asked -/
  staging : Option (Nat × Img) := none
  /-- who asked for the staging: a callboard slot, or a session and its SEQ -/
  stageSlot : Option Nat := none
  stageSess : Option (Nat × Word) := none
  byRelay : Bool := false
  deriving DecidableEq, Repr

/-! ## Callboard and CXL -/

/-- One callboard slot (R545). -/
structure Slot where
  own : Bool := false
  len : BitVec 16 := 0
  code : BitVec 16 := 0
  seq : Word := 0
  seqEcho : BitVec 32 := 0
  detail : BitVec 16 := 0
  stCode : Byte := 0
  resultLen : BitVec 12 := 0
  /-- payload bytes by offset -/
  payload : Mem := []
  /-- accepted and running (R551), since -/
  running : Option Nat := none
  deriving DecidableEq, Repr

/-- One MSI-X table entry (R543). -/
structure MsixEntry where
  addr : Word := 0
  data : BitVec 32 := 0
  masked : Bool := true
  deriving DecidableEq, Repr

/-- The status mirror (R541) as last refreshed. -/
structure Mirror where
  swid : BitVec 16 := 0xFFFF
  held : BitVec 3 := 0
  firmware : Word := 0
  state : Word := 0
  pace : Word := 0
  cueStatus : Word := 0xFFFF00
  cueSnap : Word := 0
  readyLo : Word := 0
  readyHi : Byte := 0
  power : BitVec 32 := 0
  thermal : BitVec 12 := 0
  cxlLink : BitVec 16 := 0
  seq : Word := 0
  deriving DecidableEq, Repr

/-- Callboard, interrupt block and CXL interface (chapter 15). -/
structure Callboard where
  slots : Vector Slot 8 := Vector.replicate 8 {}
  msix : Vector MsixEntry 16 := Vector.replicate 16 {}
  pba : BitVec 16 := 0
  eventCause : Byte := 0
  eventMask : Byte := 0
  mirror : Mirror := {}
  /-- [R548 R558 15] Bus Master Enable, and the HDM decoder committed; reset 0 -/
  busMaster : Bool := false
  cxlUp : Bool := false
  cxlRate : Nat := 0
  cxlWidth : Nat := 0
  hdmCommitted : Bool := false
  perst : Bool := true
  /-- [R539 15] General Media event records: window offsets -/
  media : List Nat := []
  cbIgnored : Nat := 0
  deriving DecidableEq, Repr

/-! ## Management -/

/-- A Nymco session (R726, R731, R740). -/
structure Session where
  hello : Bool := false
  rack : Bool := false
  /-- outstanding commands: CODE and SEQ -/
  cmds : List (Nat × Word) := []
  streams : Byte := 0
  sets : Byte := 0
  period : Nat := 0
  snapAt : Nat := 0
  /-- a RESULT is unread since -/
  unread : Option Nat := none
  deriving DecidableEq, Repr

/-- Management plane (chapter 22). -/
structure Mgmt where
  sessions : KMap Session := []
  nextSession : Nat := 0
  resultLost : Nat := 0
  /-- [R636 18] estimator: time of the last update; its outputs: date, low, high -/
  estAt : Nat := 0
  lifeDate : Nat := 0
  lifeLow : Nat := 0
  lifeHigh : Nat := 0
  deriving DecidableEq, Repr

/-! ## The switch -/

/-- Itvos. -/
structure Itvos where
  fuse : Fuses := {}
  boot : Boot := {}
  flash : Flash := {}
  relay : Relay := {}
  cb : Callboard := {}
  ports : Vector Port 72 := Vector.replicate 72 { tokens := 6 }
  routing : Routing := {}
  core : Core := {}
  cue : Cue := {}
  /-- [R194 05] inbound flows per seat; outbound flows by destination node -/
  inflows : KMap InFlow := []
  outflows : KMap OutFlow := []
  /-- [R606 17] turns of each outbound flow, and the last with an accepted reply -/
  turns : KMap (Nat × Nat) := []
  dir : Directory := {}
  pool : Pool := {}
  /-- [R448 R453 12] wardrobes: partitions 0 to 15, reducer wardrobe 16 -/
  wards : KMap Wardrobe := []
  coll : Coll := {}
  sec : Security := {}
  pwr : Power := {}
  mgmt : Mgmt := {}
  /-- [R630 18] counters by set x 65,536 + index -/
  ctr : KMap Nat := []
  /-- [R634 18] port-state ring: cue count, port and flags; newest last -/
  portRing : List (Nat × Nat) := []
  /-- [R626 18] table entries lost and not yet reloaded: key as TABLE_RELOAD names it -/
  lostTables : List Nat := []
  deriving DecidableEq, Repr

/-! ## The end-point -/

/-- Fused values of Belug (R524, R677; log 8). -/
structure BFuses where
  letter : Byte := 0x41
  digit : Byte := 0x31
  serial : Word := 1
  bpMap : List Nat := List.range 24
  deriving DecidableEq, Repr

/-- An apron channel (R500 to R504). -/
structure Channel where
  /-- [R504 14] UP; a channel that fails three retrains in a row is DOWN -/
  up : Bool := true
  /-- [R504 14] words held unacknowledged: WSEQ and 64 bytes with SOP, EOP -/
  held : List (Nat × Bytes) := []
  /-- [R504 14] words waiting because 16 are held -/
  waiting : List Bytes := []
  nextSeq : Nat := 0
  /-- [R503 14] WSEQ expected next by this receiver; a RETRY was sent and words are discarded -/
  expect : Nat := 0
  discarding : Bool := false
  /-- [R504 14] RETRYs since the last ACK; failed retrains in a row; retraining -/
  retries : Nat := 0
  fails : Nat := 0
  retraining : Bool := false
  lastAck : Nat := 0
  deriving DecidableEq, Repr

/-- A translation entry (R218): context, page's virtual base, log2 size, leaf, and WIRE_CTX of its context. -/
structure XEntry where
  ctx : Nat
  va : Nat
  sh : Nat
  leaf : Word
  wire : BitVec 16
  deriving DecidableEq, Repr

/-- A cached table entry of levels 4 to 1 (R218). -/
structure WEntry where
  ctx : Nat
  va : Nat
  level : Nat
  entry : Word
  deriving DecidableEq, Repr

/-- A context descriptor (R209). -/
structure CtxDesc where
  root : Nat
  wire : BitVec 16
  deriving DecidableEq, Repr

/-- The operations of R228's OP field; `ctxOnly` needs the descriptor alone (a PMSG), `range` the mapping alone (R246). -/
inductive XOp where
  | load | store | atomic | rmem | bulk | source | ctxOnly | range
  deriving DecidableEq, Repr

/-- What waits for a translation: an apron request, one source part or the destination of a stagehand piece, a page of
INV_RANGE, the regions of a collective post. -/
inductive XFor where
  | apron (op : AOp)
  | source (stagehand slot id part : Nat)
  | dest (stagehand slot id : Nat)
  | range (op : AOp) (va : Nat)
  | post (op : AOp)
  deriving DecidableEq, Repr

/-- Who waits for a walk: its engine, operation and virtual address. -/
structure XWait where
  engine : Nat
  op : XOp
  va : Nat
  for_ : XFor
  deriving DecidableEq, Repr

/-- A walk in progress (R214, R220): `level` 5 while the descriptor is read. -/
structure Walk where
  id : Nat
  ctx : Nat
  va : Nat
  level : Nat := 5
  /-- local offset of the table being read -/
  table : Nat := 0
  wire : BitVec 16 := 0
  /-- overlapped by an invalidation: leaves no cached entry (R223) -/
  stale : Bool := false
  waits : List XWait
  deriving DecidableEq, Repr

/-- Why Belug asked the accelerator's memory (R511). -/
inductive LFor where
  | walk (id : Nat)
  | apronLocal (op : AOp)
  | source (stagehand slot id part : Nat)
  | destWrite (stagehand slot id : Nat)
  /-- a fabric request, the port it came on, and the status of its lines that have failed -/
  | serve (f : Flit) (port : Nat) (bad : Nat)
  | rmemRead (f : Flit) (port : Nat)
  | rmemWrite (f : Flit) (port : Nat)
  /-- RMEM of the seat's own apron to its own memory -/
  | ownRmemRead (op : AOp)
  | ownRmemWrite (op : AOp)
  | faultRecord
  deriving DecidableEq, Repr

/-- An LMEM request outstanding (R511, R532). -/
structure LReq where
  tag : Nat
  ch : Nat
  msg : ApronMsg
  why : LFor
  deriving DecidableEq, Repr

/-- A far-cache line (R243), by node x 2^41 + line. -/
structure FarLine where
  data : Bytes
  deriving DecidableEq, Repr

/-- Owner-cache entry states (R249, R250): `owned` once the claim is granted. -/
inductive OcSt where
  | claiming | owned | publishing
  deriving DecidableEq, Repr

/-- An owner-cache entry (R247 to R250), by line number of its offset. -/
structure OcLine where
  id : Nat
  node : BitVec 16
  ctx : BitVec 16 := 0
  st : OcSt := .claiming
  data : Bytes := List.replicate 128 0
  mask : BitVec 128 := 0
  filled : Bool := false
  /-- the LOAD of R249 step 4 is outstanding -/
  fillOut : Bool := false
  used : Nat := 0
  /-- [R258 07] INVs to acknowledge once the publish is DONE, with their ports -/
  invs : List Flit := []
  /-- [R260 07] FWDs that wait for the fill -/
  fwds : List Flit := []
  /-- [R258 07] an INV for its offset was met while its publish was in flight -/
  metInv : Bool := false
  /-- [R267 R264 07] publish when granted -/
  publishOnGrant : Bool := false
  deriving DecidableEq, Repr

/-- A piece being moved (R516): the operation's number, the parts of its source still to read, the bytes read. -/
structure Piece where
  idx : Nat
  op : Nat
  /-- parts still to read -/
  need : Nat
  /-- bytes read, by place in the piece -/
  data : Mem := []
  /-- WIRE_CTX of the source's context -/
  wire : BitVec 16 := 0
  /-- first status other than OK of a part -/
  bad : Nat := 0
  /-- its flit, or its last local request, has been sent -/
  sent : Bool := false
  deriving DecidableEq, Repr

/-- A stagehand slot (R514, R515). -/
structure SHSlot where
  own : Bool := false
  desc : Bytes := []
  msg : Bytes := []
  /-- pieces cut so far, pieces completed, pieces in all -/
  cut : Nat := 0
  done : Nat := 0
  total : Nat := 0
  pieces : List Piece := []
  deriving DecidableEq, Repr

/-- One stagehand (R514). -/
structure Stagehand where
  slots : List SHSlot := List.replicate 16 {}
  last : Nat := 15
  current : Option Nat := none
  resetting : Bool := false
  deriving DecidableEq, Repr

/-- A waiting TALLY_READ (R517). -/
structure TallyWait where
  ch : Nat
  tag : Nat
  tally : Nat
  target : BitVec 32
  since : Nat
  deriving DecidableEq, Repr

/-- A fence, release or acquire in progress (R267, R269, R522). -/
structure FenceRun where
  id : Nat
  ch : Nat
  tag : Nat
  /-- 0 engine, 1 chip, 2 house -/
  scope : Nat
  rel : Bool
  acq : Bool
  /-- 0 waits for earlier operations, 1 publishes, 2 fences, 3 acquires -/
  phase : Nat := 0
  /-- number of the first operation accepted after it -/
  barrier : Nat
  /-- entries to be published; planes whose FENCE is outstanding; planes to clear in DIRTY_PLANES; INVs (source and SEQ) -/
  lines : List Nat := []
  planes : List Nat := []
  clear : List Nat := []
  invs : List (Nat × Nat) := []
  status : Nat := 0
  deriving DecidableEq, Repr

/-- An operation accepted and not completed (R224, R267, R269): kind 0 load, 1 store, atomic or RMEM, 2 stagehand piece. -/
structure OpenOp where
  id : Nat
  engine : Nat
  kind : Nat
  ctx : Nat
  /-- virtual addresses it translates -/
  vas : List Nat
  deriving DecidableEq, Repr

/-- A stripe of a collective at a member (R332, R335). -/
structure MStripe where
  stripe : Nat
  /-- sent, on which plane and when -/
  sent : Bool := false
  plane : Nat := 0
  lastSend : Nat := 0
  /-- its result is held and written -/
  done : Bool := false
  deriving DecidableEq, Repr

/-- A collective at a member (R326, R336). -/
structure MColl where
  group : Nat
  seq : Nat
  rank : Nat
  n : Nat
  planes : BitVec 24
  /-- HOLD, ns -/
  hold : Nat
  desc : Desc
  digest : BitVec 32
  inVa : Nat
  outVa : Nat
  launch : Word
  tally : Nat
  ctx : BitVec 16
  blockwise : Bool
  /-- steps whose block is ready (R333, R519) -/
  ready : List Nat
  launched : Bool := false
  /-- posted after its launch count had passed (R305); none while the counter is UNSET -/
  late : Option Bool := none
  /-- the input region's bytes as Belug read them at the launch; intact by R326 (log 52) -/
  input : Bytes := []
  stripes : List MStripe := []
  /-- result chunks held of stripes not yet whole (R340): `who` is the stripe -/
  got : List Got := []
  /-- records per (source rank, hosted expert) (R397) -/
  counts : KMap Nat := []
  /-- time of the launch or of the last arrival -/
  lastSeen : Nat := 0
  /-- ended with this status, not yet completed (R336) -/
  status : Option Nat := none
  /-- curtain: RELEASE_CUE received (R307) -/
  release : Option Word := none
  /-- the counter at posting (R306) -/
  posted : Word := 0
  deriving DecidableEq, Repr

/-- An invalidation slot of R221. -/
structure InvSlot where
  own : Bool := false
  irq : Bool := false
  typ : BitVec 2 := 0
  status : Byte := 0
  ctx : BitVec 16 := 0
  va : BitVec 41 := 0
  pages : BitVec 41 := 0
  /-- [R224 06] entries removed (or refused); operations still to complete -/
  removed : Bool := false
  bad : Bool := false
  ops : List Nat := []
  deriving DecidableEq, Repr

/-- Belug. -/
structure Belug where
  fuse : BFuses := {}
  /-- [R524 14] NODE_ID; reset 0xFFFF -/
  node : BitVec 16 := 0xFFFF
  /-- [R60 02] PLANES_FITTED and FORM adopted; none before -/
  planes : Option Nat := none
  form : Nat := 0
  ports : Vector Port 24 := Vector.replicate 24 {}
  cue : Cue := {}
  lostA : Bool := false
  lostB : Bool := false
  useB : Bool := false
  bothLost : Option Nat := none
  /-- [R528 14] until the start wait ends no request leaves; time the reset began -/
  startWait : Bool := true
  resetAt : Nat := 0
  /-- [R524 14] INT_CAUSE, INT_MASK, INT_CHANNEL, PMSG_CHANNEL -/
  cause : Byte := 0
  mask : Byte := 0
  intChannel : BitVec 5 := 0
  pmsgChannel : BitVec 5 := 0
  /-- [R524 14] PACE and VREQ; reset 0, 720 -/
  pace : Nat := 0
  vreq : Nat := 720
  /-- [R524 14] HOME_MAP entries; reset 0 to 23; written since reset -/
  homeMap : List Nat := List.range 24
  homeWritten : Bool := false
  /-- [R524 14] VC_WEIGHT; reset 0x04_0C0A_0A04_0E0A -/
  vcWeight : BitVec 56 := 0x040C0A0A040E0A
  /-- [R524 14] E2E_TIMEOUT us, reset 1,000; RETRY_MAX, reset 3 -/
  e2e : BitVec 24 := 1000
  retryMax : BitVec 4 := 3
  /-- [R221 06] XLAT_CTX_BASE, XLAT_CTX_COUNT, SEAT_WINDOW, XLAT_FAULT_BASE, HEAD, TAIL, LOG2, LOST; reset 0 -/
  ctxBase : BitVec 36 := 0
  ctxCount : BitVec 17 := 0
  window : BitVec 32 := 0
  faultBase : BitVec 36 := 0
  faultHead : BitVec 20 := 0
  faultTail : BitVec 20 := 0
  faultLog2 : BitVec 4 := 0
  faultLost : BitVec 16 := 0
  invSlots : Vector InvSlot 4 := Vector.replicate 4 {}
  /-- [R233 R520 06] export table, rendezvous table, by configuration-space address; reset 0 -/
  tables : Mem := []
  /-- [R518 14] group table, by configuration-space address; reset 0; LIVE per entry -/
  groupMem : Mem := []
  live : KMap (BitVec 24) := []
  /-- [R517 14] tallies; reset 0 -/
  tallies : KMap Word := []
  waits : List TallyWait := []
  /-- [R218 06] translation caches, newest first: L1 per engine, L2, walk cache, descriptors -/
  l1 : KMap (List XEntry) := []
  l2 : List XEntry := []
  walkCache : List WEntry := []
  descs : List (Nat × CtxDesc) := []
  /-- [R220 06] walks running and waiting -/
  walks : List Walk := []
  walkQueue : List Walk := []
  nextWalk : Nat := 0
  /-- [R511 14] LMEM requests unanswered -/
  lmem : List LReq := []
  nextTag : Nat := 0
  /-- [R243 07] far cache -/
  far : KMap FarLine := []
  /-- [R247 07] owner cache -/
  oc : KMap OcLine := []
  nextOc : Nat := 0
  useClock : Nat := 0
  /-- [R243 07] loads that wait for a fill, by node x 2^41 + line -/
  fillWait : List (Nat × AOp) := []
  /-- [R513 14] lines of an RMEM at this home, and fabric requests that wait for them, with their ports -/
  rmemBusy : List Nat := []
  rmemWait : List (Flit × Nat) := []
  /-- [R267 R269 R522 07] fences in progress; operations they hold back -/
  fences : List FenceRun := []
  gated : List AOp := []
  /-- [R267 07] DIRTY_PLANES; reset 0 -/
  dirtyPlanes : BitVec 24 := 0
  /-- the model's own: WIRE_CTX of the last operation that dirtied a plane, for its FENCE -/
  dirtyCtx : KMap (BitVec 16) := []
  /-- [R251 R628 07] status of a lost publish, for the next house release -/
  lostStatus : Nat := 0
  /-- operations accepted and not completed; the next number -/
  openOps : List OpenOp := []
  nextOp : Nat := 0
  /-- [R190 R194 05] inbound flows by source node; [R195 05] outbound flows by destination node -/
  inflows : KMap InFlow := []
  outflows : KMap OutFlow := []
  /-- [R606 17] turns of each outbound flow (wraps and restarts of SEQ), and the last with an accepted reply -/
  turns : KMap (Nat × Nat) := []
  /-- [R195 05] requests that wait for a flow entry -/
  flowWait : List Queued := []
  /-- [R606 17] requests refused before any send, to complete with this status -/
  early : List (Purpose × Nat) := []
  /-- [R155 05] the port chosen last -/
  lastAdaptive : Nat := 23
  /-- [R183 05] flits delivered to Belug's units: time and port of arrival -/
  inbox : List (Flit × Nat × Nat) := []
  channels : Vector Channel 24 := Vector.replicate 24 {}
  hands : Vector Stagehand 32 := Vector.replicate 32 {}
  /-- [R326 09] collectives posted; members' REMAPs applied, by group number -/
  colls : List MColl := []
  /-- [R603 17] job keys by WIRE_CTX -/
  keys : KMap JobKey := []
  /-- [R609 17] the last EPOCH installed for each WIRE_CTX -/
  keyEpochs : KMap Nat := []
  /-- [R612 17] partition STRUCK -/
  struck : Option Nat := none
  /-- [R693 20] a PARTITION_CLEAR has been acted on since the last STRUCK or DOMAIN_DOWN -/
  cleared : Bool := false
  ctr : KMap Nat := []
  deriving DecidableEq, Repr

/-! ## Outputs -/

/-- What leaves the chips. -/
inductive Out where
  /-- a flit of 256 bytes on a port -/
  | flit (r : PortRef) (bytes : Bytes)
  /-- an offer frame on every usable lane -/
  | offer (r : PortRef) (o : Offer)
  /-- the answer to a tap request: 2 bits per tap -/
  | tapAnswer (r : PortRef) (lane : Nat) (pre mid post : Nat)
  /-- the transmitter starts driving the stand-in, training frames on the others -/
  | standin (r : PortRef) (src : Nat)
  /-- a message on an apron channel -/
  | apron (ch : Nat) (m : ApronMsg)
  /-- words replayed on an apron channel -/
  | words (ch : Nat) (ws : List (Nat × Bytes))
  /-- a code on a channel's AK wire: 15 ACK, 12 RETRY -/
  | ak (ch : Nat) (code : Nat)
  | msix (v : Nat)
  | hostWrite (addr : Word) (data : Bytes)
  | cxlData (data : Bytes) (poison : Bool)
  | mailbox (data : Bytes)
  | nymco (sess : Nat) (typ : Nat) (seq : Word) (body : Bytes)
  | closed (sess : Nat)
  | spdm (msg : Bytes)
  /-- bytes written to a collective's output region (R336) -/
  | region (va : Word) (data : Bytes)
  /-- the release of a curtain on the apron (R307) -/
  | curtain (group seq : Nat)
  | alert (side : Side) (low : Bool)
  | thermTrip
  | avs (mv : Nat)
  deriving DecidableEq, Repr

/-- The whole state. -/
structure State where
  /-- the model's own: local time of both chips in ns (log 1) -/
  now : Nat := 0
  itv : Itvos := {}
  blg : Belug := {}
  /-- the model's own: what has left the chips, oldest first (log 2) -/
  out : List Out := []
  /-- the model's own: draws of free values taken so far (log 3) -/
  free : Nat := 0
  /-- the model's own: commands waiting, first in first out -/
  pending : List Instr := []
  deriving DecidableEq, Repr

/-- Why a command stops the machine. -/
inductive Fault where
  /-- The operand has not the form its row's message has on the wire (Sys2Proof/WellFormed.lean): raised by the meanings of
  rows whose operand is a byte string of fixed length. Safe: no sender can send such a message. -/
  | illFormed
  deriving DecidableEq, Repr

/-- Why a command has no meaning. -/
inductive Refusal where
  /-- A row not modelled yet: raised by Dispatch alone. Safe. -/
  | notModelled (mnemonic : String)
  deriving DecidableEq, Repr

/-- The machine right after reset of both chips: every field at the default its declaration gives. -/
def State.reset : State := {}

end Sys2Proof.Machine
end

