-- ==== Sys2Proof/Machine/Operands.lean ====
section
/-! DEFINITION. Operand forms: byte strings, the header and payload fields of flits (R80 to R87, R93, R296), offer frames
(R51), chorus heads (R86), stagehand descriptors (R515), host buffer references (R548). -/

namespace Sys2Proof.Machine

open Sys2Proof

/-! ## Byte strings (little-endian, 00_scope) -/

def leBytes : Nat → Nat → Bytes
  | 0, _ => []
  | n + 1, v => BitVec.ofNat 8 v :: leBytes n (v / 256)

def leNat : Bytes → Nat
  | [] => 0
  | b :: bs => b.toNat + 256 * leNat bs

def slice (bs : Bytes) (a n : Nat) : Bytes := (bs.drop a).take n
/-- The little-endian number in `n` bytes from `a`; bytes beyond the end read 0. -/
def natAt (bs : Bytes) (a n : Nat) : Nat := leNat (slice bs a n)
def byteAt (bs : Bytes) (a : Nat) : Nat := (bs.getD a 0).toNat
/-- Exactly `n` bytes: cut, or filled with zeros. -/
def pad (n : Nat) (bs : Bytes) : Bytes := bs.take n ++ List.replicate (n - bs.length) 0
def zeros (n : Nat) : Bytes := List.replicate n 0
def allZero (bs : Bytes) : Bool := bs.all (· == 0)
/-- `xs` written over `bs` from offset `a`. -/
def putAt (bs : Bytes) (a : Nat) (xs : Bytes) : Bytes := bs.take a ++ xs ++ bs.drop (a + xs.length)
/-- Bit `i` of a number. -/
def bitOf (v i : Nat) : Bool := v / 2 ^ i % 2 == 1
/-- Bits [hi:lo] of a number. -/
def bits (v hi lo : Nat) : Nat := v / 2 ^ lo % 2 ^ (hi + 1 - lo)
def b2n (b : Bool) : Nat := if b then 1 else 0
/-- Number of ones of a bit vector. -/
def popcount {n : Nat} (v : BitVec n) : Nat := (List.range n).countP (fun i => v.getLsbD i)
/-- The vector with bit `i` set (cleared). -/
def setBit {n : Nat} (v : BitVec n) (i : Nat) (b : Bool) : BitVec n :=
  if b then v ||| BitVec.ofNat n (2 ^ i) else v &&& ~~~ BitVec.ofNat n (2 ^ i)
/-- The positions of ones, ascending. -/
def onesOf {n : Nat} (v : BitVec n) : List Nat := (List.range n).filter (fun i => v.getLsbD i)
/-- 64-bit two's complement value. -/
def sext (w v : Nat) : Int := if v < 2 ^ (w - 1) then v else (v : Int) - 2 ^ w

def lget {α : Type} [Inhabited α] (xs : List α) (i : Nat) : α := xs.getD i default
def lmod {α : Type} (xs : List α) (i : Nat) (f : α → α) : List α :=
  match xs[i]? with
  | some x => xs.set i (f x)
  | none => xs

/-- First element of a list that meets `p`, with the list without it. -/
def takeFirst {α : Type} (p : α → Bool) : List α → Option (α × List α)
  | [] => none
  | x :: xs => if p x then some (x, xs) else (takeFirst p xs).map (fun (y, ys) => (y, x :: ys))

/-! ## Flit kinds (R82) -/

namespace Kind
def linkCtl : BitVec 5 := 0x00
def load : BitVec 5 := 0x02
def store : BitVec 5 := 0x03
def atomic : BitVec 5 := 0x04
def fence : BitVec 5 := 0x05
def rmem : BitVec 5 := 0x06
def data : BitVec 5 := 0x08
def done : BitVec 5 := 0x09
def inv : BitVec 5 := 0x0C
def invAck : BitVec 5 := 0x0D
def fwd : BitVec 5 := 0x0E
def contrib : BitVec 5 := 0x10
def result : BitVec 5 := 0x11
def mcast : BitVec 5 := 0x12
def bulk : BitVec 5 := 0x14
def bulkMsg : BitVec 5 := 0x15
def pmsg : BitVec 5 := 0x18
def svc : BitVec 5 := 0x1C
end Kind

/-- The VC a KIND names (R82); none for LINK_CTL and reserved values. -/
def vcOf (k : BitVec 5) : Option Nat :=
  match k.toNat with
  | 0x02 | 0x03 | 0x04 | 0x05 | 0x06 => some 1
  | 0x08 | 0x09 => some 2
  | 0x0C | 0x0D | 0x0E => some 3
  | 0x10 => some 4
  | 0x11 | 0x12 => some 5
  | 0x14 | 0x15 => some 6
  | 0x18 => some 0
  | 0x1C => some 7
  | _ => none

/-- The request kinds that the flow rules cover (R179). -/
def isRequestKind (k : BitVec 5) : Bool :=
  [0x02, 0x03, 0x04, 0x05, 0x06, 0x14, 0x15, 0x18].contains k.toNat

/-! ## Header (R80) and payload fields (R85) -/

/-- The 16 header bytes. -/
def headerBytes (f : Flit) : Bytes :=
  leBytes 16 (f.dst.toNat * 2 ^ 112 + f.src.toNat * 2 ^ 96 + f.ctx.toNat * 2 ^ 80 + f.e2e.toNat * 2 ^ 48
    + f.seq.toNat * 2 ^ 28 + f.kind.toNat * 2 ^ 23 + b2n f.dk * 2 ^ 22 + b2n f.sk * 2 ^ 21 + b2n f.enc * 2 ^ 20
    + b2n f.cm * 2 ^ 19 + b2n f.down * 2 ^ 18 + f.crv.toNat * 2 ^ 15 + f.crn.toNat * 2 ^ 10 + f.hops.toNat * 2 ^ 6)

/-- The flit of 240 bytes of header and payload; its must-be-zero bits [5:0] are the second component. -/
def parseFlit (bs : Bytes) : Flit × Nat :=
  let h := natAt bs 0 16
  ({ dst := BitVec.ofNat 16 (h / 2 ^ 112), src := BitVec.ofNat 16 (h / 2 ^ 96), ctx := BitVec.ofNat 16 (h / 2 ^ 80),
     e2e := BitVec.ofNat 32 (h / 2 ^ 48), seq := BitVec.ofNat 20 (h / 2 ^ 28), kind := BitVec.ofNat 5 (h / 2 ^ 23),
     dk := bitOf h 22, sk := bitOf h 21, enc := bitOf h 20, cm := bitOf h 19, down := bitOf h 18,
     crv := BitVec.ofNat 3 (h / 2 ^ 15), crn := BitVec.ofNat 5 (h / 2 ^ 10), hops := BitVec.ofNat 4 (h / 2 ^ 6),
     payload := slice bs 16 224 }, h % 64)

/-- Header and payload, 240 bytes. -/
def flitBody (f : Flit) : Bytes := headerBytes f ++ pad 224 f.payload

end Sys2Proof.Machine

namespace Sys2Proof.Flit

open Sys2Proof.Machine

def vc (f : Flit) : Nat := (vcOf f.kind).getD 8
def offset (f : Flit) : Nat := natAt f.payload 0 6
/-- SIZE in bytes, 8 to 128; 0 for a reserved code. -/
def sizeCode (f : Flit) : Nat := byteAt f.payload 6
def tally (f : Flit) : Nat := natAt f.payload 7 2 % 4096
def aop (f : Flit) : Nat := byteAt f.payload 9
def scope (f : Flit) : Nat := byteAt f.payload 10
def fmt (f : Flit) : Nat := byteAt f.payload 11
def opr (f : Flit) : Nat := byteAt f.payload 12
def status (f : Flit) : Nat := byteAt f.payload 13
/-- Bytes 16 to 143: a line's data, or operand elements. -/
def line (f : Flit) : Bytes := slice f.payload 16 128
/-- STORE's byte mask, bytes 144 to 159. -/
def mask (f : Flit) : BitVec 128 := BitVec.ofNat 128 (natAt f.payload 144 16)
def opA (f : Flit) : Nat := natAt f.payload 16 16
def opB (f : Flit) : Nat := natAt f.payload 32 16
/-- LEN of BULK, BULK_MSG and PMSG. -/
def len (f : Flit) : Nat := byteAt f.payload 9
def last (f : Flit) : Bool := bitOf (byteAt f.payload 10) 0
def reader (f : Flit) : Nat := natAt f.payload 6 2
def readerTally (f : Flit) : Nat := natAt f.payload 8 2
/-- SVC_CODE of a Service flit. -/
def svc (f : Flit) : Nat := natAt f.payload 0 2

end Sys2Proof.Flit

namespace Sys2Proof.Machine

open Sys2Proof

def sizeBytes (code : Nat) : Nat := if code ≤ 4 then 8 * 2 ^ code else 0

/-- Payload bytes from listed pieces: (offset, bytes), the rest zero (R85). -/
def payloadOf : List (Nat × Bytes) → Bytes
  | [] => zeros 224
  | (a, xs) :: ps => putAt (payloadOf ps) a xs

/-- Payload bytes 0 to 15 common to LOAD, STORE, ATOMIC, RMEM, FENCE. -/
def reqHead (off size tally aop scope fmt opr : Nat) : Bytes :=
  leBytes 6 off ++ leBytes 1 size ++ leBytes 2 tally ++ leBytes 1 aop ++ leBytes 1 scope ++ leBytes 1 fmt ++ leBytes 1 opr
    ++ zeros 3

/-- Payload head of DATA and DONE. -/
def repHead (off tally status : Nat) : Bytes := leBytes 6 off ++ [0] ++ leBytes 2 tally ++ zeros 4 ++ leBytes 1 status ++ zeros 2

/-! ## Chorus head (R86) -/

structure CHead where
  group : Nat
  rank : Nat
  cueSeq : Nat
  step : Nat
  digest : BitVec 32
  chunk : Nat
  valid : Nat
  mbz : Nat := 0
  deriving DecidableEq, Repr

def cHead (f : Flit) : CHead :=
  let h := natAt f.payload 0 16
  { group := bits h 127 116, rank := bits h 115 102, cueSeq := bits h 101 86, step := bits h 85 78,
    digest := BitVec.ofNat 32 (h / 2 ^ 46), chunk := bits h 45 12, valid := bits h 11 4, mbz := bits h 3 0 }

def cHeadBytes (h : CHead) : Bytes :=
  leBytes 16 (h.group % 4096 * 2 ^ 116 + h.rank % 16384 * 2 ^ 102 + h.cueSeq % 65536 * 2 ^ 86 + h.step % 256 * 2 ^ 78
    + h.digest.toNat * 2 ^ 46 + h.chunk % 2 ^ 34 * 2 ^ 12 + h.valid % 256 * 2 ^ 4)

/-- Element bytes of CONTRIB, RESULT and MCAST: payload 16 to 207. -/
def elemBytes (f : Flit) : Bytes := slice f.payload 16 192

/-- RANK value that means every member (R86). -/
def everyRank : Nat := 0x3FFF

/-! ## Node and switch IDs (R24, R25, R29) -/

def nodeHouse (n : BitVec 16) : Nat := n.toNat / 128
def nodeSeat (n : BitVec 16) : Nat := n.toNat % 128
def swPlane (w : BitVec 16) : Nat := w.toNat / 2048
def swTier (w : BitVec 16) : Nat := w.toNat / 512 % 4
def swIndex (w : BitVec 16) : Nat := w.toNat % 512
/-- A pool node ID: NODE.SEAT 96 to 119. -/
def isPoolNode (n : BitVec 16) : Bool := decide (96 ≤ nodeSeat n ∧ nodeSeat n ≤ 119)
/-- Reserved node IDs under a FORM (R24 to R26). -/
def reservedNode (form : Nat) (n : BitVec 16) : Bool :=
  let st := nodeSeat n
  decide (nodeHouse n > 341) || (form == 0 && nodeHouse n != 0)
    || decide (st ≥ 120) || decide (72 ≤ st ∧ st ≤ 95) || (form != 0 && decide (48 ≤ st ∧ st ≤ 71))

/-! ## Offer frames (R51) -/

def reasonCode : Reason → Nat
  | .none => 0 | .short => 1 | .opened => 2 | .clockLane => 3 | .facing => 4 | .laneOrder => 5 | .miswired => 6
  | .refclkA => 7 | .refclkB => 8 | .refclk => 9 | .rev => 10 | .minMode => 11 | .dress => 12 | .noChart => 13
  | .degraded => 14 | .disabled => 15 | .nodeConflict => 16 | .partnerHeld => 17

def linkStateCode : LinkState → Nat
  | .dark => 0 | .detect => 1 | .clock => 2 | .align => 3 | .offer => 4 | .names => 5 | .shift => 6 | .tune => 7
  | .dress => 8 | .ready => 9 | .held => 10 | .down => 11

/-- Bytes 0 to 59 of an offer frame. -/
def offerBody (o : Offer) : Bytes :=
  [0x4F, o.rev, o.rates, o.features, o.txLanes, o.rxLanes, o.clkSrc, o.part] ++ leBytes 2 o.ownId.toNat ++
  [o.ownPort, o.minMode, o.dressLog2, o.planes, o.form, o.verdict] ++ leBytes 2 o.assigned.toNat ++
  leBytes 2 o.expectId.toNat ++ [o.expectPort, o.ack, o.heldReason, 0] ++ leBytes 8 o.serial.toNat ++ zeros 28

def parseOffer (b : Bytes) : Offer :=
  { rev := b.getD 1 0, rates := b.getD 2 0, features := b.getD 3 0, txLanes := b.getD 4 0, rxLanes := b.getD 5 0,
    clkSrc := b.getD 6 0, part := b.getD 7 0, ownId := BitVec.ofNat 16 (natAt b 8 2), ownPort := b.getD 10 0,
    minMode := b.getD 11 0, dressLog2 := b.getD 12 0, planes := b.getD 13 0, form := b.getD 14 0,
    verdict := b.getD 15 0, assigned := BitVec.ofNat 16 (natAt b 16 2), expectId := BitVec.ofNat 16 (natAt b 18 2),
    expectPort := b.getD 20 0, ack := b.getD 21 0, heldReason := b.getD 22 0,
    serial := BitVec.ofNat 64 (natAt b 24 8) }

/-! ## Host buffer references (R548) -/

structure HostRef where
  addr : Nat
  len : Nat
  dir : Nat
  deriving DecidableEq, Repr

def hostRef (payload : Bytes) (off : Nat) : HostRef :=
  { addr := natAt payload off 8, len := natAt payload (off + 8) 4, dir := byteAt payload (off + 12) }

/-- The offset of the first byte refused, in the order of R548; `dir` is what the command's row names. -/
def hostRefCheck (payload : Bytes) (off dir : Nat) : Option Nat :=
  let r := hostRef payload off
  if r.addr % 4096 ≠ 0 then some off
  else if r.len = 0 ∨ r.len > 67108864 then some (off + 8)
  else if r.dir ≠ dir then some (off + 12)
  else if natAt payload (off + 13) 3 ≠ 0 then some (off + 13)
  else none

/-! ## Apron messages -/

/-- The header word of an apron message, 64 bytes (R505). -/
def apronHead (m : ApronMsg) : Bytes :=
  [m.typ, m.opt] ++ leBytes 2 m.tag.toNat ++ leBytes 2 m.ctx.toNat ++ [m.size, m.b7] ++ leBytes 8 m.addr.toNat ++ pad 48 m.tail

end Sys2Proof.Machine

namespace Sys2Proof.ApronMsg

open Sys2Proof.Machine

/-- Field at header byte `a` (16 to 63). -/
def field (m : ApronMsg) (a n : Nat) : Nat := natAt m.tail (a - 16) n

end Sys2Proof.ApronMsg

namespace Sys2Proof.Machine

open Sys2Proof

/-- The words of a message: its header and its data words, each with SOP and EOP (R502, R506). -/
def apronWords (m : ApronMsg) : List Bytes :=
  apronHead m :: (if m.data.length = 0 then [] else if m.data.length ≤ 64 then [pad 64 m.data]
    else [pad 64 m.data, pad 64 (m.data.drop 64)])

end Sys2Proof.Machine
end

