-- ==== Sys2Proof/Machine/Fec.lean ====
section
/-! DEFINITION. The checks on a flit: CRC-32 (R88), the e2e tag CRC-32C (R89), the FEC (R90, R91), and the apron's CRC-16
(R502). -/

namespace Sys2Proof.Machine

open Sys2Proof

/-! ## CRCs -/

/-- One bit of a reflected CRC with reflected polynomial `poly`. -/
def crcBit (poly c : Nat) : Nat := if c % 2 = 1 then (c / 2) ^^^ poly else c / 2

def crcByte (poly c : Nat) (b : Byte) : Nat :=
  let c := c ^^^ b.toNat
  crcBit poly (crcBit poly (crcBit poly (crcBit poly (crcBit poly (crcBit poly (crcBit poly (crcBit poly c)))))))

/-- A 32-bit CRC, initial value and final XOR 0xFFFF_FFFF, reflected in and out. -/
def crc32Refl (poly : Nat) (bs : Bytes) : BitVec 32 := BitVec.ofNat 32 (bs.foldl (crcByte poly) 0xFFFFFFFF ^^^ 0xFFFFFFFF)

/-- The hop CRC-32 (R88): polynomial 0x04C1_1DB7, reflected 0xEDB8_8320. -/
def crc32 (bs : Bytes) : BitVec 32 := crc32Refl 0xEDB88320 bs
/-- CRC-32C (R89): polynomial 0x1EDC_6F41, reflected 0x82F6_3B78. -/
def crc32c (bs : Bytes) : BitVec 32 := crc32Refl 0x82F63B78 bs

/-- One byte of CRC-16, polynomial 0x1021, not reflected (R502). -/
def crc16Byte (c : Nat) (b : Byte) : Nat :=
  (List.range 8).foldl (fun c _ => if c / 32768 % 2 = 1 then (c * 2 % 65536) ^^^ 0x1021 else c * 2 % 65536) (c ^^^ (b.toNat * 256))

def crc16 (bs : Bytes) : Nat := bs.foldl crc16Byte 0xFFFF

/-- The e2e tag of a flit (R89): over DST, SRC, CTX and the payload as sent. -/
def e2eTag (f : Flit) : BitVec 32 :=
  crc32c (leBytes 2 f.dst.toNat ++ leBytes 2 f.src.toNat ++ leBytes 2 f.ctx.toNat ++ pad 224 f.payload)

def withTag (f : Flit) : Flit := { f with e2e := e2eTag f }
def tagOk (f : Flit) : Bool := f.e2e == e2eTag f

/-! ## GF(2^8), polynomial x^8 + x^4 + x^3 + x^2 + 1 (R90) -/

def gfXtime (a : Nat) : Nat := if a ≥ 128 then (a * 2 % 256) ^^^ 0x1D else a * 2

def gfMulAux : Nat → Nat → Nat → Nat
  | 0, _, _ => 0
  | n + 1, a, b => (if b % 2 = 1 then a else 0) ^^^ gfMulAux n (gfXtime a) (b / 2)

def gfMul (a b : Nat) : Nat := gfMulAux 8 a b

/-- Power by repeated multiplication. -/
def gfPow (a : Nat) : Nat → Nat
  | 0 => 1
  | n + 1 => gfMul a (gfPow a n)

/-- The inverse: a^254. -/
def gfInv (a : Nat) : Nat :=
  let a2 := gfMul a a; let a4 := gfMul a2 a2; let a8 := gfMul a4 a4; let a16 := gfMul a8 a8
  let a32 := gfMul a16 a16; let a64 := gfMul a32 a32; let a128 := gfMul a64 a64
  gfMul a2 (gfMul a4 (gfMul a8 (gfMul a16 (gfMul a32 (gfMul a64 a128)))))

/-- The powers α^0 … α^127. -/
def alphaPows : List Nat := (List.range 127).foldl (fun ps _ => ps ++ [gfXtime (ps.getLastD 1)]) [1]

/-! ## RS(128,122): 122 data bytes, then 6 parity bytes, the first byte the coefficient of highest degree (log 41) -/

/-- Value at `x` of the polynomial whose coefficients, highest degree first, are `cs` (Horner). -/
def polyEval (cs : List Nat) (x : Nat) : Nat := cs.foldl (fun acc c => gfMul acc x ^^^ c) 0

/-- The generator with roots α^0 to α^5, coefficients of x^5 … x^0 (x^6 has 1). -/
def rsGen : List Nat :=
  ((List.range 6).foldl (fun (g : List Nat) i =>
    let r := gfPow 2 i
    List.zipWith (· ^^^ ·) (g ++ [0]) (0 :: g.map (gfMul r))) [1]).drop 1

/-- One step of the division by the generator: the remainder register, highest degree first, and the next data byte. -/
def rsStep (gen reg : List Nat) (d : Nat) : List Nat :=
  let fb := d ^^^ reg.headD 0
  List.zipWith (fun r g => r ^^^ gfMul fb g) (reg.drop 1 ++ [0]) gen

/-- The 6 parity bytes of 122 data bytes. -/
def rsParity (ds : List Nat) : List Nat := ds.foldl (rsStep rsGen) [0, 0, 0, 0, 0, 0]

def syndromes (cs : List Nat) : List Nat := (List.range 6).map (fun i => polyEval cs (gfPow 2 i))

/-- Determinant of a 2 by 2, a 3 by 3 matrix over GF(2^8). -/
def det2 (a b c d : Nat) : Nat := gfMul a d ^^^ gfMul b c
def det3 (a b c d e f g h i : Nat) : Nat := gfMul a (det2 e f h i) ^^^ gfMul b (det2 d f g i) ^^^ gfMul c (det2 d e g h)

/-- Error locator coefficients Λ1 … Λν for the largest ν ≤ 3 with a regular syndrome matrix (Peterson). -/
def locator (s : List Nat) : List Nat :=
  let S := fun i => s.getD i 0
  let d3 := det3 (S 0) (S 1) (S 2) (S 1) (S 2) (S 3) (S 2) (S 3) (S 4)
  let d2 := det2 (S 0) (S 1) (S 1) (S 2)
  if d3 ≠ 0 then
    let k := gfInv d3
    [gfMul k (det3 (S 0) (S 1) (S 3) (S 1) (S 2) (S 4) (S 2) (S 3) (S 5)),
     gfMul k (det3 (S 0) (S 3) (S 2) (S 1) (S 4) (S 3) (S 2) (S 5) (S 4)),
     gfMul k (det3 (S 3) (S 1) (S 2) (S 4) (S 2) (S 3) (S 5) (S 3) (S 4))]
  else if d2 ≠ 0 then
    let k := gfInv d2
    [gfMul k (det2 (S 0) (S 2) (S 1) (S 3)), gfMul k (det2 (S 2) (S 1) (S 3) (S 2))]
  else if S 0 ≠ 0 then [gfMul (gfInv (S 0)) (S 1)] else []

/-- Positions (degree) whose locator X = α^degree is a root of x^ν + Λ1 x^(ν-1) + … + Λν. -/
def errDegrees (lam : List Nat) : List Nat :=
  (List.range 128).filter (fun d => polyEval (1 :: lam) (alphaPows.getD d 0) == 0)

/-- Error values at up to three known degrees, from the first syndromes. -/
def errValues (s degs : List Nat) : List Nat :=
  let S := fun i => s.getD i 0
  match degs.map (fun d => alphaPows.getD d 0) with
  | [_] => [S 0]
  | [x, y] =>
    let k := gfInv (x ^^^ y)
    [gfMul k (gfMul y (S 0) ^^^ S 1), gfMul k (gfMul x (S 0) ^^^ S 1)]
  | [x, y, z] =>
    let k := gfInv (det3 1 1 1 x y z (gfMul x x) (gfMul y y) (gfMul z z))
    [gfMul k (det3 (S 0) 1 1 (S 1) y z (S 2) (gfMul y y) (gfMul z z)),
     gfMul k (det3 1 (S 0) 1 x (S 1) z (gfMul x x) (S 2) (gfMul z z)),
     gfMul k (det3 1 1 (S 0) x y (S 1) (gfMul x x) (gfMul y y) (S 2))]
  | _ => []

/-- Correct a codeword of 128 bytes (R90, R91): the corrected codeword and the number of bytes corrected, or none. -/
def rsDecode (cs : List Nat) : Option (List Nat × Nat) :=
  let s := syndromes cs
  if s.all (· == 0) then some (cs, 0)
  else
    let lam := locator s
    let degs := errDegrees lam
    if lam.length = 0 ∨ degs.length ≠ lam.length then none
    else
      let vals := errValues s degs
      let fixed := (degs.zip vals).foldl (fun c dv => lmod c (127 - dv.1) (· ^^^ dv.2)) cs
      if (syndromes fixed).all (· == 0) then some (fixed, lam.length) else none

/-! ## The flit on the wire (R77) -/

def evens : Bytes → Bytes
  | [] => []
  | [x] => [x]
  | x :: _ :: xs => x :: evens xs

def interleave : List Nat → List Nat → List Nat
  | a :: as, b :: bs => a :: b :: interleave as bs
  | _, _ => []

def toNats (bs : Bytes) : List Nat := bs.map BitVec.toNat
def ofNats (ns : List Nat) : Bytes := ns.map (BitVec.ofNat 8)

/-- The 256 bytes of a flit as sent (R77, R88, R90). -/
def flitWire (f : Flit) : Bytes :=
  let body := flitBody f
  let full := body ++ leBytes 4 (crc32 body).toNat
  full ++ ofNats (rsParity (toNats (evens full))) ++ ofNats (rsParity (toNats (evens (full.drop 1))))

/-- What a receiver makes of 256 bytes (R91): the 240 bytes of a flit that passed with the bytes corrected and the codewords
that needed three corrections; or none. `bypass`: FEC bypass in force (R55). -/
def flitReceive (bypass : Bool) (raw : Bytes) : Option (Bytes × Nat × Nat) :=
  let full := raw.take 244
  if bypass then
    if natAt full 240 4 = (crc32 (full.take 240)).toNat then some (full.take 240, 0, 0) else none
  else
    match rsDecode (toNats (evens full) ++ toNats (slice raw 244 6)),
          rsDecode (toNats (evens (full.drop 1)) ++ toNats (slice raw 250 6)) with
    | some (c0, n0), some (c1, n1) =>
      let fixed := ofNats (interleave (c0.take 122) (c1.take 122))
      if natAt fixed 240 4 = (crc32 (fixed.take 240)).toNat then
        some (fixed.take 240, n0 + n1, b2n (n0 == 3) + b2n (n1 == 3))
      else none
    | _, _ => none

/-- A received offer frame with a good CRC-32 over bytes 0 to 59 (R51). -/
def offerGood (b : Bytes) : Bool := b.getD 0 0 == 0x4F && natAt b 60 4 == (crc32 (b.take 60)).toNat

end Sys2Proof.Machine
end

