-- ==== Sys2Proof/Machine/Flags.lean ====
section
/-! DEFINITION. Status codes, event bits, counters' places, and the words computed from state: STATE, PACE, CUE_STATUS of the
mirror (R541), the licences in force (R4 to R6). -/

namespace Sys2Proof.Machine

open Sys2Proof

/-! ## Status codes (R87, R507, R546) -/

namespace St
def ok : Nat := 0x00
def denied : Nat := 0x01
def badarg : Nat := 0x02
def domainDown : Nat := 0x03
def struck : Nat := 0x04
def nokey : Nat := 0x05
def unlicensed : Nat := 0x06
def timeout : Nat := 0x07
def mismatch : Nat := 0x08
def busy : Nat := 0x09
def empty : Nat := 0x0A
def draining : Nat := 0x0B
def staleEpoch : Nat := 0x0C
def degraded : Nat := 0x0D
def pending : Nat := 0xFF
end St

/-! ## Event bits of EVENT_CAUSE (R543) and INT_CAUSE (R524) -/

namespace Ev
def state : Nat := 0
def memory : Nat := 1
def port : Nat := 2
def domain : Nat := 3
def security : Nat := 4
def power : Nat := 5
def firmware : Nat := 6
def cxl : Nat := 7
end Ev

namespace Irq
def xlat : Nat := 0
def coherence : Nat := 1
def stagehand : Nat := 2
def rdv : Nat := 3
def port : Nat := 4
def apron : Nat := 5
def domain : Nat := 6
def cue : Nat := 7
end Irq

/-! ## Places of counters (R630, R631) -/

/-- Counters of one port that both chips keep, in the order of the first column of both tables. -/
inductive PortCtr where
  | attemptFail | fecBytes | fec3 | uncorrectable | clockDiscard | malformed | overrun | resync | flitsIn | flitsOut
  deriving DecidableEq, Repr

def PortCtr.itvIdx : PortCtr → Nat
  | .attemptFail => 0 | .fecBytes => 1 | .fec3 => 2 | .uncorrectable => 3 | .clockDiscard => 4 | .malformed => 5
  | .overrun => 6 | .resync => 7 | .flitsIn => 28 | .flitsOut => 29

def PortCtr.blgIdx : PortCtr → Nat
  | .attemptFail => 0 | .fecBytes => 1 | .fec3 => 2 | .uncorrectable => 3 | .clockDiscard => 4 | .malformed => 5
  | .overrun => 6 | .resync => 7 | .flitsIn => 8 | .flitsOut => 9

/-- Set 2 of R630. -/
inductive DelCtr where
  | noRoute | updown | aged | serviceLate | e2eBad | dupReq | dupReply | seqRange | flowFull | flowLost | resend | timeout
  | gcmFail | plainRefused | genStall
  deriving DecidableEq, Repr

/-- Set 3 of R630. -/
inductive CohCtr where
  | dirEvict | dirLate | invOrphan | dupAck | combined | dirUe | domainEvents | fences
  deriving DecidableEq, Repr

/-- Set 4 of R630. -/
inductive CollCtr where
  | notCast | noEntry | collDup | abortMismatch | abortTimeout | abortStruck | abortNokey | remap | ledgerResidue
  | chorusFault | clustersRetired | stripesCommitted | remapDrop
  deriving DecidableEq, Repr

/-- Set 6 of R630. -/
inductive PoolCtr where
  | poolUe | ceStalls | ceGallery | promoteDrop | promoteBlocked | moves | cxlUnmapped | cxlNokey | scrubLeft | homeArith
  | xtsMismatch
  deriving DecidableEq, Repr

/-- Belug counters 432 on (R631). -/
inductive BCtr where
  | fcParity | ocConflict | ocUe | fwdStale | dupReq | dupReply | seqRange | flowFull | flowWait | e2eBad | timeout | gcmFail
  | plainRefused | keyFull | strikeDrop | rdvUnarmed | moeDrop | cueLate | curtainLate | cueJump | cfgRefused | akBad
  | belugParity | xlatParity | xlatFaults | apronDiscard | homeArith
  deriving DecidableEq, Repr

/-- Places of R630's counters: set × 65,536 + index. -/
def itvPortIdx (p : Nat) (c : PortCtr) : Nat := 32 * p + c.itvIdx
def policedIdx (p : Nat) : Nat := 32 * p + 8
def overIdx (p : Nat) : Nat := 32 * p + 9
def foreignIdx (p : Nat) : Nat := 32 * p + 10
def crossIdx (p : Nat) : Nat := 32 * p + 11
def lostIdx (p v : Nat) : Nat := 32 * p + 12 + v
def discardIdx (p v : Nat) : Nat := 32 * p + 20 + v
def cmSetIdx (p : Nat) : Nat := 32 * p + 30
def stateChangesIdx (p : Nat) : Nat := 32 * p + 31
/-- Set 1, index k of die d's block. -/
def coreIdx (d k : Nat) : Nat := 65536 + 64 * d + k
def DelCtr.idx (c : DelCtr) : Nat := 2 * 65536 + c.ctorIdx
def CohCtr.idx (c : CohCtr) : Nat := 3 * 65536 + c.ctorIdx
def CollCtr.idx (c : CollCtr) : Nat := 4 * 65536 + c.ctorIdx
def wardIdx (w k : Nat) : Nat := 5 * 65536 + 40 * w + k
def PoolCtr.idx (c : PoolCtr) : Nat := 6 * 65536 + c.ctorIdx
def strikeIdx (p : Nat) : Nat := 7 * 65536 + p
def keyUnusedIdx : Nat := 7 * 65536 + 16
def keyUeIdx : Nat := 7 * 65536 + 17
def sigFailIdx : Nat := 7 * 65536 + 18
def staleRefusedIdx : Nat := 7 * 65536 + 19
def BCtr.idx (c : BCtr) : Nat := 432 + c.ctorIdx

/-! ## Licences in force (R4 to R6, R684) -/

/-- HELD of R541: the licences applied; POOL and CHORUS clear while the stalls are lost (R684). -/
def heldLicences (v : Itvos) : BitVec 3 := if v.boot.stallsFailed then v.boot.licences &&& 0b100#3 else v.boot.licences
def holdsPool (v : Itvos) : Bool := (heldLicences v).getLsbD 0
def holdsChorus (v : Itvos) : Bool := (heldLicences v).getLsbD 1
/-- KERNEL counts only together with CHORUS (R6). -/
def holdsKernel (v : Itvos) : Bool := (heldLicences v).getLsbD 1 && (heldLicences v).getLsbD 2

/-! ## Values set by the chart (R186, R139, R735) -/

def swid (v : Itvos) : BitVec 16 := (v.routing.chart.map (·.swid)).getD 0xFFFF
/-- The pool node ID of this switch's plane, in its own house (R25, R27). -/
def poolNode (v : Itvos) : BitVec 16 := BitVec.ofNat 16 (swIndex (swid v) * 128 + 96 + swPlane (swid v))
def isHouseSwitch (v : Itvos) : Bool := (v.routing.chart.map (fun c => swTier c.swid == 0)).getD false
/-- E2E_TIMEOUT in ns: the chart's, 1 ms without one (R186). -/
def itvE2E (v : Itvos) : Nat := ((v.routing.chart.map (·.e2eTimeout)).getD 1000) * 1000
def itvRetryMax (v : Itvos) : Nat := (v.routing.chart.map (·.retryMax)).getD 3
def ageLimit (v : Itvos) : Nat := ((v.routing.chart.map (·.ageLimit)).getD 50) * 1000
def principalLimit (v : Itvos) : Nat := (v.routing.chart.map (·.principalLimit)).getD 16
def formOf (v : Itvos) : Nat := (v.routing.chart.map (·.form)).getD 0
/-- Planes fitted in the house. -/
def planesFitted (v : Itvos) : Nat := (v.routing.chart.map (fun c => popcount c.planes)).getD 0
def chartPort (v : Itvos) (p : Nat) : Option ChartPort := v.routing.chart.bind (fun c => c.ports[p]?)
def blgE2E (b : Belug) : Nat := b.e2e.toNat * 1000

/-! ## Pace (R115, R123) -/

/-- The pace a die reports: its lowest monitor reading, scaled by the paths left. -/
def diePace (d : Die) : Nat := d.pace * (8 - popcount d.retired) / 8
def chipPace (v : Itvos) : Nat := min (diePace (v.core.dies.get 0)) (diePace (v.core.dies.get 1))
/-- PACE_LOW is held while the pace is below 1,100 (R117). -/
def paceLow (v : Itvos) : Bool := chipPace v < 1100

/-! ## The words of the mirror (R541) -/

def modeCode : Mode → Nat
  | .starting => 0 | .ready => 1 | .switching => 2 | .greenroom => 3

/-- MODE as read: SWITCHING while the prompters change scripts (R556). -/
def stateWord (v : Itvos) : Nat :=
  modeCode v.boot.mode + b2n (v.pool.galleryOff != 0) * 2 ^ 8 + b2n (paceLow v) * 2 ^ 9 + b2n (v.dir.down != 0) * 2 ^ 10
    + b2n v.boot.lostA * 2 ^ 11 + b2n v.boot.lostB * 2 ^ 12 + b2n v.routing.chart.isNone * 2 ^ 13
    + b2n v.pwr.beatMissing * 2 ^ 14

def cueStateCode : CueState → Nat
  | .unset => 0 | .locked => 1 | .holdover => 2

def cueStatusWord (c : Cue) : Nat :=
  (c.offset % 2 ^ 32).toNat * 2 ^ 32 + (c.parent.getD 0xFF) * 2 ^ 16 + (c.level.getD 0xFF) * 2 ^ 8 + cueStateCode c.st

def readyMask {n : Nat} (ports : Vector Port n) : Nat :=
  (List.range n).foldl (fun m i => m + (match ports[i]? with | some p => b2n (p.st == .ready) | none => 0) * 2 ^ i) 0

/-- Draw averaged over 1 ms: the last 100 samples of 10 µs (R642). -/
def drawOf (p : Power) : Nat := if p.samples.length = 0 then 0 else p.samples.sum / p.samples.length

/-- The mirror's values at a refresh (R541), but for MIRROR_SEQ. -/
def mirrorOf (v : Itvos) : Mirror :=
  let r := readyMask v.ports
  { swid := swid v, held := heldLicences v,
    firmware := BitVec.ofNat 64 ((if v.boot.slot = 1 then v.flash.img1.version else v.flash.img0.version) * 2 ^ 32
      + b2n v.boot.bowPending * 4 + v.boot.slot),
    state := BitVec.ofNat 64 (stateWord v),
    pace := BitVec.ofNat 64 (chipPace v * 2 ^ 32 + diePace (v.core.dies.get 1) * 2 ^ 16 + diePace (v.core.dies.get 0)),
    cueStatus := BitVec.ofNat 64 (cueStatusWord v.cue), cueSnap := v.cue.count,
    readyLo := BitVec.ofNat 64 r, readyHi := BitVec.ofNat 8 (r / 2 ^ 64),
    power := BitVec.ofNat 32 (v.pwr.cap * 2 ^ 16 + drawOf v.pwr), thermal := BitVec.ofNat 12 v.pwr.tj,
    cxlLink := if v.cb.cxlUp then BitVec.ofNat 16 (v.cb.cxlRate * 256 + v.cb.cxlWidth) else 0,
    seq := v.cb.mirror.seq }

end Sys2Proof.Machine
end

