-- ==== Sys2Proof/Machine/Ops.lean ====
section
/-! DEFINITION. The named operations over the state: sparse tables, byte memory, ports, counters, events and interrupts,
outputs, free values, apron messages, the idle tick. -/

namespace Sys2Proof.Machine

open Sys2Proof

/-- The outcome of every meaning. -/
abbrev Res := Host.Outcome State Fault Refusal

/-! ## Sparse tables: keys strictly rising -/

def kget {α : Type} : List (Nat × α) → Nat → Option α
  | [], _ => none
  | (k', v) :: m, k => if k' = k then some v else kget m k

def kset {α : Type} : List (Nat × α) → Nat → α → List (Nat × α)
  | [], k, v => [(k, v)]
  | (k', v') :: m, k, v =>
    if k < k' then (k, v) :: (k', v') :: m else if k = k' then (k, v) :: m else (k', v') :: kset m k v

def kdel {α : Type} : List (Nat × α) → Nat → List (Nat × α)
  | [], _ => []
  | (k', v') :: m, k => if k' = k then m else (k', v') :: kdel m k

def kgetD {α : Type} (m : List (Nat × α)) (k : Nat) (d : α) : α := (kget m k).getD d
def kmod {α : Type} (m : List (Nat × α)) (k : Nat) (d : α) (f : α → α) : List (Nat × α) := kset m k (f (kgetD m k d))

/-! ## Byte memory: an unlisted address reads 0 (R475, R489, R490; log 7) -/

/-- The canonical form: addresses strictly rising, no listed byte equal to 0. -/
def Memory.wf : Mem → Bool
  | [] => true
  | (a, b) :: m => b != 0 && m.all (fun c => decide (a < c.1)) && Memory.wf m

def memGet (m : Mem) (a : Nat) : Byte := (kget m a).getD 0
def memPut (m : Mem) (a : Nat) (b : Byte) : Mem := if b = 0 then kdel m a else kset m a b
def memRead (m : Mem) (a n : Nat) : Bytes := (List.range n).map (fun i => memGet m (a + i))
def memWrite (m : Mem) (a : Nat) : Bytes → Mem
  | [] => m
  | b :: bs => memWrite (memPut m a b) (a + 1) bs
/-- The bytes from `a` to `a + n - 1` become 0. -/
def memZero (m : Mem) (a n : Nat) : Mem := m.filter (fun c => decide (c.1 < a) || decide (a + n ≤ c.1))
/-- The bytes of `d` whose bit of `mask` is set are written from `a` on. -/
def memMasked (m : Mem) (a : Nat) (d : Bytes) (mask : Nat) : Mem :=
  (List.range d.length).foldl (fun m i => if bitOf mask i then memPut m (a + i) (d.getD i 0) else m) m
/-- The entries with keys in [lo, hi) leave the table. -/
def kdelRange {α : Type} (m : List (Nat × α)) (lo hi : Nat) : List (Nat × α) :=
  m.filter (fun c => decide (c.1 < lo) || decide (hi ≤ c.1))

/-! ## Ports -/

def getPort (s : State) : PortRef → Port
  | .itv p => s.itv.ports.get p
  | .blg p => s.blg.ports.get p

def setPort (s : State) (r : PortRef) (p : Port) : State :=
  match r with
  | .itv i => { s with itv.ports := s.itv.ports.set i.val p i.isLt }
  | .blg i => { s with blg.ports := s.blg.ports.set i.val p i.isLt }

def modPort (s : State) (r : PortRef) (f : Port → Port) : State := setPort s r (f (getPort s r))

/-- Itvos port `n`, when it is one. -/
def itvRef (n : Nat) : Option PortRef := if h : n < 72 then some (.itv ⟨n, h⟩) else none
def blgRef (n : Nat) : Option PortRef := if h : n < 24 then some (.blg ⟨n, h⟩) else none
def itvPort (s : State) (n : Nat) : Port := (s.itv.ports[n]?).getD {}
def blgPort (s : State) (n : Nat) : Port := (s.blg.ports[n]?).getD {}
def modItvPort (s : State) (n : Nat) (f : Port → Port) : State :=
  match itvRef n with
  | some r => modPort s r f
  | none => s
def modBlgPort (s : State) (n : Nat) (f : Port → Port) : State :=
  match blgRef n with
  | some r => modPort s r f
  | none => s
def refNum : PortRef → Nat
  | .itv p => p.val
  | .blg p => p.val
def refSide : PortRef → Side
  | .itv _ => .itv
  | .blg _ => .blg
/-- Every port of Itvos, of Belug. -/
def itvRefs : List PortRef := (List.finRange 72).map .itv
def blgRefs : List PortRef := (List.finRange 24).map .blg

/-! ## Outputs, free values, time -/

def emit (s : State) (o : Out) : State := { s with out := s.out ++ [o] }
/-- A free word (log 3): the state that follows has drawn it. -/
def drawFree (s : State) : State := { s with free := s.free + 1 }
def freeVal (s : State) : Word := Config.freeWord s.free
/-- At least `n` ns have passed since `t`. -/
def passed (s : State) (t n : Nat) : Bool := decide (t + n ≤ s.now)
/-- At least `n` beats of 8/7 ns have passed since `t`. -/
def beatsPassed (s : State) (t n : Nat) : Bool := decide (8 * n ≤ 7 * (s.now - t))

/-! ## Counters (R630, R631): 64 bits, saturating -/

def satAdd (v n : Nat) : Nat := min (v + n) (2 ^ 64 - 1)
def bump (s : State) (idx n : Nat) : State :=
  if n = 0 then s else { s with itv.ctr := kmod s.itv.ctr idx 0 (satAdd · n) }
def bumpB (s : State) (idx n : Nat) : State :=
  if n = 0 then s else { s with blg.ctr := kmod s.blg.ctr idx 0 (satAdd · n) }
def bumpPort (s : State) (r : PortRef) (c : PortCtr) (n : Nat) : State :=
  match r with
  | .itv p => bump s (itvPortIdx p.val c) n
  | .blg p => bumpB s (16 * p.val + c.blgIdx) n
def bumpDel (s : State) (c : DelCtr) : State := bump s c.idx 1
def bumpCoh (s : State) (c : CohCtr) : State := bump s c.idx 1
def bumpColl (s : State) (c : CollCtr) : State := bump s c.idx 1
def bumpPool (s : State) (c : PoolCtr) : State := bump s c.idx 1
def bumpBC (s : State) (c : BCtr) : State := bumpB s c.idx 1

/-! ## Interrupts of Itvos (R543, R544) -/

/-- Raise MSI-X vector `v`: sent when its entry is unmasked and the link is up; kept as its pending bit while its entry is
masked or the link is down; lost while Bus Master Enable is 0 (R544, R558; log 21). -/
def raiseVector (s : State) (v : Nat) : State :=
  match s.itv.cb.msix[v]? with
  | none => s
  | some e =>
    if e.masked || !s.itv.cb.cxlUp then { s with itv.cb.pba := setBit s.itv.cb.pba v true }
    else if s.itv.cb.busMaster then emit s (.msix v) else s

/-- EVENT_CAUSE bit `i` is set; from 0 to 1 with EVENT_MASK bit i at 1 it raises vector 8 + i (R543). ITV_ALERT_N is low while
any bit is set (R758). -/
def raiseEvent (s : State) (i : Nat) : State :=
  if s.itv.cb.eventCause.getLsbD i then s
  else
    let s := if s.itv.cb.eventCause = 0 then emit s (.alert .itv true) else s
    let s := { s with itv.cb.eventCause := setBit s.itv.cb.eventCause i true }
    if s.itv.cb.eventMask.getLsbD i then raiseVector s (8 + i) else s

/-- The STATE event where STATE has changed between `s0` and `s` (R543). -/
def noteState (s0 s : State) : State := if stateWord s0.itv = stateWord s.itv then s else raiseEvent s Ev.state

/-! ## Telemetry (R740, R741) -/

/-- Some session subscribes to stream `k`. -/
def subscribed (s : State) (k : Nat) : Bool := s.itv.mgmt.sessions.any (fun x => x.2.streams.getLsbD k)

/-- A record goes to every session that subscribes to its stream. SEQ of the message is free (R728; log 43). -/
def telemeter (s : State) (k : Nat) (rec_ : Bytes) : State :=
  (s.itv.mgmt.sessions.filter (fun x => x.2.streams.getLsbD k)).foldl (fun s x =>
    drawFree (emit s (.nymco x.1 0x31 (freeVal s) (leBytes 1 k ++ zeros 3 ++ leBytes 4 1 ++ rec_)))) s

/-! ## Apron messages (R502 to R505) -/

def getCh (s : State) (n : Nat) : Channel := (s.blg.channels[n]?).getD {}
def modCh (s : State) (n : Nat) (f : Channel → Channel) : State :=
  if h : n < 24 then { s with blg.channels := s.blg.channels.set n (f (s.blg.channels.get ⟨n, h⟩)) h } else s

/-- Words enter the channel: numbered and held while fewer than 16 are held, else waiting (R504). -/
def pushWords (c : Channel) (ws : List Bytes) : Channel :=
  let all := c.waiting ++ ws
  let k := 16 - c.held.length
  let go := all.take k
  { c with held := c.held ++ (List.range go.length).map (fun i => ((c.nextSeq + i) % 32, go.getD i [])),
           nextSeq := (c.nextSeq + go.length) % 32, waiting := all.drop k,
           lastAck := c.lastAck }

/-- A message leaves on channel `n`; on a DOWN channel it is discarded and counted (R527). -/
def sendApron (s : State) (n : Nat) (m : ApronMsg) : State :=
  if (getCh s n).up then
    let s := modCh s n (fun c => pushWords { c with lastAck := if c.held.length = 0 then s.now else c.lastAck } (apronWords m))
    emit s (.apron n m)
  else bumpBC s .apronDiscard

/-- RSP_DONE of a request (R506, R507). -/
def rspDone (s : State) (ch : Nat) (tag : Nat) (status reason : Nat) : State :=
  sendApron s ch { typ := 0x22, tag := BitVec.ofNat 16 tag, ctx := BitVec.ofNat 16 (status + reason * 256) }

/-- RSP_DATA of a request: data from byte 0 of the first data word. -/
def rspData (s : State) (ch : Nat) (tag : Nat) (status reason : Nat) (data : Bytes) : State :=
  sendApron s ch { typ := 0x21, tag := BitVec.ofNat 16 tag, ctx := BitVec.ofNat 16 (status + reason * 256),
                   data := if data.length ≤ 64 then pad 64 data else pad 128 data }

/-- The first UP channel from `n` on, ascending and wrapping (R511, R526). -/
def upChannel (s : State) (n : Nat) : Nat :=
  ((List.range 24).map (fun i => (n + i) % 24)).find? (fun c => (getCh s c).up) |>.getD n

/-! ## Interrupts of Belug (R524, R526) -/

/-- BELUG_ALERT_N is low while an enabled cause is set (R500). -/
def alertLow (b : Belug) : Bool := (b.cause &&& b.mask) != 0

/-- Cause bit `i` is set; an enabled bit that goes from 0 to 1 sends one INTR (R526). -/
def raiseIrq (s : State) (i : Nat) : State :=
  if s.blg.cause.getLsbD i then s
  else
    let was := alertLow s.blg
    let s := { s with blg.cause := setBit s.blg.cause i true }
    if s.blg.mask.getLsbD i then
      let s := sendApron s (upChannel s s.blg.intChannel.toNat)
        { typ := 0x38, tail := putAt (zeros 48) 0 [s.blg.cause] }
      if was then s else emit s (.alert .blg true)
    else s

/-! ## Sending flits -/

/-- A flit this Itvos forms enters the core from an internal end (R113), its e2e tag generated (R89) and HOPS 0 (R166). -/
def itvSend (s : State) (f : Flit) : State :=
  { s with itv.core.internal := s.itv.core.internal ++ [{ flit := withTag { f with hops := 0 }, at_ := s.now, own := true }] }

/-- A multicast this Itvos forms, towards output ports `mc` (R128). -/
def itvMulticast (s : State) (f : Flit) (mc : List Nat) : State :=
  { s with itv.core.internal := s.itv.core.internal ++
      [{ flit := withTag { f with hops := 0 }, at_ := s.now, own := true, mc := mc }] }

/-- A flit Belug forms is queued on BPp. -/
def blgSend (s : State) (p : Nat) (f : Flit) : State :=
  modBlgPort s p (fun q => { q with outq := q.outq ++ [{ flit := withTag { f with hops := 0 }, at_ := s.now, own := true }] })

/-! ## Cue counters -/

def getCue (s : State) : Side → Cue
  | .itv => s.itv.cue
  | .blg => s.blg.cue
def setCue (s : State) (d : Side) (c : Cue) : State :=
  match d with
  | .itv => { s with itv.cue := c }
  | .blg => { s with blg.cue := c }

/-- One tick of 1 ns (R292, R300): held still, or advanced by 1, with 1 tick added or skipped in every 1,024 while slewing. -/
def cueTick (c : Cue) : Cue :=
  if c.hold > 0 then { c with hold := c.hold - 1 }
  else if c.slew = 0 then { c with count := c.count + 1, phase := 0 }
  else if c.phase + 1 < 1024 then { c with count := c.count + 1, phase := c.phase + 1 }
  else if c.slew > 0 then { c with count := c.count + 2, phase := 0, slew := c.slew - 1 }
  else { c with phase := 0, slew := c.slew + 1 }

/-- What the block does on an empty queue: 1 ns of local time passes (log 1). -/
def tick (s : State) : State :=
  { s with now := s.now + 1, itv.cue := cueTick s.itv.cue, blg.cue := cueTick s.blg.cue }

/-! ## Pool memory addressing -/

/-- The number of 64-byte blocks and 64 KiB pages. -/
def pageOf (off : Nat) : Nat := off / 65536
def blockOf (off : Nat) : Nat := off / 64

/-- Erase one occurrence of a flit from the internal inbox of Itvos, of Belug. -/
def takeInbox (s : State) (d : Side) (f : Flit) : State :=
  match d with
  | .itv => { s with itv.core.inbox := s.itv.core.inbox.erase f }
  | .blg => match takeFirst (fun (x : Flit × Nat × Nat) => x.1 == f) s.blg.inbox with
    | some (_, rest) => { s with blg.inbox := rest }
    | none => s

/-- Run on a flit delivered to the units of a chip; nothing where it is not there. -/
def fromInbox (s : State) (d : Side) (f : Flit) (g : State → State) : State :=
  let there := match d with
    | .itv => s.itv.core.inbox.contains f
    | .blg => s.blg.inbox.any (fun x => x.1 == f)
  if there then g (takeInbox s d f) else s

end Sys2Proof.Machine
end

