-- ==== Sys2Proof/Machine/Crypto.lean ====
section
/-! DEFINITION. Encryption of flits (R602 to R607): which flits, IV and associated data, generations, and what a consumer of a
payload checks before it acts (R89, R605, R607, R611, R612). -/

namespace Sys2Proof.Machine

open Sys2Proof

/-! ## Which flits (R602, R84) -/

/-- One of its ends is a pool node ID; a switch ID is none. -/
def touchesPool (f : Flit) : Bool := (!f.dk && isPoolNode f.dst) || (!f.sk && isPoolNode f.src)

/-- Its KIND, SK, DST and SRC are those of a flit that a job key encrypts. -/
def keyedKind (f : Flit) : Bool :=
  ([0x14, 0x15, 0x18].contains f.kind.toNat || ([0x10, 0x11, 0x12].contains f.kind.toNat && f.sk)) && !touchesPool f

/-! ## Format (R83, R604) -/

def ivOf (f : Flit) (g : Nat) : Bytes :=
  leBytes 2 f.src.toNat ++ leBytes 2 f.dst.toNat ++ leBytes 1 (f.kind.toNat + 32 * b2n f.dk + 64 * b2n f.sk) ++
    leBytes 3 f.seq.toNat ++ leBytes 4 g

def aadOf (f : Flit) : Bytes :=
  leBytes 2 f.ctx.toNat ++ leBytes 2 f.src.toNat ++ leBytes 2 f.dst.toNat ++
    leBytes 4 (f.seq.toNat * 128 + f.kind.toNat * 4 + b2n f.dk * 2 + b2n f.sk)

def sealWith (key : BitVec 256) (g : Nat) (f : Flit) : Flit :=
  { f with enc := true, payload := pad 224 (Config.gcmSeal key (ivOf f g) (aadOf f) (f.payload.take 208)) }

def openWith (key : BitVec 256) (g : Nat) (f : Flit) : Option Flit :=
  (Config.gcmOpen key (ivOf f g) (aadOf f) f.payload).map (fun p => { f with enc := false, payload := pad 224 p })

/-! ## Sides -/

def keysOf (s : State) : Side → KMap JobKey
  | .itv => s.itv.sec.jobKeys
  | .blg => s.blg.keys
def setKeys (s : State) (d : Side) (k : KMap JobKey) : State :=
  match d with
  | .itv => { s with itv.sec.jobKeys := k }
  | .blg => { s with blg.keys := k }
def turnsOf (s : State) : Side → KMap (Nat × Nat)
  | .itv => s.itv.turns
  | .blg => s.blg.turns
def sideE2E (s : State) : Side → Nat
  | .itv => itvE2E s.itv
  | .blg => blgE2E s.blg
def sideRetry (s : State) : Side → Nat
  | .itv => itvRetryMax s.itv
  | .blg => s.blg.retryMax.toNat
def cueCount (s : State) (d : Side) : Nat := (getCue s d).count.toNat
/-- Cue counter now less `t`, as the counter wraps. -/
def cueSince (s : State) (d : Side) (t : Nat) : Nat := (cueCount s d + 2 ^ 64 - t) % 2 ^ 64
/-- R191's reset interval has passed since `t`. -/
def flowStale (s : State) (d : Side) (t : Nat) : Bool := decide (7 * sideE2E s d < 4 * cueSince s d t)

/-- A flow by destination, with DK. -/
def dstKey (f : Flit) : Nat := f.dst.toNat + 65536 * b2n f.dk
/-- A flow by both ends. -/
def flowKey (f : Flit) : Nat := f.src.toNat + 65536 * f.dst.toNat + 2 ^ 32 * b2n f.sk + 2 ^ 33 * b2n f.dk

/-! ## Sender (R602, R605, R606) -/

/-- The key a sender uses for a CTX, with the turns at its installation: the newest in force, else the previous. -/
def sendKey (k : JobKey) : Option (BitVec 256 × KMap Nat) :=
  if k.inForce then some (k.key, k.base) else k.prev.map (fun p => (p, k.prevBase))

/-- The key that encrypts this flit at this sender. -/
def sealKey (s : State) (d : Side) (f : Flit) : Option (BitVec 256 × KMap Nat) :=
  if keyedKind f then (kget (keysOf s d) f.ctx.toNat).bind sendKey else none

/-- Turn of the flit's flow now. -/
def turnOf (s : State) (d : Side) (f : Flit) : Nat := (kgetD (turnsOf s d) (dstKey f) (0, 0)).1

/-- The flit as sent, in turn `turn` of its flow: encrypted where R602 says so. -/
def sealFor (s : State) (d : Side) (turn : Nat) (f : Flit) : Flit :=
  match sealKey s d f with
  | some (k, base) => sealWith k (turn - kgetD base (dstKey f) 0) f
  | none => f

/-- A restart of the flow would take G past G_OK + 7 under the key of this flit (R606). -/
def genStalled (s : State) (d : Side) (f : Flit) : Bool :=
  match sealKey s d f with
  | some (_, base) =>
    let t := kgetD (turnsOf s d) (dstKey f) (0, 0)
    decide (max t.2 (kgetD base (dstKey f) 0) + 7 < t.1 + 1)
  | none => false

/-! ## Receiver (R606, R607) -/

/-- Candidate generations of an arriving flit, in the order tried. -/
def gensOf (s : State) (d : Side) (rx : Option GenRx) (seq : Nat) : List Nat :=
  match rx with
  | none => List.range 8
  | some r =>
    if flowStale s d r.lastSeen then (List.range 8).map (· + r.gHigh)
    else
      let dist := (seq + 2 ^ 20 - r.high) % 2 ^ 20
      if 1 ≤ dist ∧ dist ≤ 4096 then [r.gHigh + b2n (decide (seq < r.high))]
      else if r.high < seq then (if r.gHigh = 0 then [] else [r.gHigh - 1])
      else [r.gHigh]

/-- HIGH, G_HIGH and LAST_SEEN after a flit accepted in generation `g`. -/
def genNext (s : State) (d : Side) (rx : Option GenRx) (seq g : Nat) : GenRx :=
  let fresh : GenRx := { high := seq, gHigh := g, lastSeen := cueCount s d }
  match rx with
  | none => fresh
  | some r =>
    let dist := (seq + 2 ^ 20 - r.high) % 2 ^ 20
    if flowStale s d r.lastSeen || (decide (1 ≤ dist) && decide (dist ≤ 4096)) then fresh
    else { r with lastSeen := cueCount s d }

/-- The first generation under which the flit's tag passes. -/
def tryGens (key : BitVec 256) (f : Flit) : List Nat → Option (Flit × Nat)
  | [] => none
  | g :: gs => match openWith key g f with
    | some p => some (p, g)
    | none => tryGens key f gs

/-- The flit decrypted under the current key, or under the previous one, with the key context after it. -/
def openKeyed (s : State) (d : Side) (k : JobKey) (f : Flit) : Option (Flit × JobKey) :=
  let seq := f.seq.toNat
  let n := flowKey f
  let cur := kget k.rx n
  match tryGens k.key f (gensOf s d cur seq) with
  | some (p, g) => some (p, { k with rx := kset k.rx n (genNext s d cur seq g) })
  | none =>
    match k.prev with
    | none => none
    | some old =>
      let rx := kget k.prevRx n
      (tryGens old f (gensOf s d rx seq)).map (fun (r : Flit × Nat) =>
        (r.1, { k with prevRx := kset k.prevRx n (genNext s d rx seq r.2) }))

/-! ## What a consumer checks -/

/-- A flit of a struck partition is dropped or answered with STRUCK at this Itvos (R611 step 5). -/
def strikeDrop (s : State) (part : Nat) : State :=
  bump { s with itv.sec.strikes := s.itv.sec.strikes.map (fun x => if x.part = part then { x with lastDrop := s.now } else x) }
    (strikeIdx part) 1

/-- The partition that a CTX names; a single-tenant house has partition 0 alone (R210, R448). -/
def ctxPart (ctx : BitVec 16) : Nat := ctx.toNat / 4096

def struckAt (s : State) (d : Side) (part : Nat) : Bool :=
  match d with
  | .itv => s.itv.sec.struck.getLsbD part
  | .blg => s.blg.struck == some part

def countE2E (s : State) : Side → State
  | .itv => bumpDel s .e2eBad
  | .blg => bumpBC s .e2eBad
/-- A flit that no key opens: STRIKE_DROP while its partition is struck, else GCM_FAIL (R607, R611, R612). -/
def countGcm (s : State) (d : Side) (f : Flit) : State :=
  if struckAt s d (ctxPart f.ctx) then
    (match d with
     | .itv => strikeDrop s (ctxPart f.ctx)
     | .blg => bumpBC s .strikeDrop)
  else
    (match d with
     | .itv => bumpDel s .gcmFail
     | .blg => bumpBC s .gcmFail)
def countPlain (s : State) : Side → State
  | .itv => bumpDel s .plainRefused
  | .blg => bumpBC s .plainRefused

/-- A consumer's checks: the e2e tag (R89), then the GCM tag of an encrypted flit (R607), or the refusal of a plain one (R605).
The flit that passes is in the plain format. -/
def openFor (s : State) (d : Side) (f : Flit) : State × Option Flit :=
  if !tagOk f then (countE2E s d, none)
  else if f.enc then
    match (kget (keysOf s d) f.ctx.toNat).bind (fun k => openKeyed s d k f) with
    | some (p, k) => (setKeys s d (kset (keysOf s d) f.ctx.toNat k), some p)
    | none => (countGcm s d f, none)
  else if keyedKind f && ((kget (keysOf s d) f.ctx.toNat).map (·.strictSince)).getD false then (countPlain s d, none)
  else (s, some f)

/-- A flit reaches the internal end of this Itvos. -/
def openItvos (s : State) (f : Flit) : State :=
  match openFor s .itv f with
  | (s, some p) => { s with itv.core.inbox := s.itv.core.inbox ++ [p] }
  | (s, none) => s

/-- A flit reaches the units of Belug from port `p`. -/
def openBelug (s : State) (f : Flit) (p : Nat) : State :=
  match openFor s .blg f with
  | (s, some g) => { s with blg.inbox := s.blg.inbox ++ [(g, s.now, p)] }
  | (s, none) => s

end Sys2Proof.Machine
end

