-- ==== Sys2Proof/Machine/RouteOps.lean ====
section
/-! DEFINITION. Looking a flit up and choosing its port (R157 to R170), loads and credits (R99, R164), the buffers of an output
(R103, R104). -/

namespace Sys2Proof.Machine

open Sys2Proof

/-! ## Credits and occupancy -/

/-- Credits available for VC v (R99): returned total less flits sent, modulo 2^16. -/
def credits (p : Port) (v : Nat) : Nat := (lget p.retGot v + 65536 - lget p.txCount v) % 65536

/-- Flits of VC v in an output's buffer: pointers and slots, but not express flits (R104, R130, R133). -/
def occupancy (p : Port) (v : Nat) : Nat := p.outq.countP (fun e => e.flit.vc == v && !e.express)

/-- Load (R155, R164): occupancy of (o, v) plus CRED[v] of the downstream link less the credits available. -/
def portLoad (p : Port) (v : Nat) : Nat := occupancy p v + (lget p.peerCred v - credits p v)

/-- Minimum per output (R98). -/
def vcMin (v : Nat) : Nat := [256, 1024, 1024, 2048, 1024, 1024, 512, 256].getD v 0

def dieOf (port : Nat) : Nat := if port < 36 then 0 else 1
def diePorts (d : Nat) : List Nat := (List.range 36).map (· + 36 * d)

/-- The shared pool of a die (R103): what its landing reserves and minimums leave of 2,097,152 slots. -/
def sharedTotal (s : State) (d : Nat) : Nat :=
  2097152 - (diePorts d).foldl (fun n p => n + 8 * (itvPort s p).cred) 0 - 36 * 7168

/-- Multicast copies stored on a die (R128). -/
def copiesOn (s : State) (d : Nat) : Nat := s.itv.core.copies.countP (fun c => c.2.2 == d)

/-- Slots of (o, v) that draw on the shared pool: plain flits above the minimum (R104, R130). -/
def drawn (p : Port) (v : Nat) : Nat :=
  min (p.outq.countP (fun e => e.flit.vc == v && !e.express && e.copy.isNone)) (occupancy p v - vcMin v)

def sharedUsed (s : State) (d : Nat) : Nat :=
  copiesOn s d + (diePorts d).foldl (fun n p => n + (List.range 8).foldl (fun m v => m + drawn (itvPort s p) v) 0) 0

/-- A slot for (o, v) is free: below its minimum, or below its cap of 1/16 of the shared pool with a shared slot left (R104). -/
def slotFree (s : State) (o v : Nat) : Bool :=
  let occ := occupancy (itvPort s o) v
  let tot := sharedTotal s (dieOf o)
  decide (occ < vcMin v) || (decide (occ - vcMin v < tot / 16) && decide (sharedUsed s (dieOf o) < tot))

/-! ## Table lookup (R157 to R162) -/

inductive Look where
  | noRoute
  | toLocal
  /-- a group's number, PRIMARY and ALTERNATE -/
  | group (g : Nat) (primary alternate : BitVec 72)
  deriving DecidableEq, Repr

/-- The 16-bit entry that R160 names in one table set. -/
def entryOf (v : Itvos) (t : RouteSet) (f : Flit) : BitVec 16 :=
  if !f.dk then
    if isHouseSwitch v && nodeHouse f.dst == swIndex (swid v) then kgetD t.seat (nodeSeat f.dst) 0
    else kgetD t.house (nodeHouse f.dst) 0
  else if swPlane f.dst ≠ swPlane (swid v) then t.relay
  else if f.dst = swid v then 0xC000
  else kgetD t.switch (swTier f.dst * 512 + swIndex f.dst) 0

def lookIn (v : Itvos) (t : RouteSet) (f : Flit) : Look :=
  let e := entryOf v t f
  if !e.getLsbD 15 then .noRoute
  else if e.getLsbD 14 then .toLocal
  else
    let g := e.toNat % 256
    let b := kgetD t.groups g 0
    .group g (b.extractLsb' 0 72) (b.extractLsb' 72 72)

/-- The entry that `entryOf` reads, as TABLE_RELOAD names it: kind x 65,536 + index. -/
def entryKey (v : Itvos) (f : Flit) : Nat :=
  if !f.dk then
    if isHouseSwitch v && nodeHouse f.dst == swIndex (swid v) then nodeSeat f.dst else 65536 + nodeHouse f.dst
  else if swPlane f.dst ≠ swPlane (swid v) then 3 * 65536
  else 2 * 65536 + swTier f.dst * 512 + swIndex f.dst

/-- The RELAY group of a chart-built set means every READY seat port (R161): a group is used as it stands. An entry lost and not
yet reloaded is no route (R626). -/
def look (v : Itvos) (f : Flit) : Look :=
  let l := lookIn v v.routing.active f
  if v.lostTables.isEmpty then l
  else if v.lostTables.contains (entryKey v f) then .noRoute
  else
    match l with
    | .group g _ _ => if v.lostTables.contains (4 * 65536 + g) then .noRoute else l
    | _ => l

/-! ## Usable ports (R163, R56, R165) -/

def featEnc : Nat := 0
def featChorus : Nat := 1
def featPrincipal : Nat := 2
def featBypass : Nat := 3

/-- The link enables the features the flit needs (R56). -/
def linkCarries (p : Port) (f : Flit) : Bool :=
  (!f.enc || p.features.getLsbD featEnc) && (f.vc != 0 || p.features.getLsbD featPrincipal)

def isUp (s : State) (o : Nat) : Bool := s.itv.routing.portClass.getLsbD o

/-- A port that a reset-partial sends to DARK takes no new flits (R74, R586). -/
def closing (v : Itvos) (o : Nat) : Bool :=
  v.routing.drains.any (fun d => (d.why == .disable || d.why == .rehearse) && d.ports.getLsbD o)

def usable (s : State) (f : Flit) (o : Nat) : Bool :=
  let p := itvPort s o
  p.st == .ready && linkCarries p f && !p.excluded && !closing s.itv o && (!f.down || !isUp s o)

/-- The ports of a mask, ascending. -/
def portsOf (m : BitVec 72) : List Nat := onesOf m

/-- The ports of the staged table's group for this flit (R172). -/
def stagedPorts (v : Itvos) (f : Flit) : BitVec 72 :=
  match lookIn v v.routing.staged f with
  | .group _ p a => p ||| a
  | _ => 0

def draining (v : Itvos) : Bool := v.routing.drains.any (fun d => d.why == .commit)

/-- Leaving ports of the entry this flit looks up, while a commit drain runs (R172). -/
def leavingPorts (v : Itvos) (f : Flit) : BitVec 72 :=
  if draining v then
    match look v f with
    | .group _ p a => (p ||| a) &&& ~~~ stagedPorts v f
    | _ => 0
  else 0

/-- First port of `cands` with the lowest load; a tie goes to the first after `last`, ascending and wrapping (R155, R164). -/
def leastLoaded (n : Nat) (load : Nat → Nat) (cands : List Nat) (last : Nat) : Option Nat :=
  let order := ((List.range n).map (fun i => (last + 1 + i) % n)).filter (fun o => cands.contains o)
  order.foldl (fun best o => match best with
    | none => some o
    | some b => if load o < load b then some o else some b) none

inductive Choice where
  | noRoute | updown | toLocal
  | out (o : Nat) (g : Nat)
  deriving DecidableEq, Repr

/-- The port for a flit that came in on `last choice` table `lc` (R160, R163 to R165, R169, R172). -/
def chooseOut (s : State) (lc : KMap Nat) (f : Flit) : Choice :=
  match look s.itv f with
  | .noRoute => .noRoute
  | .toLocal => .toLocal
  | .group g prim alt =>
    let leaving := leavingPorts s.itv f
    let ok := fun (m : BitVec 72) => (portsOf (m &&& ~~~ leaving)).filter (usable s f)
    let load := fun o => portLoad (itvPort s o) f.vc
    let pick := fun cs => leastLoaded 72 load cs (kgetD lc g 71)
    match pick (ok prim), pick (ok alt) with
    | some o, _ => .out o g
    | none, some o => .out o g
    | none, none =>
      match (if leaving = 0 then none else pick ((portsOf (stagedPorts s.itv f)).filter (usable s f))) with
      | some o => .out o g
      | none =>
        if f.down && (portsOf (prim ||| alt)).all (isUp s) && prim ||| alt != 0 then .updown else .noRoute

/-- Forwarding (R634): tables are active and the data plane is out of reset. -/
def forwarding (v : Itvos) : Bool := v.routing.everActive && !v.boot.held

/-- A record of the port-state ring (R634): cue counter, then port, READY, forwarding; the latest 65,536 are kept. -/
def ringRecord (s : State) (port : Nat) (ready : Bool) : State :=
  let w := port % 128 + b2n ready * 128 + b2n (forwarding s.itv) * 256
  telemeter { s with itv.portRing := (s.itv.portRing ++ [(s.itv.cue.count.toNat, w)]).drop (s.itv.portRing.length + 1 - 65536) }
    2 (leBytes 8 s.itv.cue.count.toNat ++ leBytes 8 w)

end Sys2Proof.Machine
end

