-- ==== Sys2Proof/Machine/Flows.lean ====
section
/-! DEFINITION. End-to-end delivery (R177 to R206): inbound flows and duplicates, replies, outbound flows, windows, first sends
and re-sends. -/

namespace Sys2Proof.Machine

open Sys2Proof

/-! ## Inbound flows (R190 to R194, R627) -/

inductive Arrival where
  | new | dup | range
  deriving DecidableEq, Repr

/-- R191: the flow after a request with this SEQ, and what the request is. -/
def judgeSeq (s : State) (d : Side) (old : Option InFlow) (seq : Nat) : InFlow × Arrival :=
  let isNew := match old with
    | none => true
    | some fl => flowStale s d fl.lastSeen
  let base : InFlow := if isNew then { high := (seq + 2 ^ 20 - 1) % 2 ^ 20 } else old.getD {}
  let fl := { base with lastSeen := cueCount s d }
  let dist := (seq + 2 ^ 20 - fl.high) % 2 ^ 20
  if 1 ≤ dist ∧ dist ≤ 4096 then
    ({ fl with high := seq, marks := seq :: fl.marks.filter (fun m => decide ((seq + 2 ^ 20 - m) % 2 ^ 20 < 4096)) }, .new)
  else if dist = 0 ∨ 2 ^ 20 - 4095 ≤ dist then
    if fl.marks.contains seq then (fl, .dup) else ({ fl with marks := seq :: fl.marks }, .new)
  else (fl, .range)

def inflowsOf (s : State) : Side → KMap InFlow
  | .itv => s.itv.inflows
  | .blg => s.blg.inflows
def setInflows (s : State) (d : Side) (m : KMap InFlow) : State :=
  match d with
  | .itv => { s with itv.inflows := m }
  | .blg => { s with blg.inflows := m }

/-- The flow's key: the seat at Itvos, the source node at Belug (R194). -/
def inKey (d : Side) (f : Flit) : Nat :=
  match d with
  | .itv => nodeSeat f.src
  | .blg => f.src.toNat

def getIn (s : State) (d : Side) (f : Flit) : InFlow := kgetD (inflowsOf s d) (inKey d f) {}
def modIn (s : State) (d : Side) (f : Flit) (g : InFlow → InFlow) : State :=
  setInflows s d (kmod (inflowsOf s d) (inKey d f) {} g)

/-- The node is a seat of this Itvos's house. -/
def houseSeat (v : Itvos) (n : BitVec 16) : Bool := nodeHouse n == swIndex (swid v) && decide (nodeSeat n < 72)

/-- The inbound entries of other houses at Belug (R194). -/
def foreignFlows (b : Belug) : KMap InFlow := b.inflows.filter (fun e => e.1 / 128 != nodeHouse b.node)

/-- A flow entry for this source, room made for it where it needs some; none: FLOW_FULL. -/
def roomFor (s : State) (d : Side) (f : Flit) : Option State :=
  match d with
  | .itv => if houseSeat s.itv f.src then some s else none
  | .blg =>
    if (kget s.blg.inflows f.src.toNat).isSome || nodeHouse f.src == nodeHouse s.blg.node then some s
    else if (foreignFlows s.blg).length < 4000 then some s
    else
      match (foreignFlows s.blg).find? (fun e => flowStale s .blg e.2.lastSeen) with
      | some e => some { s with blg.inflows := kdel s.blg.inflows e.1 }
      | none => none

def countFlow (s : State) (d : Side) (a : DelCtr) (b : BCtr) : State :=
  match d with
  | .itv => bumpDel s a
  | .blg => bumpBC s b

/-- What the flow becomes with this number, and how the number is judged (R190 to R194). -/
def seqJudged (s : State) (d : Side) (f : Flit) : InFlow × Arrival :=
  judgeSeq s d (kget (inflowsOf s d) (inKey d f)) f.seq.toNat
/-- The flow begun by this number, its earlier state being lost (R627). -/
def seqFresh (s : State) (d : Side) (f : Flit) : InFlow := (judgeSeq s d none f.seq.toNat).1
def seqTaken (s : State) (d : Side) (f : Flit) (fl : InFlow) : Arrival → State × Option Bool
  | .new => (setInflows s d (kset (inflowsOf s d) (inKey d f) fl), some true)
  | .dup => (countFlow (setInflows s d (kset (inflowsOf s d) (inKey d f) fl)) d .dupReq .dupReq, some false)
  | .range => (countFlow (setInflows s d (kset (inflowsOf s d) (inKey d f) fl)) d .seqRange .seqRange, none)
def arriveKnown (s : State) (d : Side) (f : Flit) : State × Option Bool :=
  match (kget (inflowsOf s d) (inKey d f)).bind (·.lostUntil) with
  | some t => if s.now < t then (s, none) else seqTaken s d f (seqFresh s d f) .new
  | none => seqTaken s d f (seqJudged s d f).1 (seqJudged s d f).2

/-- A request at its target: none, it is dropped; true, it is new and marked; false, it is a duplicate. -/
def arriveFlow (s : State) (d : Side) (f : Flit) : State × Option Bool :=
  match roomFor s d f with
  | none => (countFlow s d .flowFull .flowFull, none)
  | some s => arriveKnown s d f

/-- The flow's state is lost and its window still runs (R627). -/
def lostFlow (s : State) (d : Side) (f : Flit) : Bool :=
  ((kget (inflowsOf s d) (inKey d f)).bind (·.lostUntil)).any (fun t => decide (s.now < t))

/-- The mark of a request is cleared: its re-send is new (R623). -/
def unmark (s : State) (d : Side) (f : Flit) : State :=
  modIn s d f (fun fl => { fl with marks := fl.marks.filter (· != f.seq.toNat),
                                   serving := fl.serving.filter (·.1 != f.seq.toNat) })
/-- The request is in service from now on; it is no longer. -/
def beginServing (s : State) (d : Side) (f : Flit) : State :=
  modIn s d f (fun fl => { fl with serving := (f.seq.toNat, s.now) :: fl.serving })
def endServing (s : State) (d : Side) (f : Flit) : State :=
  modIn s d f (fun fl => { fl with serving := fl.serving.filter (·.1 != f.seq.toNat) })
def inService (s : State) (d : Side) (f : Flit) : Bool := (getIn s d f).serving.any (·.1 == f.seq.toNat)

/-- The atomic's result joins the ring of 32 (R190). -/
def keepAtomic (s : State) (d : Side) (f : Flit) (old : Bytes) (status : Nat) : State :=
  modIn s d f (fun fl => { fl with ring := (({ seq := f.seq.toNat, old := old, status := status } : AtomRes) :: fl.ring).take 32 })
def ringOf (s : State) (d : Side) (f : Flit) : Option AtomRes := (getIn s d f).ring.find? (fun r => r.seq == f.seq.toNat)

/-! ## Replies (R180, R197, R771) -/

/-- The reply to a request: DATA or DONE. -/
def replyFlit (f : Flit) (kind : BitVec 5) (status : Nat) (data : List (Nat × Bytes)) : Flit :=
  { dst := f.src, src := f.dst, ctx := f.ctx, seq := f.seq, kind := kind, cm := f.cm,
    payload := payloadOf ((0, repHead f.offset f.tally status) :: data) }
def doneFor (f : Flit) (status : Nat) : Flit := replyFlit f Kind.done status []
/-- The reply to a LOAD: the bytes at their place in the line. -/
def dataFor (f : Flit) (status : Nat) (bytes : Bytes) : Flit :=
  replyFlit f Kind.data status [(16 + f.offset % 128, bytes)]
/-- The reply to an ATOMIC: the old value from payload byte 16 on. -/
def oldFor (f : Flit) (status : Nat) (old : Bytes) : Flit := replyFlit f Kind.data status [(16, old)]
/-- The reply that carries a status alone, of the kind that answers this request (R181). -/
def refusalFor (f : Flit) (status : Nat) : Flit :=
  if f.kind = Kind.load ∨ f.kind = Kind.atomic then replyFlit f Kind.data status [] else doneFor f status

/-! ## Outbound flows (R177, R178, R195, R198) -/

def outflowsOf (s : State) : Side → KMap OutFlow
  | .itv => s.itv.outflows
  | .blg => s.blg.outflows
def setOutflows (s : State) (d : Side) (m : KMap OutFlow) : State :=
  match d with
  | .itv => { s with itv.outflows := m }
  | .blg => { s with blg.outflows := m }
def setTurns (s : State) (d : Side) (m : KMap (Nat × Nat)) : State :=
  match d with
  | .itv => { s with itv.turns := m }
  | .blg => { s with blg.turns := m }
def getOut (s : State) (d : Side) (k : Nat) : OutFlow := kgetD (outflowsOf s d) k {}
def modOut (s : State) (d : Side) (k : Nat) (g : OutFlow → OutFlow) : State :=
  setOutflows s d (kmod (outflowsOf s d) k {} g)

/-- The window lets one more of this kind out (R178, R198, R199). -/
def windowOpenFor (fl : OutFlow) (f : Flit) : Bool :=
  decide (fl.outst.length < (if f.kind = Kind.pmsg then 4096 else min fl.cwnd 4096)) &&
    (f.kind != Kind.atomic || decide (fl.outst.countP (fun o => o.flit.kind == Kind.atomic) < 32))

/-- The request takes its SEQ and stands in its flow, not yet sent (R177). -/
def numberOut (s : State) (d : Side) (q : Queued) : State × Nat :=
  let k := dstKey q.flit
  let fl := getOut s d k
  let t := kgetD (turnsOf s d) k (0, 0)
  let o : Outst := { seq := fl.next, flit := { q.flit with seq := BitVec.ofNat 20 fl.next }, purpose := q.purpose, port := q.plane,
                     born := s.now, waiting := true, turn := t.1 }
  let nxt := (fl.next + 1) % 2 ^ 20
  let s := setTurns s d (kset (turnsOf s d) k (if nxt = 0 then (t.1 + 1, t.2) else t))
  (setOutflows s d (kset (outflowsOf s d) k { fl with next := nxt, outst := fl.outst ++ [o] }), fl.next)

/-! ## Ports of Belug (R153, R155, R156, R27) -/

def blgUsable (s : State) (f : Flit) (p : Nat) : Bool :=
  (blgPort s p).st == .ready && !(blgPort s p).excluded && linkCarries (blgPort s p) f

/-- A kind that chooses its plane (R153); a request to a pool stays on the pool's plane (R27). -/
def adaptive (f : Flit) : Bool := [0x14, 0x15, 0x18].contains f.kind.toNat && !isPoolNode f.dst

/-- The port of a send: `avoid` is the port of the last one, `fixed` the plane the kind is bound to. -/
def choosePortB (s : State) (f : Flit) (fixed : Nat) (avoid : Option Nat) : Option Nat :=
  if adaptive f then
    let cands := (List.range 24).filter (blgUsable s f)
    let pick := fun cs => leastLoaded 24 (fun p => portLoad (blgPort s p) f.vc) cs s.blg.lastAdaptive
    match pick (cands.filter (fun p => avoid != some p)) with
    | some p => some p
    | none => pick cands
  else if blgUsable s f fixed then some fixed
  else none

/-! ## Sending -/

def modOutst (s : State) (d : Side) (k seq : Nat) (g : Outst → Outst) : State :=
  modOut s d k (fun fl => { fl with outst := fl.outst.map (fun o => if o.seq = seq then g o else o) })
def findOutst (s : State) (d : Side) (k seq : Nat) : Option Outst := (getOut s d k).outst.find? (fun o => o.seq == seq)
def dropOutst (s : State) (d : Side) (k seq : Nat) : State :=
  modOut s d k (fun fl => { fl with outst := fl.outst.filter (fun o => o.seq != seq) })

/-- The flit leaves, on a port at Belug. -/
def sendOut (s : State) (d : Side) (k : Nat) (o : Outst) (port : Nat) : State :=
  let f := sealFor s d o.turn o.flit
  let s := modOut s d k (fun fl => { fl with lastSend := s.now })
  let s := modOutst s d k o.seq (fun o => { o with port := port, sends := o.sends + 1, lastSend := s.now, waiting := false,
                                                   sealed_ := f.enc })
  match d with
  | .itv => itvSend s f
  | .blg => blgSend (if adaptive o.flit then { s with blg.lastAdaptive := port } else s) port f

/-- A first send, or a wait for the port (R156, R205, R528). -/
def trySend (s : State) (d : Side) (k seq : Nat) : State :=
  match findOutst s d k seq with
  | none => s
  | some o =>
    if !o.waiting then s
    else
      match d with
      | .itv => sendOut s d k o 0
      | .blg =>
        if s.blg.startWait then s
        else
          match choosePortB s (sealFor s d o.turn o.flit) o.port none with
          | some p => sendOut s d k o p
          | none =>
            if o.counted then s
            else bumpB (modOutst s d k seq (fun o => { o with counted := true })) (16 * o.port + 12) 1

/-- Requests at the head of a flow's queue leave while the window lets them. -/
def drainQueue (s : State) (d : Side) (k : Nat) : Nat → State
  | 0 => s
  | n + 1 =>
    match (getOut s d k).queue with
    | [] => s
    | q :: rest =>
      if windowOpenFor (getOut s d k) q.flit then
        let s := modOut s d k (fun fl => { fl with queue := rest })
        let (s, seq) := numberOut s d q
        drainQueue (trySend s d k seq) d k n
      else s

/-- The flow has an entry (R195): one is made, or reclaimed for it; none where Belug has none. A restart that would take G past
its limit ends the request (R606). -/
def flowEntry (s : State) (d : Side) (f : Flit) : Option State :=
  let k := dstKey f
  let make := fun (s : State) =>
    let s := match kget (turnsOf s d) k with
      | some t => setTurns s d (kset (turnsOf s d) k (t.1 + 1, t.2))
      | none => setTurns s d (kset (turnsOf s d) k (0, 0))
    setOutflows s d (kset (outflowsOf s d) k {})
  if (kget (outflowsOf s d) k).isSome then some s
  else
    match d with
    | .itv => some (make s)
    | .blg =>
      if s.blg.outflows.length < 4096 then some (make s)
      else
        match s.blg.outflows.find? (fun e => e.2.outst.isEmpty && e.2.queue.isEmpty &&
            passed s e.2.lastSend (3 * blgE2E s.blg)) with
        | some e => some (make { s with blg.outflows := kdel s.blg.outflows e.1 })
        | none => none

/-- A request begins (R177, R178, R195, R198): it is numbered and sent, or waits for its window, its port or a flow entry. -/
def originate (s : State) (d : Side) (q : Queued) : State :=
  let k := dstKey q.flit
  let starts := (kget (outflowsOf s d) k).isNone && (kget (turnsOf s d) k).isSome
  if starts && genStalled s d q.flit then
    match d with
    | .itv => bumpDel s .genStall
    | .blg => { s with blg.early := s.blg.early ++ [(q.purpose, St.nokey)] }
  else
    match flowEntry s d q.flit with
    | none => bumpBC { s with blg.flowWait := s.blg.flowWait ++ [q] } .flowWait
    | some s =>
      let fl := getOut s d k
      if fl.queue.isEmpty && windowOpenFor fl q.flit then
        let (s, seq) := numberOut s d q
        trySend s d k seq
      else modOut s d k (fun fl => { fl with queue := fl.queue ++ [q] })

/-- Requests that waited for a flow entry try again. -/
def retryFlowWait (s : State) : State :=
  let ws := s.blg.flowWait
  ws.foldl (fun s q => match flowEntry s .blg q.flit with
    | none => { s with blg.flowWait := s.blg.flowWait ++ [q] }
    | some s => originate s .blg q) { s with blg.flowWait := [] }

/-! ## Replies at the source (R182, R197, R198, R203) -/

/-- CWND after a reply (R198). -/
def windowAfter (now : Nat) (fl : OutFlow) (cm : Bool) : OutFlow :=
  if cm then
    if fl.cutAt.all (fun t => decide (t + 2000 ≤ now)) then
      { fl with cwnd := max 8 (fl.cwnd - (fl.cwnd + 7) / 8), cutAt := some now, unmarked := 0 }
    else fl
  else if fl.unmarked + 1 ≥ fl.cwnd then { fl with cwnd := min 4096 (fl.cwnd + 8), unmarked := 0 }
  else { fl with unmarked := fl.unmarked + 1 }

/-- A reply: the request it completes, or DUP_REPLY. -/
def acceptReply (s : State) (d : Side) (f : Flit) : State × Option Outst :=
  let k := f.src.toNat + 65536 * b2n f.sk
  match findOutst s d k f.seq.toNat with
  | none => (countFlow s d .dupReply .dupReply, none)
  | some o =>
    if o.waiting then (countFlow s d .dupReply .dupReply, none)
    else
      let s := modOut (dropOutst s d k o.seq) d k (fun fl => windowAfter s.now fl f.cm)
      let t := kgetD (turnsOf s d) k (0, 0)
      let s := if o.sealed_ then setTurns s d (kset (turnsOf s d) k (t.1, max t.2 o.turn)) else s
      (drainQueue s d k 4096, some o)

/-! ## Re-sends (R188, R189, R206) -/

/-- RESEND_TIMEOUT: the request whose time is up, when it has been sent for the last time; else it is sent again. -/
def resendOrEnd (s : State) (d : Side) (k seq : Nat) : State × Option Outst :=
  match findOutst s d k seq with
  | none => (s, none)
  | some o =>
    if o.waiting || !passed s o.lastSend (sideE2E s d) then (s, none)
    else if o.sends > sideRetry s d then
      (drainQueue (countFlow (dropOutst s d k seq) d .timeout .timeout) d k 4096, some o)
    else
      match d with
      | .itv => (sendOut (bumpDel s .resend) d k o 0, none)
      | .blg =>
        match choosePortB s (sealFor s d o.turn o.flit) o.port (some o.port) with
        | some p => (sendOut (bumpB s (16 * p + 13) 1) d k o p, none)
        | none =>
          (bumpB (modOutst s d k seq (fun o => { o with sends := o.sends + 1, lastSend := s.now })) (16 * o.port + 12) 1, none)

/-- HOME_WAIT_TIMEOUT (R156): a request that never left. -/
def waitOrEnd (s : State) (k seq : Nat) : State × Option Outst :=
  match findOutst s .blg k seq with
  | none => (s, none)
  | some o =>
    if o.waiting && !s.blg.startWait && passed s o.born ((s.blg.retryMax.toNat + 1) * blgE2E s.blg) then
      (drainQueue (bumpBC (dropOutst s .blg k seq) .timeout) .blg k 4096, some o)
    else (s, none)

/-- Every waiting request tries its port again. -/
def sendWaiting (s : State) : State :=
  s.blg.outflows.foldl (fun s e => (e.2.outst.filter (·.waiting)).foldl (fun s o => trySend s .blg e.1 o.seq) s) s

/-- HOME_USABLE (R205). -/
def homeUsableOp (s : State) (plane : Fin 24) : State :=
  if (s.blg.ports.get plane).st == .ready && !(s.blg.ports.get plane).excluded then sendWaiting s else s
def execHomeUsable (plane : Fin 24) (s : State) : Res := .next (homeUsableOp s plane)

end Sys2Proof.Machine
end

