-- ==== Sys2Proof/Machine/BelugBase.lean ====
section
/-! DEFINITION. What every unit of Belug uses: apron requests and their answers (R505 to R510), tallies (R517), requests to the
accelerator's memory (R511), operations in progress (R224), stagehand pieces' bookkeeping (R516). -/

namespace Sys2Proof.Machine

open Sys2Proof

/-! ## Apron requests (R503, R505, R506) -/

/-- Every byte of header bytes `a` to 63 is zero. -/
def tailZero (m : ApronMsg) (a : Nat) : Bool := allZero (m.tail.drop (a - 16))

/-- The message holds no reserved value and no non-zero must-be-zero byte, for the types the accelerator sends (R505, R506). -/
def msgOk (m : ApronMsg) : Bool :=
  let noAddr := m.addr == 0
  let none_ := m.opt == 0 && m.size == 0 && m.b7 == 0
  let len := m.data.length
  m.tag.toNat < 4096 &&
    (match m.typ.toNat with
     | 0x01 => m.opt == 0 && decide (m.size.toNat ≤ 4) && m.b7 == 0 && tailZero m 16 && len == 0
     | 0x02 => m.opt == 0 && decide (m.size.toNat ≤ 4) && m.b7 == 0 && tailZero m 32 && len == (if m.size.toNat = 4 then 128 else 64)
     | 0x03 => decide (m.size.toNat ≤ 4) && decide (m.b7.toNat ≤ 2) && tailZero m 48 && len == 0
     | 0x04 => decide (m.opt.toNat % 4 ≤ 2) && decide (m.opt.toNat / 4 ≤ 2) && m.size == 0 && m.b7 == 0 && noAddr && m.ctx == 0 &&
               tailZero m 16 && len == 0
     | 0x05 => none_ && tailZero m 24 && len == 0
     | 0x06 => decide (m.opt.toNat < 32) && decide (m.size.toNat < 16) && m.b7 == 0 && noAddr && m.ctx == 0 && tailZero m 16 &&
               len == (if m.data.getD 0 0 == 4 then 128 else 64)
     | 0x07 => none_ && noAddr && tailZero m 48 && m.field 47 1 < 4 && len == (if bitOf (m.field 47 1) 1 then 0 else 64) &&
               allZero (m.data.drop 32)
     | 0x08 => decide (m.opt.toNat ≤ 1) && m.size == 0 && m.b7 == 0 && noAddr && m.ctx == 0 && decide (m.field 16 2 < 4096) &&
               m.field 18 2 == 0 && tailZero m 24 && len == 0
     | 0x09 => none_ && noAddr && m.ctx == 0 && tailZero m 16 && len == 0
     | 0x0A => none_ && m.ctx == 0 && tailZero m 16 && len == 0
     | 0x0B => none_ && m.ctx == 0 && tailZero m 24 && len == 0
     | 0x0D => m.size == 4 && tailZero m 16 && len == 128
     | _ => false)

/-- The words of a message pass their CRC and leave the landing: one ACK each (R503). -/
def takeWords (s : State) (ch : Nat) (m : ApronMsg) : State :=
  let n := (apronWords m).length
  let s := modCh s ch (fun c => { c with expect := (c.expect + n) % 32, discarding := false })
  (List.range n).foldl (fun s _ => emit s (.ak ch 15)) s

/-- The answer to a request: RSP_DATA where R506 gives data, else RSP_DONE. -/
def respond (s : State) (ch : Nat) (m : ApronMsg) (status reason : Nat) (data : Bytes) : State :=
  if [0x01, 0x03, 0x08, 0x0A].contains m.typ.toNat then
    rspData s ch m.tag.toNat status reason
      (pad (if m.typ.toNat = 0x08 ∨ m.typ.toNat = 0x0A then 8 else sizeBytes m.size.toNat) data)
  else rspDone s ch m.tag.toNat status reason

/-- A message of type `t` on an UP channel: refused where it is malformed, else `f`. -/
def onApron (s : State) (ch : Fin 24) (m : ApronMsg) (t : Nat) (f : State → State) : State :=
  if m.typ.toNat = t ∧ (getCh s ch.val).up then
    let s := takeWords s ch.val m
    if msgOk m then f s else respond s ch.val m St.badarg 0 []
  else s

/-- APRON_RESERVED_TYPE (R505). -/
def apronReservedTypeOp (s : State) (ch : Fin 24) (m : ApronMsg) : State :=
  if msgOk m || m.typ.toNat == 0x18 || !(getCh s ch.val).up then s else respond (takeWords s ch.val m) ch.val m St.badarg 0 []
def execApronReservedType (ch : Fin 24) (m : ApronMsg) (s : State) : Res := .next (apronReservedTypeOp s ch m)

/-! ## Operations in progress (R224, R267, R269) -/

def openOp (s : State) (engine kind ctx : Nat) (vas : List Nat) : State × Nat :=
  let id := s.blg.nextOp
  ({ s with blg.nextOp := id + 1,
            blg.openOps := s.blg.openOps ++ [{ id := id, engine := engine, kind := kind, ctx := ctx, vas := vas }] }, id)
def closeOp (s : State) (id : Nat) : State := { s with blg.openOps := s.blg.openOps.filter (fun o => o.id != id) }
def isOpen (s : State) (id : Nat) : Bool := s.blg.openOps.any (fun o => o.id == id)

/-- An accepted request ends with its one answer (R510). -/
def endApron (s : State) (op : AOp) (status reason : Nat) (data : Bytes) : State :=
  if isOpen s op.id then closeOp (respond s op.ch op.m status reason data) op.id else s

/-! ## Tallies (R517) -/

def tallyWord (b : Belug) (t : Nat) : Word := kgetD b.tallies t 0
def tallyCount (w : Word) : Nat := w.toNat % 2 ^ 32
def packTally (first errs count : Nat) : Word := BitVec.ofNat 64 (first * 2 ^ 56 + errs * 2 ^ 40 + count % 2 ^ 32)
/-- `n` completions with one status. -/
def tallyAfter (w : Word) (n status : Nat) : Word :=
  let first := w.toNat / 2 ^ 56
  let errs := w.toNat / 2 ^ 40 % 65536
  if status = 0 then packTally first errs (tallyCount w + n)
  else packTally (if first = 0 then status else first) (min 65535 (errs + n)) (tallyCount w + n)

/-- A wait is met: (COUNT - TARGET) mod 2^32 is below 2^31. -/
def tallyMet (w : Word) (target : BitVec 32) : Bool := decide ((tallyCount w + 2 ^ 32 - target.toNat) % 2 ^ 32 < 2 ^ 31)

/-- Waiting TALLY_READs whose tally has reached TARGET are answered. -/
def tallyWaits (s : State) (t : Nat) : State :=
  let w := tallyWord s.blg t
  let met := s.blg.waits.filter (fun x => x.tally == t && tallyMet w x.target)
  met.foldl (fun s x => rspData s x.ch x.tag St.ok 0 (leBytes 8 w.toNat))
    { s with blg.waits := s.blg.waits.filter (fun x => !(x.tally == t && tallyMet w x.target)) }

def tallyAddN (s : State) (t n status : Nat) : State :=
  if n = 0 then s
  else tallyWaits { s with blg.tallies := kset s.blg.tallies t (tallyAfter (tallyWord s.blg t) n status) } t
def tallyAdd (s : State) (t status : Nat) : State := tallyAddN s t 1 status

/-! ## The accelerator's memory (R511, R512, R532) -/

/-- A request at a local offset, on the channel of its line or the next that is UP. -/
def lmemSend (s : State) (m : ApronMsg) (off : Nat) (why : LFor) : State :=
  let ch := upChannel s (off / 128 % 24)
  let m := { m with tag := BitVec.ofNat 16 (s.blg.nextTag % 4096), addr := BitVec.ofNat 64 off }
  sendApron { s with blg.nextTag := (s.blg.nextTag + 1) % 4096,
                     blg.lmem := s.blg.lmem ++ [{ tag := s.blg.nextTag % 4096, ch := ch, msg := m, why := why }] } ch m

def lmemRead (s : State) (off code : Nat) (why : LFor) : State :=
  lmemSend s { typ := 0x31, size := BitVec.ofNat 8 code } off why
/-- The whole line that holds an offset. -/
def lmemReadLine (s : State) (off : Nat) (why : LFor) : State := lmemRead s (off / 128 * 128) 4 why

/-- Bytes of one line, under a mask of its 128 bytes. -/
def lmemWriteLine (s : State) (line : Nat) (data : Bytes) (mask : Nat) (why : LFor) : State :=
  lmemSend s { typ := 0x32, size := 4, tail := leBytes 16 mask ++ zeros 32, data := pad 128 data } (line * 128) why

/-- Bytes at any local offset, line by line. -/
def lmemWrite (s : State) (off : Nat) (data : Bytes) (why : LFor) : State :=
  let n := data.length
  if n = 0 then s
  else
    (List.range ((off + n - 1) / 128 + 1 - off / 128)).foldl (fun s i =>
      let line := off / 128 + i
      let lo := max off (line * 128)
      let hi := min (off + n) (line * 128 + 128)
      lmemWriteLine s line (zeros (lo % 128) ++ slice data (lo - off) (hi - lo)) ((2 ^ (hi - lo) - 1) * 2 ^ (lo % 128)) why) s

def lmemAtomic (s : State) (off : Nat) (aop size scope : Byte) (a b : Nat) (why : LFor) : State :=
  lmemSend s { typ := 0x33, opt := aop, size := size, b7 := scope, tail := leBytes 16 a ++ leBytes 16 b ++ zeros 16 } off why

/-! ## Addresses -/

def physNode (p : Word) : BitVec 16 := p.extractLsb' 48 16
def physOff (p : Word) : Nat := p.toNat % 2 ^ 48
/-- BP of the home plane of a line of a node (R153, R154, R27). -/
def homePlane (b : Belug) (node : BitVec 16) (off : Nat) : Nat :=
  if isPoolNode node then nodeSeat node - 96 else b.homeMap.getD (off / 128 % 24) 0

/-- A request of Belug to a node's memory. -/
def blgRequest (s : State) (node : BitVec 16) (ctx : BitVec 16) (kind : BitVec 5) (off : Nat) (payload : Bytes) (p : Purpose) : State :=
  originate s .blg { flit := { dst := node, src := s.blg.node, ctx := ctx, kind := kind, payload := payload },
                     purpose := p, plane := homePlane s.blg node off }

/-- The partition of a WIRE_CTX is struck at this Belug (R612). -/
def wireStruck (s : State) (wire : BitVec 16) : Bool := s.blg.struck == some (ctxPart wire)

/-! ## Stagehands: slots and descriptors (R514, R515) -/

def getHand (s : State) (n : Nat) : Stagehand := (s.blg.hands[n]?).getD {}
def modHand (s : State) (n : Nat) (f : Stagehand → Stagehand) : State :=
  if h : n < 32 then { s with blg.hands := s.blg.hands.set n (f (s.blg.hands.get ⟨n, h⟩)) h } else s
def getSH (s : State) (n slot : Nat) : SHSlot := (getHand s n).slots.getD slot {}
def modSH (s : State) (n slot : Nat) (f : SHSlot → SHSlot) : State :=
  modHand s n (fun h => { h with slots := lmod h.slots slot f })

def dOp (d : Bytes) : Nat := byteAt d 0
def dIrq (d : Bytes) : Bool := bitOf (byteAt d 1) 0
def dCtx (d : Bytes) : Nat := natAt d 2 2
def dTally (d : Bytes) : Nat := natAt d 4 2 % 4096
def dNode (d : Bytes) : BitVec 16 := BitVec.ofNat 16 (natAt d 6 2)
def dSrc (d : Bytes) : Nat := natAt d 8 8
def dLen (d : Bytes) : Nat := natAt d 24 8
/-- The destination that cuts the transfer: an address, or the message offset of a SEND (R516). -/
def dDst (d : Bytes) : Nat := if dOp d = 3 then natAt d 18 4 else natAt d 16 8
def dRdv (d : Bytes) : Nat := natAt d 16 2 % 512

/-- Pieces of a descriptor (R516). -/
def pieceCount (d : Bytes) : Nat := if dOp d = 4 then 1 else (dDst d % 128 + dLen d + 127) / 128
/-- Start and length of piece `i` within the transfer. -/
def pieceSpan (d : Bytes) (i : Nat) : Nat × Nat :=
  let first := 128 - dDst d % 128
  let a := if i = 0 then 0 else first + 128 * (i - 1)
  (a, min (if i = 0 then first else 128) (dLen d - a))
/-- The source's parts of piece `i`, line by line: virtual address, length, place in the piece (R216). -/
def pieceParts (d : Bytes) (i : Nat) : List (Nat × Nat × Nat) :=
  let (a, n) := pieceSpan d i
  let va := dSrc d + a
  let k := min n (128 - va % 128)
  if k = n then [(va, n, 0)] else [(va, k, 0), (va + k, n - k, k)]

/-- A piece by its operation's number. -/
def findPiece (s : State) (n slot id : Nat) : Option Piece := (getSH s n slot).pieces.find? (fun p => p.op == id)
def modPiece (s : State) (n slot id : Nat) (f : Piece → Piece) : State :=
  modSH s n slot (fun x => { x with pieces := x.pieces.map (fun p => if p.op = id then f p else p) })

/-- A descriptor all of whose pieces have completed (R516): OWN clears; a stagehand being reset is free when all its are. -/
def slotDone (s : State) (n slot : Nat) : State :=
  let x := getSH s n slot
  if x.own ∧ x.cut = x.total ∧ x.done = x.total then
    let s := modSH s n slot (fun x => { x with own := false, pieces := [] })
    let s := modHand s n (fun h => { h with resetting := h.resetting && h.slots.any (·.own) })
    if dIrq x.desc then raiseIrq s Irq.stagehand else s
  else s

/-- A piece completes, whatever its status (R181, R516). -/
def pieceEnd (s : State) (n slot id status : Nat) : State :=
  match findPiece s n slot id with
  | none => s
  | some _ =>
    let s := closeOp s id
    let s := modSH s n slot (fun x => { x with pieces := x.pieces.filter (fun p => p.op != id), done := x.done + 1 })
    slotDone (tallyAdd s (dTally (getSH s n slot).desc) status) n slot

end Sys2Proof.Machine
end

