-- ==== Sys2Proof/Machine/Numeric.lean ====
section
/-! DEFINITION. Reduction arithmetic (R362 to R384, R392, R393): formats, exact values, the single rounding, ledgers, MIN and MAX,
MX blocks, remote reductions, EXP2. -/

namespace Sys2Proof.Machine

open Sys2Proof

/-! ## Formats (R362) -/

/-- A float element: exponent bits, fraction bits, bias; `ieee`: the top exponent holds infinities and NaNs. -/
structure FloatFmt where
  eb : Nat
  mb : Nat
  bias : Nat
  ieee : Bool
  deriving DecidableEq, Repr

def fp64 : FloatFmt := { eb := 11, mb := 52, bias := 1023, ieee := true }
def fp32 : FloatFmt := { eb := 8, mb := 23, bias := 127, ieee := true }
def fp16 : FloatFmt := { eb := 5, mb := 10, bias := 15, ieee := true }
def bf16 : FloatFmt := { eb := 8, mb := 7, bias := 127, ieee := true }
def e4m3 : FloatFmt := { eb := 4, mb := 3, bias := 7, ieee := false }
def e5m2 : FloatFmt := { eb := 5, mb := 2, bias := 15, ieee := true }
def e3m2 : FloatFmt := { eb := 3, mb := 2, bias := 3, ieee := false }
def e2m3 : FloatFmt := { eb := 2, mb := 3, bias := 1, ieee := false }
def e2m1 : FloatFmt := { eb := 2, mb := 1, bias := 1, ieee := false }

/-- The float of a non-MX code. -/
def floatOf (fmt : Nat) : Option FloatFmt :=
  match fmt with
  | 0x01 => some fp64 | 0x02 => some fp32 | 0x03 => some fp16 | 0x04 => some bf16 | 0x05 => some e4m3 | 0x06 => some e5m2
  | _ => none
def isInt (fmt : Nat) : Bool := fmt == 0x10 || fmt == 0x11
def isMx (fmt : Nat) : Bool := decide (0x08 ≤ fmt) && decide (fmt ≤ 0x0D)
/-- The element float of an MX code; none for MXINT8. -/
def mxFloat (fmt : Nat) : Option FloatFmt :=
  match fmt with
  | 0x08 => some e4m3 | 0x09 => some e5m2 | 0x0A => some e3m2 | 0x0B => some e2m3 | 0x0C => some e2m1
  | _ => none
def elemBits (fmt : Nat) : Nat :=
  match fmt with
  | 0x01 => 64 | 0x02 => 32 | 0x03 => 16 | 0x04 => 16 | 0x05 => 8 | 0x06 => 8 | 0x08 => 8 | 0x09 => 8 | 0x0A => 6 | 0x0B => 6
  | 0x0C => 4 | 0x0D => 8 | 0x10 => 32 | 0x11 => 64 | 0x12 => 32
  | _ => 0
def fmtKnown (fmt : Nat) : Bool := elemBits fmt != 0
/-- Blocks per chunk and the offset of the scale bytes (R364). -/
def mxBlocks (fmt : Nat) : Nat := if fmt = 0x0A ∨ fmt = 0x0B then 7 else if fmt = 0x0C then 11 else 5
def mxScaleAt (fmt : Nat) : Nat := if fmt = 0x0A ∨ fmt = 0x0B then 168 else if fmt = 0x0C then 176 else 160
/-- Elements per chunk (R362). -/
def perChunk (fmt : Nat) : Nat := if isMx fmt then 32 * mxBlocks fmt else if fmtKnown fmt then 1536 / elemBits fmt else 1

/-! ## Exact values -/

/-- `m` times 2 to the power `e`. -/
def dyadic (m e : Int) : Num := if m = 0 then .zero false else .fin m e

/-- The value of float code `c` (R362): a code of E4M3 with exponent and fraction all ones is NaN. -/
def decodeFloat (f : FloatFmt) (c : Nat) : Num :=
  let neg := bitOf c (f.eb + f.mb)
  let x := bits c (f.eb + f.mb - 1) f.mb
  let m := c % 2 ^ f.mb
  let sg : Int := if neg then -1 else 1
  if f.ieee && x == 2 ^ f.eb - 1 then (if m = 0 then .inf neg else .nan)
  else if f == e4m3 && x == 15 && m == 7 then .nan
  else if x = 0 then (if m = 0 then .zero neg else .fin (sg * m) (1 - (f.bias : Int) - f.mb))
  else .fin (sg * (m + 2 ^ f.mb)) ((x : Int) - f.bias - f.mb)

def Num.neg? : Num → Bool
  | .nan => false
  | .inf n => n
  | .zero n => n
  | .fin m _ => decide (m < 0)

def Num.isNan : Num → Bool
  | .nan => true
  | _ => false
def Num.isZero : Num → Bool
  | .zero _ => true
  | _ => false

/-! ## Rounding (R366, R367) -/

def shl (n : Nat) (k : Int) : Nat := if 0 ≤ k then n * 2 ^ k.toNat else n

/-- floor(log2(n / d)) for positive n and d. -/
def log2Ratio (n d : Nat) : Int :=
  let l : Int := (n.log2 : Int) - d.log2
  if shl d l ≤ shl n (-l) then l else l - 1

/-- n / d rounded to `p` significant bits, the unit no smaller than 2^qmin: significand and exponent. -/
def roundRat (n d p : Nat) (qmin : Int) (rm : Nat) (neg : Bool) : Nat × Int :=
  let e := max (log2Ratio n d - ((p : Int) - 1)) qmin
  let N := shl n (-e)
  let D := shl d e
  let q := N / D
  let r := N % D
  let up := match rm with
    | 0 => decide (D < 2 * r) || (2 * r == D && q % 2 == 1)
    | 1 => false
    | 2 => r != 0 && !neg
    | _ => r != 0 && neg
  let q := q + b2n up
  if q = 2 ^ p then (q / 2, e + 1) else (q, e)

/-- Largest finite significand and its exponent. -/
def maxFinite (f : FloatFmt) : Nat × Int :=
  (2 ^ (f.mb + 1) - (if f == e4m3 then 2 else 1), (2 ^ f.eb : Nat) - (if f.ieee then 2 else 1) - f.bias - f.mb)

/-- The code of q x 2^e, in range, without sign. -/
def packFloat (f : FloatFmt) (q : Nat) (e : Int) : Nat :=
  if q < 2 ^ f.mb then q else (e + f.mb + f.bias).toNat * 2 ^ f.mb + (q - 2 ^ f.mb)
def signBit (f : FloatFmt) (neg : Bool) : Nat := b2n neg * 2 ^ (f.eb + f.mb)
def maxCode (f : FloatFmt) : Nat := packFloat f (maxFinite f).1 (maxFinite f).2
def infCode (f : FloatFmt) : Nat := (2 ^ f.eb - 1) * 2 ^ f.mb

/-- Canonical NaNs (R373). -/
def nanCode (f : FloatFmt) : Nat :=
  if f == e4m3 then 0x7F else if f == e5m2 then 0x7E else infCode f + 2 ^ (f.mb - 1)

/-- What overflow gives (R367): an exact infinity is `isInf`. -/
def overflowCode (f : FloatFmt) (rm : Nat) (sat isInf neg : Bool) : Nat :=
  if f == e4m3 then (if sat then 0x7F else signBit f neg + maxCode f)
  else if sat then signBit f neg + maxCode f
  else if isInf || rm = 0 || (rm = 2 && !neg) || (rm = 3 && neg) then signBit f neg + infCode f
  else signBit f neg + maxCode f

/-- n / d of a sign, rounded once into a non-MX float. -/
def encodeRat (f : FloatFmt) (rm : Nat) (sat neg : Bool) (n d : Nat) : Nat :=
  if n = 0 then signBit f neg
  else
    let (q, e) := roundRat n d (f.mb + 1) (1 - (f.bias : Int) - f.mb) rm neg
    let (M, X) := maxFinite f
    if X < e ∨ (e = X ∧ M < q) then overflowCode f rm sat false neg
    else signBit f neg + packFloat f q e

/-- An exact value rounded once into a non-MX float (R367, R372). -/
def encodeFloat (f : FloatFmt) (rm : Nat) (sat : Bool) (v : Num) : Nat :=
  match v with
  | .nan => nanCode f
  | .inf neg => overflowCode f rm sat true neg
  | .zero neg => signBit f neg
  | .fin m e => encodeRat f rm sat (decide (m < 0)) (shl m.natAbs e) (shl 1 (-e))

/-! ## Exact operations -/

/-- Sum of two finite values; an exact zero takes the sign that ROUND gives it. -/
def addNum (rm : Nat) (a b : Num) : Num :=
  match a, b with
  | .nan, _ => .nan
  | _, .nan => .nan
  | .inf x, .inf y => if x = y then .inf x else .nan
  | .inf x, _ => .inf x
  | _, .inf y => .inf y
  | .zero x, .zero y => if x = y then .zero x else .zero (rm == 3)
  | .zero _, v => v
  | v, .zero _ => v
  | .fin m e, .fin n k =>
    let q := min e k
    let s := m * 2 ^ (e - q).toNat + n * 2 ^ (k - q).toNat
    if s = 0 then .zero (rm == 3) else .fin s q

def mulNum (a b : Num) : Num :=
  match a, b with
  | .nan, _ => .nan
  | _, .nan => .nan
  | .inf _, .zero _ => .nan
  | .zero _, .inf _ => .nan
  | .inf x, v => .inf (x != v.neg?)
  | v, .inf y => .inf (v.neg? != y)
  | .zero x, v => .zero (x != v.neg?)
  | v, .zero y => .zero (v.neg? != y)
  | .fin m e, .fin n k => .fin (m * n) (e + k)

def negNum : Num → Num
  | .nan => .nan
  | .inf n => .inf (!n)
  | .zero n => .zero (!n)
  | .fin m e => .fin (-m) e

/-- a < b for values that are not NaN; the two zeros are equal. -/
def ltNum (a b : Num) : Bool :=
  let sgn := fun (v : Num) => match v with
    | .nan => (0 : Int)
    | .inf n => if n then -2 else 2
    | .zero _ => 0
    | .fin m _ => if m < 0 then -1 else 1
  match a, b with
  | .fin m e, .fin n k => let q := min e k
                          decide (m * 2 ^ (e - q).toNat < n * 2 ^ (k - q).toNat)
  | _, _ => decide (sgn a < sgn b)

/-- IEEE 754-2019 minimum and maximum (R374): NaN wins, -0 orders below +0. -/
def minNum (a b : Num) : Num :=
  if a.isNan || b.isNan then .nan
  else if a.isZero && b.isZero then .zero (a.neg? || b.neg?)
  else if ltNum b a then b else a
def maxNum (a b : Num) : Num :=
  if a.isNan || b.isNan then .nan
  else if a.isZero && b.isZero then .zero (a.neg? && b.neg?)
  else if ltNum a b then b else a

/-- Rounded to FP32, nearest even (R366). -/
def rne32 (v : Num) : Num := decodeFloat fp32 (encodeFloat fp32 0 false v)

/-! ## Ledgers (R369 to R372) -/

def ledgerB (width : Nat) : Int := if width = 128 then 0 else -((width / 2 : Nat) : Int)

def emptyLedger (width : Nat) : Ledger := { width := width }

/-- An exact term is added (R370, R371). -/
def ledgerAdd (l : Ledger) (v : Num) : Ledger :=
  let pz := v == .zero false
  let nz := v == .zero true
  let l := { l with allpz := l.allpz && pz, allnz := l.allnz && nz }
  match v with
  | .nan => { l with nan := true }
  | .inf false => { l with pinf := true }
  | .inf true => { l with ninf := true }
  | .zero _ => l
  | .fin m e => { l with val := l.val + m * 2 ^ (e - ledgerB l.width).toNat }

/-- Two ledgers merge (R371). -/
def ledgerMerge (a b : Ledger) : Ledger :=
  { width := a.width, val := a.val + b.val, nan := a.nan || b.nan, pinf := a.pinf || b.pinf, ninf := a.ninf || b.ninf,
    allpz := a.allpz && b.allpz, allnz := a.allnz && b.allnz }

/-- The value of a ledger, the sign of a zero by ROUND (R372). -/
def ledgerNum (rm : Nat) (l : Ledger) : Num :=
  if l.nan || (l.pinf && l.ninf) then .nan
  else if l.pinf then .inf false
  else if l.ninf then .inf true
  else if l.val = 0 then .zero ((l.allnz && !l.allpz) || (rm == 3 && !l.allpz))
  else .fin l.val (ledgerB l.width)

/-- A two's complement field of `w` bits holds the integer. -/
def fitsSigned (w : Nat) (v : Int) : Bool := decide (-(2 ^ (w - 1) : Int) ≤ v) && decide (v < (2 ^ (w - 1) : Int))
def twos (w : Nat) (v : Int) : Nat := (v % (2 ^ w : Int)).toNat

/-- Bits of R371's flags in their places of R378. -/
def ledgerFlags (l : Ledger) : Nat :=
  b2n l.nan + 2 * b2n l.pinf + 4 * b2n l.ninf + 8 * b2n l.allpz + 16 * b2n l.allnz

/-- A ledger from its bits and flags. -/
def ledgerOf (width : Nat) (raw flags : Nat) : Ledger :=
  { width := width, val := sext width raw, nan := bitOf flags 0, pinf := bitOf flags 1, ninf := bitOf flags 2,
    allpz := bitOf flags 3, allnz := bitOf flags 4 }

/-- Integer results (R367, R375). -/
def encodeInt (w : Nat) (sat : Bool) (v : Int) : Nat :=
  if sat then twos w (max (-(2 ^ (w - 1) : Int)) (min v ((2 ^ (w - 1) : Int) - 1))) else twos w v

/-! ## Elements of a chunk (R363 to R365) -/

/-- Element `i` of a non-MX chunk. -/
def plainElem (fmt : Nat) (b : Bytes) (i : Nat) : Nat := natAt b (i * (elemBits fmt / 8)) (elemBits fmt / 8)

/-- Element `i` of block `k` of an MX chunk. -/
def mxElem (fmt : Nat) (b : Bytes) (k i : Nat) : Num :=
  let w := elemBits fmt
  let scale := byteAt b (mxScaleAt fmt + k)
  let c := natAt b (4 * w * k) (4 * w) / 2 ^ (w * i) % 2 ^ w
  if scale = 255 then .nan
  else
    let v := match mxFloat fmt with
      | some f => decodeFloat f c
      | none => dyadic (sext 8 c) (-6)
    match v with
    | .fin m e => .fin m (e + scale - 127)
    | v => v

/-- The exact value of element `i` of a chunk of a float format. -/
def elemNum (fmt : Nat) (b : Bytes) (i : Nat) : Num :=
  if isMx fmt then mxElem fmt b (i / 32) (i % 32)
  else match floatOf fmt with
    | some f => decodeFloat f (plainElem fmt b i)
    | none => dyadic (sext (elemBits fmt) (plainElem fmt b i)) 0

/-! ## MX blocks (R381) -/

def mxEmax (fmt : Nat) : Int :=
  match fmt with
  | 0x08 => 8 | 0x09 => 15 | 0x0A => 4 | 0x0B => 2 | 0x0C => 2
  | _ => 0

/-- floor(log2 |v|) of a finite value that is not zero. -/
def log2Num : Num → Int
  | .fin m e => (m.natAbs.log2 : Int) + e
  | _ => 0

/-- An element scaled by 2^-X, rounded once and clamped (R381 step 5). -/
def mxCode (fmt : Nat) (rm : Nat) (X : Int) (v : Num) : Nat :=
  let neg := v.neg?
  match mxFloat fmt with
  | some f =>
    (match v with
     | .fin m e =>
       let k := e - X
       let (q, e) := roundRat (shl m.natAbs k) (shl 1 (-k)) (f.mb + 1) (1 - (f.bias : Int) - f.mb) rm neg
       let (M, Y) := maxFinite f
       let (M, Y) := if f == e5m2 then (M, Y) else (M, Y)
       signBit f neg + (if Y < e ∨ (e = Y ∧ M < q) then packFloat f M Y else packFloat f q e)
     | _ => signBit f neg)
  | none =>
    (match v with
     | .fin m e =>
       let k := e - X + 6
       let (q, x) := roundRat (shl m.natAbs k) (shl 1 (-k)) 64 0 rm neg
       let q := min (shl q x) 127
       twos 8 (if neg then -(q : Int) else q)
     | _ => 0)

/-- One block: its scale and its element codes; missing places hold code 0 (R381). -/
def mxBlock (fmt : Nat) (rm : Nat) (vs : List Num) : Nat × List Nat :=
  if vs.any (fun v => match v with
      | .nan => true
      | .inf _ => true
      | _ => false) then (255, vs.map (fun _ => 0))
  else
    let mags := vs.filterMap (fun v => match v with
      | .fin m e => some (Num.fin (m.natAbs : Int) e)
      | _ => none)
    match mags with
    | [] => (0, vs.map (mxCode fmt rm 0))
    | m :: ms =>
      let X := max (-127) (min 127 (log2Num (ms.foldl maxNum m) - mxEmax fmt))
      ((X + 127).toNat, vs.map (mxCode fmt rm X))

/-- Whole blocks of codes in `w` bits each, as bytes. -/
def packBits (w : Nat) (cs : List Nat) : Nat := (List.range cs.length).foldl (fun n i => n + cs.getD i 0 * 2 ^ (w * i)) 0

/-- A chunk of an MX format from the exact values of its elements. -/
def mxChunk (fmt : Nat) (rm : Nat) (vs : List Num) : Bytes :=
  let w := elemBits fmt
  let n := (vs.length + 31) / 32
  let blocks := (List.range n).map (fun k => mxBlock fmt rm ((vs.drop (32 * k)).take 32))
  let elems := blocks.flatMap (fun b => leBytes (4 * w) (packBits w b.2))
  pad (mxScaleAt fmt) elems ++ pad (192 - mxScaleAt fmt) (blocks.map (fun b => BitVec.ofNat 8 b.1))

/-- A chunk of a non-MX float from exact values. -/
def floatChunk (f : FloatFmt) (rm : Nat) (sat : Bool) (vs : List Num) : Bytes :=
  pad 192 (vs.flatMap (fun v => leBytes ((f.eb + f.mb + 1) / 8) (encodeFloat f rm sat v)))

/-! ## Remote reductions (R382, R383) -/

/-- FMT and OPR of an RMEM into a plain line. -/
def rmemPlainOk (fmt opr : Nat) : Bool :=
  ((floatOf fmt).isSome && [1, 2, 3].contains opr) || (isInt fmt && [1, 2, 3, 4, 5, 6].contains opr)

/-- One element of a plain RMEM: memory `m`, operand `a`. -/
def rmemElem (fmt opr m a : Nat) : Nat :=
  let w := elemBits fmt
  match floatOf fmt with
  | some f =>
    let x := decodeFloat f m
    let y := decodeFloat f a
    encodeFloat f 0 false (if opr = 1 then addNum 0 x y else if opr = 2 then minNum x y else maxNum x y)
  | none =>
    match opr with
    | 1 => (m + a) % 2 ^ w
    | 2 => if sext w a < sext w m then a else m
    | 3 => if sext w m < sext w a then a else m
    | 4 => m &&& a
    | 5 => m ||| a
    | _ => m ^^^ a

/-- A plain RMEM over `old` with operand bytes `a` of the same length (R382). -/
def rmemPlain (fmt opr : Nat) (old a : Bytes) : Bytes :=
  let w := elemBits fmt / 8
  (List.range (old.length / w)).flatMap (fun i => leBytes w (rmemElem fmt opr (natAt old (w * i) w) (natAt a (w * i) w)))

/-- FMT, SIZE and OPR of an RMEM into a ledger line (R383). -/
def rmemLedgerOk (fmt opr size : Nat) : Bool := [2, 3, 4, 5, 6].contains (fmt % 128) && opr == 1 && size == 128

/-- One ledger of a ledger line after a term; an add that would carry L beyond 320 bits sets NAN instead. -/
def lineLedgerAdd (raw flags : Nat) (v : Num) : Nat × Nat :=
  let l := ledgerOf 320 raw flags
  let n := ledgerAdd l v
  let n := if fitsSigned 320 n.val then n else { n with val := l.val, nan := true }
  (twos 320 n.val, ledgerFlags n)

/-- A ledger line after an RMEM (R383). -/
def rmemLedger (fmt : Nat) (old a : Bytes) : Bytes :=
  match floatOf (fmt % 128) with
  | none => old
  | some f =>
    let w := elemBits (fmt % 128) / 8
    let ls := (List.range 3).map (fun i =>
      lineLedgerAdd (natAt old (40 * i) 40) (byteAt old (120 + i) % 32) (decodeFloat f (natAt a (w * i) w)))
    ls.flatMap (fun l => leBytes 40 l.1) ++ ls.map (fun l => BitVec.ofNat 8 l.2) ++ zeros 5

/-! ## EXP2 (R392, R393) -/

def expTable : List Nat :=
  [0x3F800000, 0x3F8164D2, 0x3F82CD87, 0x3F843A29, 0x3F85AAC3, 0x3F871F62, 0x3F88980F, 0x3F8A14D5,
   0x3F8B95C2, 0x3F8D1ADF, 0x3F8EA43A, 0x3F9031DC, 0x3F91C3D3, 0x3F935A2B, 0x3F94F4F0, 0x3F96942D,
   0x3F9837F0, 0x3F99E046, 0x3F9B8D3A, 0x3F9D3EDA, 0x3F9EF532, 0x3FA0B051, 0x3FA27043, 0x3FA43516,
   0x3FA5FED7, 0x3FA7CD94, 0x3FA9A15B, 0x3FAB7A3A, 0x3FAD583F, 0x3FAF3B79, 0x3FB123F6, 0x3FB311C4] ++
  [0x3FB504F3, 0x3FB6FD92, 0x3FB8FBAF, 0x3FBAFF5B, 0x3FBD08A4, 0x3FBF179A, 0x3FC12C4D, 0x3FC346CD,
   0x3FC5672A, 0x3FC78D75, 0x3FC9B9BE, 0x3FCBEC15, 0x3FCE248C, 0x3FD06334, 0x3FD2A81E, 0x3FD4F35B,
   0x3FD744FD, 0x3FD99D16, 0x3FDBFBB8, 0x3FDE60F5, 0x3FE0CCDF, 0x3FE33F89, 0x3FE5B907, 0x3FE8396A,
   0x3FEAC0C7, 0x3FED4F30, 0x3FEFE4BA, 0x3FF28177, 0x3FF5257D, 0x3FF7D0DF, 0x3FFA83B3, 0x3FFD3E0C]

def mul32 (a b : Num) : Num := rne32 (mulNum a b)
def add32 (a b : Num) : Num := rne32 (addNum 0 a b)
def scale2 (v : Num) (k : Int) : Num :=
  match v with
  | .fin m e => .fin m (e + k)
  | v => v

/-- EXP2 of an FP32 value x ≤ 0. -/
def exp2 (x : Num) : Num :=
  match x with
  | .nan => .nan
  | .inf true => .zero false
  | .inf false => .inf false
  | _ =>
    if ltNum x (.fin (-150) 0) then .zero false
    else
      let t := scale2 x 6
      let q : Int := match t with
        | .fin m e => if 0 ≤ e then m * 2 ^ e.toNat else Int.fdiv m (2 ^ (-e).toNat)
        | _ => 0
      let j := (q % 64).toNat
      let k := (q - j) / 64
      let r := scale2 (addNum 0 t (dyadic (-q) 0)) (-6)
      let c := fun n => decodeFloat fp32 n
      let p2 := add32 (mul32 (c 0x3D635847) r) (c 0x3E75FDF0)
      let p4 := add32 (mul32 p2 r) (c 0x3F317218)
      let p5 := mul32 p4 r
      let T := c (expTable.getD j 0)
      rne32 (scale2 (add32 (mul32 T p5) T) k)

end Sys2Proof.Machine
end

