-- ==== Sys2Proof/Machine/CollBase.lean ====
section
/-! DEFINITION. What members and reducers of a collective compute alike: descriptors (R321 to R325), stripes and planes (R327,
R328, R333, R385), the chunks a member sends and receives (R322, R364, R385 to R398), control flits (R338), the tree (R329,
R330). -/

namespace Sys2Proof.Machine

open Sys2Proof

/-! ## Descriptors -/

namespace COp
def allReduce : Nat := 0x01
def reduceScatter : Nat := 0x02
def allGather : Nat := 0x03
def multicast : Nat := 0x04
def lse : Nat := 0x05
def sparse : Nat := 0x06
def index : Nat := 0x07
def dispatch : Nat := 0x08
def combine : Nat := 0x09
def curtain : Nat := 0x0A
def kernel : Nat := 0x0B
end COp

def parseDesc (b : Bytes) : Desc :=
  { op := byteAt b 0, opr := byteAt b 1, fmt := byteAt b 2, ofmt := byteAt b 3, flags := b.getD 4 0, count := natAt b 8 6,
    kernel := natAt b 16 4, aux := natAt b 20 4, root := natAt b 24 2 }
/-- R325. -/
def descDigest (b : Bytes) : BitVec 32 := crc32c (pad 32 b)
def rndOf (d : Desc) : Nat := d.flags.toNat % 4
def satOf (d : Desc) : Bool := d.flags.getLsbD 2

/-- A collective as its descriptor, member count and expert table give it. -/
structure CJob where
  d : Desc
  n : Nat
  tab : ExpertTable := { topk := 1, h := 1, cap := 1, rank := [] }
  deriving DecidableEq, Repr

def ceilDiv (a b : Nat) : Nat := (a + b - 1) / b

/-- Bytes of an element, and elements per input and output chunk (R362, R390). -/
def wordBytes (fmt : Nat) : Nat := elemBits fmt / 8
def perIn (d : Desc) : Nat := if d.op = COp.lse then 184 / wordBytes d.fmt else perChunk d.fmt
def perOut (d : Desc) : Nat := if d.op = COp.lse then 184 / max (wordBytes d.fmt) (wordBytes d.ofmt) else perChunk d.ofmt

/-! ## Blocks and stripes (R327, R333, R385, R388, R396) -/

/-- SCHED = RING cuts the contribution of an array of COUNT elements (R333; log 54). -/
def ringed (j : CJob) : Bool := j.d.flags.getLsbD 3 && [1, 2, 3, 4, 5].contains j.d.op
/-- What a block is a multiple of: an MX block, or a chunk with its own m and s. -/
def blockUnit (d : Desc) : Nat := if d.op = COp.lse then perIn d else if isMx d.fmt || isMx d.ofmt then 32 else 1
def blockLen (j : CJob) : Nat :=
  if ringed j then ceilDiv (ceilDiv j.d.count j.n) (blockUnit j.d) * blockUnit j.d else j.d.count
def stripesPerBlock (j : CJob) : Nat := ceilDiv (ceilDiv (blockLen j) (perIn j.d)) 1024

/-- Chunks of a token (R396). -/
def tokenChunks (j : CJob) : Nat := ceilDiv j.tab.h (128 / wordBytes j.d.fmt)
/-- Chunks C of a block or token, blocks per stripe, and how many there are (R385, R396, R398). -/
def unitChunks (j : CJob) : Nat := if j.d.op = COp.sparse then ceilDiv j.d.aux (perIn j.d) else tokenChunks j
def unitsPerStripe (j : CJob) : Nat := 1024 / unitChunks j
def unitCount (j : CJob) : Nat :=
  if j.d.op = COp.sparse then j.d.count / j.d.aux else if j.d.op = COp.combine then j.n * j.d.count else j.d.count
def unitOp (op : Nat) : Bool := op == COp.sparse || op == COp.dispatch || op == COp.combine
/-- First chunk of block or token `b`. -/
def unitChunk (j : CJob) (b : Nat) : Nat := b / unitsPerStripe j * 1024 + b % unitsPerStripe j * unitChunks j
/-- The blocks or tokens of a stripe. -/
def unitsOf (j : CJob) (s : Nat) : List Nat :=
  let lo := s * unitsPerStripe j
  (List.range (min (unitCount j) (lo + unitsPerStripe j) - lo)).map (lo + ·)

def stripeCount (j : CJob) : Nat :=
  if j.d.op = COp.curtain then 1
  else if unitOp j.d.op then ceilDiv (unitCount j) (unitsPerStripe j)
  else if j.d.op = COp.index then ceilDiv j.d.count 32768
  else if ringed j then j.n * stripesPerBlock j else stripesPerBlock j

def censusBit : Nat := 2 ^ 33
/-- The stripe of a chunk, census flits among them (R327, R386). -/
def stripeOf (c : Nat) : Nat := if censusBit ≤ c then c - censusBit else c / 1024

/-- First element and number of elements of a stripe of an array; a RING block's stripes follow those of the block before it
(log 54). -/
def spanOf (j : CJob) (s : Nat) : Nat × Nat :=
  let per := perIn j.d
  if ringed j then
    let b := s / stripesPerBlock j
    let lo := b * blockLen j + s % stripesPerBlock j * 1024 * per
    (lo, min (min j.d.count (b * blockLen j + blockLen j)) (lo + 1024 * per) - lo)
  else if j.d.op = COp.sparse then
    let lo := s * unitsPerStripe j * j.d.aux
    (lo, (unitsOf j s).length * j.d.aux)
  else
    let lo := s * 1024 * per
    (lo, min j.d.count (lo + 1024 * per) - lo)

/-- The step in which a rank sends a stripe (R332, R333), and the number of steps. -/
def stepOf (j : CJob) (rank s : Nat) : Nat := if ringed j then (s / stripesPerBlock j + j.n - rank % j.n) % j.n else 0
def stepCount (j : CJob) : Nat := if ringed j then j.n else 1

/-- The plane of a stripe (R328). -/
def planeOf (planes live : BitVec 24) (s : Nat) : Option Nat :=
  let F := onesOf planes
  let L := onesOf live
  match F[s % F.length]? with
  | none => none
  | some p => if live.getLsbD p then some p else L[(s / F.length) % L.length]?

/-- The members that send (R322). -/
def sendersOf (j : CJob) : List Nat := if j.d.op = COp.multicast then [j.d.root] else List.range j.n

/-- Chunks of a stripe that a sender of an array owes. -/
def denseChunks (j : CJob) (s : Nat) : List Nat :=
  if j.d.op = COp.curtain then [0]
  else (List.range (ceilDiv (spanOf j s).2 (perIn j.d))).map (1024 * s + ·)
/-- Elements of a chunk of an array. -/
def chunkSpan (j : CJob) (c : Nat) : Nat × Nat :=
  let (lo, n) := spanOf j (c / 1024)
  let per := perIn j.d
  let a := c % 1024 * per
  (lo + a, min per (n - a))

/-! ## Output (R322, R397, R398) -/

/-- The elements of a member's output region that a stripe fills: start and number. -/
def outRanges (j : CJob) (rank s : Nat) : List (Nat × Nat) :=
  let (lo, n) := spanOf j s
  if n = 0 then []
  else if j.d.op = COp.reduceScatter then
    let size := j.d.count / j.n
    let a := max lo (rank * size)
    let b := min (lo + n) (rank * size + size)
    if a < b then [(a - rank * size, b - a)] else []
  else if j.d.op = COp.allGather then (List.range j.n).map (fun r => (r * j.d.count + lo, n))
  else [(lo, n)]

/-- The parts of a range in chunks of `per` elements: chunk, first and end place in it. -/
def chunkParts (per start n : Nat) : List (Nat × Nat × Nat) :=
  if n = 0 then []
  else (List.range ((start + n - 1) / per + 1 - start / per)).map (fun i =>
    let c := start / per + i
    (c, max start (c * per) - c * per, min (start + n) (c * per + per) - c * per))

/-- The tokens of rank `q` in a stripe of MOE_COMBINE. -/
def tokensOf (j : CJob) (q s : Nat) : List Nat :=
  ((unitsOf j s).filter (fun g => g / j.d.count == q)).map (· % j.d.count)
/-- Elements of part `p` of a token. -/
def partElems (j : CJob) (p : Nat) : Nat :=
  let k := 128 / wordBytes j.d.fmt
  min k (j.tab.h - p * k)

/-- The result chunks of a stripe that go to a rank, with VALID (0: any), where they do not depend on what is sent. -/
def expectOf (j : CJob) (rank s : Nat) : List (Nat × Nat) :=
  let op := j.d.op
  if op = COp.curtain then [(0, 16)]
  else if op = COp.kernel then (denseChunks j s).map (fun c => (c, 0))
  else if op = COp.lse then
    let k := perIn j.d / perOut j.d
    (denseChunks j s).flatMap (fun c =>
      let n := (chunkSpan j c).2
      (List.range (ceilDiv n (perOut j.d))).map (fun i =>
        (k * c + i, 8 + min (perOut j.d) (n - i * perOut j.d) * wordBytes j.d.ofmt)))
  else if op = COp.combine then
    (tokensOf j rank s).flatMap (fun i => (List.range (tokenChunks j)).map (fun p =>
      (i * tokenChunks j + p, 64 + partElems j p * wordBytes j.d.ofmt)))
  else
    let parts := (outRanges j rank s).flatMap (fun r => chunkParts (perOut j.d) r.1 r.2)
    parts.foldl (fun m p => kmod m p.1 0 (fun v => if isMx j.d.ofmt then 192 else max v (p.2.2 * wordBytes j.d.ofmt))) []

/-! ### Expert outputs (R397) -/

/-- The experts a rank hosts, ascending; chunks of its count table; the place of a record in its region. -/
def hostedBy (t : ExpertTable) (r : Nat) : List Nat := (List.range t.rank.length).filter (fun e => t.rank.getD e 0 == r)
def countChunks (j : CJob) (r : Nat) : Nat := ceilDiv (2 * j.n * (hostedBy j.tab r).length) 192
def slotChunk (j : CJob) (r e src ord part : Nat) : Nat :=
  countChunks j r + (((hostedBy j.tab r).findIdx (· == e)) * j.n * j.tab.cap + src * j.tab.cap + ord) * tokenChunks j + part

/-! ## What a member sends (R326, R364, R385 to R398) -/

/-- One MX block of a run of chunks: its element bits and its scale. -/
def mxGet (fmt : Nat) (d : Bytes) (k : Nat) : Bytes × Byte :=
  let nb := mxBlocks fmt
  let c := slice d (192 * (k / nb)) 192
  (slice c (4 * elemBits fmt * (k % nb)) (4 * elemBits fmt), c.getD (mxScaleAt fmt + k % nb) 0)
/-- A chunk of MX blocks, the first at place `at_`. -/
def mxPut (fmt at_ : Nat) (bs : List (Bytes × Byte)) : Bytes :=
  pad (mxScaleAt fmt) (zeros (4 * elemBits fmt * at_) ++ bs.flatMap (·.1)) ++ pad (192 - mxScaleAt fmt) (zeros at_ ++ bs.map (·.2))

/-- Elements `lo` to `lo + n - 1` of an array in a region, as one chunk with its VALID. -/
def inChunk (d : Desc) (input : Bytes) (lo n : Nat) : Nat × Bytes :=
  let wb := wordBytes d.fmt
  if d.op = COp.lse then (8 + n * wb, pad 192 (slice input (192 * (lo / perIn d)) (8 + n * wb)))
  else if isMx d.fmt then (192, mxPut d.fmt 0 ((List.range (n / 32)).map (fun i => mxGet d.fmt input (lo / 32 + i))))
  else (n * wb, pad 192 (slice input (lo * wb) (n * wb)))

/-- Bit `b` of the bitmap that begins a block-sparse input region (log 55). -/
def sparseHeld (input : Bytes) (b : Nat) : Bool := bitOf (byteAt input (b / 8)) (b % 8)
/-- Chunks of part `p` of held block `b`: the blocks held follow the bitmap, in order. -/
def sparseChunk (j : CJob) (input : Bytes) (b p : Nat) : Nat × Bytes :=
  let map := ceilDiv (ceilDiv (unitCount j) 8) 192 * 192
  let before := (List.range b).countP (sparseHeld input)
  let per := perIn j.d
  let n := min per (j.d.aux - p * per)
  let base := slice input (map + before * unitChunks j * 192) (unitChunks j * 192)
  inChunk j.d base (p * per) n

/-- Values of a sorted index list that a stripe covers: the region holds their number, then the values (log 55). -/
def indexValues (input : Bytes) : List Nat := (List.range (natAt input 0 4)).map (fun i => natAt input (4 + 4 * i) 4)
def indexOf (input : Bytes) (s : Nat) : List Nat :=
  (indexValues input).filter (fun v => v / 32768 == s)

/-- A route of a token's header (R396). -/
def routeExpert (c : Bytes) (k : Nat) : Nat := natAt c (8 * k) 2
def routeOrdinal (c : Bytes) (k : Nat) : Nat := natAt c (8 * k + 2) 2
/-- A token's chunk without the routes whose ORDINAL is CAP or more; how many there were. -/
def cutRoutes (t : ExpertTable) (c : Bytes) : Bytes × Nat :=
  (List.range 8).foldl (fun (x : Bytes × Nat) k =>
    if routeExpert x.1 k ≠ 0xFFFF ∧ t.cap ≤ routeOrdinal x.1 k then (putAt x.1 (8 * k) ([0xFF, 0xFF] ++ zeros 6), x.2 + 1) else x) (c, 0)

/-- The filled slots of a host's region (R398): expert, source rank, ordinal. -/
def filledSlots (j : CJob) (rank : Nat) (input : Bytes) : List (Nat × Nat × Nat) :=
  let es := hostedBy j.tab rank
  (List.range es.length).flatMap (fun k => (List.range j.n).flatMap (fun src =>
    (List.range (min j.tab.cap (natAt input (2 * (src * es.length + k)) 2))).map (fun o => (es.getD k 0, src, o))))
/-- The records of one slot, part by part: their chunk number by R385, VALID and bytes. -/
def slotRecords (j : CJob) (rank : Nat) (input : Bytes) (x : Nat × Nat × Nat) : List (Nat × Nat × Bytes) :=
  (List.range (tokenChunks j)).map (fun p =>
    let c := pad 192 (slice input (192 * slotChunk j rank x.1 x.2.1 x.2.2 p) 192)
    (unitChunk j (natAt c 0 2 * j.d.count + natAt c 12 4) + p, 64 + partElems j p * wordBytes j.d.fmt, c))

/-- Every chunk a member sends of a stripe: CHUNK, VALID, element bytes. -/
def memberChunks (j : CJob) (rank : Nat) (posted : Word) (input : Bytes) (s : Nat) : List (Nat × Nat × Bytes) :=
  let op := j.d.op
  if !(sendersOf j).contains rank then []
  else if op = COp.curtain then [(0, 8, pad 192 (leBytes 8 posted.toNat))]
  else if op = COp.sparse then
    let us := unitsOf j s
    let held := us.filter (sparseHeld input)
    let bps := unitsPerStripe j
    let map := (List.range us.length).foldl (fun m i => if sparseHeld input (s * bps + i) then m + 2 ^ i else m) 0
    (censusBit + s, ceilDiv bps 8, pad 192 (leBytes (ceilDiv bps 8) map)) ::
      held.flatMap (fun b => (List.range (unitChunks j)).map (fun p => (unitChunk j b + p, sparseChunk j input b p)))
  else if op = COp.index then
    let vs := indexOf input s
    (censusBit + s, 4, pad 192 (leBytes 4 vs.length)) ::
      (List.range (ceilDiv vs.length 48)).map (fun i =>
        let xs := (vs.drop (48 * i)).take 48
        (1024 * s + i, 4 * xs.length, pad 192 (xs.flatMap (leBytes 4))))
  else if op = COp.dispatch then
    (unitsOf j s).flatMap (fun t => (List.range (tokenChunks j)).map (fun p =>
      let c := pad 192 (slice input (192 * (t * tokenChunks j + p)) 192)
      (unitChunk j t + p, 64 + partElems j p * wordBytes j.d.fmt, (cutRoutes j.tab c).1)))
  else if op = COp.combine then
    let rs := ((filledSlots j rank input).flatMap (slotRecords j rank input)).filter (fun r => r.1 / 1024 == s)
    (censusBit + s, 4, pad 192 (leBytes 4 rs.length)) :: rs
  else (denseChunks j s).map (fun c => (c, inChunk j.d input (chunkSpan j c).1 (chunkSpan j c).2))

/-- Routes a member does not send (R396). -/
def droppedRoutes (j : CJob) (input : Bytes) : Nat :=
  ((List.range j.d.count).map (fun t => (cutRoutes j.tab (pad 192 (slice input (192 * t * tokenChunks j) 192))).2)).sum

/-! ## Control flits (R338) -/

def stepAbort : Nat := 0xFF
def stepRemap : Nat := 0xFE
def stepReport : Nat := 0xFD

namespace Ctl
def mismatch : Nat := 1
def timeout : Nat := 2
def struck : Nat := 3
def nokey : Nat := 4
end Ctl

def ctlBytes (status plane rank cue compared : Nat) : Bytes :=
  pad 192 (leBytes 1 status ++ leBytes 1 plane ++ leBytes 2 rank ++ leBytes 8 cue ++ leBytes 2 compared)
def ctlStatus (f : Flit) : Nat := byteAt f.payload 16
def ctlPlane (f : Flit) : Nat := byteAt f.payload 17
def ctlRank (f : Flit) : Nat := natAt f.payload 18 2
def ctlCompared (f : Flit) : Nat := natAt f.payload 28 2

/-- A collective flit (R86). -/
def collFlit (kind : BitVec 5) (dst src ctx : BitVec 16) (sk : Bool) (h : CHead) (data : Bytes) : Flit :=
  { dst := dst, src := src, ctx := ctx, kind := kind, sk := sk, payload := payloadOf [(0, cHeadBytes h), (16, pad 192 data)] }

/-! ## The tree (R21, R330) -/

/-- FORM's tiers of switches. -/
def housesOf (nodes : List (BitVec 16)) : List Nat := ((nodes.map nodeHouse).eraseDups)
def podOf (house : Nat) : Nat := house / 48
def podsOf (nodes : List (BitVec 16)) : List Nat := ((housesOf nodes).map podOf).eraseDups

/-- The top reducer's tier and index for a stripe: FORM 2 is three tiers. -/
def topOf (form : Nat) (nodes : List (BitVec 16)) (n s : Nat) : Nat × Nat :=
  let u := s / n % 24
  match housesOf nodes with
  | [h] => (0, h)
  | _ =>
    if form ≠ 2 then (1, u)
    else match podsOf nodes with
      | [q] => (1, 24 * q + u)
      | _ => (2, 3 * u + s / (24 * n) % 3)

/-- The reducers of a stripe: tier and index of each, the top last. -/
def reducersOf (form : Nat) (nodes : List (BitVec 16)) (n s : Nat) : List (Nat × Nat) :=
  let (t, i) := topOf form nodes n s
  (if t = 0 then [] else (housesOf nodes).map (fun h => (0, h))) ++
    (if t = 2 then (podsOf nodes).map (fun q => (1, 24 * q + s / n % 24)) else []) ++ [(t, i)]

/-- The reducer a partial of (tier, index) goes to, and the ports that lead up to it. -/
def upPorts (form tier n s : Nat) : List Nat :=
  let u := s / n % 24
  if tier = 0 then [48 + u]
  else if form = 2 then (List.range 8).map (fun v => 48 + 8 * (s / (24 * n) % 3) + v) else []

/-- The ports of this switch down to the members' houses, pods or seats. -/
def downPorts (form tier index : Nat) (nodes : List (BitVec 16)) : List (List Nat) :=
  if tier = 0 then ((nodes.filter (fun x => nodeHouse x == index)).map nodeSeat).map (fun p => [p])
  else if tier = 1 then
    if form = 2 then ((housesOf nodes).filter (fun h => podOf h == index / 24)).map (fun h => [h % 48]) else (housesOf nodes).map (fun h => [h])
  else (podsOf nodes).map (fun q => (List.range 8).map (8 * q + ·))

end Sys2Proof.Machine
end

