-- ==== Sys2Proof/Machine/CollMemb.lean ====
section
/-! DEFINITION. The member side of collectives at Belug (R304 to R307, R319, R326, R332 to R340, R345 to R348): launching, sending
and re-sending stripes, taking results, completing in order, REMAP. -/

namespace Sys2Proof.Machine

open Sys2Proof

def isMoe (op : Nat) : Bool := op == COp.dispatch || op == COp.combine
def seatExperts (g aux : Nat) : ExpertTable :=
  let (k, h, c, r) := Config.seatTable g aux
  { topk := k, h := h, cap := c, rank := r }
def memberJob (g n : Nat) (d : Desc) : CJob :=
  if isMoe d.op then { d := d, n := n, tab := seatExperts g (d.aux % 16) } else { d := d, n := n }
def jobOf (m : MColl) : CJob := memberJob m.group m.n m.desc

def isColl (g q : Nat) (m : MColl) : Bool := m.group == g && m.seq == q
def findColl (s : State) (g q : Nat) : Option MColl := s.blg.colls.find? (isColl g q)
def modColl (s : State) (g q : Nat) (f : MColl → MColl) : State :=
  { s with blg.colls := s.blg.colls.map (fun m => if isColl g q m then f m else m) }
def memberLive (s : State) (g : Nat) : BitVec 24 := kgetD s.blg.live g 0
/-- Launched and not ended. -/
def running (m : MColl) : Bool := m.launched && m.status.isNone

/-! ## Sending (R304, R328, R329, R332, R346) -/

def ownPool (s : State) (p : Nat) : BitVec 16 := BitVec.ofNat 16 (nodeHouse s.blg.node * 128 + 96 + p)
/-- BPp takes flits: READY and not excluded. -/
def bpOpen (s : State) (p : Nat) : Bool := (blgPort s p).st == .ready && !(blgPort s p).excluded

def contribTo (s : State) (m : MColl) (p step chunk valid : Nat) (data : Bytes) : State :=
  blgSend s p (collFlit Kind.contrib (ownPool s p) s.blg.node m.ctx false
    { group := m.group, rank := m.rank, cueSeq := m.seq, step := step, digest := m.digest, chunk := chunk, valid := valid } data)

/-- Every chunk of a stripe goes to its plane. -/
def sendStripe (s : State) (m : MColl) (k p : Nat) : State :=
  let j := jobOf m
  let s := (memberChunks j m.rank m.posted m.input k).foldl (fun s c => contribTo s m p (stepOf j m.rank k) c.1 c.2.1 c.2.2) s
  modColl s m.group m.seq (fun m => { m with stripes := m.stripes.map (fun x =>
    if x.stripe = k then { x with sent := true, plane := p, lastSend := s.now } else x) })

/-- What the result of a stripe holds is known only as it comes (R388, R397). -/
def dynamicOp (op : Nat) : Bool := op == COp.index || op == COp.dispatch

/-- Stripes sent on a plane whose result is not received (R332). -/
def inFlight (s : State) (p : Nat) : Nat :=
  (s.blg.colls.map (fun m => if running m then m.stripes.countP (fun x => x.sent && !x.done && x.plane == p) else 0)).sum

/-! ## Completion (R336) -/

/-- The oldest collectives of a group that have ended complete. -/
def completeColls (s : State) (g : Nat) : Nat → State
  | 0 => s
  | n + 1 =>
    match s.blg.colls.find? (fun m => m.group == g) with
    | none => s
    | some m =>
      match m.status with
      | none => s
      | some st => completeColls (tallyAdd { s with blg.colls := s.blg.colls.filter (fun x => !isColl g m.seq x) } m.tally st) g n

/-- A collective ends at this member. -/
def endColl (s : State) (g q status : Nat) : State :=
  let s := modColl s g q (fun m => { m with status := some (m.status.getD status), got := [] })
  completeColls s g s.blg.colls.length

/-- It has every result chunk of every stripe: the counts of MOE_DISPATCH are written, and it ends with OK. -/
def endWhole (s : State) (g q : Nat) : State :=
  match findColl s g q with
  | none => s
  | some m =>
    if running m && m.stripes.all (·.done) && (m.desc.op != COp.curtain) then
      let j := jobOf m
      let es := (hostedBy j.tab m.rank).length
      let s := if m.desc.op = COp.dispatch then
          emit s (.region (BitVec.ofNat 64 m.outVa) (pad (192 * countChunks j m.rank)
            ((List.range (m.n * es)).flatMap (fun i => leBytes 2 (kgetD m.counts i 0)))))
        else s
      endColl s g q St.ok
    else s

/-! ## The sender's pump -/

/-- One stripe is sent where it may go. -/
def pumpOne (s : State) (g q k : Nat) : State :=
  match findColl s g q with
  | none => s
  | some m =>
    match m.stripes.find? (fun x => x.stripe == k), planeOf m.planes (memberLive s g) k with
    | some x, some p =>
      let j := jobOf m
      if !running m || x.sent || !m.ready.contains (stepOf j m.rank k) || !bpOpen s p ||
          (!x.done && decide (8 ≤ inFlight s p)) then s
      else
        let s := sendStripe s m k p
        if (expectOf j m.rank k).isEmpty && !dynamicOp m.desc.op then
          endWhole (modColl s g q (fun m => { m with stripes := m.stripes.map (fun y =>
            if y.stripe = k then { y with done := true } else y) })) g q
        else s
    | _, _ => s

/-- Every stripe that may go is sent, collective by collective, in order. -/
def pump (s : State) : State :=
  let todo := s.blg.colls.flatMap (fun m => (m.stripes.filter (fun x => !x.sent)).map (fun x => (m.group, m.seq, x.stripe)))
  todo.foldl (fun s t => pumpOne s t.1 t.2.1 t.2.2) s

/-! ## REMAP (R347, R348, R361) -/

/-- A control CONTRIB on every other BP of LIVE. -/
def ctlOthers (s : State) (m : MColl) (step : Nat) (but : Nat) (data : Bytes) : State :=
  ((onesOf (memberLive s m.group)).filter (fun p => p != but && (blgPort s p).st == .ready)).foldl (fun s p =>
    contribTo s m p step 0 16 data) s

/-- REMAP(p) is applied: stripes whose plane changes are sent again. -/
def memberRemap (s : State) (g p : Nat) : State :=
  let live := memberLive s g
  if !live.getLsbD p then s
  else
    let next := setBit live p false
    let s := { s with blg.live := kset s.blg.live g next }
    let mine := s.blg.colls.filter (fun m => m.group == g && m.status.isNone)
    if next = 0 then mine.foldl (fun s m => endColl s g m.seq St.timeout) s
    else
      pump { s with blg.colls := s.blg.colls.map (fun m =>
        if m.group = g then { m with stripes := m.stripes.map (fun x =>
          if planeOf m.planes live x.stripe ≠ planeOf m.planes next x.stripe then { x with sent := false } else x) } else m) }

/-- BPp is not READY while the group has a collective launched: REMAP(p) on every other BP of LIVE; with none left the member
applies it itself. -/
def memberLost (s : State) (g p : Nat) : State :=
  match s.blg.colls.find? (fun m => m.group == g && running m) with
  | none => s
  | some m =>
    if !(memberLive s g).getLsbD p || (blgPort s p).st == .ready then s
    else if ((onesOf (memberLive s g)).filter (fun x => x != p && (blgPort s x).st == .ready)).isEmpty then memberRemap s g p
    else ctlOthers s m stepRemap p (ctlBytes 0 p m.rank s.blg.cue.count.toNat 0)

/-- A port of Belug has left READY. -/
def belugPortLost (s : State) (p : Nat) : State :=
  ((s.blg.colls.map (·.group)).eraseDups).foldl (fun s g => memberLost s g p) s

/-! ## Launch (R304, R305) -/

/-- A post made while the counter was UNSET is judged once it is LOCKED (R305). -/
def judgeLate (s : State) : State :=
  if s.blg.cue.st = .locked then
    { s with blg.colls := s.blg.colls.map (fun m =>
        if m.late.isNone then { m with late := some (decide (m.launch.toNat < s.blg.cue.count.toNat)) } else m) }
  else s

/-- A sorted index list is strictly ascending and below COUNT (R388). -/
def ascendingBelow (n : Nat) : List Nat → Bool
  | [] => true
  | [v] => decide (v < n)
  | v :: w :: vs => decide (v < w) && decide (v < n) && ascendingBelow n (w :: vs)

/-- CUE_LAUNCH: the counter reads the launch count or later; the region is read, and every stripe whose block is ready goes.
After the launch, blocks posted later go. -/
def cueLaunchOp (s : State) (g q : Nat) (input : Bytes) : State :=
  let s := judgeLate s
  match findColl s g q with
  | none => s
  | some m =>
    if m.status.isSome || s.blg.cue.st == .unset || decide (s.blg.cue.count.toNat < m.launch.toNat) then s
    else if m.launched then pump (modColl s g q (fun m => { m with input := input }))
    else
      let j := jobOf m
      let s := if m.late == some true then bumpBC s .cueLate else s
      let s := modColl s g q (fun m => { m with launched := true, input := input, lastSeen := s.now })
      if m.desc.op = COp.index ∧ !ascendingBelow m.desc.count (indexValues input) then endColl s g q St.badarg
      else
        let n := if m.desc.op = COp.dispatch then droppedRoutes j input else 0
        let s := bumpB s (BCtr.moeDrop).idx n
        let s := (onesOf (memberLive s g)).foldl (fun s p => memberLost s g p) s
        pump s
def execCueLaunch (group : Nat) (cueSeq : BitVec 16) (input : Bytes) (s : State) : Res :=
  .next (cueLaunchOp s group cueSeq.toNat input)

/-- T_R at a member (R335). -/
def memberTR (m : MColl) : Nat := max (m.hold / 8) (2 * Config.seatMaxFlight)

/-- COLL_RESEND: T_R after the last send of a stripe whose result is not received. -/
def collResendOp (s : State) (g q k : Nat) : State :=
  match findColl s g q with
  | none => s
  | some m =>
    match m.stripes.find? (fun x => x.stripe == k) with
    | none => s
    | some x =>
      if running m && x.sent && !x.done && passed s x.lastSend (memberTR m) && bpOpen s x.plane then sendStripe s m k x.plane else s
def execCollResend (group : Nat) (cueSeq : BitVec 16) (stripe : Nat) (s : State) : Res :=
  .next (collResendOp s group cueSeq.toNat stripe)

/-- COLL_MEMBER_TIMEOUT (R337). -/
def collMemberTimeoutOp (s : State) (g q : Nat) : State :=
  match findColl s g q with
  | none => s
  | some m => if running m && passed s m.lastSeen (m.hold + 2 * Config.seatMaxFlight) then pump (endColl s g q St.timeout) else s
def execCollMemberTimeout (group : Nat) (cueSeq : BitVec 16) (s : State) : Res := .next (collMemberTimeoutOp s group cueSeq.toNat)

/-! ## Curtain (R306, R307) -/

def releaseCurtain (s : State) (g q : Nat) : State := endColl (emit s (.curtain g q)) g q St.ok

/-- CURTAIN_RELEASE: the counter reads RELEASE_CUE or later. -/
def curtainReleaseOp (s : State) (g q : Nat) : State :=
  match findColl s g q with
  | none => s
  | some m =>
    match m.release with
    | some c => if m.status.isNone && decide (c.toNat ≤ s.blg.cue.count.toNat) then releaseCurtain s g q else s
    | none => s
def execCurtainRelease (group : Nat) (cueSeq : BitVec 16) (s : State) : Res := .next (curtainReleaseOp s group cueSeq.toNat)

/-! ## Results (R319, R336, R337, R340) -/

/-- Byte ranges of the output region that a stripe fills, with their bytes, from the chunks held. -/
def stripeBytes (m : MColl) (j : CJob) (k : Nat) (got : List Got) : List (Nat × Bytes) :=
  let chunkOf := fun c => ((got.find? (fun (x : Got) => x.chunk == c)).map (·.data)).getD []
  let op := m.desc.op
  if op = COp.index then
    let head := ceilDiv (ceilDiv m.desc.count 32768) 48 * 48
    match got.find? (fun x => x.chunk == k / 48 && x.valid == 4 * (k % 48) + 4) with
    | none => []
    | some c =>
      (4 * k, slice c.data (4 * (k % 48)) 4) ::
        (chunkParts 48 (head + k * m.desc.aux) (min (natAt c.data (4 * (k % 48)) 4) m.desc.aux)).map (fun p =>
          (192 * p.1 + 4 * p.2.1,
            slice (((got.find? (fun x => x.chunk == p.1 && x.valid == 4 * p.2.2)).map (·.data)).getD []) (4 * p.2.1)
              (4 * (p.2.2 - p.2.1))))
  else if op = COp.kernel ∨ op = COp.lse ∨ op = COp.combine ∨ op = COp.dispatch then
    (got.filter (fun x => decide (x.chunk < censusBit))).map (fun x => (192 * x.chunk, x.data.take x.valid))
  else
    (outRanges j m.rank k).flatMap (fun r => (chunkParts (perOut j.d) r.1 r.2).flatMap (fun p =>
      let d := chunkOf p.1
      if isMx j.d.ofmt then
        let w := 4 * elemBits j.d.ofmt
        let a := p.2.1 / 32
        let n := ceilDiv p.2.2 32 - a
        let sc := mxScaleAt j.d.ofmt
        [(192 * p.1 + w * a, slice d (w * a) (w * n)), (192 * p.1 + sc + a, slice d (sc + a) n)]
      else
        let w := wordBytes j.d.ofmt
        [(192 * p.1 + p.2.1 * w, slice d (p.2.1 * w) ((p.2.2 - p.2.1) * w))]))

/-- A stripe's result is whole: it is written, and its place in the window is free. -/
def stripeWhole (s : State) (m : MColl) (k : Nat) : State :=
  let got := m.got.filter (fun x => x.who == k)
  let s := (stripeBytes m (jobOf m) k got).foldl (fun s b => emit s (.region (BitVec.ofNat 64 (m.outVa + b.1)) b.2)) s
  let s := modColl s m.group m.seq (fun m => { m with
    got := m.got.filter (fun x => x.who != k),
    stripes := m.stripes.map (fun x => if x.stripe = k then { x with done := true } else x) })
  pump (endWhole s m.group m.seq)

/-- Chunks of an INDEX_MERGE result (R389): the count of stripe `k`, and its segment once the count is known. -/
def indexPlaces (d : Desc) (k : Nat) (count : Option Nat) : List (Nat × Nat) :=
  let head := ceilDiv (ceilDiv d.count 32768) 48 * 48
  (k / 48, 4 * (k % 48) + 4) :: (match count with
    | none => []
    | some n => (chunkParts 48 (head + k * d.aux) (min n d.aux)).map (fun p => (p.1, 4 * p.2.2)))

/-- Does a result chunk belong to stripe `k`, and is the stripe whole with the chunks held? -/
def belongs (m : MColl) (j : CJob) (k : Nat) (kind : BitVec 5) (chunk valid : Nat) : Bool :=
  let op := m.desc.op
  if op = COp.dispatch then
    if kind = Kind.mcast then true else chunk == censusBit + k
  else if op = COp.index then
    let seg := ceilDiv (ceilDiv m.desc.count 32768) 48 * 48 + k * m.desc.aux
    (indexPlaces m.desc k none).contains (chunk, valid) ||
      (chunkParts 48 seg m.desc.aux).any (fun p => p.1 == chunk && decide (4 * p.2.1 < valid) && decide (valid ≤ 4 * p.2.2))
  else (expectOf j m.rank k).any (fun e => e.1 == chunk && (e.2 == 0 || e.2 == valid))

def stripeHeld (m : MColl) (j : CJob) (k : Nat) (got : List Got) : Bool :=
  let has := fun (c v : Nat) => got.any (fun (x : Got) => x.who == k && x.chunk == c && (v == 0 || x.valid == v))
  let op := m.desc.op
  if op = COp.dispatch then
    match got.find? (fun x => x.who == k && x.chunk == censusBit + k) with
    | none => false
    | some c => got.countP (fun x => x.who == k && decide (x.chunk < censusBit)) == natAt c.data 0 4
  else if op = COp.index then
    match got.find? (fun x => x.who == k && x.chunk == k / 48 && x.valid == 4 * (k % 48) + 4) with
    | none => false
    | some c => (indexPlaces m.desc k (some (natAt c.data (4 * (k % 48)) 4))).all (fun p => has p.1 p.2)
  else (expectOf j m.rank k).all (fun e => has e.1 e.2)

/-- The stripe of a record of MOE_DISPATCH, from its header (R397): that of its token. -/
def recordStripe (j : CJob) (data : Bytes) : Nat := unitChunk j (natAt data 12 4) / 1024

/-- A result chunk is taken for the stripe it belongs to, among those the arrival plane serves. -/
def takeResult (s : State) (m : MColl) (kind : BitVec 5) (h : CHead) (data : Bytes) (port : Nat) : State :=
  let j := jobOf m
  let fits := fun (x : MStripe) => !x.done && planeOf m.planes (memberLive s m.group) x.stripe == some port &&
    belongs m j x.stripe kind h.chunk h.valid &&
    (m.desc.op != COp.dispatch || kind != Kind.mcast || recordStripe j data == x.stripe) &&
    !m.got.any (fun y => y.who == x.stripe && y.chunk == h.chunk && y.valid == h.valid)
  match m.stripes.find? fits with
  | none => s
  | some x =>
    let g : Got := { who := x.stripe, chunk := h.chunk, valid := h.valid, data := data }
    let hosted := hostedBy j.tab m.rank
    let first := m.desc.op == COp.dispatch && kind == Kind.mcast && natAt data 16 2 == 0
    let key := natAt data 0 2 * hosted.length + hosted.findIdx (· == natAt data 2 2)
    let m' := { m with got := m.got ++ [g], counts := if first then kmod m.counts key 0 (· + 1) else m.counts }
    let s := modColl s m.group m.seq (fun _ => m')
    if stripeHeld m' j x.stripe m'.got then stripeWhole s m' x.stripe else s

/-- The RESULT of a curtain. -/
def takeCurtain (s : State) (m : MColl) (data : Bytes) : State :=
  if m.release.isSome then s
  else
    let c := natAt data 0 8
    let s := modColl s m.group m.seq (fun m => { m with release := some (BitVec.ofNat 64 c),
                                                        stripes := m.stripes.map (fun x => { x with done := true }) })
    if c < s.blg.cue.count.toNat then releaseCurtain (bumpBC s .curtainLate) m.group m.seq else pump s

/-- This Belug's entry of the group table: the lowest valid index (R518). -/
def groupEntry (b : Belug) (g : Nat) : Option Nat :=
  (List.range 256).find? (fun i => let w := leNat (memRead b.groupMem (0x3000 + 0x20 * i) 2); bitOf w 15 && w % 4096 == g)
def entryField (b : Belug) (i a n : Nat) : Nat := leNat (memRead b.groupMem (0x3000 + 0x20 * i + a) n)

/-- R319: the flit is for this member. -/
def forMember (s : State) (f : Flit) : Bool :=
  let h := cHead f
  let rank := match findColl s h.group h.cueSeq with
    | some m => some m.rank
    | none => (groupEntry s.blg h.group).map (fun i => entryField s.blg i 2 2 % 16384)
  (f.dst == s.blg.node || f.dst == 0xFFFF) && (some h.rank == rank || h.rank == everyRank)

/-- Something of the collective arrived (R337). -/
def noteSeen (s : State) (f : Flit) : State :=
  modColl s (cHead f).group (cHead f).cueSeq (fun m => { m with lastSeen := s.now })

/-- A result or multicast chunk at the member. -/
def memberResult (s : State) (f : Flit) (port : Nat) : State :=
  let h := cHead f
  if !forMember s f then s
  else
    let s := noteSeen s f
    match findColl s h.group h.cueSeq with
    | none => s
    | some m =>
      if !running m then s
      else if m.desc.op = COp.curtain then takeCurtain s m (elemBytes f)
      else takeResult s m f.kind h (elemBytes f) port

/-- STATUS of an ABORT as a completion's status (R507). -/
def abortStatus (c : Nat) : Nat :=
  if c = Ctl.mismatch then St.mismatch else if c = Ctl.struck then St.struck else if c = Ctl.nokey then St.nokey else St.timeout

/-- An ABORT at the member (R339): sent once on every other BP of LIVE; the collective ends with its status. -/
def memberAbort (s : State) (f : Flit) (port : Nat) : State :=
  let h := cHead f
  if !forMember s f then s
  else
    match findColl s h.group h.cueSeq with
    | none => s
    | some m =>
      if m.status.isSome then s
      else pump (endColl (ctlOthers s m stepAbort port (elemBytes f)) h.group h.cueSeq (abortStatus (ctlStatus f)))

/-- A REMAP at the member; one that comes from the plane it names is relayed on the others first (R347). -/
def memberRemapFlit (s : State) (f : Flit) (port : Nat) : State :=
  let h := cHead f
  let p := ctlPlane f
  if !forMember s f || !(memberLive s h.group).getLsbD p then s
  else
    let s := noteSeen s f
    let s := match s.blg.colls.find? (fun m => m.group == h.group && m.status.isNone) with
      | some m => if port = p then ctlOthers s m stepRemap p (elemBytes f) else s
      | none => s
    memberRemap s h.group p

end Sys2Proof.Machine
end

