-- ==== Sys2Proof/Machine/CollArith.lean ====
section
/-! DEFINITION. The arithmetic of a stripe (R331, R369 to R398): what each chunk adds, the FP64 tree, partials between reducers, the
results of a complete stripe. -/

namespace Sys2Proof.Machine

open Sys2Proof

/-! ## Ledgers of a chunk -/

/-- Width of the ledgers (R369); LSE_MERGE keeps S beside N_k in one width, which changes no value. -/
def accWidth (d : Desc) : Nat := if d.op = COp.combine ∨ d.op = COp.lse then 640 else if isInt d.fmt then 128 else 320
/-- FP64 reductions follow the tree (R331, R376, R380). -/
def treed (d : Desc) : Bool := d.fmt == 0x01 && (d.op == COp.allReduce || d.op == COp.reduceScatter)
/-- OPs that copy: the members' own chunks go up (log 54). -/
def copyOp (op : Nat) : Bool := [COp.allGather, COp.multicast, COp.index, COp.dispatch, COp.curtain].contains op

def oneTerm (w : Nat) (v : Num) : Ledger := ledgerAdd (emptyLedger w) v

/-- Two accumulated values of an element become one (R370, R371, R374). -/
def joinAcc (d : Desc) (a b : Ledger) : Ledger :=
  let w := elemBits d.fmt
  let bitwise := fun (f : Nat → Nat → Nat) => oneTerm a.width (dyadic (sext w (f (twos w a.val) (twos w b.val))) 0)
  match d.opr with
  | 2 => oneTerm a.width (minNum (ledgerNum 0 a) (ledgerNum 0 b))
  | 3 => oneTerm a.width (maxNum (ledgerNum 0 a) (ledgerNum 0 b))
  | 4 => bitwise (· &&& ·)
  | 5 => bitwise (· ||| ·)
  | 6 => bitwise (· ^^^ ·)
  | _ => ledgerMerge a b
def joinAll (d : Desc) : List Ledger → Ledger
  | [] => emptyLedger (accWidth d)
  | l :: ls => ls.foldl (joinAcc d) l

/-- Elements of chunk `c`. -/
def elemsIn (j : CJob) (c : Nat) : Nat :=
  if unitOp j.d.op then
    let p := c % 1024 % unitChunks j
    if j.d.op = COp.sparse then min (perIn j.d) (j.d.aux - p * perIn j.d) else partElems j p
  else (chunkSpan j c).2
/-- Ledgers of chunk `c`: element 0 of an LSE partial is S (R391). -/
def accLen (j : CJob) (c : Nat) : Nat := elemsIn j c + b2n (j.d.op == COp.lse)

/-! ### LSE-merge (R390 to R394) -/

def lseM (data : Bytes) : Num := decodeFloat fp32 (natAt data 0 4)
def lseS (data : Bytes) : Num := decodeFloat fp32 (natAt data 4 4)
/-- NaN or +infinity in m or s (R394). -/
def lseBad (data : Bytes) : Bool :=
  let bad := fun (v : Num) => v == .nan || v == .inf false
  bad (lseM data) || bad (lseS data)
/-- What a chunk adds to the largest m; NaN where R394 makes all NaN. -/
def lseMax (data : Bytes) : Num := if lseBad data then .nan else lseM data

/-- S and N_k that a member's chunk adds, M known (R391 phase 2). -/
def lseAccs (d : Desc) (M : Num) (n : Nat) (data : Bytes) : List Ledger :=
  let none_ := List.replicate (n + 1) (emptyLedger 640)
  if lseBad data || M.isNan || lseM data == .inf true then none_
  else
    let w := mul32 (lseS data) (exp2 (rne32 (addNum 0 (lseM data) (negNum M))))
    if w.isZero then none_
    else oneTerm 640 w :: (List.range n).map (fun i => oneTerm 640 (mulNum w (elemNum d.fmt (data.drop 8) i)))

/-- n / s, rounded once (IEEE 754 division). -/
def divFloat (f : FloatFmt) (sat : Bool) (n s : Num) : Nat :=
  match n, s with
  | .nan, _ => nanCode f
  | _, .nan => nanCode f
  | .inf _, .inf _ => nanCode f
  | .inf x, s => overflowCode f 0 sat true (x != s.neg?)
  | n, .inf y => signBit f (n.neg? != y)
  | .zero x, s => signBit f (x != s.neg?)
  | _, .zero _ => 0
  | .fin m e, .fin k x =>
    let q := min e x
    encodeRat f 0 sat (decide (m < 0) != decide (k < 0)) (m.natAbs * 2 ^ (e - q).toNat) (k.natAbs * 2 ^ (x - q).toNat)

/-- The result chunk of one merged chunk from M and its ledgers, elements `a` to `a + n - 1`. -/
def lseResult (d : Desc) (M : Num) (accs : List Ledger) (a n : Nat) : Bytes :=
  let f := (floatOf d.ofmt).getD fp32
  let put := fun (m s : Nat) (os : List Nat) => pad 192 (leBytes 4 m ++ leBytes 4 s ++ os.flatMap (leBytes (wordBytes d.ofmt)))
  if M.isNan then put (nanCode fp32) (nanCode fp32) (List.replicate n (nanCode f))
  else
    let sOut := encodeFloat fp32 0 false (ledgerNum 0 (accs.headD (emptyLedger 640)))
    let s := decodeFloat fp32 sOut
    put (encodeFloat fp32 0 false M) sOut ((List.range n).map (fun i =>
      if s.isZero then 0 else divFloat f (satOf d) (rne32 (ledgerNum 0 (accs.getD (a + i + 1) (emptyLedger 640)))) s))

/-! ### Terms -/

/-- What one member chunk, or one record of MOE_COMBINE, adds (R370, R391, R398). -/
def chunkAccs (j : CJob) (M : Num) (c : Nat) (data : Bytes) : List Ledger :=
  let n := elemsIn j c
  if j.d.op = COp.lse then lseAccs j.d M n data
  else if j.d.op = COp.combine then
    let gate := decodeFloat fp32 (natAt data 8 4)
    (List.range n).map (fun i => if gate.isZero then emptyLedger 640
      else oneTerm 640 (mulNum gate (elemNum j.d.fmt (data.drop 64) i)))
  else (List.range n).map (fun i => oneTerm (accWidth j.d) (elemNum j.d.fmt data i))

/-- Element by element over several chunks. -/
def joinChunks (j : CJob) (c : Nat) (xs : List (List Ledger)) : List Ledger :=
  (List.range (accLen j c)).map (fun i => joinAll j.d (xs.filterMap (fun x => x[i]?)))

/-! ## FP64 tree (R331, R376) -/

def clog2 : Nat → Nat → Nat
  | 0, _ => 0
  | f + 1, n => if n ≤ 1 then 0 else clog2 f ((n + 1) / 2) + 1
def treeDepth (n : Nat) : Nat := clog2 15 n
/-- One node: a SUM under ROUND, or MIN or MAX; NaN is canonical. -/
def node64 (d : Desc) (a b : Nat) : Nat :=
  let x := decodeFloat fp64 a
  let y := decodeFloat fp64 b
  encodeFloat fp64 (rndOf d) false (if d.opr = 2 then minNum x y else if d.opr = 3 then maxNum x y else addNum (rndOf d) x y)
/-- Value of a node of height `h` from the nodes given, where all its present leaves are covered. -/
def treeVal (d : Desc) (given : List (Nat × Nat)) (n : Nat) : Nat → Nat → Option Nat
  | 0, node => (given.find? (·.1 == node)).map (·.2)
  | h + 1, node =>
    match given.find? (·.1 == node) with
    | some x => some x.2
    | none =>
      match treeVal d given n h (2 * node) with
      | none => none
      | some a =>
        if n ≤ (2 * node + 1) * 2 ^ h - 2 ^ treeDepth n then some a
        else (treeVal d given n h (2 * node + 1)).map (node64 d a)
/-- The largest nodes that can be evaluated, with their values. -/
def treeTops (d : Desc) (given : List (Nat × Nat)) (n : Nat) : Nat → Nat → List (Nat × Nat)
  | 0, node => ((treeVal d given n 0 node).map (fun v => (node, v))).toList
  | h + 1, node =>
    match treeVal d given n (h + 1) node with
    | some v => [(node, v)]
    | none => treeTops d given n h (2 * node) ++ treeTops d given n h (2 * node + 1)
def topsOf (d : Desc) (given : List (Nat × Nat)) (n : Nat) : List (Nat × Nat) := treeTops d given n (treeDepth n) 1
def leafNode (n r : Nat) : Nat := 2 ^ treeDepth n + r

/-! ## Partials (R377 to R380) -/

def kindCompact : Nat := 0
def kindWide : Nat := 1
def kindMaxUp : Nat := 2
def kindMaxDown : Nat := 3
def partRank (kind ord sub : Nat) : Nat := kind * 4096 + ord % 4 * 1024 + sub % 1024

/-- Position of the lowest set bit. -/
def lowBit : Nat → Nat → Nat
  | 0, _ => 0
  | f + 1, n => if n % 2 = 1 then 0 else lowBit f (n / 2) + 1

/-- A compact entry, WIDE where SIG does not fit (R378, R379). -/
def compactEntry (l : Ledger) : Bytes × Bool :=
  let t := lowBit 700 l.val.natAbs
  let sig := l.val / 2 ^ t
  let entry := fun (sig ex : Int) (w : Bool) =>
    leBytes 8 (twos 64 sig) ++ leBytes 2 (twos 16 ex) ++ leBytes 1 (ledgerFlags l + 32 * b2n w) ++ zeros 1
  if l.val = 0 then (entry 0 0 false, false)
  else if fitsSigned 64 sig then (entry sig (ledgerB l.width + t) false, false)
  else (entry 0 0 true, true)

/-- Groups of at most `n`. -/
def groupsOf {α : Type} (n : Nat) (xs : List α) : List (List α) :=
  (List.range (ceilDiv xs.length n)).map (fun i => (xs.drop (n * i)).take n)

/-- A partial flit without its head: RANK, CHUNK, VALID, element bytes. -/
structure PartFlit where
  rank : Nat
  chunk : Nat
  valid : Nat
  data : Bytes
  deriving DecidableEq, Repr

/-- Bytes of a wide entry, and where its ledger starts (R379); LI takes the form of LF. -/
def wideLen (w : Nat) : Nat := if w = 640 then 96 else 48
def wideAt (w : Nat) : Nat := if w = 640 then 16 else 8

/-- The compact flits and wide flits of a chunk's ledgers. -/
def ledgerParts (c : Nat) (ls : List Ledger) : List PartFlit :=
  let subs := groupsOf 16 ls
  (List.range subs.length).flatMap (fun sub =>
    let g := subs.getD sub []
    let es := g.map compactEntry
    let wide := (List.range g.length).filter (fun i => (es.getD i ([], false)).2)
    let w := (g.headD (emptyLedger 320)).width
    let entry := fun (i : Nat) => pad (wideLen w) (pad (wideAt w) (leBytes 2 i) ++
      leBytes (wideLen w - wideAt w) (twos (8 * (wideLen w - wideAt w)) (g.getD i (emptyLedger w)).val))
    let ws := groupsOf (192 / wideLen w) wide
    { rank := partRank kindCompact 0 sub, chunk := c, valid := 12 * g.length, data := pad 192 (es.flatMap (·.1)) } ::
      (List.range ws.length).map (fun o =>
        let x := ws.getD o []
        { rank := partRank kindWide o sub, chunk := c, valid := wideLen w * x.length, data := pad 192 (x.flatMap entry) }))

/-- The FP64 partial of a chunk: element, node, value (R380). -/
def nodeParts (c : Nat) (xs : List (Nat × Nat × Nat)) : List PartFlit :=
  let gs := groupsOf 12 xs
  (List.range gs.length).map (fun sub =>
    let g := gs.getD sub []
    { rank := partRank kindCompact 0 sub, chunk := c, valid := 16 * g.length,
      data := pad 192 (g.flatMap (fun x => leBytes 2 x.1 ++ zeros 2 ++ leBytes 4 x.2.1 ++ leBytes 8 x.2.2)) })

/-- What tells apart flits of one sender and CHUNK: RANK, and the first entry where more flits share an ordinal or a SUB than RANK
can number (log 54). -/
def partKey (d : Desc) (rank : Nat) (data : Bytes) : Nat :=
  if treed d then rank + 2 ^ 14 * natAt data 0 2 + 2 ^ 30 * natAt data 4 4
  else if rank / 4096 = kindWide then rank + 2 ^ 14 * natAt data 0 2 else rank

/-- A ledger from its compact entry, its wide entry looked up. -/
def entryLedger (w : Nat) (e : Bytes) (wide : Option Bytes) : Option Ledger :=
  let fl := byteAt e 10
  if bitOf fl 5 then
    wide.map (fun x => ledgerOf w (twos w (sext (8 * (wideLen w - wideAt w)) (natAt x (wideAt w) (wideLen w - wideAt w)))) (fl % 32))
  else
    let sig := sext 64 (natAt e 0 8)
    some { ledgerOf w 0 (fl % 32) with val := sig * 2 ^ (sext 16 (natAt e 8 2) - ledgerB w).toNat }

/-- Every ledger of a chunk from the flits of one sender; none while one is missing. -/
def ledgersFrom (w c len : Nat) (ps : List Got) : Option (List Ledger) :=
  let mine := ps.filter (fun p => p.chunk == c)
  let pick := fun (kind sub : Nat) => mine.filter (fun p => p.field % 16384 / 4096 == kind && p.field % 1024 == sub)
  (List.range len).foldr (fun i acc =>
    match acc, (pick kindCompact (i / 16)).head? with
    | some ls, some p =>
      let k := i % 16
      let wides := (pick kindWide (i / 16)).flatMap (fun (x : Got) =>
        (List.range (x.valid / wideLen w)).map (fun t => slice x.data (wideLen w * t) (wideLen w)))
      (entryLedger w (slice p.data (12 * k) 12) (wides.find? (fun x => natAt x 0 2 == k))).map (· :: ls)
    | _, _ => none) (some [])

/-- Nodes of every element of a chunk from FP64 partials. -/
def nodesFrom (c : Nat) (ps : List Got) : List (Nat × Nat × Nat) :=
  (ps.filter (fun p => p.chunk == c)).flatMap (fun p => (List.range (p.valid / 16)).map (fun t =>
    (natAt p.data (16 * t) 2, natAt p.data (16 * t + 4) 4, natAt p.data (16 * t + 8) 8)))

/-! ## Results -/

def numInt : Num → Int
  | .fin m e => m * 2 ^ e.toNat
  | _ => 0

/-- Elements of a chunk in OFMT, the first at place `at_` (R367, R372, R375, R381). -/
def encPart (d : Desc) (at_ : Nat) (vs : List Num) : Bytes :=
  if isMx d.ofmt then mxChunk d.ofmt (rndOf d) (List.replicate at_ (.zero false) ++ vs)
  else
    let w := wordBytes d.ofmt
    let enc := fun (v : Num) => match floatOf d.ofmt with
      | some f => encodeFloat f (rndOf d) (satOf d) v
      | none => encodeInt (8 * w) (satOf d) (numInt v)
    pad 192 (zeros (at_ * w) ++ vs.flatMap (fun v => leBytes w (enc v)))

/-- A result flit: RANK, whether its KIND is MCAST, CHUNK, VALID, element bytes. -/
structure ResFlit where
  rank : Nat
  mc : Bool := false
  chunk : Nat
  valid : Nat
  data : Bytes
  deriving DecidableEq, Repr

def orBytes (a b : Bytes) : Bytes := (List.range (max a.length b.length)).map (fun i => a.getD i 0 ||| b.getD i 0)
/-- Parts of one CHUNK become one chunk. -/
def mergeParts (ps : List (Nat × Nat × Bytes)) : KMap (Nat × Bytes) :=
  ps.foldl (fun m p => kmod m p.1 (0, []) (fun x => (max x.1 p.2.1, orBytes x.2 p.2.2))) []

def validOf (d : Desc) (b : Nat) : Nat := if isMx d.ofmt then 192 else b * wordBytes d.ofmt

/-- The chunks that fill `n` elements from place `start` of a member's region with the values `vs`. -/
def rangeParts (d : Desc) (start : Nat) (vs : List Num) : List (Nat × Nat × Bytes) :=
  (chunkParts (perOut d) start vs.length).map (fun p =>
    (p.1, validOf d p.2.2, encPart d p.2.1 ((vs.drop (p.1 * perOut d + p.2.1 - start)).take (p.2.2 - p.2.1))))

/-- All chunk numbers a stripe can have. -/
def chunksOf (j : CJob) (s : Nat) : List Nat :=
  if unitOp j.d.op then (List.range ((unitsOf j s).length * unitChunks j)).map (1024 * s + ·) else denseChunks j s

/-- Results of a stripe of a reduction, from the exact value of each of its elements (R322, R387). -/
def reduceResults (j : CJob) (s : Nat) (vs : List Num) : List ResFlit :=
  let (lo, _) := spanOf j s
  let flits := fun (rank start off n : Nat) =>
    (mergeParts (rangeParts j.d start ((vs.drop off).take n))).map (fun p =>
      ({ rank := rank, chunk := p.1, valid := p.2.1, data := p.2.2 } : ResFlit))
  if j.d.op = COp.reduceScatter then
    (List.range j.n).flatMap (fun r => (outRanges j r s).flatMap (fun x => flits r x.1 (x.1 + r * (j.d.count / j.n) - lo) x.2))
  else flits everyRank lo 0 vs.length

/-- Results of a stripe of LSE_MERGE. -/
def lseResults (j : CJob) (s : Nat) (M : Nat → Num) (acc : Nat → List Ledger) : List ResFlit :=
  let k := perIn j.d / perOut j.d
  (denseChunks j s).flatMap (fun c =>
    let n := (chunkSpan j c).2
    (List.range (ceilDiv n (perOut j.d))).map (fun i =>
      let m := min (perOut j.d) (n - i * perOut j.d)
      { rank := everyRank, chunk := k * c + i, valid := 8 + m * wordBytes j.d.ofmt,
        data := lseResult j.d (M c) (acc c) (i * perOut j.d) m }))

/-- Results of a stripe of MOE_COMBINE (R398). -/
def combineResults (j : CJob) (s : Nat) (acc : Nat → List Ledger) : List ResFlit :=
  (List.range j.n).flatMap (fun q => (tokensOf j q s).flatMap (fun i => (List.range (tokenChunks j)).map (fun p =>
    let c := unitChunk j (q * j.d.count + i) + p
    let vs := (acc c).map (ledgerNum (rndOf j.d))
    let w := wordBytes j.d.ofmt
    { rank := q, chunk := i * tokenChunks j + p, valid := 64 + partElems j p * w,
      data := pad 192 (zeros 64 ++ (encPart j.d 0 vs).take (partElems j p * w)) })))

/-- A rank's chunk of a stripe. -/
def gotChunk (got : List Got) (r c : Nat) : Bytes := ((got.find? (fun g => g.who == r && g.chunk == c)).map (·.data)).getD (zeros 192)

/-- The elements of rank `r` in a stripe, copied to place `start` of a region (R368). -/
def copyParts (j : CJob) (s : Nat) (got : List Got) (r start : Nat) : List (Nat × Nat × Bytes) :=
  let n := (spanOf j s).2
  let raw := (denseChunks j s).flatMap (fun c => pad 192 (gotChunk got r c))
  let per := perOut j.d
  (chunkParts per start n).map (fun p =>
    let off := p.1 * per + p.2.1 - start
    let k := p.2.2 - p.2.1
    (p.1, validOf j.d p.2.2,
      if isMx j.d.fmt then mxPut j.d.fmt (p.2.1 / 32) ((List.range (k / 32)).map (fun i => mxGet j.d.fmt raw (off / 32 + i)))
      else pad 192 (zeros (p.2.1 * wordBytes j.d.fmt) ++ slice raw (off * wordBytes j.d.fmt) (k * wordBytes j.d.fmt))))

def copyResults (j : CJob) (s : Nat) (got : List Got) : List ResFlit :=
  let (lo, _) := spanOf j s
  let mc := j.d.op == COp.multicast
  let ps := if mc then copyParts j s got j.d.root lo
    else (List.range j.n).flatMap (fun r => copyParts j s got r (r * j.d.count + lo))
  (mergeParts ps).map (fun p => { rank := everyRank, mc := mc, chunk := p.1, valid := p.2.1, data := p.2.2 })

/-- The values of one member's list in a stripe. -/
def indexGot (j : CJob) (s : Nat) (got : List Got) (r : Nat) : List Nat :=
  let n := natAt (gotChunk got r (censusBit + s)) 0 4
  (List.range n).map (fun i => natAt (gotChunk got r (1024 * s + i / 48)) (4 * (i % 48)) 4) |>.filter (fun v => decide (v < j.d.count))
def insertSorted (v : Nat) : List Nat → List Nat
  | [] => [v]
  | x :: xs => if v < x then v :: x :: xs else if v = x then x :: xs else x :: insertSorted v xs
/-- Results of a stripe of INDEX_MERGE (R389): the count of the union, then its smallest values. -/
def indexResults (j : CJob) (s : Nat) (got : List Got) : List ResFlit :=
  let u := ((List.range j.n).flatMap (indexGot j s got)).foldr insertSorted []
  let head := ceilDiv (ceilDiv j.d.count 32768) 48 * 48
  let vs := u.take (min u.length j.d.aux)
  let start := head + s * j.d.aux
  { rank := everyRank, chunk := s / 48, valid := 4 * (s % 48) + 4, data := pad 192 (zeros (4 * (s % 48)) ++ leBytes 4 u.length) } ::
    (chunkParts 48 start vs.length).map (fun p =>
      { rank := everyRank, chunk := p.1, valid := 4 * p.2.2,
        data := pad 192 (zeros (4 * p.2.1) ++ ((vs.drop (p.1 * 48 + p.2.1 - start)).take (p.2.2 - p.2.1)).flatMap (leBytes 4)) })

/-- The records of a stripe of MOE_DISPATCH (R397), with the number of them for each rank. -/
def dispatchResults (j : CJob) (s : Nat) (got : List Got) : List ResFlit :=
  let records := (List.range j.n).flatMap (fun src => (unitsOf j s).flatMap (fun t => (List.range (tokenChunks j)).flatMap (fun p =>
    let c := gotChunk got src (unitChunk j t + p)
    (List.range 8).filterMap (fun k =>
      let e := routeExpert c k
      let o := routeOrdinal c k
      if e = 0xFFFF ∨ j.tab.cap ≤ o ∨ j.tab.rank.length ≤ e then none
      else
        let r := j.tab.rank.getD e 0
        let head := leBytes 2 src ++ leBytes 2 e ++ leBytes 2 o ++ zeros 2 ++ leBytes 4 (natAt c (8 * k + 4) 4) ++ leBytes 4 t ++
          leBytes 2 p ++ zeros 46
        some ({ rank := r, mc := true, chunk := slotChunk j r e src o p, valid := 64 + partElems j p * wordBytes j.d.fmt,
                data := pad 192 (head ++ slice c 64 128) } : ResFlit)))))
  records ++ (List.range j.n).map (fun r =>
    { rank := r, chunk := censusBit + s, valid := 4, data := pad 192 (leBytes 4 (records.countP (fun x => x.rank == r))) })

end Sys2Proof.Machine
end

