-- ==== Sys2Proof/Machine/WardOps.lean ====
section
/-! DEFINITION. Wardrobes (R446 to R467): pools, offsets, the free store, allocation and freeing. -/

namespace Sys2Proof.Machine

open Sys2Proof

/-! ## Wardrobes (R446 to R463) -/

def bufSize (k : Nat) : Nat := 256 * 4 ^ k
/-- The smallest pool whose buffers hold `n` bytes. -/
def poolFor (n : Nat) : Nat := ((List.range 8).find? (fun k => n ≤ bufSize k)).getD 7
/-- Offset of pool `k` from the base: the pools lie in descending size (R449). -/
def poolStart (counts : List Nat) (k : Nat) : Nat :=
  ((List.range 8).filter (fun j => k < j)).foldl (fun n j => n + lget counts j * bufSize j) 0
def wardTotal (counts : List Nat) : Nat := (List.range 8).foldl (fun n j => n + lget counts j * bufSize j) 0
/-- The carve's length: pools, control page, rounded up to 64 KiB (R449). -/
def wardLen (counts : List Nat) : Nat := (wardTotal counts + 65536 + 65535) / 65536 * 65536
def controlPage (w : Wardrobe) : Nat := w.base + wardTotal w.counts
def bufOffset (w : Wardrobe) (k i : Nat) : Nat := w.base + poolStart w.counts k + i * bufSize k
def ownKey (k i : Nat) : Nat := k * 2 ^ 24 + i

/-- The buffer that starts at a pool offset. -/
def bufAt (w : Wardrobe) (off : Nat) : Option (Nat × Nat) :=
  (List.range 8).findSome? (fun k =>
    let a := w.base + poolStart w.counts k
    if a ≤ off ∧ off < a + lget w.counts k * bufSize k ∧ (off - a) % bufSize k = 0 then some (k, (off - a) / bufSize k) else none)

/-- A ring of indices as ranges, oldest first: its first index. -/
def ringPop : List (Nat × Nat) → Option (Nat × List (Nat × Nat))
  | [] => none
  | (a, n) :: rs => if n = 0 then ringPop rs else some (a, if n = 1 then rs else (a + 1, n - 1) :: rs)
def ringPush (r : List (Nat × Nat)) (i : Nat) : List (Nat × Nat) :=
  match r.getLast? with
  | some (a, n) => if a + n = i then r.dropLast ++ [(a, n + 1)] else r ++ [(i, 1)]
  | none => [(i, 1)]
def ringTake : Nat → List (Nat × Nat) → List Nat × List (Nat × Nat)
  | 0, r => ([], r)
  | n + 1, r => match ringPop r with
    | none => ([], r)
    | some (i, r) => let (xs, r) := ringTake n r; (i :: xs, r)

def freeIn (w : Wardrobe) (k : Nat) : Nat := (w.cache.getD k []).length + ((w.ring.getD k []).map (·.2)).sum

/-- The refill or the spill of R461. -/
def cacheTurn (w : Wardrobe) (k : Nat) : Wardrobe :=
  let c := w.cache.getD k []
  let r := w.ring.getD k []
  if c.length < 16 then
    let (xs, r) := ringTake 32 r
    { w with cache := w.cache.set k (xs ++ c), ring := w.ring.set k r }
  else if c.length > 48 then
    let out := c.drop (c.length - 32)
    { w with cache := w.cache.set k (c.take (c.length - 32)), ring := w.ring.set k (out.reverse.foldl ringPush r) }
  else w

/-- An allocation from pool `k` (R461, R462): the cache's newest entry, after a refill where the cache is empty. -/
def wardTake (w : Wardrobe) (k : Nat) : Option (Nat × Wardrobe) :=
  let w := if (w.cache.getD k []).isEmpty then cacheTurn w k else w
  match w.cache.getD k [] with
  | [] => none
  | i :: c =>
    let w := { w with cache := w.cache.set k c }
    some (i, { w with lowest := w.lowest.set k (min (lget w.lowest k) (freeIn w k)) })

/-- A buffer becomes free; a cache of 64 spills first. -/
def wardPut (w : Wardrobe) (k i : Nat) : Wardrobe :=
  let w := if (w.cache.getD k []).length ≥ 64 then cacheTurn w k else w
  { w with cache := w.cache.set k (i :: w.cache.getD k []), owners := kdel w.owners (ownKey k i) }

/-- A wardrobe with every buffer free. -/
def newWardrobe (base carve : Nat) (counts : List Nat) : Wardrobe :=
  { base := base, carve := carve, counts := counts, lowest := counts,
    ring := counts.map (fun n => if n = 0 then [] else [(0, n)]) }

/-- The reducer wardrobe (R453): its own space from 0. -/
def reducerCounts : List Nat := [131072, 32768, 16384, 4096, 1024, 256, 64, 31]

/-- The wardrobe an internal user of a partition's group draws from (R452, R453). -/
def wardOf (v : Itvos) (part : Nat) : Nat := if (kget v.wards part).isSome && holdsPool v then part else 16

/-- Counters of a carved wardrobe's pool (R463): 0 ALLOCS, 1 FREES, 2 WR_FOREIGN_FREE, 3 EMPTY. -/
def bumpWard (s : State) (w k c : Nat) : State := if w < 16 then bump s (wardIdx w (5 * k + c)) 1 else s

/-- An allocation of at least `n` bytes for an owner; none is EMPTY (R447). -/
def wardAlloc (s : State) (w n : Nat) (owner : BitVec 16 × BitVec 16) : State × Option (Nat × Nat) :=
  let k := poolFor n
  match kget s.itv.wards w with
  | none => (s, none)
  | some x =>
    match wardTake x k with
    | none => (bumpWard s w k 3, none)
    | some (i, x) =>
      (bumpWard { s with itv.wards := kset s.itv.wards w { x with owners := kset x.owners (ownKey k i) owner } } w k 0,
       some (k, i))

/-- A buffer of a wardrobe is freed. What the reducer wardrobe's buffers hold stands with their internal users (R453; log 53). -/
def wardFree (s : State) (w k i : Nat) : State :=
  match kget s.itv.wards w with
  | none => s
  | some x =>
    let y := wardPut x k i
    bumpWard { s with itv.wards := kset s.itv.wards w y } w k 1

/-- Every buffer of a wardrobe whose owner meets `p` is reclaimed (R465, R466); how many. -/
def wardReclaim (s : State) (w : Nat) (p : BitVec 16 × BitVec 16 → Bool) : State × Nat :=
  match kget s.itv.wards w with
  | none => (s, 0)
  | some x =>
    let mine := x.owners.filter (fun o => p o.2)
    (mine.foldl (fun s o => wardFree s w (o.1 / 2 ^ 24) (o.1 % 2 ^ 24)) s, mine.length)

end Sys2Proof.Machine
end

