-- ==== Sys2Proof/Machine/CollRed.lean ====
section
/-! DEFINITION. The reducer's books (R317 to R361): who is below, control and result flits, entrance and prompt-book records,
buffers, aborts and REMAP. -/

namespace Sys2Proof.Machine

open Sys2Proof

/-! ## Lookups -/

def getCast (s : State) (g : Nat) : Option Cast := kget s.itv.coll.casts g
def modCast (s : State) (g : Nat) (f : Cast → Cast) : State :=
  { s with itv.coll.casts := s.itv.coll.casts.map (fun c => if c.1 = g then (c.1, f c.2) else c) }
def myPlane (s : State) : Nat := swPlane (swid s.itv)
def myTier (s : State) : Nat := swTier (swid s.itv)
def myIndex (s : State) : Nat := swIndex (swid s.itv)
def swidOf (p t i : Nat) : BitVec 16 := BitVec.ofNat 16 (2048 * p + 512 * t + i)

/-- A collective of a cast list, as its reducers know it. -/
def castJob (c : Cast) (d : Desc) : CJob :=
  { d := d, n := c.nodes.length, tab := c.tables.getD (d.aux % 16) { topk := 1, h := 1, cap := 1, rank := [] } }
def findEntry (c : Cast) (q : Nat) : Option CueEntry := c.sheet.find? (fun e => e.seq == q)
/-- A collective of the group is outstanding here (R324). -/
def outstanding (c : Cast) : Bool := c.sheet.any (fun e => !e.ended)
def endEntry (s : State) (g q : Nat) : State :=
  modCast s g (fun c => { c with sheet := c.sheet.map (fun e => if e.seq = q then { e with ended := true } else e) })

def isRun (g q : Nat) (r : Run) : Bool := r.group == g && r.seq == q
def findRun (s : State) (g q : Nat) : Option Run := s.itv.coll.runs.find? (isRun g q)
def modRun (s : State) (g q : Nat) (f : Run → Run) : State :=
  { s with itv.coll.runs := s.itv.coll.runs.map (fun r => if isRun g q r then f r else r) }
def findStripe (r : Run) (k : Nat) : Option StripeRun := r.stripes.find? (fun x => x.stripe == k)
def modStripe (s : State) (g q k : Nat) (f : StripeRun → StripeRun) : State :=
  modRun s g q (fun r => { r with stripes := r.stripes.map (fun x => if x.stripe = k then f x else x) })

/-! ## The tree (R329, R330) -/

def ranksWhere (c : Cast) (p : BitVec 16 → Bool) : List Nat :=
  (List.range c.nodes.length).filter (fun r => p (c.nodes.getD r 0))
def rankOf (c : Cast) (node : BitVec 16) : Option Nat := (List.range c.nodes.length).find? (fun r => c.nodes.getD r 0 == node)

/-- What a reducer receives from for stripe `k`: members below it, and switches below it with the ranks they cover. -/
def belowOf (s : State) (c : Cast) (k : Nat) : List Nat × List (BitVec 16 × List Nat) :=
  let form := formOf s.itv
  let i := myIndex s
  let p := myPlane s
  if myTier s = 0 then (ranksWhere c (fun x => nodeHouse x == i), [])
  else if myTier s = 1 then
    ([], ((housesOf c.nodes).filter (fun h => form != 2 || podOf h == i / 24)).map (fun h =>
      (swidOf p 0 h, ranksWhere c (fun x => nodeHouse x == h))))
  else ([], (podsOf c.nodes).map (fun q =>
    (swidOf p 1 (24 * q + k / popcount c.planes % 24), ranksWhere c (fun x => podOf (nodeHouse x) == q))))
def ranksBelow (s : State) (c : Cast) (k : Nat) : List Nat :=
  let (m, kids) := belowOf s c k
  m ++ kids.flatMap (·.2)

/-- This switch is the top reducer of stripe `k`; it is one of its reducers. -/
def topFor (s : State) (c : Cast) (k : Nat) : Bool := topOf (formOf s.itv) c.nodes (popcount c.planes) k == (myTier s, myIndex s)
def reducerFor (s : State) (c : Cast) (k : Nat) : Bool :=
  (reducersOf (formOf s.itv) c.nodes (popcount c.planes) k).contains (myTier s, myIndex s)
/-- The stripes of a collective that this reducer serves. -/
def stripesHere (s : State) (c : Cast) (j : CJob) : List Nat :=
  (List.range (stripeCount j)).filter (fun k => planeOf c.planes c.live k == some (myPlane s) && reducerFor s c k)

/-- One stripe of each tree the group can use on a plane (R330). -/
def treeStripes (c : Cast) : List Nat :=
  let n := popcount c.planes
  let most := (c.sheet.map (fun e => if e.ended then 1 else stripeCount (castJob c e.desc))).foldl max 1
  ((List.range 72).map (n * ·)).filter (fun k => decide (k < most) || k == 0)

def readyIn (s : State) (ports : List Nat) : Option Nat := ports.find? (fun o => (itvPort s o).st == .ready && !closing s.itv o)
/-- The ports down to the nodes named. -/
def portsDown (s : State) (nodes : List (BitVec 16)) : List Nat :=
  (downPorts (formOf s.itv) (myTier s) (myIndex s) nodes).filterMap (readyIn s)
def portUp (s : State) (c : Cast) (k : Nat) : Option Nat := readyIn s (upPorts (formOf s.itv) (myTier s) (popcount c.planes) k)

/-! ## Sending -/

/-- Numbered by its flow and encrypted where R602 says so; a plain flit keeps SEQ 0. -/
def sealNext (s : State) (f : Flit) : State × Flit :=
  if (sealKey s .itv f).isNone then (s, f)
  else
    match flowEntry s .itv f with
    | none => (s, f)
    | some s =>
      let k := dstKey f
      let fl := getOut s .itv k
      let t := kgetD (turnsOf s .itv) k (0, 0)
      let f := sealFor s .itv t.1 { f with seq := BitVec.ofNat 20 fl.next }
      let nxt := (fl.next + 1) % 2 ^ 20
      (modOut (setTurns s .itv (kset (turnsOf s .itv) k (if nxt = 0 then (t.1 + 1, t.2) else t))) .itv k
        (fun fl => { fl with next := nxt, lastSend := s.now }), f)

def sendPorts (s : State) (f : Flit) (ports : List Nat) : State :=
  if ports.isEmpty then s else let (s, f) := sealNext s f; itvMulticast s f ports

/-- A flit up the tree of stripe `k`: DST 0xFFFF, SRC this switch (R329). -/
def sendUp (s : State) (c : Cast) (k : Nat) (ctx : BitVec 16) (h : CHead) (data : Bytes) : State :=
  sendPorts s (collFlit Kind.contrib 0xFFFF (swid s.itv) ctx true h data) (portUp s c k).toList

/-- The source of what goes down: the pool node of a house switch, the switch ID above (R329, R602). -/
def downFlit (s : State) (kind : BitVec 5) (dst ctx : BitVec 16) (h : CHead) (data : Bytes) : Flit :=
  if myTier s = 0 then collFlit kind dst (poolNode s.itv) ctx false h data else collFlit kind dst (swid s.itv) ctx true h data
/-- A flit for every member, or for one rank. -/
def sendDown (s : State) (c : Cast) (kind : BitVec 5) (ctx : BitVec 16) (h : CHead) (data : Bytes) (to_ : Option Nat) : State :=
  match to_ with
  | none => sendPorts s (downFlit s kind 0xFFFF ctx h data) (portsDown s c.nodes)
  | some r => let x := c.nodes.getD r 0
              sendPorts s (downFlit s kind x ctx h data) (portsDown s [x])

/-! ## Records (R343, R351 to R353) -/

def writeEntrance (s : State) (rec_ : Bytes) : State :=
  telemeter { s with itv.coll.entrances := (s.itv.coll.entrances ++ [rec_]).drop (s.itv.coll.entrances.length + 1 - 65536) } 3 rec_

def ringAdd (ring : List Bytes) (rec_ : Bytes) : List Bytes := (ring ++ [rec_]).drop (ring.length + 1 - 33554432)

/-- The next fitted plane, ascending and wrapping; none in a house with one (R353). -/
def nextPlane (s : State) : Option Nat :=
  let F := onesOf ((s.itv.routing.chart.map (·.planes)).getD 0)
  let p := myPlane s
  match (F.find? (fun q => decide (p < q))).orElse (fun _ => F.head?) with
  | some q => if q = p then none else some q
  | none => none

/-- A Service flit to the switch of the same tier and index on plane `q`, a record at payload bytes 16 to 47 (log 50). -/
def svcRecord (s : State) (code : BitVec 16) (q : Nat) (rec_ : Bytes) : Flit :=
  { dst := swidOf q (myTier s) (myIndex s), src := swid s.itv, kind := Kind.svc, dk := true, sk := true,
    payload := payloadOf [(0, leBytes 2 code.toNat), (16, rec_)] }

def writeBook (s : State) (rec_ : Bytes) : State :=
  let s := { s with itv.coll.book := ringAdd s.itv.coll.book rec_ }
  match nextPlane s with
  | some q => itvSend s (svcRecord s Config.svcMirrorWrite q rec_)
  | none => s

def bookRec (g ext stripe plane flags status : Nat) (digest : Bytes) : Bytes :=
  leBytes 2 g ++ leBytes 6 ext ++ leBytes 4 stripe ++ leBytes 1 plane ++ leBytes 1 flags ++ leBytes 1 status ++ zeros 1 ++
    pad 16 digest

/-! ## Buffers (R333, R391, R427, R429, R451 to R453) -/

def ringOwner (s : State) : BitVec 16 × BitVec 16 := (poolNode s.itv, 0xF100)
def clusterOwner (s : State) (core : Nat) : BitVec 16 × BitVec 16 := (poolNode s.itv, BitVec.ofNat 16 (0xF000 + core / 4))

/-- Bytes that the ledgers of a RING chunk take: as R427 lays them out; an FP64 chunk keeps its members' elements (log 54). -/
def ringBytes (j : CJob) : Nat :=
  if treed j.d then 192 * j.n else if isInt j.d.fmt then 24 * perIn j.d else 48 * perIn j.d

/-- A state buffer's own and its waiting chunks' buffers are freed. -/
def freeState (s : State) (b : StateBuf) : State :=
  b.waiting.foldl (fun s w => match w.2.2 with
    | some x => wardFree s b.ward x.1 x.2
    | none => s) (wardFree s b.ward b.pool b.idx)

def coreAt (s : State) (i : Nat) : ChorusCore := kgetD s.itv.coll.cores i {}
/-- The entry that runs on a core is one of this chunk. -/
def runsEntry (s : State) (b : StateBuf) : Bool :=
  let k := coreAt s b.core
  k.active && k.group == b.group && k.seq == b.seq && k.chunk == b.chunk

/-- The state buffers that meet `p` are freed; an entry that runs completes unread (R441, R442). -/
def dropStates (s : State) (p : StateBuf → Bool) : State :=
  let gone := s.itv.coll.bufs.filter p
  let s := gone.foldl (fun s b =>
    freeState (if runsEntry s b then { s with itv.coll.cores := kmod s.itv.coll.cores b.core {} (fun k => { k with dead := true }) }
      else s) b) s
  { s with itv.coll.bufs := s.itv.coll.bufs.filter (fun b => !p b) }

def freeStripe (s : State) (g q : Nat) (x : StripeRun) : State :=
  dropStates (x.bufs.foldl (fun s b => wardFree s b.2.1 b.2.2.1 b.2.2.2) s)
    (fun b => b.group == g && b.seq == q && b.chunk / 1024 == x.stripe)

/-- The state of the stripes that meet `p` is discarded. -/
def discardStripes (s : State) (g q : Nat) (p : StripeRun → Bool) : State :=
  match findRun s g q with
  | none => s
  | some r =>
    let s := (r.stripes.filter p).foldl (fun s x => freeStripe s g q x) s
    modRun s g q (fun r => { r with stripes := r.stripes.filter (fun x => !p x) })

/-! ## What has arrived (R334, R344, R386, R388, R398) -/

/-- Places of a stripe's chunks that a bitmap of blocks marks. -/
def markedChunks (j : CJob) (k : Nat) (map : Nat) : List Nat :=
  ((List.range (unitsOf j k).length).filter (bitOf map)).flatMap (fun i =>
    (List.range (unitChunks j)).map (fun p => 1024 * k + i * unitChunks j + p))

/-- Rank `r` has sent all it owes of stripe `k`. -/
def memberWhole (j : CJob) (k : Nat) (got : List Got) (r : Nat) : Bool :=
  let mine := got.filter (fun x => x.who == r)
  let held := fun (c : Nat) => mine.any (fun x => x.chunk == c)
  let census := (mine.find? (fun x => x.chunk == censusBit + k)).map (·.data)
  let op := j.d.op
  if !(sendersOf j).contains r then true
  else if op = COp.sparse then
    match census with
    | none => false
    | some b => (markedChunks j k (leNat b)).all held
  else if op = COp.index then
    match census with
    | none => false
    | some b => (List.range (ceilDiv (natAt b 0 4) 48)).all (fun i => held (1024 * k + i))
  else if op = COp.combine then
    match census with
    | none => false
    | some b => mine.countP (fun x => decide (x.chunk < censusBit)) == natAt b 0 4
  else (chunksOf j k).all held

/-- A switch below has sent its whole partial of stripe `k`; it covers `ranks`. -/
def kidWhole (j : CJob) (k : Nat) (got parts : List Got) (kid : Nat) (ranks : List Nat) : Bool :=
  let mine := parts.filter (fun p => p.who == kid && p.field % 16384 / 4096 ≤ 1)
  let whole := fun (c : Nat) => (ledgersFrom (accWidth j.d) c (accLen j c) mine).isSome
  let census := (mine.find? (fun x => x.chunk == censusBit + k)).map (·.data)
  if copyOp j.d.op then ranks.all (memberWhole j k got)
  else if treed j.d then
    let tops := (topsOf j.d (ranks.map (fun r => (leafNode j.n r, 0))) j.n).length
    (chunksOf j k).all (fun c => (nodesFrom c mine).length == elemsIn j c * tops)
  else if j.d.op = COp.sparse then
    match census with
    | none => false
    | some b => (markedChunks j k (leNat b)).all whole
  else if j.d.op = COp.combine then
    match census with
    | none => false
    | some b => (chunksOf j k).countP whole == natAt b 0 4
  else (chunksOf j k).all whole

/-- Largest m of a chunk as the KIND 2 flits of one sender give it. -/
def maxFrom (parts : List Got) (kid c : Nat) : Option Nat :=
  (parts.find? (fun p => p.who == kid && p.field % 16384 / 4096 == kindMaxUp && decide (p.chunk ≤ c) &&
    decide (c < p.chunk + p.valid / 4))).map (fun p => natAt p.data (4 * (c - p.chunk)) 4)

/-- Chunks of an OP KERNEL stripe that a member's MERGE has run for (R344, R430). -/
def kernelMerged (s : State) (g q c r : Nat) : Bool :=
  s.itv.coll.bufs.any (fun b => b.group == g && b.seq == q && b.chunk == c && b.merged.contains r)

/-- Stripe `k` has from rank `r`, a member below, all it owes. -/
def owesNothing (s : State) (j : CJob) (run : Run) (k r : Nat) : Bool :=
  match findStripe run k with
  | none => !(sendersOf j).contains r
  | some x => x.complete.isSome || (memberWhole j k x.got r &&
      (j.d.op != COp.kernel || (chunksOf j k).all (fun c => kernelMerged s run.group run.seq c r)))

/-- Ranks missing of step `t` at this reducer (R344). -/
def missingAt (s : State) (c : Cast) (j : CJob) (run : Run) (t : Nat) : List Nat :=
  let ks := stripesHere s c j
  (List.range c.nodes.length).filter (fun r => ks.any (fun k =>
    let (mine, kids) := belowOf s c k
    (mine.contains r && stepOf j r k == t && !owesNothing s j run k r) ||
      kids.any (fun kid => kid.2.contains r && (match findStripe run k with
        | none => true
        | some x => x.complete.isNone && !x.partSent && !kidWhole j k x.got x.parts kid.1.toNat kid.2))))

/-! ## Ends of steps (R343) -/

/-- The entrance record of a step that ends now. -/
def entranceRec (s : State) (c : Cast) (j : CJob) (run : Run) (x : StepRun) (status : Nat) : Bytes :=
  let all := (ranksBelow s c 0)
  let silent := all.any (fun r => !x.arrivals.any (fun a => a.1 == r))
  let last := x.arrivals.foldl (fun (m : Nat × Nat) a => if m.2 < a.2 ∨ (a.2 = m.2 ∧ a.1 < m.1) then a else m)
    (x.arrivals.headD (0xFFFF, x.first))
  let low := if status = Ctl.timeout then (missingAt s c j run x.step).head?.getD 0xFFFF else 0xFFFF
  leBytes 2 run.group ++ leBytes 2 run.seq ++ leBytes 1 x.step ++ leBytes 1 status ++
    leBytes 2 (if silent then 0xFFFF else last.1) ++ leBytes 8 x.first ++
    leBytes 8 (if silent then s.itv.cue.count.toNat else last.2) ++ leBytes 2 x.arrivals.length ++ leBytes 2 low ++ zeros 4

/-- The open steps of a collective that meet `p` end with a status. -/
def endSteps (s : State) (g q status : Nat) (p : StepRun → Bool) : State :=
  match findRun s g q, getCast s g with
  | some run, some c =>
    match findEntry c q with
    | none => s
    | some e =>
      let j := castJob c e.desc
      let go := run.steps.filter (fun x => !x.ended && p x)
      let s := go.foldl (fun s x => writeEntrance s (entranceRec s c j run x status)) s
      modRun s g q (fun r => { r with steps := r.steps.map (fun x => if !x.ended && p x then { x with ended := true } else x) })
  | _, _ => s

/-! ## Aborts (R338, R339, R342, R344) -/

def abortCtr (code : Nat) : CollCtr :=
  if code = Ctl.mismatch then .abortMismatch else if code = Ctl.struck then .abortStruck
  else if code = Ctl.nokey then .abortNokey else .abortTimeout

/-- What the reducer knows of a collective, from its first arrival on; a curtain takes the lead in force then (R572). -/
def ensureRun (s : State) (g q : Nat) (ctx : BitVec 16) : State :=
  if (findRun s g q).isSome then s
  else { s with itv.coll.runs := s.itv.coll.runs ++
           [{ group := g, seq := q, ctx := ctx, lead := ((getCast s g).map (·.lead)).getD 256 }] }

/-- The collective ends here without an ABORT of this reducer's (R339, R342). -/
def dropColl (s : State) (g q status : Nat) : State :=
  let s := ensureRun s g q 0
  let s := endSteps s g q status (fun _ => true)
  endEntry (modRun (discardStripes s g q (fun _ => true)) g q (fun r => { r with aborted := true })) g q

/-- A control flit's head. -/
def ctlHead (g q rank step : Nat) (digest : BitVec 32) : CHead :=
  { group := g, rank := rank, cueSeq := q, step := step, digest := digest, chunk := 0, valid := 16 }

/-- CTX of the flits of a collective: that of its contributions. -/
def runCtx (s : State) (g q : Nat) : BitVec 16 :=
  match findRun s g q with
  | some r => r.ctx
  | none => match s.itv.coll.runs.find? (fun r => r.group == g) with
    | some r => r.ctx
    | none => BitVec.ofNat 16 (((getCast s g).map (·.part)).getD 0 * 4096)

/-- ABORT with a status, naming a rank: sent down, recorded by a top reducer, and the collective ends here. -/
def abortColl (s : State) (g q code rank : Nat) : State :=
  match getCast s g with
  | none => s
  | some c =>
    match findEntry c q with
    | none => s
    | some e =>
      if e.ended then s
      else
        let compared := ((findRun s g q).map (fun r => r.compared.length + (r.covered.map (·.2)).sum)).getD 0
        let s := bumpColl s (abortCtr code)
        let s := sendDown s c Kind.result (runCtx s g q) (ctlHead g q everyRank stepAbort e.digest)
          (ctlBytes code (myPlane s) rank s.itv.cue.count.toNat compared) none
        let top := (stripesHere s c (castJob c e.desc)).any (topFor s c) || topFor s c 0
        let s := if top then writeBook s (bookRec g e.ext 0xFFFFFFFF (myPlane s) 4 code []) else s
        dropColl s g q code

/-- Every outstanding collective of a partition's groups is aborted (R359). -/
def abortPart (s : State) (part code : Nat) (p : Cast → Bool) : State :=
  (s.itv.coll.casts.filter (fun c => c.2.part == part && p c.2)).foldl (fun s c =>
    (c.2.sheet.filter (fun e => !e.ended)).foldl (fun s e => abortColl s c.1 e.seq code 0xFFFF) s) s

/-- An encrypted collective flit whose CTX has no key here: the groups it can belong to abort with NOKEY (R359; log 58). -/
def nokeyAbort (s : State) (f : Flit) : State :=
  if f.enc && (kget s.itv.sec.jobKeys f.ctx.toNat).isNone then
    abortPart s (ctxPart f.ctx) Ctl.nokey (fun c => decide (1 < (housesOf c.nodes).length))
  else s

/-! ## REMAP (R347, R348, R361) -/

/-- Steps whose stripes here are all done end by commit, and with the last of them the entry (R324, R343). -/
def settleSteps (s : State) (g q : Nat) : State :=
  match findRun s g q, getCast s g with
  | some run, some c =>
    match findEntry c q with
    | none => s
    | some e =>
      let j := castJob c e.desc
      let ks := stripesHere s c j
      let done := fun (k : Nat) => match findStripe run k with
        | some x => x.complete.isSome || (!topFor s c k && x.partSent)
        | none => false
      let stepDone := fun (t : Nat) => if ringed j then (missingAt s c j run t).isEmpty else ks.all done
      let s := endSteps s g q 0 (fun x => stepDone x.step)
      if ks.all done then endEntry s g q else s
  | _, _ => s

/-- The group's state for plane `p` leaves this chip: REMAP(p) is applied, once. -/
def applyRemap (s : State) (g p : Nat) : State :=
  match getCast s g with
  | none => s
  | some c =>
    if !c.live.getLsbD p then s
    else
      let s := bumpColl (modCast s g (fun c => { c with live := setBit c.live p false })) .remap
      let runs := s.itv.coll.runs.filter (fun r => r.group == g)
      if p = myPlane s then
        let s := runs.foldl (fun s r => discardStripes (endSteps s g r.seq 5 (fun _ => true)) g r.seq (fun _ => true)) s
        modCast { s with itv.coll.runs := s.itv.coll.runs.filter (fun r => r.group != g) } g
          (fun c => { c with sheet := c.sheet.map (fun e => { e with ended := true }) })
      else
        let next := setBit c.live p false
        runs.foldl (fun s r =>
          settleSteps (discardStripes s g r.seq (fun x => planeOf c.planes next x.stripe != some (myPlane s))) g r.seq) s

/-- REMAP goes on: up every tree of the group, or from a top reducer down to every member. -/
def passRemap (s : State) (c : Cast) (g q p rank : Nat) (ctx : BitVec 16) : State :=
  let data := fun (s : State) => ctlBytes 0 p rank s.itv.cue.count.toNat 0
  let ks := (treeStripes c).filter (reducerFor s c)
  let s := if ks.any (topFor s c) then sendDown s c Kind.result ctx (ctlHead g q everyRank stepRemap 0) (data s) none else s
  let up := ((ks.filter (fun k => !topFor s c k)).filterMap (portUp s c)).eraseDups
  if up.isEmpty then s
  else sendPorts s (collFlit Kind.contrib 0xFFFF (swid s.itv) ctx true (ctlHead g q rank stepRemap 0) (data s)) up

/-- REMAP for this reducer's own plane: to its members and up the tree; then it is applied here (R347, R399, R691). -/
def remapOwn (s : State) (g rank : Nat) : State :=
  match getCast s g with
  | none => s
  | some c =>
    if !c.live.getLsbD (myPlane s) then s
    else
      let q := ((c.sheet.find? (fun e => !e.ended)).map (·.seq)).getD 0
      let ctx := runCtx s g q
      let s := if (treeStripes c).any (topFor s c) then s
        else sendDown s c Kind.result ctx (ctlHead g q everyRank stepRemap 0)
          (ctlBytes 0 (myPlane s) rank s.itv.cue.count.toNat 0) none
      applyRemap (passRemap s c g q (myPlane s) rank ctx) g (myPlane s)

/-- A port has left READY: the groups whose member stands there, or whose tree has lost its way up, leave this plane (R347). -/
def reducerPortLost (s : State) (port : Nat) : State :=
  s.itv.coll.casts.foldl (fun s x =>
    match getCast s x.1 with
    | none => s
    | some c =>
      if !outstanding c || !c.live.getLsbD (myPlane s) then s
      else
        let seat := (ranksWhere c (fun n => nodeHouse n == myIndex s && nodeSeat n == port)).head?
        let n := popcount c.planes
        let way := (treeStripes c).filter (fun k => reducerFor s c k && !topFor s c k &&
          (upPorts (formOf s.itv) (myTier s) n k).contains port && (portUp s c k).isNone)
        match (if myTier s = 0 then seat else none) with
        | some r => remapOwn s x.1 r
        | none => if way.isEmpty then s else remapOwn s x.1 0xFFFF) s

/-! ## Cores in service (R405, R408) -/

def coresNow (v : Itvos) : List Nat :=
  (List.range 72).filter (fun i => !v.coll.retired.getLsbD (i / 4) && !v.coll.resetting.getLsbD (i / 4))
/-- The core that serves a chunk index. -/
def coreFor (cores : List Nat) (c : Nat) : Nat := cores.getD (c % cores.length) 0

/-- Groups with an open stripe that holds a chunk index this cluster serves (R408). -/
def servedBy (s : State) (cl : Nat) : List Nat :=
  ((s.itv.coll.runs.filter (fun r => !r.aborted && r.stripes.any (fun x => x.complete.isNone && !x.cores.isEmpty &&
    (x.got ++ x.parts).any (fun y => coreFor x.cores y.chunk / 4 == cl)))).map (·.group)).eraseDups

/-- A residue mismatch or a chorus fault of the core that serves a chunk (R399, R438, R445): its cluster is retired, and the groups
it serves leave this plane. -/
def clusterFault (s : State) (g core : Nat) (c : CollCtr) : State :=
  let s := bumpColl s c
  let cl := core / 4
  let s := if s.itv.coll.retired.getLsbD cl then s
    else raiseEvent (bumpColl { s with itv.coll.retired := setBit s.itv.coll.retired cl true } .clustersRetired) Ev.state
  ((g :: servedBy s cl).eraseDups).foldl (fun s g => remapOwn s g 0xFFFF) s

end Sys2Proof.Machine
end

