-- ==== Sys2Proof/Machine/CollMerge.lean ====
section
/-! DEFINITION. Merging at a reducer (R329 to R335, R341, R342, R391, R399, R427 to R429): partials up, results down, duplicates,
mismatches. -/

namespace Sys2Proof.Machine

open Sys2Proof

/-! ## What a complete stripe gives -/

/-- The ledgers of a chunk from all below. -/
def accsOf (s : State) (c : Cast) (j : CJob) (x : StripeRun) (ch : Nat) : List Ledger :=
  let (mine, kids) := belowOf s c x.stripe
  let M := decodeFloat fp32 (kgetD x.maxima ch 0)
  joinChunks j ch
    ((x.got.filter (fun g => g.chunk == ch && mine.contains g.who)).map (fun g => chunkAccs j M ch g.data) ++
      kids.filterMap (fun kid => ledgersFrom (accWidth j.d) ch (accLen j ch) (x.parts.filter (·.who == kid.1.toNat))))

/-- Nodes of element `i` of a chunk from all below. -/
def nodesOf (s : State) (c : Cast) (j : CJob) (x : StripeRun) (ch i : Nat) : List (Nat × Nat) :=
  let (mine, _) := belowOf s c x.stripe
  (x.got.filter (fun g => g.chunk == ch && mine.contains g.who)).map (fun g => (leafNode j.n g.who, natAt g.data (8 * i) 8)) ++
    ((nodesFrom ch x.parts).filter (fun e => e.1 == i)).map (·.2)

/-- The exact value of each element of a reduced stripe (R331). -/
def stripeNums (s : State) (c : Cast) (j : CJob) (x : StripeRun) : List Num :=
  (chunksOf j x.stripe).flatMap (fun ch =>
    if treed j.d then (List.range (elemsIn j ch)).map (fun i =>
      decodeFloat fp64 ((treeVal j.d (nodesOf s c j x ch i) j.n (treeDepth j.n) 1).getD 0))
    else (accsOf s c j x ch).map (ledgerNum (rndOf j.d)))

/-- RELEASE_CUE and LATEST_POST (R306). -/
def curtainResult (s : State) (run : Run) (x : StripeRun) : ResFlit :=
  { rank := everyRank, chunk := 0, valid := 16,
    data := pad 192 (leBytes 8 (s.itv.cue.count.toNat + run.lead) ++
      leBytes 8 ((x.got.map (fun g => natAt g.data 0 8)).foldl max 0)) }

/-- What the kernel sent of a stripe (R423). -/
def kernelResults (s : State) (j : CJob) (run : Run) (x : StripeRun) : List ResFlit :=
  (chunksOf j x.stripe).filterMap (fun ch =>
    (s.itv.coll.bufs.find? (fun b => b.group == run.group && b.seq == run.seq && b.chunk == ch)).bind (fun b =>
      b.finished.map (fun r => ({ rank := everyRank, chunk := ch, valid := r.2, data := pad 192 (r.1.take r.2) } : ResFlit))))

def stripeResults (s : State) (c : Cast) (j : CJob) (run : Run) (x : StripeRun) : List ResFlit :=
  let op := j.d.op
  let M := fun ch => decodeFloat fp32 (kgetD x.maxima ch 0)
  if op = COp.curtain then [curtainResult s run x]
  else if op = COp.kernel then kernelResults s j run x
  else if op = COp.allGather ∨ op = COp.multicast then copyResults j x.stripe x.got
  else if op = COp.index then indexResults j x.stripe x.got
  else if op = COp.dispatch then dispatchResults j x.stripe x.got
  else if op = COp.lse then lseResults j x.stripe M (accsOf s c j x)
  else if op = COp.combine then combineResults j x.stripe (accsOf s c j x)
  else reduceResults j x.stripe (stripeNums s c j x)

/-- Ascending CHUNK, then RANK (R351). -/
def insertRes (r : ResFlit) : List ResFlit → List ResFlit
  | [] => [r]
  | x :: xs => if r.chunk < x.chunk ∨ (r.chunk = x.chunk ∧ r.rank ≤ x.rank) then r :: x :: xs else x :: insertRes r xs
def sortRes (rs : List ResFlit) : List ResFlit := rs.foldr insertRes []

/-- The bytes that the record's digest covers. -/
def digestOf (rs : List ResFlit) : Bytes :=
  (Config.sha384 ((rs.filter (fun r => decide (r.chunk < censusBit))).flatMap (fun r => r.data.take r.valid))).take 16

/-- The top reducer completes a stripe: results, record, and the result kept (R334, R335, R351). -/
def finishTop (s : State) (c : Cast) (e : CueEntry) (run : Run) (x : StripeRun) : State :=
  let j := castJob c e.desc
  let rs := sortRes (stripeResults s c j run x)
  let step := if ringed j then j.n - 1 else 0
  let head := fun (r : ResFlit) =>
    ({ group := run.group, rank := r.rank, cueSeq := run.seq, step := step, digest := e.digest, chunk := r.chunk,
       valid := r.valid } : CHead)
  let kindOf := fun (r : ResFlit) => if r.mc then Kind.mcast else Kind.result
  let s := rs.foldl (fun s r => sendDown s c (kindOf r) run.ctx (head r) r.data (if r.rank = everyRank then none else some r.rank)) s
  let moved := planeOf c.planes c.planes x.stripe != some (myPlane s)
  let s := writeBook (bumpColl s .stripesCommitted)
    (bookRec run.group e.ext x.stripe (myPlane s) (2 * b2n moved) 0 (digestOf rs))
  let s := freeStripe s run.group run.seq x
  modStripe s run.group run.seq x.stripe (fun x => { x with
    complete := some s.now, bufs := [], results := rs.map (fun r => downFlit s (kindOf r) 0xFFFF run.ctx (head r) r.data),
    got := x.got.map (fun g => { g with data := [] }) })

/-! ## Partials up (R329, R331, R377 to R380) -/

/-- Partial flits of a stripe all of whose parts below are here. -/
def partialOf (s : State) (c : Cast) (j : CJob) (x : StripeRun) : List PartFlit :=
  let k := x.stripe
  let op := j.d.op
  let here := fun (ch : Nat) => (x.got ++ x.parts).any (fun g => g.chunk == ch)
  if copyOp op then x.got.map (fun g => { rank := g.who, chunk := g.chunk, valid := g.valid, data := g.data })
  else if treed j.d then (chunksOf j k).flatMap (fun ch => nodeParts ch ((List.range (elemsIn j ch)).flatMap (fun i =>
    (topsOf j.d (nodesOf s c j x ch i) j.n).map (fun n => (i, n.1, n.2)))))
  else
    let chs := if unitOp op then (chunksOf j k).filter here else chunksOf j k
    let flits := chs.flatMap (fun ch => ledgerParts ch (accsOf s c j x ch))
    if op = COp.sparse then
      let n := ceilDiv (unitsPerStripe j) 8
      let map := (x.got ++ x.parts).foldl (fun m g => if g.chunk = censusBit + k then orBytes m (g.data.take n) else m) (zeros n)
      { rank := 0, chunk := censusBit + k, valid := n, data := pad 192 map } :: flits
    else if op = COp.combine then
      { rank := 0, chunk := censusBit + k, valid := 4, data := pad 192 (leBytes 4 chs.length) } :: flits
    else flits

def upHead (e : CueEntry) (run : Run) (p : PartFlit) : CHead :=
  { group := run.group, rank := p.rank, cueSeq := run.seq, step := 0, digest := e.digest, chunk := p.chunk, valid := p.valid }

def sendPartial (s : State) (c : Cast) (e : CueEntry) (run : Run) (x : StripeRun) : State :=
  let s := (partialOf s c (castJob c e.desc) x).foldl (fun s p => sendUp s c x.stripe run.ctx (upHead e run p) p.data) s
  let s := freeStripe s run.group run.seq x
  modStripe s run.group run.seq x.stripe (fun x => { x with partSent := true, bufs := [] })

/-! ## LSE-merge, phase 1 (R391) -/

/-- The maxima of consecutive chunks, up to 48 to a flit. -/
def maxFlits (kind : Nat) (chs : List Nat) (m : Nat → Nat) : List PartFlit :=
  (groupsOf 48 chs).map (fun g => { rank := partRank kind 0 0, chunk := g.headD 0, valid := 4 * g.length,
                                    data := pad 192 (g.flatMap (fun ch => leBytes 4 (m ch))) })

/-- Maxima down to the reducers below (R391). -/
def sendMaxima (s : State) (c : Cast) (e : CueEntry) (run : Run) (ps : List PartFlit) : State :=
  ps.foldl (fun s p => sendPorts s (collFlit Kind.contrib 0xFFFF (swid s.itv) run.ctx true (upHead e run p) p.data)
    (portsDown s c.nodes)) s

/-- Once every chunk's largest m below is known it goes up, or from the top down. -/
def lsePhase (s : State) (c : Cast) (e : CueEntry) (run : Run) (x : StripeRun) : State :=
  let j := castJob c e.desc
  let k := x.stripe
  let (mine, kids) := belowOf s c k
  let chs := denseChunks j k
  let ready := mine.all (memberWhole j k x.got) && kids.all (fun kid => chs.all (fun ch => (maxFrom x.parts kid.1.toNat ch).isSome))
  if x.maxSent || !x.maxima.isEmpty || !ready then s
  else
    let top := fun (ch : Nat) =>
      let vs := (x.got.filter (fun g => g.chunk == ch)).map (fun g => lseMax g.data) ++
        kids.filterMap (fun kid => (maxFrom x.parts kid.1.toNat ch).map (decodeFloat fp32))
      encodeFloat fp32 0 false (vs.foldl maxNum (.inf true))
    if topFor s c k then
      let s := modStripe s run.group run.seq k (fun x => { x with maxima := chs.map (fun ch => (ch, top ch)), maxSent := true })
      if kids.isEmpty then s else sendMaxima s c e run (maxFlits kindMaxDown chs top)
    else
      let s := (maxFlits kindMaxUp chs top).foldl (fun s p => sendUp s c k run.ctx (upHead e run p) p.data) s
      modStripe s run.group run.seq k (fun x => { x with maxSent := true })

/-! ## Completion (R334) -/

/-- All that is below has sent its part of the stripe. -/
def belowWhole (s : State) (c : Cast) (j : CJob) (run : Run) (x : StripeRun) : Bool :=
  let (mine, kids) := belowOf s c x.stripe
  mine.all (memberWhole j x.stripe x.got) && kids.all (fun kid => kidWhole j x.stripe x.got x.parts kid.1.toNat kid.2) &&
    (j.d.op != COp.lse || (denseChunks j x.stripe).all (fun ch => (kget x.maxima ch).isSome)) &&
    (j.d.op != COp.kernel || (chunksOf j x.stripe).all (fun ch => s.itv.coll.bufs.any (fun b =>
      b.group == run.group && b.seq == run.seq && b.chunk == ch && b.finished.isSome)))

/-- A stripe that has all of it completes, or its partial goes up; steps that are done end. -/
def advanceStripe (s : State) (g q k : Nat) : State :=
  match getCast s g, findRun s g q with
  | some c, some run =>
    match findEntry c q, findStripe run k with
    | some e, some x =>
      if run.mism.isSome || run.aborted || x.complete.isSome || x.partSent then s
      else
        let s := if e.desc.op = COp.lse then lsePhase s c e run x else s
        match (findRun s g q).bind (findStripe · k) with
        | none => s
        | some x =>
          if belowWhole s c (castJob c e.desc) run x then
            settleSteps (if topFor s c k then finishTop s c e run x else sendPartial s c e run x) g q
          else settleSteps s g q
    | _, _ => s
  | _, _ => s

/-! ## Mismatch (R341, R342, R358) -/

/-- Members below that have been compared, directly or by report. -/
def comparedCount (r : Run) : Nat := r.compared.length + (r.covered.map (·.2)).sum

/-- After a mismatch: ABORT by the top reducer of stripe 0, REPORT by those below a top, or nothing until HOLD runs out. -/
def judgeMismatch (s : State) (g q : Nat) (holdOut : Bool) : State :=
  match getCast s g, findRun s g q with
  | some c, some run =>
    match run.mism, findEntry c q with
    | some low, some e =>
      let (mine, kids) := belowOf s c 0
      let all := mine.all run.compared.contains && kids.all (fun kid => decide (kid.2.length ≤ kgetD run.covered kid.1.toNat 0))
      if topFor s c 0 then
        if planeOf c.planes c.live 0 = some (myPlane s) then
          if all || holdOut then abortColl s g q Ctl.mismatch low else s
        else if holdOut then dropColl s g q Ctl.mismatch else s
      else if reducerFor s c 0 then
        let s := if !run.reported && (all || holdOut) then
            modRun (sendUp s c 0 run.ctx { ctlHead g q low stepReport e.digest with rank := low }
              (ctlBytes Ctl.mismatch (myPlane s) low s.itv.cue.count.toNat (comparedCount run))) g q (fun r => { r with reported := true })
          else s
        if holdOut then dropColl s g q Ctl.mismatch else s
      else if holdOut then dropColl s g q Ctl.mismatch else s
    | _, _ => s
  | _, _ => s

/-- Merging stops and the partial sums are discarded (R341). -/
def noteMismatch (s : State) (g q low : Nat) : State :=
  modRun (discardStripes s g q (fun x => x.complete.isNone)) g q
    (fun r => { r with mism := some (min low (r.mism.getD low)) })

/-! ## Arrivals -/

/-- First arrivals of a step: it opens, and each of `ranks` has arrived (R343, R344). -/
def noteArrival (s : State) (g q t : Nat) (ranks : List Nat) : State :=
  let cue := s.itv.cue.count.toNat
  let fresh : StepRun := { step := t, opened := s.now, first := cue }
  modRun s g q (fun r =>
    let steps := if r.steps.any (fun x => x.step == t && !x.ended) then r.steps
      else r.steps.filter (fun x => x.step != t) ++ [fresh]
    { r with steps := steps.map (fun x => if x.step = t then
        { x with arrivals := x.arrivals ++ (ranks.filter (fun a => !x.arrivals.any (fun b => b.1 == a))).map (fun a => (a, cue)) }
      else x) })

/-- Where a collective flit comes from (R320). -/
inductive Sender where
  | member (r : Nat)
  | kid (w : Nat) (ranks : List Nat)
  | parent
  deriving DecidableEq, Repr

def senderOf (s : State) (c : Cast) (f : Flit) (k : Nat) : Option Sender :=
  let (mine, kids) := belowOf s c k
  if f.sk then
    match kids.find? (fun x => x.1 == f.src) with
    | some x => some (.kid x.1.toNat x.2)
    | none =>
      if swPlane f.src = myPlane s ∧ swTier f.src = myTier s + 1 ∧
          (reducersOf (formOf s.itv) c.nodes (popcount c.planes) k).contains (swTier f.src, swIndex f.src) then some .parent
      else none
  else (mine.find? (fun r => c.nodes.getD r 0 == f.src)).map .member

/-- CHUNK is one a member can send of this collective. -/
def chunkOk (j : CJob) (ch : Nat) : Bool :=
  let k := stripeOf ch
  decide (k < stripeCount j) &&
    (if censusBit ≤ ch then j.d.op == COp.sparse || j.d.op == COp.index || j.d.op == COp.combine
     else j.d.op == COp.index || (chunksOf j k).contains ch)

/-- T_R at a reducer (R335). -/
def reducerTR (s : State) (c : Cast) : Nat := max (c.hold / 8) (2 * s.itv.routing.maxFlight)

/-- A duplicate of a complete stripe: its kept result goes to that member again (R335). -/
def resendResult (s : State) (c : Cast) (run : Run) (x : StripeRun) (r : Nat) : State :=
  let recent := match kget x.resent r with
    | some t => !passed s t (reducerTR s c)
    | none => false
  if x.results.isEmpty || recent then s
  else
    let mine := x.results.filter (fun f => (cHead f).rank == everyRank || (cHead f).rank == r)
    let s := mine.foldl (fun s f => sendDown s c f.kind run.ctx { cHead f with rank := r } (elemBytes f) (some r)) s
    modStripe s run.group run.seq x.stripe (fun x => { x with resent := kset x.resent r s.now })

/-! ## Buffers taken at admission -/

def objState (obj : Bytes) : Nat := natAt obj 12 4
def objOrdered (obj : Bytes) : Bool := bitOf (byteAt obj 6) 0
def objHandles (obj : Bytes) : List (Nat × Nat) :=
  (List.range (byteAt obj 7)).map (fun h => (byteAt obj (64 + 8 * h), natAt obj (64 + 8 * h + 2) 2))
def classWidth (c : Nat) : Nat := if c = 2 then 640 else if c = 3 then 128 else 320
def kernelSlot (d : Desc) : Nat := (d.kernel - 1) % 65536
def kernelObj (s : State) (d : Desc) : Bytes := ((kget s.itv.coll.kernels (kernelSlot d)).map (·.obj)).getD []

/-- A member chunk waits for its MERGE, with its chunk's state buffer (R427 to R429); none: a pool is EMPTY. -/
def admitKernel (s : State) (c : Cast) (d : Desc) (run : Run) (cores : List Nat) (ch r : Nat) (f : Flit) : Option State :=
  let obj := kernelObj s d
  let w := wardOf s.itv c.part
  let core := coreFor cores ch
  let isBuf := fun (b : StateBuf) => b.group == run.group && b.seq == run.seq && b.chunk == ch
  let base := if s.itv.coll.bufs.any isBuf then some s
    else
      match wardAlloc s w (objState obj) (clusterOwner s core) with
      | (_, none) => none
      | (s, some (p, i)) => some { s with itv.coll.bufs := s.itv.coll.bufs ++
          [{ group := run.group, seq := run.seq, chunk := ch, core := core, ward := w, pool := p, idx := i,
             ledgers := (objHandles obj).map (fun h => List.replicate h.2 (emptyLedger (classWidth h.1))) }] }
  let addTo := fun (s : State) (b : Option (Nat × Nat)) =>
    { s with itv.coll.bufs := s.itv.coll.bufs.map (fun x =>
        if isBuf x then { x with waiting := x.waiting ++ [(r, f, b)] } else x) }
  base.bind (fun s =>
    if objOrdered obj then
      match wardAlloc s w 256 (clusterOwner s core) with
      | (_, none) => none
      | (s, some b) => some (addTo s (some b))
    else some (addTo s none))

/-- The wardrobe buffer a chunk of RING or LSE_MERGE needs (R333, R391); none: its pool is EMPTY. -/
def takeBuffer (s : State) (c : Cast) (j : CJob) (run : Run) (x : StripeRun) (ch r : Nat) : Option State :=
  let need : Option (Nat × Nat) := if ringed j then some (ch, ringBytes j)
    else if j.d.op = COp.lse then some (ch + 2 ^ 40 * (r + 1), 256) else none
  match need with
  | none => some s
  | some (key, n) =>
    if x.bufs.any (fun b => b.1 == key) then some s
    else
      let w := wardOf s.itv c.part
      match wardAlloc s w n (ringOwner s) with
      | (_, none) => none
      | (s, some (p, i)) =>
        some (modStripe s run.group run.seq x.stripe (fun x => { x with bufs := x.bufs ++ [(key, w, p, i)] }))

/-! ## One flit -/

/-- The stripe's record here, made at its first chunk. -/
def ensureStripe (s : State) (g q k : Nat) : State :=
  match (findRun s g q).bind (findStripe · k) with
  | some _ => s
  | none => modRun s g q (fun r => { r with stripes := r.stripes ++ [{ stripe := k, cores := coresNow s.itv }] })

/-- A chunk whose digest matches is merged (R334, R399); none: it waits for a buffer. -/
def mergeChunk (s : State) (c : Cast) (e : CueEntry) (g q : Nat) (from_ : Sender) (f : Flit) (bad : Bool) : Option State :=
  let j := castJob c e.desc
  let h := cHead f
  let k := stripeOf h.chunk
  let data := elemBytes f
  let s := ensureStripe s g q k
  match findRun s g q with
  | none => some s
  | some run =>
    match findStripe run k with
    | none => some s
    | some x =>
      match from_ with
      | .parent =>
        let s := modStripe s g q k (fun x => { x with maxima := (List.range (h.valid / 4)).foldl (fun m i =>
          kset m (h.chunk + i) (natAt data (4 * i) 4)) x.maxima })
        let s := if (belowOf s c k).2.isEmpty then s
          else sendPorts s (collFlit Kind.contrib 0xFFFF (swid s.itv) run.ctx true h data) (portsDown s c.nodes)
        some (advanceStripe s g q k)
      | .kid w ranks =>
        let isCopy := copyOp e.desc.op
        let key := if isCopy then 0 else partKey e.desc h.rank data
        let held := if isCopy then x.got.any (fun y => y.who == h.rank && y.chunk == h.chunk)
          else x.parts.any (fun y => y.who == w && y.chunk == h.chunk && y.field == key)
        if x.complete.isSome || x.partSent || held || (isCopy && !ranks.contains h.rank) then some (bumpColl s .collDup)
        else
          let s := noteArrival s g q 0 ranks
          let new : Got := { who := if isCopy then h.rank else w, chunk := h.chunk, field := key, valid := h.valid, data := data }
          let s := modStripe s g q k (fun x => if isCopy then { x with got := x.got ++ [new] } else { x with parts := x.parts ++ [new] })
          if bad && !isCopy then some (clusterFault s g (coreFor x.cores h.chunk) .ledgerResidue) else some (advanceStripe s g q k)
      | .member r =>
        let field := if e.desc.op = COp.combine ∧ h.chunk < censusBit then natAt data 2 2 else 0
        if x.got.any (fun y => y.who == r && y.chunk == h.chunk && y.field == field) then
          some (if x.complete.isSome then resendResult (bumpColl s .collDup) c run x r else bumpColl s .collDup)
        else if x.complete.isSome || x.partSent then some s
        else
          let s := noteArrival s g q (stepOf j r k) [r]
          let room := if e.desc.op = COp.kernel then admitKernel s c e.desc run x.cores h.chunk r f
            else takeBuffer s c j run x h.chunk r
          room.map (fun s =>
            let s := modStripe s g q k (fun x => { x with got := x.got ++
              [{ who := r, chunk := h.chunk, field := field, valid := h.valid, data := data }] })
            if bad && !copyOp e.desc.op && e.desc.op != COp.kernel then
              clusterFault s g (coreFor x.cores h.chunk) .ledgerResidue
            else advanceStripe s g q k)

/-- A contribution or partial at a reducer (R320, R334, R341, R348); none: it waits for a buffer. -/
def takeContrib (s : State) (f : Flit) (bad : Bool) : Option State :=
  let h := cHead f
  let g := h.group
  let q := h.cueSeq
  match getCast s g with
  | none => some (bumpColl s .notCast)
  | some c =>
    match senderOf s c f (stripeOf h.chunk) with
    | none => some (bumpColl s .notCast)
    | some from_ =>
      if !c.live.getLsbD (myPlane s) then some (bumpColl s .remapDrop)
      else
        match findEntry c q with
        | none => some (bumpColl s .noEntry)
        | some e =>
          if !e.armed || ((findRun s g q).map (·.aborted)).getD false then some (bumpColl s .noEntry)
          else
            let s := ensureRun s g q f.ctx
            let s := match from_ with
              | .member r => modRun s g q (fun x => if x.compared.contains r then x else { x with compared := x.compared ++ [r] })
              | .kid w ranks => modRun s g q (fun x => { x with covered := kset x.covered w (max ranks.length (kgetD x.covered w 0)) })
              | .parent => s
            let t := match from_ with
              | .member r => (stepOf (castJob c e.desc) r (stripeOf h.chunk), [r])
              | .kid _ ranks => (0, ranks)
              | .parent => (0, [])
            if h.digest ≠ e.digest then
              some (judgeMismatch (noteMismatch (noteArrival s g q t.1 t.2) g q (t.2.headD 0)) g q false)
            else if ((findRun s g q).bind (·.mism)).isSome then some (judgeMismatch (noteArrival s g q t.1 t.2) g q false)
            else if 0x48 ≤ h.step ∨ !chunkOk (castJob c e.desc) h.chunk then some s
            else mergeChunk s c e g q from_ f bad

/-- A chunk that finds its buffer pool EMPTY waits in the landing reserve (R428, R452). -/
def contribWaits (s : State) (f : Flit) : Bool :=
  match openFor s .itv f with
  | (s, some p) => f.kind == Kind.contrib && decide ((cHead p).step < 0x48) && (takeContrib s p false).isNone
  | _ => false

end Sys2Proof.Machine
end

