-- ==== Sys2Proof/Machine/CueOps.lean ====
section
/-! DEFINITION. The time tree: parent, level and corrections of a chip's cue counter (R293 to R303). -/

namespace Sys2Proof.Machine

open Sys2Proof

/-- Ports of one chip by number. -/
def sidePorts (s : State) : Side → List Port
  | .itv => s.itv.ports.toList
  | .blg => s.blg.ports.toList

/-- The READY port with the lowest advertised level among those that meet `ok`; ties to the lowest number (R295). -/
def bestParent (ps : List Port) (ok : Port → Nat → Bool) : Option (Nat × Nat) :=
  ((List.range ps.length).filterMap (fun i => match ps[i]? with
    | some p => if p.st == .ready then (match p.peerLevel with
        | some l => if ok p l then some (i, l) else none
        | none => none) else none
    | none => none)).foldl (fun best c => match best with
      | none => some c
      | some b => if c.2 < b.2 then some c else some b) none

/-- The parent of R295: a partner in a locked state first; else one with LOCKED = 0, below the level last held. -/
def chooseParent (ps : List Port) (c : Cue) : Option (Nat × Nat) :=
  match bestParent ps (fun p _ => p.peerLocked) with
  | some b => some b
  | none => bestParent ps (fun p l => !p.peerLocked && (match c.heldLevel with
      | some h => decide (l < h)
      | none => true))

/-- Take the parent of R295, and its level plus 1; a chip with no partner that advertises a level has none. A chip whose
parent does not advertise LOCKED is in HOLDOVER. The root has none. -/
def reparent (s : State) (d : Side) : State :=
  let c := getCue s d
  if c.root then s
  else
    match chooseParent (sidePorts s d) c with
    | some (i, l) =>
      setCue s d { c with parent := some i, level := some (l + 1), heldLevel := some (l + 1) }
    | none => setCue s d { c with parent := none, level := none }

/-- A change of cue state; Belug reports it as CUE (R527). -/
def setCueState (s : State) (d : Side) (st : CueState) : State :=
  let c := getCue s d
  if c.st = st then s
  else
    let s := setCue s d { c with st := st }
    match d with
    | .blg => raiseIrq s Irq.cue
    | .itv => s

/-- The parent is lost (R302): HOLDOVER (an UNSET counter stays UNSET, R293), and a new parent under R295. -/
def loseParent (s : State) (d : Side) : State :=
  let c := getCue s d
  if c.root then s
  else
    let s := if c.st = .locked then setCueState s d .holdover else s
    reparent s d

def countCueJump (s : State) : Side → State
  | .itv => bump s (coreIdx 0 21) 1
  | .blg => bumpBC s .cueJump

/-- Correct by an offset (R299, R300); `locked`: the parent advertises LOCKED. -/
def applyOffset (s : State) (d : Side) (offset : Int) (locked : Bool) : State :=
  let c := { getCue s d with offset := offset, recent := (offset :: (getCue s d).recent).take 16 }
  let s :=
    if c.st = .unset then setCue s d { c with count := c.count + BitVec.ofInt 64 offset, slew := 0, hold := 0 }
    else if offset > 256 then countCueJump (setCue s d { c with count := c.count + BitVec.ofInt 64 offset, slew := 0, hold := 0 }) d
    else if offset < -256 then countCueJump (setCue s d { c with hold := offset.natAbs, slew := 0 }) d
    else setCue s d { c with slew := offset, hold := 0 }
  setCueState s d (if locked then .locked else .holdover)

/-- The cue fields of an arriving LINK_CTL (R296 to R299, R302) on port `r`, `t3` this chip's counter at its arrival. -/
def cueArrival (s : State) (r : PortRef) (f : Flit) : State :=
  let d := refSide r
  let c0 := getCue s d
  let t3 := c0.count.toNat
  let flags := byteAt f.payload 1
  let lvl := byteAt f.payload 2
  let stampValid := bitOf flags 0
  let echoValid := bitOf flags 1
  let locked := bitOf flags 2
  let t2 := natAt f.payload 8 8
  let s := modPort s r (fun p => { p with
    peerLevel := if lvl = 0xFF then none else some lvl, peerLocked := locked,
    heardStamps := if stampValid then ((t2, t3, s.now) :: p.heardStamps).take 64 else p.heardStamps })
  -- R295 moves to a partner in a locked state as soon as one is READY
  let s := reparent s d
  let c := getCue s d
  if echoValid then
    let tag := natAt f.payload 6 2
    match (getPort s r).stamps.find? (fun x => x.1 == tag && decide (t3 ≤ x.2.1 + 65536)) with
    | none => s
    | some (_, t1, _) =>
      let dly : Int := (((t3 : Int) - t1) - natAt f.payload 3 3) / 2
      let offset : Int := ((t2 : Int) + dly) - t3
      let s := modPort s r (fun p => { p with offset := offset, echoAt := s.now })
      if !c.root && c.parent = some (refNum r) then applyOffset s d offset locked else s
  else s

/-- The cue bytes 1 to 15 of a LINK_CTL sent now on port `p` (R296 to R298): and whether a stamp is valid. -/
def cueFields (s : State) (d : Side) (p : Port) : Bytes :=
  let c := getCue s d
  let now := c.count.toNat
  let echo := p.heardStamps.find? (fun x => decide (8 * 64 ≤ 7 * (s.now - x.2.2)) && decide (now ≤ x.2.1 + 2 ^ 24))
  let flags := b2n (c.st != .unset) + 2 * b2n echo.isSome + 4 * b2n (c.st == .locked)
  let level := match c.level with
    | some l => l
    | none => 0xFF
  leBytes 1 flags ++ leBytes 1 level ++
    (match echo with
     | some (stamp, arrived, _) => leBytes 3 (now - arrived) ++ leBytes 2 stamp
     | none => zeros 5) ++
    leBytes 8 (if c.st = .unset then 0 else now)

/-- The root role is taken: LOCKED at level 0, no parent, no corrections (R293, R294, R303). -/
def takeRoot (s : State) : State :=
  let s := { s with itv.cue.root := true, itv.cue.level := some 0, itv.cue.heldLevel := some 0, itv.cue.parent := none,
                    itv.cue.slew := 0, itv.cue.hold := 0 }
  setCueState s .itv .locked

/-- This switch is the root the chart names (R294). -/
def chartedRoot (v : Itvos) : Bool :=
  match v.routing.chart with
  | none => false
  | some c =>
    if c.form = 0 then swPlane c.swid == c.rootPlane && swTier c.swid == 0
    else swPlane c.swid == 0 && swTier c.swid == c.form && swIndex c.swid == 0

end Sys2Proof.Machine
end

