-- ==== Sys2Proof/Machine/Directory.lean ====
section
/-! DEFINITION. The directory of Itvos (R252 to R262, R265, R268, R278, R282, R283, R290): entries, invalidation groups, recalls,
combining, merging, domains. -/

namespace Sys2Proof.Machine

open Sys2Proof

/-! ## Lines and sets (R253) -/

def lineKey (node : BitVec 16) (off : Nat) : Nat := node.toNat * 2 ^ 41 + off / 128
def flitLine (f : Flit) : Nat := lineKey f.dst f.offset
def lineNo (key : Nat) : Nat := key % 2 ^ 41
def lineNode (key : Nat) : BitVec 16 := BitVec.ofNat 16 (key / 2 ^ 41)
/-- Die and set of a line; the 256 ways of a set are its 16 slices' (R253). -/
def setOf (key : Nat) : Nat × Nat := (lineNo key / 24 % 2, lineNo key / 48 % 65536)

def modDir (s : State) (g : Directory → Directory) : State := { s with itv.dir := g s.itv.dir }
def dirEntry (s : State) (key : Nat) : Option DirEntry := kget s.itv.dir.entries key
/-- The entry is written; one that names no seat is INVALID and leaves its way. -/
def putEntry (s : State) (key : Nat) (e : DirEntry) : State :=
  let e := { e with used := s.itv.dir.useClock }
  modDir s (fun d => { d with useClock := d.useClock + 1,
                              entries := if e.st = .shared ∧ e.sharers = 0 then kdel d.entries key else kset d.entries key e })

/-- Own house's node of a seat. -/
def seatNode (v : Itvos) (seat : Nat) : BitVec 16 := BitVec.ofNat 16 (swIndex (swid v) * 128 + seat)

/-- A request for the pool of this Itvos. -/
def toOwnPool (v : Itvos) (f : Flit) : Bool := !f.dk && f.dst == poolNode v

/-- A VC1 request to a seat of this house waits for the directory (R255); its own merged and combined ones do not. -/
def needsDirectory (s : State) (l : Landed) : Bool :=
  !l.dirDone && !l.own && isHouseSwitch s.itv && !l.flit.dk && nodeHouse l.flit.dst == swIndex (swid s.itv) &&
    decide (nodeSeat l.flit.dst < 72) && [0x02, 0x03, 0x04, 0x06].contains l.flit.kind.toNat

/-! ## Partitions and domains (R283) -/

/-- Partition of a seat: 0 in a single-tenant house. -/
def partOfSeat (s : State) (seat : Nat) : Nat := if s.itv.sec.parts = 0 then 0 else s.itv.sec.seatPart.getD seat 0xFF
/-- Partition of the carve at an offset of the pool. -/
def partOfOffset (v : Itvos) (off : Nat) : Option Nat := (v.pool.carves.find? (fun c =>
  decide (c.2.base ≤ off) && decide (off < c.2.base + c.2.len))).map (·.2.part)
def partOfLine (s : State) (key : Nat) : Option Nat :=
  if isPoolNode (lineNode key) then partOfOffset s.itv (lineNo key * 128) else some (partOfSeat s (nodeSeat (lineNode key)))

/-- The request is from a seat, to a seat or to a carve of a partition whose domain is down. -/
def domainHit (s : State) (f : Flit) : Bool :=
  s.itv.dir.down != 0 &&
    (s.itv.dir.down.getLsbD (partOfSeat s (nodeSeat f.src)) ||
     (if f.kind = Kind.fence then false
      else match partOfLine s (flitLine f) with
        | some p => s.itv.dir.down.getLsbD p
        | none => false))

/-! ## Invalidations (R255, R257) -/

/-- One INV to a seat. -/
def sendInv (s : State) (key seat : Nat) (toOwner : Bool) (group : Option Nat) : State :=
  let seq := kgetD s.itv.dir.invSeq seat 0
  let s := modDir s (fun d => { d with invSeq := kset d.invSeq seat ((seq + 1) % 2 ^ 20),
                                       invs := d.invs ++ [{ seat := seat, seq := seq, line := key, toOwner := toOwner,
                                                            group := group, lastSend := s.now }] })
  itvSend s { dst := seatNode s.itv seat, src := poolNode s.itv, kind := Kind.inv, seq := BitVec.ofNat 20 seq,
              payload := payloadOf [(0, leBytes 6 (lineNo key * 128))] }

/-- The group of the INVs sent for one request of seat `by_`; no INV, no group. -/
def openGroup (s : State) (by_ key : Nat) (targets : List Nat) : State :=
  match targets with
  | [] => s
  | ts =>
    let g := s.itv.dir.nextGroup
    let s := modDir s (fun d => { d with nextGroup := g + 1, groups := d.groups ++ [{ id := g, seat := by_ }] })
    ts.foldl (fun s t => sendInv s key t false (some g)) s

/-! ## Answers -/

def answer (s : State) (f : Flit) (status : Nat) : State := itvSend s (refusalFor f status)

/-- The FWD of R260. -/
def sendFwd (s : State) (f : Flit) (owner : Nat) : State :=
  itvSend s { dst := seatNode s.itv owner, src := poolNode s.itv, ctx := f.ctx, seq := f.seq, kind := Kind.fwd,
              payload := payloadOf [(0, leBytes 6 f.offset), (6, leBytes 2 f.src.toNat), (8, leBytes 2 f.tally)] }

/-- A request that the directory has passed goes on: to the pool home, or out by the core. -/
def passOn (s : State) (f : Flit) : State :=
  if toOwnPool s.itv f then modDir s (fun d => { d with home := d.home ++ [f] })
  else { s with itv.core.internal := s.itv.core.internal ++ [{ flit := f, at_ := s.now, dirDone := true }] }

/-! ## Duplicates of combined and merged originals (R192, R194) -/

def sameReq (a b : Flit) : Bool := a.src == b.src && a.dst == b.dst && a.seq == b.seq
/-- The original waits here, or is carried by a combined or merged request in flight. -/
def carriedHere (s : State) (f : Flit) : Bool :=
  s.itv.dir.merges.any (fun m => m.carried.any (sameReq f)) ||
    s.itv.dir.combine.any (fun c => c.waiting.any (sameReq f) || c.carried.any (sameReq f))

/-- An answer to an original is recorded while a duplicate of it may still come; older ones of its flow leave. -/
def recordAnswer (s : State) (f : Flit) (atom : Bool) (old : Bytes) (status : Nat) : State :=
  let a : Answered := { seat := nodeSeat f.src, dst := f.dst, seq := f.seq.toNat, at_ := cueCount s .itv, atom := atom, old := old,
                        status := status }
  modDir s (fun d => { d with answered := a :: d.answered.filter (fun x => !flowStale s .itv x.at_ &&
    !(x.seat == a.seat && x.dst == a.dst && decide (4096 ≤ (a.seq + 2 ^ 20 - x.seq) % 2 ^ 20))) })

def answeredOf (s : State) (f : Flit) : Option Answered :=
  s.itv.dir.answered.find? (fun a => a.seat == nodeSeat f.src && a.dst == f.dst && a.seq == f.seq.toNat && !flowStale s .itv a.at_)

/-! ## Atomics (R263, R265) -/

def aopClaim : Nat := 0x1F
def isClaim (f : Flit) : Bool := f.kind == Kind.atomic && f.aop == aopClaim

/-- The old value M and operands A, B of a size in bytes give the new value (R263). -/
def atomicNew (aop size : Nat) (m a b : Nat) : Nat :=
  let w := 2 ^ (8 * size)
  let sg := fun (x : Nat) => sext (8 * size) x
  match aop with
  | 0x01 => a
  | 0x02 => if m = b then a else m
  | 0x03 => (m + a) % w
  | 0x04 => m &&& a
  | 0x05 => m ||| a
  | 0x06 => m ^^^ a
  | 0x07 => if sg m < sg a then a else m
  | 0x08 => if sg a < sg m then a else m
  | 0x09 => max m a
  | 0x0A => min m a
  | _ => m

/-- AOP, size and alignment are those of R263 (CLAIM aside). -/
def atomicOk (aop size off : Nat) : Bool :=
  (([0x01, 0x02].contains aop && (size == 8 || size == 16)) ||
    (decide (0x03 ≤ aop) && decide (aop ≤ 0x0A) && size == 8)) && off % size == 0

def combinable (f : Flit) : Bool :=
  f.aop != 0x02 && atomicOk f.aop (sizeBytes f.sizeCode) f.offset

def operandOf (f : Flit) : Nat := f.opA % 2 ^ (8 * sizeBytes f.sizeCode)

/-- Same address, size and AOP. -/
def sameAtomic (f g : Flit) : Bool :=
  f.dst == g.dst && f.offset == g.offset && f.sizeCode == g.sizeCode && f.aop == g.aop

/-- Entries whose atomic can no longer return leave the table. -/
def liveCombines (s : State) : List Combine :=
  s.itv.dir.combine.filter (fun c => !passed s c.at_ ((itvRetryMax s.itv + 1) * itvE2E s.itv) || !c.carried.isEmpty)

/-- An atomic that may go to its seat home: it waits behind one in flight for the same address, size and AOP, or is the one in
flight from now on (R265). True: it goes. A full table of 4,096 entries a die takes no new one. -/
def combineOrPass (s : State) (f : Flit) : State × Bool :=
  if !combinable f then (s, true)
  else
    let s := modDir s (fun d => { d with combine := liveCombines s })
    if s.itv.dir.combine.any (fun c => sameReq c.flit f && c.carried.isEmpty) then (s, true)
    else if s.itv.dir.combine.any (fun c => sameAtomic c.flit f) then
      (modDir s (fun d => { d with combine := d.combine.map (fun c =>
        if sameAtomic c.flit f then { c with waiting := c.waiting ++ [f] } else c) }), false)
    else if s.itv.dir.combine.countP (fun c => (setOf (flitLine c.flit)).1 == (setOf (flitLine f)).1) ≥ 4096 then (s, true)
    else (modDir s (fun d => { d with nextGroup := d.nextGroup + 1, combine := d.combine ++
      [{ id := d.nextGroup, flit := f, at_ := s.now }] }), true)

/-- The operand of a combined atomic: what the atomics it carries do one after another (R265). -/
def combinedOperand (fs : List Flit) : Nat :=
  match fs with
  | [] => 0
  | f :: rest => rest.foldl (fun x g => if f.aop = 0x01 then operandOf g else atomicNew f.aop (sizeBytes f.sizeCode) x (operandOf g) 0)
      (operandOf f)

/-- The atomic in flight of a table entry has returned: those that wait go as one combined ATOMIC, or the entry is free. -/
def nextCombined (s : State) (c : Combine) : State :=
  match c.waiting with
  | [] => modDir s (fun d => { d with combine := d.combine.filter (fun x => x.id != c.id) })
  | f :: rest =>
    let s := modDir s (fun d => { d with combine := d.combine.map (fun x =>
      if x.id = c.id then { x with flit := f, waiting := [], carried := f :: rest, at_ := s.now } else x) })
    let s := bump s CohCtr.combined.idx c.waiting.length
    originate s .itv
      { flit := { dst := f.dst, src := poolNode s.itv, ctx := f.ctx, kind := Kind.atomic,
                  payload := payloadOf [(0, reqHead f.offset f.sizeCode 0 f.aop 2 0 0), (16, leBytes 16 (combinedOperand c.waiting))] },
        purpose := .combined c.id, plane := 0 }

/-- A DATA that passes this Itvos ends the plain atomic in flight that it answers (R265). -/
def atomReturned (s : State) (f : Flit) : State :=
  if f.kind = Kind.data then
    match s.itv.dir.combine.find? (fun c => c.carried.isEmpty && c.flit.src == f.dst && c.flit.dst == f.src && c.flit.seq == f.seq) with
    | some c => nextCombined s c
    | none => s
  else s

/-- The old values that the carried atomics would have seen one at a time (R265). -/
def oldValues (old : Nat) : List Flit → List Nat
  | [] => []
  | f :: fs => old :: oldValues (atomicNew f.aop (sizeBytes f.sizeCode) old (operandOf f) 0) fs

/-- A combined ATOMIC has completed: every atomic it carried is answered. -/
def combinedDone (s : State) (id status : Nat) (reply : Option Flit) : State :=
  match s.itv.dir.combine.find? (fun c => c.id == id) with
  | none => s
  | some c =>
    let size := sizeBytes c.flit.sizeCode
    let old := (reply.map (fun r => natAt r.payload 16 size)).getD 0
    let s := (c.carried.zip (oldValues old c.carried)).foldl (fun s (x : Flit × Nat) =>
      let v := if status = St.ok then leBytes 16 x.2 else zeros 16
      itvSend (recordAnswer s x.1 true v status) (oldFor x.1 status v)) s
    nextCombined s c

/-! ## Store merges (R278) -/

/-- The merged store of several, in order: in each byte the last that wrote it. -/
def mergeStores (fs : List Flit) : Bytes × BitVec 128 :=
  fs.foldl (fun (a : Bytes × BitVec 128) f =>
    ((List.range 128).map (fun i => if f.mask.getLsbD i then f.line.getD i 0 else a.1.getD i 0), a.2 ||| f.mask)) (zeros 128, 0)

/-- Stores released together: one goes as it is, several to a seat line as one merged STORE. -/
def sendStores (s : State) (fs : List Flit) : State :=
  match fs with
  | [] => s
  | [f] => passOn s f
  | f :: _ =>
    if toOwnPool s.itv f then fs.foldl passOn s
    else
      let id := s.itv.dir.nextGroup
      let (d, m) := mergeStores fs
      let s := modDir s (fun x => { x with nextGroup := id + 1, merges := x.merges ++ [{ id := id, carried := fs }] })
      originate s .itv
        { flit := { dst := f.dst, src := poolNode s.itv, ctx := f.ctx, kind := Kind.store,
                    payload := payloadOf [(0, reqHead (f.offset / 128 * 128) 4 0 0 0 0 0), (16, d), (144, leBytes 16 m.toNat)] },
          purpose := .mergedStore id, plane := 0 }

/-- A merged STORE has completed: every original is answered with its status. -/
def mergedDone (s : State) (id status : Nat) : State :=
  match s.itv.dir.merges.find? (fun m => m.id == id) with
  | none => s
  | some m =>
    let s := modDir s (fun d => { d with merges := d.merges.filter (fun x => x.id != id) })
    m.carried.foldl (fun s f => itvSend (recordAnswer s f false [] status) (doneFor f status)) s

/-! ## The table of R255 -/

/-- The carve that contains the whole access. -/
def carveAt (v : Itvos) (off len : Nat) : Option (Nat × Carve) :=
  v.pool.carves.find? (fun c => decide (c.2.base ≤ off) && decide (off + len ≤ c.2.base + c.2.len))

/-- R232's rights test with a carve (R234): bit 0 R, 1 W, 2 A. -/
def ctxMatch (ctx value mask : BitVec 16) : Bool := ((ctx ^^^ value) &&& mask) = 0
def carveAdmits (c : Carve) (ctx : BitVec 16) (right : Nat) : Bool :=
  ctxMatch ctx c.ctxValue c.ctxMask && c.rights.getLsbD right

/-- What a CLAIM of a pool line meets before ownership (R236, R230, R234). -/
def claimStatus (s : State) (f : Flit) : Nat :=
  if sizeBytes f.sizeCode ≠ 128 ∨ f.offset % 128 ≠ 0 then St.badarg
  else if !toOwnPool s.itv f then St.ok
  else if !holdsPool s.itv then St.unlicensed
  else
    match carveAt s.itv f.offset 128 with
    | none => St.badarg
    | some (_, c) =>
      if s.itv.sec.struck.getLsbD c.part then St.struck
      else if s.itv.sec.parts != 0 && !carveAdmits c f.ctx 1 then St.denied
      else St.ok

/-- The request holds its place in RECALL. -/
def holdIn (s : State) (key : Nat) (e : DirEntry) (f : Flit) (t : Nat) : State :=
  putEntry s key { e with held := e.held ++ [(f, t)] }

/-- INV to the owner; the request is held. -/
def recallFor (s : State) (key : Nat) (e : DirEntry) (owner : Nat) (f : Flit) (t : Nat) : State :=
  sendInv (putEntry s key { e with st := .recall, published := false, evict := false, held := [(f, t)] }) key owner true none

/-- The entry that makes room in a full set (R262): SHARED with the fewest sharers, the least recently used among equals; OWNED
only where every way is. -/
def victim (ways : List (Nat × DirEntry)) : Option (Nat × DirEntry) :=
  let better := fun (a b : Nat × DirEntry) => decide (popcount a.2.sharers < popcount b.2.sharers) ||
    (popcount a.2.sharers == popcount b.2.sharers && decide (a.2.used < b.2.used))
  let pick := fun (xs : List (Nat × DirEntry)) (lt : Nat × DirEntry → Nat × DirEntry → Bool) =>
    xs.foldl (fun (m : Option (Nat × DirEntry)) x => match m with
      | none => some x
      | some b => if lt x b then some x else some b) none
  match pick (ways.filter (fun e => e.2.st == .shared)) better with
  | some e => some e
  | none =>
    if ways.all (fun e => e.2.st == .owned) then pick ways (fun a b => decide (a.2.used < b.2.used)) else none

/-- An eviction: INV to every sharer and the owner, the entry in RECALL (R262). -/
def evict (s : State) (key : Nat) (e : DirEntry) : State :=
  let s := bumpCoh (putEntry s key { e with st := .recall, evict := true, published := false }) .dirEvict
  let s := ((onesOf e.sharers).filter (fun t => e.owner != some t)).foldl (fun s t => sendInv s key t false none) s
  match e.owner with
  | some o => sendInv s key o true none
  | none => s

def waysOf (s : State) (key : Nat) : List (Nat × DirEntry) := s.itv.dir.entries.filter (fun e => setOf e.1 == setOf key)

/-- Room for a new entry of this line; without it the request waits for a way (R262). -/
def haveWay (s : State) (key : Nat) (f : Flit) (t : Nat) : State × Bool :=
  if (dirEntry s key).isSome then (s, true)
  else
    let ws := waysOf s key
    if ws.length < 256 then (s, true)
    else
      let s := modDir s (fun d => { d with wayWait := d.wayWait ++ [(f, t)] })
      match victim ws with
      | some (k, e) => (evict s k e, false)
      | none => (s, false)

/-- The directory acts on one request that arrived at time `t`: true where it passes to the home (R255, R256, R265, R278). -/
def dirAct (s : State) (f : Flit) (t : Nat) : State × Bool :=
  let key := flitLine f
  let S := nodeSeat f.src
  let e := (dirEntry s key).getD {}
  let full := f.sizeCode == 4
  let others := (onesOf e.sharers).filter (fun x => x != S)
  let ownStore := fun (s : State) (e : DirEntry) => openGroup s S key ((onesOf e.sharers).filter (fun x => x != S))
  if domainHit s f then (answer s f St.domainDown, false)
  else if e.st = .recall then
    if f.kind = Kind.store ∧ e.owner = some S then
      (putEntry (ownStore s e) key { e with sharers := BitVec.ofNat 72 (2 ^ S), published := true }, true)
    else (holdIn s key e f t, false)
  else
    match e.st, e.owner with
    | .owned, some o =>
      if f.kind = Kind.load then
        if o = S then (s, true)
        else (sendFwd (if full then putEntry s key { e with sharers := setBit e.sharers S true } else s) f o, false)
      else if o ≠ S then (recallFor s key e o f t, false)
      else if isClaim f then
        let st := claimStatus s f
        (answer (if st = St.ok then putEntry s key { e with sharers := setBit e.sharers S false } else s) f st, false)
      else if f.kind = Kind.store then
        (putEntry (ownStore s e) key { e with st := .shared, owner := none, sharers := BitVec.ofNat 72 (2 ^ S) }, true)
      else (recallFor s key e S f t, false)
    | _, _ =>
      if f.kind = Kind.load then
        if full then
          let (s, ok) := haveWay s key f t
          if ok then (putEntry s key { e with sharers := setBit e.sharers S true }, true) else (s, false)
        else (s, true)
      else if isClaim f then
        let st := claimStatus s f
        if st ≠ St.ok then (answer s f st, false)
        else
          let (s, ok) := haveWay s key f t
          if ok then
            (answer (putEntry s key { e with st := .owned, owner := some S, sharers := setBit e.sharers S false }) f st, false)
          else (s, false)
      else if f.kind = Kind.store then
        (putEntry (openGroup s S key others) key
          { e with sharers := if e.sharers.getLsbD S then BitVec.ofNat 72 (2 ^ S) else 0 }, true)
      else
        let s := putEntry (openGroup s S key (onesOf e.sharers)) key { e with sharers := 0 }
        if f.kind = Kind.atomic ∧ !toOwnPool s.itv f then combineOrPass s f else (s, true)

/-- Requests that a recall or a freed way releases, in order; plain stores that stand together are merged (R256, R278). -/
def releaseAll (s : State) : List (Flit × Nat) → List Flit → State
  | [], batch => sendStores s batch
  | (f, t) :: rest, batch =>
    if f.kind = Kind.store then
      let (s, go) := dirAct s f t
      releaseAll s rest (if go then batch ++ [f] else batch)
    else
      let (s, go) := dirAct (sendStores s batch) f t
      releaseAll (if go then passOn s f else s) rest []

/-- Requests that wait for a way of this line's set try again. -/
def wayFreed (s : State) (key : Nat) : State :=
  let mine := s.itv.dir.wayWait.filter (fun x => setOf (flitLine x.1) == setOf key)
  releaseAll (modDir s (fun d => { d with wayWait := d.wayWait.filter (fun x => setOf (flitLine x.1) != setOf key) })) mine []

/-- The recall of a line has ended (R256, R262): the state found, then the requests held. -/
def endRecall (s : State) (key : Nat) : State :=
  match dirEntry s key with
  | none => s
  | some e =>
    if e.st ≠ .recall then s
    else
      let owner := e.owner.getD 72
      let keep := if e.evict then 0 else if e.published then e.sharers else setBit e.sharers owner false
      let s := if keep = 0 then modDir s (fun d => { d with entries := kdel d.entries key })
               else putEntry s key { st := .shared, sharers := keep }
      let s := releaseAll s e.held []
      if keep = 0 then wayFreed s key else s

/-- FENCEs whose groups have all closed are answered (R268). -/
def answerFences (s : State) : State :=
  let ready := s.itv.dir.fences.filter (fun x => x.2.isEmpty)
  ready.foldl (fun s x => itvSend s (doneFor x.1 St.ok)) (modDir s (fun d => { d with fences := d.fences.filter (fun x => !x.2.isEmpty) }))

/-- An INV is acknowledged or orphaned: its group may close, its recall may end. -/
def closeInv (s : State) (v : InvOut) : State :=
  let s := modDir s (fun d => { d with invs := d.invs.filter (fun x => !(x.seat == v.seat && x.seq == v.seq)) })
  match v.group with
  | some g =>
    if s.itv.dir.invs.any (fun x => x.group == some g) then s
    else answerFences (modDir s (fun d => { d with groups := d.groups.filter (fun x => x.id != g),
                                                   fences := d.fences.map (fun x => (x.1, x.2.filter (· != g))) }))
  | none => if s.itv.dir.invs.any (fun x => x.group.isNone && x.line == v.line) then s else endRecall s v.line

/-- Requests waiting in the directory count toward the occupancy of their home's port (R279). -/
def dirWaiting (s : State) (port : Nat) : Nat :=
  let here := fun (f : Flit) => !f.dk && nodeSeat f.dst == port
  (s.itv.dir.entries.map (fun e => e.2.held.countP (fun x => here x.1))).sum + s.itv.dir.wayWait.countP (fun x => here x.1) +
    (s.itv.dir.combine.map (fun c => c.waiting.countP here)).sum

/-! ## Dead owners (R282, R283, R290) -/

/-- The notice to the other Itvos of the house; its SVC_CODE and layout are not in the manual. -/
def sendNotices (s : State) (part : Nat) : State :=
  match s.itv.routing.chart with
  | none => s
  | some c => ((onesOf c.planes).filter (fun q => q != swPlane c.swid)).foldl (fun s q =>
      itvSend s { dst := BitVec.ofNat 16 (q * 2048 + swIndex c.swid), src := c.swid, kind := Kind.svc, dk := true, sk := true,
                  payload := payloadOf [(0, leBytes 2 Config.svcDomainDown.toNat), (2, leBytes 1 part)] }) s

/-- The request is from a seat, to a seat or to a carve of the partition (R283, R204). -/
def ofPart (s : State) (part : Nat) (f : Flit) : Bool :=
  partOfSeat s (nodeSeat f.src) == part || (f.kind != Kind.fence && partOfLine s (flitLine f) == some part)

/-- Held and waiting requests of a partition leave the directory. -/
def takeHeld (s : State) (part : Nat) : State × List Flit :=
  let mine := ofPart s part
  let held := s.itv.dir.entries.flatMap (fun e => (e.2.held.map (·.1)).filter mine) ++
    (s.itv.dir.wayWait.map (·.1)).filter mine ++ (s.itv.dir.combine.flatMap (·.waiting)).filter mine ++
    (s.itv.dir.fences.map (·.1)).filter mine
  (modDir s (fun d => { d with
    entries := d.entries.map (fun e => (e.1, { e.2 with held := e.2.held.filter (fun x => !mine x.1) })),
    wayWait := d.wayWait.filter (fun x => !mine x.1),
    combine := d.combine.map (fun c => { c with waiting := c.waiting.filter (fun f => !mine f) }),
    fences := d.fences.filter (fun x => !mine x.1) }), held)

/-- The entries of a partition's lines are freed. -/
def freePart (s : State) (part : Nat) : State :=
  let mine := fun (key : Nat) => partOfLine s key == some part
  modDir s (fun d => { d with entries := d.entries.filter (fun e => !mine e.1),
                              invs := d.invs.filter (fun v => !(v.group.isNone && mine v.line)) })

/-- The coherent domain of a partition goes down: held and waiting requests are answered, its entries freed. -/
def domainDown (s0 : State) (part : Nat) : State :=
  if s0.itv.dir.down.getLsbD part then s0
  else
    let s := bumpCoh (modDir s0 (fun d => { d with down := setBit d.down part true })) .domainEvents
    let (s, held) := takeHeld s part
    let s := held.foldl (fun s f => answer s f St.domainDown) (freePart s part)
    noteState s0 (raiseEvent s Ev.domain)

/-- A dead owner: the domain of its partition goes down here and, by notice, in the house. -/
def deadOwner (s : State) (seat : Nat) : State :=
  let p := partOfSeat s seat
  if s.itv.dir.down.getLsbD p then s else sendNotices (domainDown s p) p

end Sys2Proof.Machine
end

