-- ==== Sys2Proof/Machine/KeyOps.lean ====
section
/-! DEFINITION. Key blobs and pushes to seats (R599, R601, R605, R606, R608). -/

namespace Sys2Proof.Machine

open Sys2Proof

/-! ## Blobs (R599) -/

/-- The entries of a blob: serial and 48 bytes. -/
def blobEntries (b : Bytes) : List (Nat × Bytes) :=
  (List.range (byteAt b 6)).map (fun i => (natAt b (96 + 48 * i) 8, slice b (96 + 48 * i) 48))
def entryFor (b : Bytes) (serial : Word) : Option Bytes := ((blobEntries b).find? (fun e => e.1 == serial.toNat)).map (·.2)
def blobEpoch (b : Bytes) : Nat := natAt b 8 4
def blobPart (b : Bytes) : Nat := byteAt b 12
def blobJob (b : Bytes) : Nat := natAt b 14 2
def blobUseAfter (b : Bytes) : Nat := natAt b 24 8
def serviceKey (b : Bytes) : Bytes := slice b 40 49

/-- The first 96 bytes of a blob hold no malformed field; `single`: the house has no partitions, and its only job key is that of
CTX 0 (R603). -/
def blobHeadOk (b : Bytes) (kind : Nat) (single : Bool) : Bool :=
  natAt b 0 4 == 0x4C424B57 && byteAt b 4 == 1 && byteAt b 5 == kind && decide (1 ≤ byteAt b 6) && decide (byteAt b 6 ≤ 81) &&
    decide (byteAt b 7 ≤ kind) && decide (blobPart b ≤ 15) && byteAt b 13 == 0 &&
    (if kind = 0 then blobJob b / 4096 == blobPart b && (!single || blobJob b == 0) else blobJob b == 0 && blobUseAfter b == 0) &&
    allZero (slice b 89 7) && Config.onCurve (serviceKey b)

/-- A key opened from an entry (R600). -/
def openEntry (serial : Word) (head entry : Bytes) : Option (BitVec 256) := Config.unwrapKey serial (head.take 96) (slice entry 8 40)

/-! ## Key contexts (R603, R605, R606, R620) -/

/-- A key is installed for a CTX: it is the newest, the one before it the previous, an older one is gone. -/
def installKey (s : State) (d : Side) (ctx part : Nat) (key : BitVec 256) (epoch useAfter : Nat) : State :=
  let base : KMap Nat := (turnsOf s d).map (fun t => (t.1, t.2.1))
  let fresh : JobKey := { part := part, key := key, epoch := epoch, useAfter := useAfter, base := base }
  let k : JobKey := match kget (keysOf s d) ctx with
    | none => fresh
    | some o => { fresh with prev := some o.key, strictSince := o.strictSince, prevBase := o.base, prevRx := o.rx }
  setKeys s d (kset (keysOf s d) ctx k)

def erasePartKeys (s : State) (d : Side) (part : Nat) : State := setKeys s d ((keysOf s d).filter (fun k => k.2.part != part))

/-! ## Pushes (R608) -/

/-- Seat ports of a partition on this plane. -/
def seatPorts (s : State) (part : Nat) : List Nat :=
  if isHouseSwitch s.itv then (List.range 72).filter (fun p => partOfSeat s p == part && !isUp s p) else []
/-- The serial that a seat offered in rehearsal. -/
def seatSerial (s : State) (p : Nat) : Option Word := ((itvPort s p).partner.filter (fun o => o.part == 2)).map (·.serial)

def seatFlit (s : State) (p code part : Nat) (rest : List (Nat × Bytes)) : Flit :=
  { dst := seatNode s.itv p, src := poolNode s.itv, kind := Kind.svc, payload := payloadOf ([(0, leBytes 2 code), (2, leBytes 1 part)] ++ rest) }

/-- Onto the port that faces the seat; one that is not READY takes nothing. -/
def sendSeat (s : State) (p : Nat) (f : Flit) : State := if (itvPort s p).st = .ready then itvMulticast s f [p] else s

/-- A push, and its repeats. -/
def beginPush (s : State) (p : Nat) (f : Flit) : State :=
  sendSeat { s with itv.sec.pushes := s.itv.sec.pushes ++ [{ port := p, flit := f, lastSend := s.now }] } p f

/-- KEY_PUSH of a blob for the seat at port `p`, where an entry is for it. -/
def pushFor (s : State) (p : Nat) (b : Bytes) : Option Flit :=
  (seatSerial s p).bind (fun n => (entryFor b n).map (fun e =>
    seatFlit s p 0x0301 (blobPart b) [(16, b.take 96), (112, e)]))

/-- A seat port is READY again: its keys are pushed, but not to a Belug that was reset whole. -/
def pushAgain (s : State) (p : Nat) : State :=
  let wholly := ((itvPort s p).partner.map (fun o => o.ownId == 0xFFFF)).getD true
  if wholly then s
  else (s.itv.sec.blobs.filter (fun b => (seatPorts s (blobPart b.2)).contains p)).foldl (fun s b =>
    match pushFor s p b.2 with
    | some f => beginPush s p f
    | none => s) s

end Sys2Proof.Machine
end

