-- ==== Sys2Proof/Machine/Hooks.lean ====
section
/-! DEFINITION. What other chapters ask of a port that becomes READY, leaves READY or meets its partner in NAMES. -/

namespace Sys2Proof.Machine

open Sys2Proof

/-- Members and reducers of collectives whose link is lost send REMAP (R347). -/
def portLostHook (s : State) (r : PortRef) : State :=
  match r with
  | .itv p => reducerPortLost s p.val
  | .blg p => belugPortLost s p.val
/-- A seat port that returns to READY is pushed the job keys of its seat again (R608). -/
def portReadyHook (s : State) (r : PortRef) : State :=
  match r with
  | .itv p => pushAgain s p.val
  | .blg _ => s
/-- A Belug that offers OWN_ID 0xFFFF was reset whole: it is a dead owner of the lines the directory records as its own
(R282). -/
def namesHook (s : State) (p : Nat) (o : Offer) : State :=
  if o.part == 2 && o.ownId == 0xFFFF && isHouseSwitch s.itv && s.itv.dir.entries.any (fun e => e.2.owner == some p) then
    deadOwner s p
  else s

/-- Where the tree of its group takes a collective flit (R329): to this switch's reducer, through a house switch to its members, or
down to ports. -/
inductive Tree where
  | toReducer
  | relay
  | down (ports : List Nat)
  | notTree
  deriving DecidableEq, Repr

/-- SRC is a switch above in a tree of the group (R320). -/
def fromAbove (s : State) (c : Cast) (src : BitVec 16) : Bool :=
  swPlane src == myPlane s && decide (myTier s < swTier src) && (treeStripes c).any (fun k =>
    (reducersOf (formOf s.itv) c.nodes (popcount c.planes) k).contains (swTier src, swIndex src))

/-- The nodes a flit sent down is for. -/
def targetsOf (c : Cast) (f : Flit) : List (BitVec 16) := if f.dst = 0xFFFF then c.nodes else [f.dst]

def treeRoute (s : State) (f : Flit) : Tree :=
  if f.dk then .notTree
  else if f.kind = Kind.contrib then
    if (!f.sk && isHouseSwitch s.itv && f.dst == poolNode s.itv) || (f.sk && f.dst == 0xFFFF) then .toReducer else .notTree
  else if (f.kind = Kind.result ∨ f.kind = Kind.mcast) ∧ f.sk then
    if myTier s = 0 then .relay
    else
      match (openFor s .itv f).2 with
      | none => .down []
      | some p =>
        match getCast s (cHead p).group with
        | none => .down []
        | some c => .down (if fromAbove s c f.src then portsDown s (targetsOf c f) else [])
  else .notTree

/-- A control flit on its way down acts on the reducer it passes (R339, R347). -/
def passControl (s : State) (p : Flit) : State :=
  let h := cHead p
  if h.step = stepAbort then
    (match (getCast s h.group).bind (findEntry · h.cueSeq) with
     | some e => if e.ended then s else dropColl s h.group h.cueSeq (ctlStatus p)
     | none => s)
  else if h.step = stepRemap then applyRemap s h.group (ctlPlane p)
  else s

/-- A RESULT from above at a house switch: decrypted, and on to its members from its own pool node (R602). -/
def relayDown (s : State) (f : Flit) : State :=
  match openFor (nokeyAbort s f) .itv f with
  | (s, none) => s
  | (s, some p) =>
    match getCast s (cHead p).group with
    | none => bumpColl s .notCast
    | some c =>
      if !fromAbove s c f.src then bumpColl s .notCast
      else
        let ports := portsDown s ((targetsOf c p).filter (fun x => nodeHouse x == myIndex s))
        passControl (sendPorts s { p with src := poolNode s.itv, sk := false, seq := 0 } ports) p

/-- A RESULT from above at a switch between: what it carries acts here before it goes on. -/
def passDown (s : State) (f : Flit) : State :=
  match openFor (nokeyAbort s f) .itv f with
  | (s, none) => s
  | (s, some p) =>
    match getCast s (cHead p).group with
    | none => bumpColl s .notCast
    | some c => if fromAbove s c f.src then passControl s p else bumpColl s .notCast

end Sys2Proof.Machine
end

