-- ==== Sys2Proof/Machine/PortOps.lean ====
section
/-! DEFINITION. Modes and widths (R40 to R43, R54), the offer frame of a port (R51, R53, R57), port states, entering and
leaving READY (R48, R76, R99, R109, R132, R149, R168, R174). -/

namespace Sys2Proof.Machine

open Sys2Proof

/-! ## Widths and modes -/

/-- R40: the width of a direction with `u` usable lanes; 0: down. -/
def widthFor (u : Nat) : Nat := if u = 8 then 8 else if u = 7 then 7 else if 4 ≤ u then 4 else if 2 ≤ u then 2 else 0

/-- R43: (rate index, width) of M0 to M11; rate 2 is 224 Gb/s, 1 is 112, 0 is 56. -/
def modeTable : List (Nat × Nat) :=
  [(2, 8), (2, 7), (1, 8), (2, 4), (1, 7), (0, 8), (1, 4), (2, 2), (0, 7), (0, 4), (1, 2), (0, 2)]

def rateOf (m : Nat) : Nat := (modeTable.getD m (0, 0)).1
def modeWidth (m : Nat) : Nat := (modeTable.getD m (0, 0)).2

/-- The mode of a rate with `u` usable lanes, if R40 allows one and it is no lower than `minMode` (R54). -/
def modeAt (rate u minMode : Nat) : Option Nat :=
  match modeTable.idxOf? (rate, widthFor u) with
  | some m => if m ≤ minMode then some m else none
  | none => none

/-- The best-ranked mode over the rates of a mask (R54). -/
def bestMode (rates u minMode : Nat) : Option Nat :=
  ([2, 1, 0].filterMap (fun r => if bitOf rates r then modeAt r u minMode else none)).min?

/-- Usable lanes of a direction: those of both masks, without the stand-in of its clock source (R42, R54). -/
def usableLanes (a b : BitVec 8) (clk : Nat) : Nat :=
  let m := a &&& b
  popcount (if clk = 1 then setBit m 7 false else if clk = 2 then setBit m 0 false else m)

/-! ## The frame this end offers -/

def ownOffer (s : State) (r : PortRef) : Offer :=
  let p := getPort s r
  let base : Offer := { txLanes := p.txUse, rxLanes := p.rxUse, clkSrc := BitVec.ofNat 8 p.clkRx,
                        verdict := BitVec.ofNat 8 p.verdict, ack := if p.ackSent then 1 else 0,
                        heldReason := if p.verdict = 2 then BitVec.ofNat 8 (reasonCode p.heldFor) else 0 }
  match r with
  | .itv i =>
    let e := (chartPort s.itv i.val).getD {}
    let feats : Nat := 1 + 2 * b2n (holdsChorus s.itv) + 4 + 8 * b2n e.fecBypass
    { base with features := BitVec.ofNat 8 feats, part := 1, ownId := swid s.itv, ownPort := BitVec.ofNat 8 i.val,
                minMode := if e.part = 0 then 11 else BitVec.ofNat 8 e.minMode,
                dressLog2 := if e.dressLog2 = 0 then 28 else BitVec.ofNat 8 e.dressLog2,
                planes := BitVec.ofNat 8 (planesFitted s.itv), form := BitVec.ofNat 8 (formOf s.itv),
                assigned := if e.part = 2 then e.peerId else 0xFFFF,
                expectId := if e.part = 0 then 0xFFFF else e.peerId, expectPort := BitVec.ofNat 8 e.peerPort,
                serial := s.itv.fuse.serial }
  | .blg i =>
    { base with features := 7, part := 2, ownId := s.blg.node, ownPort := BitVec.ofNat 8 i.val, minMode := 11,
                dressLog2 := 20, serial := s.blg.fuse.serial }

def sendOffer (s : State) (r : PortRef) : State := emit s (.offer r (ownOffer s r))

/-! ## Port states -/

/-- A change of state: counted on Itvos, and reported as PORT when it enters or leaves READY or goes to HELD or DOWN. -/
def setSt (s : State) (r : PortRef) (st : LinkState) (why : Reason) : State :=
  let p := getPort s r
  let s := setPort s r { p with st := st, reason := why, since := s.now }
  if p.st = st then s
  else
    let big := st == .ready || p.st == .ready || st == .held || st == .down
    match r with
    | .itv i =>
      let s := bump s (stateChangesIdx i.val) 1
      if big then raiseEvent s Ev.port else s
    | .blg _ => if big then raiseIrq s Irq.port else s

/-- A failed attempt (R48): counted; the port waits, and the wait doubles after each further failure, to at most 10 s. -/
def failAttempt (s : State) (r : PortRef) (st : LinkState) (why : Reason) : State :=
  let s := bumpPort s r .attemptFail 1
  let s := modPort s r (fun p => { p with waitMs := p.retryMs, retryMs := min (2 * p.retryMs) 10000 })
  setSt s r st why

/-! ## Leaving READY -/

/-- Discards at one Itvos port, counted per VC (R109). -/
def countDiscards (s : State) (p : Nat) (fs : List Flit) : State :=
  fs.foldl (fun s f => if f.vc < 8 then bump s (discardIdx p f.vc) 1 else s) s

/-- One pointer to a stored copy less; the copy goes with its last pointer (R128, R132). -/
def dropPointer (cs : KMap (Nat × Nat)) (id : Nat) : KMap (Nat × Nat) :=
  match kget cs id with
  | some (n, d) => if n ≤ 1 then kdel cs id else kset cs id (n - 1, d)
  | none => cs

def streamKey (inp out vc : Nat) : Nat := (inp * 80 + out) * 8 + vc
def streamOut (k : Nat) : Nat := k / 8 % 80

/-- An empty link: every credit and counter at zero (R99), nothing in either buffer. -/
def clearLink (p : Port) : Port :=
  { p with txCount := List.replicate 8 0, rxCount := List.replicate 8 0, retSent := List.replicate 8 0,
           retGot := List.replicate 8 0, peerCred := List.replicate 8 0, owed := List.replicate 8 0, owedQ := [],
           granted := false, resyncOut := false, ctlDue := [], ctlIn := [], clockLost := false, standin := false,
           landing := [], outq := [], arb := List.replicate 8 0, stamps := [], heardStamps := [], peerLevel := none,
           peerLocked := false, excluded := false }

/-- Express flits that still hold landing slots of input `n` go with its landing reserve (R109, R133). -/
def dropExpress (s : State) (n : Nat) : State :=
  (List.range 72).foldl (fun s o =>
    let mine := fun (e : QEntry) => e.express && e.inp == n
    let gone := (itvPort s o).outq.filter mine
    if gone.isEmpty then s
    else countDiscards (modItvPort s o (fun p => { p with outq := p.outq.filter (fun e => !mine e) })) n (gone.map (·.flit))) s

/-- What leaving READY does to an Itvos port and the core (R109, R132, R149, R174, R202). -/
def leaveItv (s : State) (n : Nat) : State :=
  let s := dropExpress s n
  let p := itvPort s n
  let s := countDiscards s n (p.landing.map (·.flit))
  let s := countDiscards s n (p.outq.map (·.flit))
  let pathFlits := s.itv.core.onPath.filter (fun x => x.outs.any (fun o => o.1 == n))
  let s := countDiscards s n (pathFlits.map (·.flit))
  let cs := p.outq.foldl (fun cs e => match e.copy with
    | some id => dropPointer cs id
    | none => cs) s.itv.core.copies
  let onPath := (s.itv.core.onPath.map (fun x => { x with outs := x.outs.filter (fun o => o.1 != n) })).filter
    (fun x => !x.outs.isEmpty)
  let streams := s.itv.core.streams.filter (fun e => streamOut e.1 != n)
  let internal := s.itv.core.internal.filterMap (fun l =>
    if l.mc.isEmpty then some l
    else if l.mc.all (· == n) then none else some { l with mc := l.mc.filter (· != n) })
  let drains := s.itv.routing.drains.map (fun d => if d.why == .commit then { d with ports := setBit d.ports n true } else d)
  let s := { s with itv.core.copies := cs, itv.core.onPath := onPath, itv.core.streams := streams,
                    itv.core.internal := internal,
                    itv.routing.drains := drains ++
                      [{ why := .left, ports := setBit 0 n true, start := s.now, lastSent := s.now }] }
  if isHouseSwitch s.itv && !isUp s n then ringRecord s n false else s

/-- What leaving READY does to a Belug port (R109). -/
def leaveBlg (s : State) (n : Nat) : State :=
  let p := blgPort s n
  bumpB s (16 * n + 14) (p.landing.length + p.outq.length)

/-- A port leaves READY for another state (R109, R168, R174, R302). -/
def leaveReady (s : State) (r : PortRef) (st : LinkState) (why : Reason) : State :=
  let s := match r with
    | .itv i => leaveItv s i.val
    | .blg i => leaveBlg s i.val
  let s := modPort s r clearLink
  let s := setSt s r st why
  let s := if (getCue s (refSide r)).parent = some (refNum r) then loseParent s (refSide r) else s
  portLostHook s r

/-- The port goes to `st`; if it was READY it leaves READY first. -/
def moveTo (s : State) (r : PortRef) (st : LinkState) (why : Reason) : State :=
  if (getPort s r).st = .ready then leaveReady s r st why else setSt s r st why

/-- As `moveTo`, and a failed attempt (R48). -/
def failTo (s : State) (r : PortRef) (st : LinkState) (why : Reason) : State :=
  if (getPort s r).st = .ready then failAttempt (leaveReady s r st why) r st why else failAttempt s r st why

/-! ## Entering READY -/

/-- CRED of R102: from the chart entry's F, 24 without one; Belug grants 64. -/
def credOf (s : State) (r : PortRef) : Nat :=
  match r with
  | .blg _ => 64
  | .itv i =>
    match chartPort s.itv i.val with
    | none => 64
    | some e =>
      let f := if e.length = 0 ∧ e.modNear = 0 ∧ e.modFar = 0 then 24 else (45 * e.length + 999) / 1000 + e.modNear + e.modFar
      max (2 * f + 16) 32

/-- The port enters READY (R48, R99, R634). -/
def enterReady (s : State) (r : PortRef) : State :=
  let cred := credOf s r
  let s := modPort s r (fun p => { clearLink p with retryMs := 100, waitMs := 0, redo := none, cred := cred, ctlDue := [0],
                                                    ctlAt := s.now, echoAt := s.now,
                                                    tokens := (match r with | .itv _ => 6 | .blg _ => 4), tokenAt := s.now })
  let s := setSt s r .ready .none
  let s := match r with
    | .itv i =>
      let s := if s.itv.cue.firstReady.isNone then { s with itv.cue.firstReady := some s.now } else s
      if isHouseSwitch s.itv && !isUp s i.val then ringRecord s i.val true else s
    | .blg _ => s
  portReadyHook s r

/-- The port re-rehearses from ALIGN at `rate` (R64, R97). -/
def realign (s : State) (r : PortRef) (rate : Nat) : State :=
  let s := leaveReady s r .align .none
  modPort s r (fun p => { p with redo := some rate, ackSent := false, ackSeen := false, verdict := 0, heldFor := .none,
                                 heard := [], copies := 0 })

def currentRate (p : Port) : Nat := rateOf (p.modeTx.getD 5)

end Sys2Proof.Machine
end

