-- ==== Sys2Proof/Machine/CmdOps.lean ====
section
/-! DEFINITION. How a Yalny command is accepted, checked in the order of R770, and completed, on a callboard slot (R545 to
R557) or over the management plane (R564, R730). -/

namespace Sys2Proof.Machine

open Sys2Proof

/-- Who issued a command: a slot, or a session with its SEQ. -/
inductive Caller where
  | slot (n : Nat)
  | sess (k : Nat) (seq : Word)
  deriving DecidableEq, Repr

/-- A command as accepted: its payload (LEN bytes), what a read of its host buffer returns, whether a write of it lands. Over
the management plane the message carries the data, and no reference is checked (R564). -/
structure Call where
  payload : Bytes
  who : Caller
  host : HostRead := .ok []
  landed : Bool := true
  deriving DecidableEq, Repr

def isMgmt (c : Call) : Bool :=
  match c.who with
  | .sess _ _ => true
  | .slot _ => false

/-- How a command ends (R546, R547): status, DETAIL, result, and what it writes to the host buffer referenced at an offset. -/
structure Reply where
  status : Nat
  detail : Nat := 0
  result : Bytes := []
  bulk : Option (Nat × Bytes) := none
  deriving DecidableEq, Repr

/-- A command's effect: the state, and its end; none while it runs on. -/
abbrev Cmd := State → Call → State × Option Reply

/-- End with a status and no effect. -/
def ends (s : State) (status : Nat) (detail : Nat := 0) (result : Bytes := []) : State × Option Reply :=
  (s, some { status := status, detail := detail, result := result })

/-- The first check that fails ends the command (R770). -/
def checked (s : State) : List (Bool × Nat × Nat) → (Unit → State × Option Reply) → State × Option Reply
  | [], f => f ()
  | (bad, st, detail) :: cs, f => if bad then ends s st detail else checked s cs f

/-- A must-be-zero field of `n` bytes at `a`: one that is not zero is refused, and DETAIL is the field's offset (R12, R547). -/
def mbz (c : Call) (a n : Nat) : Bool × Nat × Nat :=
  ((List.range n).any (fun i => c.payload.getD (a + i) 0 != 0), St.badarg, a)

/-- The host buffer reference at `off` (R548); over the management plane only its length may be non-zero (R730). -/
def refCheck (c : Call) (off dir : Nat) : Bool × Nat × Nat :=
  if isMgmt c then
    let (bad, st, d) := mbz c off 8
    if bad then (bad, st, d) else
      let (bad, st, d) := mbz c (off + 12) 1
      if bad then (bad, st, d) else mbz c (off + 13) 3
  else
    match hostRefCheck c.payload off dir with
    | some d => (true, St.badarg, d)
    | none => (false, St.badarg, off)

/-- LEN of a buffer reference. -/
def bufLen (c : Call) (off : Nat) : Nat := (hostRef c.payload off).len

/-- A host buffer can be reached (R548). -/
def hostReach (s : State) (c : Call) : Bool := isMgmt c || s.itv.cb.busMaster

/-- Continue with what the buffer referenced at `off` holds, or end with BADARG (R549). -/
def withHost (s : State) (c : Call) (off : Nat) (f : Bytes → State × Option Reply) : State × Option Reply :=
  match c.host with
  | .ok d => if hostReach s c then f (pad (bufLen c off) d) else ends s St.badarg off
  | .failed => ends s St.badarg off

/-! ## Catalogue (R562) -/

/-- Code, least and greatest LEN (R563), bound in ms. -/
structure CmdRow where
  code : Nat
  minLen : Nat
  maxLen : Nat
  bound : Nat
  deriving DecidableEq, Repr

def catalogue : List CmdRow :=
  [⟨0x0001, 0, 0, 1⟩, ⟨0x0002, 8, 8, 5⟩, ⟨0x0003, 24, 24, 50⟩, ⟨0x0004, 16, 16, 10⟩, ⟨0x0005, 0, 0, 1⟩,
   ⟨0x0101, 32, 32, 10⟩, ⟨0x0102, 40, 40, 1⟩, ⟨0x0103, 8, 8, 1⟩, ⟨0x0104, 8, 8, 1⟩, ⟨0x0105, 8, 8, 5⟩,
   ⟨0x0106, 32, 32, 100⟩, ⟨0x0107, 32, 32, 50⟩, ⟨0x0108, 32, 32, 2000⟩, ⟨0x0109, 32, 32, 2000⟩] ++
  [⟨0x0201, 32, 32, 100⟩, ⟨0x0202, 16, 16, 10⟩, ⟨0x0203, 48, 48, 500⟩, ⟨0x0301, 80, 80, 100⟩, ⟨0x0302, 17, 4032, 20⟩,
   ⟨0x0303, 17, 4032, 20⟩, ⟨0x0304, 8, 8, 100⟩, ⟨0x0401, 8, 8, 1⟩, ⟨0x0402, 8, 8, 1⟩, ⟨0x0403, 0, 0, 1⟩,
   ⟨0x0404, 0, 0, 5⟩, ⟨0x0405, 24, 24, 20⟩, ⟨0x0406, 8, 8, 1⟩, ⟨0x0501, 8, 8, 1000⟩, ⟨0x0601, 24, 24, 30000⟩,
   ⟨0x0602, 8, 8, 10⟩, ⟨0x0603, 0, 0, 100⟩, ⟨0x0701, 17, 4032, 20⟩, ⟨0x0702, 48, 48, 50⟩]

def rowOf (code : Nat) : Option CmdRow := catalogue.find? (fun r => r.code == code)

/-! ## Slots -/

def getSlot (s : State) (n : Nat) : Slot := (s.itv.cb.slots[n]?).getD {}
def modSlot (s : State) (n : Nat) (f : Slot → Slot) : State :=
  if h : n < 8 then { s with itv.cb.slots := s.itv.cb.slots.set n (f (s.itv.cb.slots.get ⟨n, h⟩)) h } else s

/-- Work that runs on no longer has a command in slot `n` to end. -/
def forgetSlot (s : State) (n : Nat) : State :=
  { s with itv.sec.installing := s.itv.sec.installing.filter (fun x => x.1 != n),
           itv.sec.strikes := s.itv.sec.strikes.map (fun x => if x.slot = some n then { x with slot := none } else x),
           itv.routing.drains := s.itv.routing.drains.map (fun x => if x.slot = some n then { x with slot := none } else x),
           itv.coll.resetBy := s.itv.coll.resetBy.map (fun x => if x.2.1 = some n then (x.1, (none, none)) else x),
           itv.relay.stageSlot := if s.itv.relay.stageSlot = some n then none else s.itv.relay.stageSlot }

/-- Completion of a slot (R551): result, RESULT_LEN, STATUS; then OWN clears and the slot's vector is raised. -/
def completeSlot (s : State) (n : Nat) (r : Reply) : State :=
  let s := modSlot (forgetSlot s n) n (fun x => { x with
    payload := memWrite x.payload 0 r.result, resultLen := BitVec.ofNat 12 r.result.length,
    stCode := BitVec.ofNat 8 r.status, detail := BitVec.ofNat 16 r.detail, own := false, running := none })
  raiseVector s n

/-- The body of a RESULT (R729). -/
def resultBody (r : Reply) : Bytes :=
  leBytes 1 r.status ++ zeros 1 ++ leBytes 2 r.detail ++ leBytes 4 r.result.length ++ r.result ++
    (match r.bulk with
     | some (_, d) => d
     | none => [])

/-- A RESULT message on a session (R729, R730); of a session that has closed it is discarded and counted (R743). -/
def completeSess (s : State) (k : Nat) (seq : Word) (r : Reply) : State :=
  match kget s.itv.mgmt.sessions k with
  | none => { s with itv.mgmt.resultLost := satAdd s.itv.mgmt.resultLost 1 }
  | some x =>
    let cmds := match takeFirst (fun (c : Nat × Word) => c.2 == seq) x.cmds with
      | some (_, rest) => rest
      | none => x.cmds
    let x := { x with cmds := cmds, unread := some (x.unread.getD s.now) }
    emit { s with itv.mgmt.sessions := kset s.itv.mgmt.sessions k x } (.nymco k 0x11 seq (resultBody r))

/-- Who asked, as the state keeps it (R586, R611). -/
def callerSlot (c : Call) : Option Nat :=
  match c.who with
  | .slot n => some n
  | .sess _ _ => none
def callerSess (c : Call) : Option (Nat × Word) :=
  match c.who with
  | .slot _ => none
  | .sess k q => some (k, q)

/-- The end of a command, wherever it came from. A host buffer write that fails ends it with BADARG; its effect stands (R549). -/
def finish (s : State) (c : Call) (r : Reply) : State :=
  match c.who with
  | .sess k seq => completeSess s k seq r
  | .slot n =>
    match r.bulk with
    | none => completeSlot s n r
    | some (off, d) =>
      if hostReach s c && c.landed then completeSlot (emit s (.hostWrite (BitVec.ofNat 64 (hostRef c.payload off).addr) d)) n r
      else completeSlot s n { status := St.badarg, detail := off }

/-- A command that ran on ends (R551). -/
def finishLate (s : State) (who : Caller) (r : Reply) : State := finish s { payload := [], who := who } r

/-- As `finishLate`, for a caller the state has kept. -/
def finishKept (s : State) (slot : Option Nat) (sess : Option (Nat × Word)) (r : Reply) : State :=
  match slot, sess with
  | some n, _ => if (getSlot s n).running.isSome then finishLate s (.slot n) r else s
  | none, some (k, q) => finishLate s (.sess k q) r
  | none, none => s

/-- Yalny accepts commands: it runs, and no switchover or restart is under way (R551, R556, R681). -/
def accepting (s : State) : Bool :=
  s.itv.boot.yalny && !s.itv.boot.restarting && !s.itv.boot.held &&
    (s.itv.boot.mode == .ready || s.itv.boot.mode == .starting)

/-- A command waits in slot `n`: handed over and not accepted. -/
def waitsIn (s : State) (n : Nat) : Bool := (getSlot s n).own && (getSlot s n).running.isNone

/-- A change of stored configuration: written to the store in force, and to the old store while a bow is pending (R719). -/
def modStore (s : State) (f : Store → Store) : State :=
  { s with itv.flash.store := f s.itv.flash.store, itv.flash.other := s.itv.flash.other.map f }

/-- Acceptance of a slot (R551). -/
def acceptSlot (s : State) (n : Nat) : State :=
  modSlot s n (fun x => { x with
    stCode := 0xFF, detail := 0, seqEcho := x.seq.setWidth 32, resultLen := 0, running := some s.now })

/-- chorus-load and chorus-check return 64 bytes with every status (R575); where no object was checked their content is free (log 3). -/
def codeResult (code : Nat) (x : State × Option Reply) : State × Option Reply :=
  match x with
  | (s, some r) =>
    if (code = 0x0108 ∨ code = 0x0109) ∧ r.result.isEmpty then
      ({ s with free := s.free + 8 }, some { r with result := (List.range 8).flatMap (fun i => leBytes 8 (Config.freeWord (s.free + i)).toNat) })
    else (s, some r)
  | (s, none) => (s, none)

/-- Checks 1 and 2 of R770, then the command. -/
def runCmd (s : State) (c : Call) (len : Nat) (row : CmdRow) (f : Cmd) : State :=
  let (s', r) := codeResult row.code <|
    if len > 4032 && !isMgmt c then ends s St.badarg 0xFFFF
    else if len < row.minLen ∨ len > row.maxLen then ends s St.badarg (min len row.minLen)
    else f s c
  match r with
  | some r => finish s' c r
  | none => s'

/-- The payload of slot `n`. -/
def slotPayload (s : State) (n : Nat) : Bytes := memRead (getSlot s n).payload 0 (min (getSlot s n).len.toNat 4032)

/-- A command row: the slot holds CODE `code` with a payload that `sel` picks; Yalny accepts and runs it. In greenroom the
boot ROM's service accepts what `green` allows on slot 0 (R557, R721). Otherwise nothing waits here for this row. -/
def cmdRow (s : State) (n : Fin 8) (code : Nat) (sel : Bytes → Bool) (green : Bool) (host : HostRead) (landed : Bool)
    (f : Cmd) : State :=
  let x := getSlot s n.val
  let pl := slotPayload s n.val
  let may := accepting s || (s.itv.boot.mode == .greenroom && n.val == 0 && green)
  if waitsIn s n.val && x.code.toNat == code && sel pl && may then
    match rowOf code with
    | some row => runCmd (acceptSlot s n.val) { payload := pl, who := .slot n.val, host := host, landed := landed } x.len.toNat row f
    | none => s
  else s

def anyPayload (_ : Bytes) : Bool := true
/-- The byte at `a` is `v`. -/
def byteIs (a v : Nat) (p : Bytes) : Bool := byteAt p a == v
/-- The byte at `a` is `v`, or none of the encodings `vs` (the first row of a group answers a reserved encoding). -/
def byteIsOr (a v : Nat) (vs : List Nat) (p : Bytes) : Bool := byteAt p a == v || !vs.contains (byteAt p a)

end Sys2Proof.Machine
end

