-- ==== Sys2Proof/Machine/ResetOps.lean ====
section
/-! DEFINITION. Resets shared by several rows: the prompter reset (R555, R690), the whole-chip reset of Itvos (R679, R695), the
1 ms wait of reset-partial at level 5 (R586). -/

namespace Sys2Proof.Machine

open Sys2Proof

/-! ## Sessions -/

/-- Session `k` closes: its outstanding commands run on without a peer (R743). -/
def closeSession (s : State) (k : Nat) : State :=
  match kget s.itv.mgmt.sessions k with
  | none => s
  | some _ => emit { s with itv.mgmt.sessions := kdel s.itv.mgmt.sessions k } (.closed k)

def closeAll (s : State) : State := (s.itv.mgmt.sessions.map (·.1)).foldl closeSession s

/-! ## Prompter reset (R555, R690, R694, R713) -/

/-- Whether a command that a prompter reset ends took effect (R547): what was accepted runs on or has acted, but for a
script-stage, whose flash write ends with the prompters (log 44). -/
def appliedAtReset (x : Slot) : Bool := x.running.isSome && x.code.toNat != 0x0601

/-- Every slot whose OWN is 1 ends with TIMEOUT and APPLIED, but for the one that asked (R555, R586). -/
def endSlots (s : State) (keep : Option Nat) : State :=
  (List.range 8).foldl (fun s n =>
    let x := getSlot s n
    if x.own && keep != some n then
      completeSlot s n { status := St.timeout, detail := if appliedAtReset x then 0x8000 else 0 }
    else s) s

/-- The prompters stop: MODE reads SWITCHING until they accept commands again (R556), slots end, sessions close; the staging of
a script by command ends, its slot left EMPTY (R708). The data plane runs on. -/
def prompterReset (s : State) (keep : Option Nat) : State :=
  let s := endSlots s keep
  let s := closeAll s
  let r := s.itv.relay
  let r := if r.byRelay then r else { r with staging := none, stageSlot := none, stageSess := none }
  noteState s { s with itv.boot.yalny := false, itv.boot.restarting := true, itv.boot.mode := .switching,
                       itv.boot.restartSlot := keep, itv.boot.watchdogStopped := none, itv.relay := r }

/-! ## Whole-chip reset (R679, R695) -/

/-- Itvos after a whole-chip reset: what fuses and flash hold, and the pins (R695). -/
def resetItvos (v : Itvos) (now : Nat) (held : Bool) : Itvos :=
  { fuse := v.fuse, flash := v.flash,
    boot := { held := held, releasedAt := now, lostA := v.boot.lostA, lostB := v.boot.lostB,
              useB := v.boot.lostA && !v.boot.lostB, strapLow := v.boot.strapLow },
    cb := { perst := v.cb.perst },
    pwr := { tripPin := v.pwr.tripPin, pinSince := v.pwr.pinSince, pinRec := v.pwr.pinRec },
    mgmt := { v.mgmt with sessions := [], resultLost := 0 } }

/-- A whole-chip reset of Itvos overrides every reset below it (R697); `held`: the chip stays in reset. -/
def wholeReset (s : State) (held : Bool) : State :=
  let s := closeAll s
  let s := if s.itv.cb.eventCause = 0 then s else emit s (.alert .itv false)
  { s with itv := resetItvos s.itv s.now held }

/-- The reset that follows a reset-partial at level 5 by 1 ms (R586). -/
def dueReset (s : State) : State :=
  match s.itv.boot.level5At with
  | some t => if t ≤ s.now then wholeReset s false else s
  | none => s

end Sys2Proof.Machine
end

