-- ==== Sys2Proof/Machine/Xlat.lean ====
section
/-! DEFINITION. Translation at Belug (R208 to R228): caches, walks, checks, faults, invalidation. -/

namespace Sys2Proof.Machine

open Sys2Proof

/-! ## Reasons (R227) -/

inductive XReason where
  | vaRange | badCtx | notPresent | badEntry | rights | reservedNode | remoteHouse | lmemFail
  deriving DecidableEq, Repr

def XReason.code (r : XReason) : Nat := r.ctorIdx + 1
def XReason.status : XReason → Nat
  | .badCtx => St.denied
  | .rights => St.denied
  | _ => St.badarg

/-- What a translation answers: the physical address with WIRE_CTX and NOCACHE, or a failure with the level and entry of
R228. -/
inductive XRes where
  | ok (phys : Word) (wire : BitVec 16) (nocache : Bool)
  | fail (r : XReason) (level : Nat) (entry : Word)
  deriving DecidableEq, Repr

def XOp.code : XOp → Nat
  | .load => 0 | .store => 1 | .atomic => 2 | .rmem => 3 | .bulk => 4 | .source => 5 | .ctxOnly => 5 | .range => 0

/-! ## Entries (R211 to R213) -/

/-- Lowest bit of the virtual address that indexes a level. -/
def levelShift (l : Nat) : Nat := if l = 0 then 16 else 21 + 9 * (l - 1)
def levelIndex (va l : Nat) : Nat := if l = 0 then va / 2 ^ 16 % 32 else va / 2 ^ levelShift l % 512
def eValid (e : Word) : Bool := e.getLsbD 0
def eLeaf (e : Word) : Bool := e.getLsbD 1
def eNode (e : Word) : BitVec 16 := e.extractLsb' 48 16
/-- Local offset of the next table. -/
def eNext (e : Word) : Nat := e.toNat / 2 ^ 8 % 2 ^ 40 * 256
/-- An entry read at a level is malformed (R212 to R214). -/
def badEntry (e : Word) (l : Nat) : Bool :=
  let w := e.toNat
  if eLeaf e then
    decide (3 ≤ l) || bits w 15 6 != 0 || (l == 1 && bits w 20 16 != 0) || (l == 2 && bits w 29 16 != 0)
  else l == 0 || bits w 63 48 != 0 || bits w 7 2 != 0 || (decide (2 ≤ l) && bits w 11 8 != 0)

/-- The checks of R215 on a leaf of a level, and the address (R214). -/
def judgeLeaf (b : Belug) (op : XOp) (wire : BitVec 16) (leaf : Word) (level va : Nat) : XRes :=
  let node := eNode leaf
  let right := match op with
    | .load => 2 | .source => 2 | .ctxOnly => 2 | .store => 3 | .bulk => 3 | .atomic => 4 | .rmem => 4 | .range => 0
  if b.node = 0xFFFF ∨ reservedNode b.form node then .fail .reservedNode level leaf
  else if nodeHouse node ≠ nodeHouse b.node then .fail .remoteHouse level leaf
  else if !leaf.getLsbD right then .fail .rights level leaf
  else .ok (BitVec.ofNat 64 (node.toNat * 2 ^ 48 + bits leaf.toNat 47 16 * 2 ^ 16 + va % 2 ^ levelShift level)) wire (leaf.getLsbD 5)

def levelOf (sh : Nat) : Nat := if sh = 30 then 2 else if sh = 21 then 1 else 0

/-! ## Caches (R218, R219) -/

def xHit (ctx va : Nat) (e : XEntry) : Bool := e.ctx == ctx && e.va / 2 ^ e.sh == va / 2 ^ e.sh
def l1Of (s : State) (eng : Nat) : List XEntry := kgetD s.blg.l1 eng []
def l1Put (s : State) (eng : Nat) (e : XEntry) : State :=
  { s with blg.l1 := kset s.blg.l1 eng ((e :: (l1Of s eng).filter (fun x => !xHit e.ctx e.va x)).take 64) }
def l2Put (s : State) (e : XEntry) : State :=
  { s with blg.l2 := (e :: s.blg.l2.filter (fun x => !xHit e.ctx e.va x)).take 8192 }
def descOf (s : State) (ctx : Nat) : Option CtxDesc := (s.blg.descs.find? (fun d => d.1 == ctx)).map (·.2)
def descPut (s : State) (ctx : Nat) (d : CtxDesc) : State :=
  { s with blg.descs := ((ctx, d) :: s.blg.descs.filter (fun x => x.1 != ctx)).take 64 }
def walkPut (s : State) (e : WEntry) : State := { s with blg.walkCache := (e :: s.blg.walkCache).take 256 }
/-- The deepest cached table entry on the way to an address. -/
def deepest (s : State) (ctx va : Nat) : Option WEntry :=
  let on := s.blg.walkCache.filter (fun e => e.ctx == ctx && e.va / 2 ^ levelShift e.level == va / 2 ^ levelShift e.level)
  on.foldl (fun (m : Option WEntry) e => match m with
    | none => some e
    | some b => if e.level < b.level then some e else some b) none

/-! ## Walks (R214, R220) -/

def modWalk (s : State) (id : Nat) (f : Walk → Walk) : State :=
  { s with blg.walks := s.blg.walks.map (fun w => if w.id = id then f w else w) }

/-- The walk reads its table at a level. -/
def readLevel (s : State) (w : Walk) (level table : Nat) (wire : BitVec 16) : State :=
  lmemRead (modWalk s w.id (fun w => { w with level := level, table := table, wire := wire }))
    (table + 8 * levelIndex w.va level) 0 (.walk w.id)

/-- With the descriptor known: from the deepest cached entry, else from the root. -/
def walkFrom (s : State) (w : Walk) (d : CtxDesc) : State :=
  match deepest s w.ctx w.va with
  | some e => readLevel s w (e.level - 1) (eNext e.entry) d.wire
  | none => readLevel s w 4 d.root d.wire

/-- A walk starts: by the cached descriptor, or by reading it. -/
def beginWalk (s : State) (w : Walk) : State :=
  let s := { s with blg.walks := s.blg.walks ++ [w] }
  match descOf s w.ctx with
  | some d => walkFrom s w d
  | none => lmemRead s (s.blg.ctxBase.toNat * 4096 + 16 * w.ctx) 1 (.walk w.id)

/-- Walks of the same page share one (R220). -/
def joinWalk (x : XWait) (ctx : Nat) (w : Walk) : Bool :=
  w.ctx == ctx && w.va / 65536 == x.va / 65536 && !w.stale && (x.op == .ctxOnly) == w.waits.any (fun y => y.op == .ctxOnly)

def newWalk (s : State) (ctx : Nat) (x : XWait) : State :=
  if s.blg.walks.any (joinWalk x ctx) then
    { s with blg.walks := s.blg.walks.map (fun w => if joinWalk x ctx w then { w with waits := w.waits ++ [x] } else w) }
  else
    let w : Walk := { id := s.blg.nextWalk, ctx := ctx, va := x.va, waits := [x] }
    let s := { s with blg.nextWalk := s.blg.nextWalk + 1 }
    if s.blg.walks.length < 16 then beginWalk s w else { s with blg.walkQueue := s.blg.walkQueue ++ [w] }

/-- A translation: answered now, or a walk is under way for it. -/
def translate (s : State) (ctx : Nat) (x : XWait) : State × Option XRes :=
  if x.va ≥ 2 ^ 57 then (s, some (.fail .vaRange 255 0))
  else if x.op = .ctxOnly then
    match descOf s ctx with
    | some d => (s, some (.ok 0 d.wire false))
    | none => if s.blg.ctxCount.toNat ≤ ctx then (s, some (.fail .badCtx 255 0)) else (newWalk s ctx x, none)
  else
    match (l1Of s x.engine).find? (xHit ctx x.va) with
    | some e => (s, some (judgeLeaf s.blg x.op e.wire e.leaf (levelOf e.sh) x.va))
    | none =>
      match s.blg.l2.find? (xHit ctx x.va) with
      | some e => (l1Put s x.engine e, some (judgeLeaf s.blg x.op e.wire e.leaf (levelOf e.sh) x.va))
      | none =>
        if s.blg.ctxCount.toNat ≤ ctx then (s, some (.fail .badCtx 255 0)) else (newWalk s ctx x, none)

/-- Walks that waited start while fewer than 16 run. -/
def startQueued (s : State) : State :=
  match s.blg.walkQueue with
  | [] => s
  | w :: ws => if s.blg.walks.length < 16 then beginWalk { s with blg.walkQueue := ws } w else s

/-- The walk ends: each that waited gets its answer. -/
def endWalk (s : State) (w : Walk) (res : XWait → XRes) : State × List (XWait × XRes) :=
  (startQueued { s with blg.walks := s.blg.walks.filter (fun x => x.id != w.id) }, w.waits.map (fun x => (x, res x)))

/-- The descriptor read (R209). -/
def walkDescriptor (s : State) (w : Walk) (ok : Bool) (d : Bytes) : State × List (XWait × XRes) :=
  if !ok then endWalk s w (fun _ => .fail .lmemFail 255 0)
  else
    let root := natAt d 0 8
    let flags := byteAt d 10
    if flags ≠ 1 ∨ root % 4096 ≠ 0 ∨ root / 2 ^ 48 ≠ 0 ∨ !allZero (slice d 11 5) then endWalk s w (fun _ => .fail .badCtx 255 0)
    else
      let c : CtxDesc := { root := root, wire := BitVec.ofNat 16 (natAt d 8 2) }
      let s := if w.stale then s else descPut s w.ctx c
      if w.waits.any (fun x => x.op == .ctxOnly) then endWalk s w (fun _ => .ok 0 c.wire false)
      else (walkFrom s w c, [])

/-- An entry read (R214). -/
def walkEntry (s : State) (w : Walk) (ok : Bool) (e : Word) : State × List (XWait × XRes) :=
  if !ok then endWalk s w (fun _ => .fail .lmemFail w.level 0)
  else if !eValid e then endWalk s w (fun _ => .fail .notPresent w.level e)
  else if badEntry e w.level then endWalk s w (fun _ => .fail .badEntry w.level e)
  else if eLeaf e then
    let sh := levelShift w.level
    let x : XEntry := { ctx := w.ctx, va := w.va / 2 ^ sh * 2 ^ sh, sh := sh, leaf := e, wire := w.wire }
    let s := if w.stale then s else w.waits.foldl (fun s y => l1Put s y.engine x) (l2Put s x)
    endWalk s w (fun y => judgeLeaf s.blg y.op w.wire e w.level y.va)
  else
    let s := if w.stale then s else walkPut s { ctx := w.ctx, va := w.va, level := w.level, entry := e }
    (readLevel s w (w.level - 1) (eNext e) w.wire, [])

/-- The accelerator's answer to a walk's read. -/
def walkAnswer (s : State) (id status : Nat) (data : Bytes) : State × List (XWait × XRes) :=
  match s.blg.walks.find? (fun w => w.id == id) with
  | none => (s, [])
  | some w =>
    if w.level = 5 then walkDescriptor s w (status == 0) (data.take 16)
    else walkEntry s w (status == 0) (BitVec.ofNat 64 (natAt data 0 8))

/-! ## Faults (R227, R228) -/

/-- A failed translation: its record and the translation interrupt. -/
def xlatFault (s : State) (ctx : Nat) (x : XWait) (r : XReason) (level : Nat) (entry : Word) : State :=
  let s := bumpBC s .xlatFaults
  let size := 2 ^ (s.blg.faultLog2.toNat + 4)
  let used := (s.blg.faultHead.toNat + 2 ^ 20 - s.blg.faultTail.toNat) % 2 ^ 20
  let s := if used = size then { s with blg.faultLost := if s.blg.faultLost = 0xFFFF then 0xFFFF else s.blg.faultLost + 1 }
    else
      let rec_ := leBytes 8 x.va ++ leBytes 2 ctx ++ leBytes 1 x.op.code ++ leBytes 1 r.code ++ leBytes 1 x.engine ++
        leBytes 1 level ++ zeros 2 ++ leBytes 8 entry.toNat ++ leBytes 8 s.blg.cue.count.toNat
      lmemWrite { s with blg.faultHead := s.blg.faultHead + 1 }
        (s.blg.faultBase.toNat * 4096 + 32 * (s.blg.faultHead.toNat % size)) rec_ .faultRecord
  raiseIrq s Irq.xlat

/-! ## Invalidation (R223 to R225) -/

def spanOverlaps (lo hi va sh : Nat) : Bool :=
  let a := va / 2 ^ sh * 2 ^ sh
  decide (a < hi) && decide (lo < a + 2 ^ sh)

/-- What a slot removes: of one context a range of addresses, all of it, or everything. -/
structure Sel where
  ctx : Option Nat
  lo : Nat
  hi : Nat
  descs : Bool

def selHits (q : Sel) (ctx va sh : Nat) : Bool := q.ctx.all (· == ctx) && spanOverlaps q.lo q.hi va sh

/-- Every cached entry that the selection meets leaves; running walks that it meets leave none. -/
def removeEntries (s : State) (q : Sel) : State :=
  { s with
    blg.l1 := s.blg.l1.map (fun e => (e.1, e.2.filter (fun x => !selHits q x.ctx x.va x.sh))),
    blg.l2 := s.blg.l2.filter (fun x => !selHits q x.ctx x.va x.sh),
    blg.walkCache := s.blg.walkCache.filter (fun e => !selHits q e.ctx e.va (levelShift e.level)),
    blg.descs := if q.descs then s.blg.descs.filter (fun d => !q.ctx.all (· == d.1)) else s.blg.descs,
    blg.walks := s.blg.walks.map (fun w => if selHits q w.ctx w.va 48 then { w with stale := true } else w),
    blg.walkQueue := s.blg.walkQueue }

/-- The operations that may have used an entry removed (R224). -/
def opsMet (s : State) (q : Sel) : List Nat :=
  (s.blg.openOps.filter (fun o => o.vas.any (fun va => selHits q o.ctx va 30))).map (·.id)

/-- The selection of a slot, none where its arguments are refused (R223, R225). -/
def selOf (b : Belug) (x : InvSlot) : Option Sel :=
  let ctx := x.ctx.toNat
  let lo := x.va.toNat * 65536
  let hi := lo + x.pages.toNat * 65536
  match x.typ.toNat with
  | 0 => if x.pages = 0 ∨ hi > 2 ^ 57 ∨ b.ctxCount.toNat ≤ ctx then none
         else some { ctx := some ctx, lo := lo, hi := hi, descs := false }
  | 1 => if b.ctxCount.toNat ≤ ctx then none else some { ctx := some ctx, lo := 0, hi := 2 ^ 57, descs := true }
  | 2 => some { ctx := none, lo := 0, hi := 2 ^ 57, descs := true }
  | _ => none

def modInvSlot (s : State) (n : Fin 4) (f : InvSlot → InvSlot) : State :=
  { s with blg.invSlots := s.blg.invSlots.set n.val (f (s.blg.invSlots.get n)) n.isLt }

/-- An invalidation slot of type `t` handed to Belug is carried out. -/
def xlatInvOp (s : State) (n : Fin 4) (t : Nat) : State :=
  let x := s.blg.invSlots.get n
  if !x.own || x.removed || x.typ.toNat != t then s
  else
    match selOf s.blg x with
    | none => modInvSlot s n (fun x => { x with removed := true, bad := true })
    | some q => modInvSlot (removeEntries s q) n (fun x => { x with removed := true, bad := false, ops := opsMet s q })
def execXlatInvRange (n : Fin 4) (s : State) : Res := .next (xlatInvOp s n 0)
def execXlatInvContext (n : Fin 4) (s : State) : Res := .next (xlatInvOp s n 1)
def execXlatInvAll (n : Fin 4) (s : State) : Res := .next (xlatInvOp s n 2)

/-- INV_SLOT_COMPLETE (R224, R225). -/
def invSlotCompleteOp (s : State) (n : Fin 4) : State :=
  let x := s.blg.invSlots.get n
  let ready := x.own && (x.typ == 3 || (x.removed && x.ops.all (fun id => !isOpen s id)))
  if ready then
    let s := modInvSlot s n (fun y => { y with own := false, removed := false, ops := [], bad := false,
                                               status := if x.bad || x.typ == 3 then 0x02 else 0x00 })
    if x.irq then raiseIrq s Irq.xlat else s
  else s
def execInvSlotComplete (n : Fin 4) (s : State) : Res := .next (invSlotCompleteOp s n)

end Sys2Proof.Machine
end

