-- ==== Sys2Proof/Machine/BelugMem.lean ====
section
/-! DEFINITION. The coherent memory of a seat: loads, stores, atomics and RMEM of the apron after translation, the far cache and
the owner cache (R243 to R251, R258 to R260, R263, R264, R284, R286, R287, R509, R510, R513). -/

namespace Sys2Proof.Machine

open Sys2Proof

/-! ## Requests of the apron -/

def opNode (op : AOp) : BitVec 16 := physNode op.phys
def opOff (op : AOp) : Nat := physOff op.phys
def opLine (op : AOp) : Nat := opOff op / 128
def opPos (op : AOp) : Nat := opOff op % 128
def opSize (op : AOp) : Nat := sizeBytes op.m.size.toNat
/-- 0 for a load, 1 for a store, an atomic or an RMEM (R267, R269). -/
def opKind (op : AOp) : Nat := if op.m.typ = 1 then 0 else 1
def sameLine (a b : AOp) : Bool := opNode a == opNode b && opLine a == opLine b
/-- A line by node and number. -/
def lineId (node : BitVec 16) (line : Nat) : Nat := node.toNat * 2 ^ 41 + line
def opLineId (op : AOp) : Nat := lineId (opNode op) (opLine op)
/-- Bits of the mask that an access covers in its line. -/
def spanMask (op : AOp) : Nat := (2 ^ opSize op - 1) * 2 ^ opPos op
/-- A STORE's mask, and its bytes, at their place in the line: mask bit i is data byte i. -/
def opMask (op : AOp) : Nat := op.m.field 16 16 % 2 ^ opSize op * 2 ^ opPos op
def opBytes (op : AOp) : Bytes := pad 128 (zeros (opPos op) ++ op.m.data.take (opSize op))
def opScope (op : AOp) : Nat := op.m.b7.toNat
def opA (op : AOp) : Nat := op.m.field 16 16
def opB (op : AOp) : Nat := op.m.field 32 16

/-- The bytes of `new` where the mask is set, of `old` elsewhere. -/
def mergeLine (old new : Bytes) (mask : Nat) : Bytes :=
  (List.range 128).map (fun i => if bitOf mask i then new.getD i 0 else old.getD i 0)

/-- Held back, to be tried again. -/
def gate (s : State) (op : AOp) : State := { s with blg.gated := s.blg.gated ++ [op] }

/-! ## What an operation waits for -/

/-- Every request not yet completed, by its purpose. -/
def purposesOut (b : Belug) : List Purpose :=
  b.outflows.flatMap (fun e => e.2.outst.map (·.purpose) ++ e.2.queue.map (·.purpose)) ++ b.flowWait.map (·.purpose) ++
    b.early.map (·.1)

/-- An earlier store of the channel to the same line has not completed (R509). -/
def storeAhead (s : State) (op : AOp) : Bool :=
  s.blg.gated.any (fun g => g.ch == op.ch && decide (g.id < op.id) && sameLine g op && opKind g == 1) ||
    (op.m.typ == 1 && (purposesOut s.blg).any (fun p => match p with
      | .apron g => g.ch == op.ch && decide (g.id < op.id) && sameLine g op && g.m.typ == 2
      | _ => false))

/-- A fence in progress holds it: a later load of an acquire (R269), a later store of the engine's own release. -/
def fenceHolds (s : State) (op : AOp) : Bool :=
  s.blg.fences.any (fun f => decide (f.barrier ≤ op.id) && (f.scope != 0 || f.ch == op.ch) &&
    ((f.acq && opKind op == 0) || (f.rel && f.scope == 0 && opKind op == 1)))

/-! ## Requests to the fabric -/

def sendLoad (s : State) (node : BitVec 16) (ctx : BitVec 16) (off code : Nat) (p : Purpose) : State :=
  blgRequest s node ctx Kind.load off (payloadOf [(0, reqHead off code 0 0 0 0 0)]) p
def sendStore (s : State) (node : BitVec 16) (ctx : BitVec 16) (off code : Nat) (line : Bytes) (mask : Nat) (p : Purpose) : State :=
  blgRequest s node ctx Kind.store off
    (payloadOf [(0, reqHead off code 0 0 0 0 0), (16, pad 128 line), (144, leBytes 16 mask)]) p
def sendAtomic (s : State) (node : BitVec 16) (ctx : BitVec 16) (off code aop a b : Nat) (p : Purpose) : State :=
  blgRequest s node ctx Kind.atomic off
    (payloadOf [(0, reqHead off code 0 aop 2 0 0), (16, leBytes 16 a), (32, leBytes 16 b)]) p

/-! ## Far cache (R243, R244) -/

def farCap : Nat := 524288
/-- A clean copy is kept; a full cache replaces one (its choice is free, log 3). -/
def farPut (s : State) (key : Nat) (data : Bytes) : State :=
  let s := if (kget s.blg.far key).isNone && decide (farCap ≤ s.blg.far.length) then
      drawFree { s with blg.far := s.blg.far.eraseIdx ((freeVal s).toNat % s.blg.far.length) }
    else s
  { s with blg.far := kset s.blg.far key { data := data } }
def farDrop (s : State) (key : Nat) : State := { s with blg.far := kdel s.blg.far key }

/-- Fills whose LOAD has been sent, of lines that `p` names: not to be kept (R259). -/
def spoilFills (s : State) (p : Nat → Bool) : State :=
  let mark := fun (o : Outst) => match o.purpose with
    | .fill k => if p k && !o.waiting then { o with metInv := true } else o
    | _ => o
  { s with blg.outflows := s.blg.outflows.map (fun e => (e.1, { e.2 with outst := e.2.outst.map mark })) }

/-- The fill of a line is outstanding; it is, and is not to be kept. -/
def fillOut (s : State) (key : Nat) : Bool :=
  (purposesOut s.blg).any (fun p => match p with
    | .fill k => k == key
    | _ => false)
def fillSpoilt (s : State) (key : Nat) : Bool :=
  s.blg.outflows.any (fun e => e.2.outst.any (fun o => o.metInv && (match o.purpose with
    | .fill k => k == key
    | _ => false)))

/-- The answer to a load from a whole line. -/
def serveLoad (s : State) (op : AOp) (line : Bytes) : State :=
  endApron s op St.ok 0 (slice line (opPos op) (opSize op))

/-! ## Owner cache (R247 to R251) -/

def ocCap : Nat := 131072
def modOc (s : State) (line : Nat) (f : OcLine → OcLine) : State :=
  match kget s.blg.oc line with
  | some e => { s with blg.oc := kset s.blg.oc line (f e) }
  | none => s
/-- The entry with a number, and its line. -/
def findOc (s : State) (id : Nat) : Option (Nat × OcLine) := s.blg.oc.find? (fun e => e.2.id == id)
def freeOc (s : State) (line : Nat) : State := { s with blg.oc := kdel s.blg.oc line }
/-- The entry of this line at this node. -/
def ocOf (s : State) (op : AOp) : Option OcLine := (kget s.blg.oc (opLine op)).filter (fun e => e.node == opNode op)
def useOc (s : State) (line : Nat) : State :=
  modOc { s with blg.useClock := s.blg.useClock + 1 } line (fun e => { e with used := s.blg.useClock })

/-- The entry holds every byte of the access. -/
def ocCovers (e : OcLine) (op : AOp) : Bool := e.filled || e.mask.toNat &&& spanMask op == spanMask op

/-- An owned line is published (R250); one whose claim is pending, when it is granted (R267). -/
def publish (s : State) (line : Nat) : State :=
  match kget s.blg.oc line with
  | none => s
  | some e =>
    match e.st with
    | .publishing => s
    | .claiming => modOc s line (fun e => { e with publishOnGrant := true })
    | .owned =>
      sendStore (modOc s line (fun e => { e with st := .publishing })) e.node e.ctx (line * 128) 4 e.data e.mask.toNat (.publish e.id)

/-- The LOAD of R249 step 4. -/
def fillOc (s : State) (line : Nat) : State :=
  match kget s.blg.oc line with
  | some e =>
    if e.fillOut || e.filled then s
    else sendLoad (modOc s line (fun e => { e with fillOut := true })) e.node e.ctx (line * 128) 4 (.ocFill e.id)
  | none => s

/-- The least recently used entry that is not leaving. -/
def ocVictim (m : KMap OcLine) : Option Nat :=
  (m.foldl (fun (best : Option (Nat × Nat)) e =>
    if e.2.st = .publishing ∨ e.2.publishOnGrant then best
    else match best with
      | some b => if e.2.used < b.2 then some (e.1, e.2.used) else best
      | none => some (e.1, e.2.used)) none).map (·.1)

/-- R249 steps 1 to 3 (the bytes are merged by the caller); none where the cache is full and a line has to leave first. -/
def claimLine (s : State) (op : AOp) : Option State :=
  if ocCap ≤ s.blg.oc.length then none
  else
    let line := opLine op
    let e : OcLine := { id := s.blg.nextOc, node := opNode op, ctx := op.wire }
    let s := { s with blg.nextOc := s.blg.nextOc + 1, blg.oc := kset s.blg.oc line e }
    let s := spoilFills (farDrop s (opLineId op)) (· == opLineId op)
    some (useOc (sendAtomic s e.node e.ctx (line * 128) 4 aopClaim 0 0 (.claim e.id)) line)

/-- Room is made: the least recently used line is published. -/
def makeRoom (s : State) : State :=
  match ocVictim s.blg.oc with
  | some line => publish s line
  | none => s

/-- The line's entry is wanted and another node's, a leaving one or none stands there: what happens, and the operation waits
(R248, R250); some entry: it is at hand. -/
def ownerEntry (s : State) (op : AOp) : State × Option OcLine :=
  match kget s.blg.oc (opLine op) with
  | some e =>
    if e.node = opNode op then
      if e.st = .publishing then (gate s op, none) else (s, some e)
    else if e.st = .publishing ∨ e.publishOnGrant then (gate s op, none)
    else (gate (publish (bumpBC s .ocConflict) (opLine op)) op, none)
  | none =>
    match claimLine s op with
    | some s => (s, kget s.blg.oc (opLine op))
    | none => (gate (makeRoom s) op, none)

/-- A lost claim or publish (R251). -/
def lostLine (s : State) (line status : Nat) : State :=
  raiseIrq { freeOc s line with blg.lostStatus := if s.blg.lostStatus = 0 then status else s.blg.lostStatus } Irq.coherence

/-! ## Operations on remote lines -/

def loadOp (s : State) (op : AOp) : State :=
  match ocOf s op with
  | some e =>
    if ocCovers e op then serveLoad (useOc s (opLine op)) op e.data
    else gate (if e.st = .owned then fillOc s (opLine op) else s) op
  | none =>
    if op.nocache then sendLoad s (opNode op) op.wire (opOff op) op.m.size.toNat (.apron op)
    else
      let key := opLineId op
      match kget s.blg.far key with
      | some c => serveLoad s op c.data
      | none =>
        if fillSpoilt s key then gate s op
        else
          let out := fillOut s key
          let s := { s with blg.fillWait := s.blg.fillWait ++ [(key, op)] }
          if out then s else sendLoad s (opNode op) op.wire (opLine op * 128) 4 (.fill key)

def mergeOc (s : State) (line : Nat) (data : Bytes) (mask : Nat) : State :=
  modOc s line (fun e => { e with data := mergeLine e.data data mask, mask := e.mask ||| BitVec.ofNat 128 mask })

def storeOp (s : State) (op : AOp) : State :=
  if op.nocache then
    let s := match ocOf s op with
      | some e => modOc s (opLine op) (fun x => { x with data := mergeLine e.data (opBytes op) (opMask op),
                                                         mask := if e.filled then x.mask else x.mask ||| BitVec.ofNat 128 (opMask op) })
      | none => s
    sendStore s (opNode op) op.wire (opOff op) op.m.size.toNat (opBytes op) (opMask op) (.apron op)
  else
    match ownerEntry s op with
    | (s, none) => s
    | (s, some _) => endApron (mergeOc (useOc s (opLine op)) (opLine op) (opBytes op) (opMask op)) op St.ok 0 []

/-- An atomic of chip or engine scope on an entry that is owned and holds the bytes. -/
def atomicOc (s : State) (op : AOp) (e : OcLine) : State :=
  let n := opSize op
  let w := 2 ^ (8 * n)
  let old := slice e.data (opPos op) n
  let new := atomicNew op.m.opt.toNat n (leNat old) (opA op % w) (opB op % w)
  let s := if op.m.opt = 2 ∧ leNat old ≠ opB op % w then s
    else mergeOc s (opLine op) (pad 128 (zeros (opPos op) ++ leBytes n new)) (spanMask op)
  endApron (useOc s (opLine op)) op St.ok 0 (pad 16 old)

def narrowAtomic (s : State) (op : AOp) : State :=
  match ownerEntry s op with
  | (s, none) => s
  | (s, some e) =>
    if e.st = .owned ∧ ocCovers e op then atomicOc s op e
    else gate (if e.st = .owned then fillOc s (opLine op) else s) op

/-- A house-scope ATOMIC or an RMEM goes to the home once this seat's own line is published (R264). -/
def afterPublish (s : State) (op : AOp) (send : State → State) : State :=
  match ocOf s op with
  | some _ => gate (publish s (opLine op)) op
  | none => send s

def houseAtomic (s : State) (op : AOp) : State :=
  afterPublish s op (fun s => sendAtomic s (opNode op) op.wire (opOff op) op.m.size.toNat op.m.opt.toNat (opA op) (opB op) (.apron op))

def remoteRmem (s : State) (op : AOp) : State :=
  afterPublish s op (fun s => blgRequest s (opNode op) op.wire Kind.rmem (opOff op)
    (payloadOf [(0, reqHead (opOff op) 4 0 0 0 op.m.b7.toNat op.m.opt.toNat), (16, op.m.data.take 128)]) (.apron op))

/-! ## The seat's own memory (R217, R513) -/

def ownRmem (s : State) (op : AOp) : State :=
  if !rmemPlainOk op.m.b7.toNat op.m.opt.toNat then endApron s op St.badarg 0 []
  else if s.blg.rmemBusy.contains (opLine op) then gate s op
  else lmemReadLine { s with blg.rmemBusy := s.blg.rmemBusy ++ [opLine op] } (opOff op) (.ownRmemRead op)

def localOp (s : State) (op : AOp) : State :=
  match op.m.typ.toNat with
  | 1 => lmemRead s (opOff op) op.m.size.toNat (.apronLocal op)
  | 2 => lmemWriteLine s (opLine op) (opBytes op) (opMask op) (.apronLocal op)
  | 3 => if atomicOk op.m.opt.toNat (opSize op) (opOff op) then
           lmemAtomic s (opOff op) op.m.opt op.m.size op.m.b7 (opA op) (opB op) (.apronLocal op)
         else endApron s op St.badarg 0 []
  | _ => ownRmem s op

/-! ## One operation, translated -/

def remoteOp (s : State) (op : AOp) : State :=
  match op.m.typ.toNat with
  | 1 => loadOp s op
  | 2 => storeOp s op
  | 3 =>
    if op.m.opt.toNat = aopClaim then endApron s op St.badarg 0 []
    else if opScope op = 2 then houseAtomic s op
    else if atomicOk op.m.opt.toNat (opSize op) (opOff op) then narrowAtomic s op
    else endApron s op St.badarg 0 []
  | _ => remoteRmem s op

def performApron (s : State) (op : AOp) : State :=
  if !isOpen s op.id then s
  else if wireStruck s op.wire then endApron s op St.struck 0 []
  else if fenceHolds s op || storeAhead s op then gate s op
  else if opNode op = s.blg.node then localOp s op
  else remoteOp s op

/-- The operation of R228 that an apron request is. -/
def xopOf (m : ApronMsg) : XOp :=
  match m.typ.toNat with
  | 1 => .load | 2 => .store | 3 => .atomic | _ => .rmem

/-- A translation of an apron request ends (R227). -/
def apronXlat (s : State) (op : AOp) (x : XWait) : XRes → State
  | .ok phys wire nc => performApron s { op with phys := phys, wire := wire, nocache := nc }
  | .fail r level entry =>
    if isOpen s op.id then endApron (xlatFault s op.m.ctx.toNat x r level entry) op r.status r.code [] else s

/-- A LOAD, STORE, ATOMIC or RMEM accepted from a channel (R508). -/
def acceptApron (s : State) (ch : Nat) (m : ApronMsg) : State :=
  let va := m.addr.toNat
  if 128 < va % 128 + sizeBytes m.size.toNat then respond s ch m St.badarg 0 []
  else
    let (s, id) := openOp s (32 + ch) (if m.typ = 1 then 0 else 1) m.ctx.toNat [va]
    let op : AOp := { id := id, ch := ch, m := m }
    let x : XWait := { engine := 32 + ch, op := xopOf m, va := va, for_ := .apron op }
    match translate s m.ctx.toNat x with
    | (s, some r) => apronXlat s op x r
    | (s, none) => s


/-! ## Completions (R181, R249, R250, R251, R259) -/

/-- A STORE, a house-scope ATOMIC or an RMEM completed on a plane (R267). -/
def markDirty (s : State) (plane : Nat) (ctx : BitVec 16) : State :=
  { s with blg.dirtyPlanes := setBit s.blg.dirtyPlanes plane true, blg.dirtyCtx := kset s.blg.dirtyCtx plane ctx,
           blg.fences := s.blg.fences.map (fun f => { f with clear := f.clear.filter (· != plane) }) }

/-- Bytes of a DATA at the place of the access in its line (R260, R771). -/
def lineSlice (f : Flit) (op : AOp) : Bytes := slice f.payload (16 + opPos op) (opSize op)

/-- An apron request sent as it came completes. -/
def apronDone (s : State) (op : AOp) (status : Nat) (reply : Option Flit) : State :=
  let data := fun (g : Flit → Bytes) => if status = 0 then (reply.map g).getD [] else []
  match op.m.typ.toNat with
  | 1 => endApron s op status 0 (data (fun f => lineSlice f op))
  | 3 => endApron s op status 0 (data (fun f => slice f.payload 16 (opSize op)))
  | 2 =>
    let s := match kget s.blg.far (opLineId op) with
      | some c => if status = 0 then farPut s (opLineId op) (mergeLine c.data (opBytes op) (opMask op)) else s
      | none => s
    endApron (spoilFills s (· == opLineId op)) op status 0 []
  | _ => endApron s op status 0 []

/-- A fill completes (R243, R259). -/
def fillDone (s : State) (key status : Nat) (reply : Option Flit) (metInv : Bool) : State :=
  let mine := s.blg.fillWait.filter (fun w => w.1 == key)
  let s := { s with blg.fillWait := s.blg.fillWait.filter (fun w => w.1 != key) }
  let owned := (kget s.blg.oc (key % 2 ^ 41)).any (fun e => e.node.toNat == key / 2 ^ 41)
  match reply with
  | some f =>
    if status = 0 then
      let s := if metInv || owned then s else farPut s key f.line
      mine.foldl (fun s w => serveLoad s w.2 f.line) s
    else mine.foldl (fun s w => endApron s w.2 status 0 []) s
  | none => mine.foldl (fun s w => endApron s w.2 status 0 []) s

/-- The operations that wait for an entry: loads and narrow atomics of its line. -/
def ocNeeds (node : BitVec 16) (line : Nat) (loads : Bool) (op : AOp) : Bool :=
  opNode op == node && opLine op == line && ((loads && op.m.typ == 1) || (op.m.typ == 3 && opScope op != 2))

def endGated (s : State) (p : AOp → Bool) (status : Nat) : State :=
  (s.blg.gated.filter p).foldl (fun s op => endApron s op status 0 []) { s with blg.gated := s.blg.gated.filter (fun op => !p op) }

/-- The claim of an entry completes (R249 step 4, R251). -/
def claimDone (s : State) (id status : Nat) : State :=
  match findOc s id with
  | none => s
  | some (line, e) =>
    if status = 0 then
      let s := fillOc (modOc s line (fun e => { e with st := .owned })) line
      if e.publishOnGrant then publish (modOc s line (fun e => { e with publishOnGrant := false })) line else s
    else endGated (lostLine s line status) (ocNeeds e.node line false) status

/-- DATA straight to the reader of a FWD (R260). -/
def fwdData (s : State) (f : Flit) (node : BitVec 16) (line : Bytes) : State :=
  let reader := BitVec.ofNat 16 f.reader
  let d : Flit := { dst := reader, src := node, ctx := f.ctx, seq := f.seq, kind := Kind.data,
                    payload := payloadOf [(0, repHead f.offset f.readerTally 0), (16, line)] }
  blgSend s (homePlane s.blg f.src 0) d

/-- INV_ACK with SEQ and OFFSET of its INV (R257), on the port of the pool's plane. -/
def invAck (s : State) (f : Flit) : State :=
  blgSend s (homePlane s.blg f.src 0)
    { dst := f.src, src := s.blg.node, ctx := 0, seq := f.seq, kind := Kind.invAck, payload := payloadOf [(0, leBytes 6 f.offset)] }

/-- The fill of an entry completes (R249 step 5). -/
def ocFillDone (s : State) (id status : Nat) (reply : Option Flit) : State :=
  match findOc s id, reply with
  | some (line, e), some f =>
    if status = 0 then
      let d := mergeLine f.line e.data e.mask.toNat
      let s := modOc s line (fun e => { e with data := d, filled := true, fillOut := false, fwds := [] })
      e.fwds.foldl (fun s g => fwdData s g e.node d) s
    else
      let s := modOc s line (fun e => { e with fillOut := false, fwds := [] })
      endGated (e.fwds.foldl (fun s _ => bumpBC s .fwdStale) s) (ocNeeds e.node line true) status
  | some (line, e), none =>
    let s := modOc s line (fun e => { e with fillOut := false, fwds := [] })
    endGated (e.fwds.foldl (fun s _ => bumpBC s .fwdStale) s) (ocNeeds e.node line true) status
  | none, _ => s

/-- The publish of an entry completes (R250, R251); the INVs that waited for it are acknowledged (R258). -/
def publishDone (s : State) (id status : Nat) : State :=
  match findOc s id with
  | none => s
  | some (line, e) =>
    let s := if status = 0 then
        let s := freeOc s line
        if e.filled && !e.metInv then farPut s (lineId e.node line) e.data else s
      else lostLine s line status
    let s := e.fwds.foldl (fun s g => if status = 0 ∧ e.filled then fwdData s g e.node e.data else bumpBC s .fwdStale) s
    e.invs.foldl invAck s

/-! ## DOMAIN_DOWN (R284) -/

/-- A coherent request of this seat. -/
def coherentKind (k : BitVec 5) : Bool := [0x02, 0x03, 0x04, 0x05, 0x06].contains k.toNat

/-- The caches are discarded without publishing, and the operations that waited for them complete with a status. -/
def dropCaches (s : State) (status : Nat) : State :=
  let ends := s.blg.fillWait.map (·.2) ++ s.blg.gated.filter (fun op => opNode op != s.blg.node)
  let invs := s.blg.oc.flatMap (fun e => e.2.invs)
  let s := { s with blg.far := [], blg.oc := [], blg.fillWait := [],
                    blg.gated := s.blg.gated.filter (fun op => opNode op == s.blg.node) }
  let s := invs.foldl invAck s
  ends.foldl (fun s op => endApron s op status 0 []) s

/-- A Belug that meets DOMAIN_DOWN. -/
def domainCaches (s : State) : State :=
  raiseIrq { dropCaches s St.domainDown with blg.cleared := false } Irq.domain

/-- Outstanding coherent requests leave their flows: what each was for. -/
def takeCoherent (s : State) : State × List Outst :=
  let coh := fun (o : Outst) => coherentKind o.flit.kind
  let gone := s.blg.outflows.flatMap (fun e => e.2.outst.filter coh)
  let queued := s.blg.outflows.flatMap (fun e => e.2.queue.filter (fun q => coherentKind q.flit.kind)) ++
    s.blg.flowWait.filter (fun q => coherentKind q.flit.kind)
  let left := fun (fl : OutFlow) => { fl with outst := fl.outst.filter (fun o => !coh o),
                                              queue := fl.queue.filter (fun q => !coherentKind q.flit.kind) }
  let s : State := { s with blg.outflows := s.blg.outflows.map (fun e => (e.1, left e.2)),
                            blg.flowWait := s.blg.flowWait.filter (fun q => !coherentKind q.flit.kind) }
  (s.blg.outflows.foldl (fun s e => drainQueue s .blg e.1 4096) s,
   gone ++ queued.map (fun q => { seq := 0, flit := q.flit, purpose := q.purpose, port := q.plane }))

/-! ## INV and FWD (R258, R260) -/

/-- An INV is applied. -/
def applyInv (s : State) (f : Flit) : State :=
  let line := f.offset / 128
  let s := { s with blg.far := s.blg.far.filter (fun e => e.1 % 2 ^ 41 != line) }
  let s := spoilFills s (fun k => k % 2 ^ 41 == line)
  match kget s.blg.oc line with
  | none => invAck s f
  | some e =>
    match e.st with
    | .claiming => invAck s f
    | .owned => publish (modOc s line (fun e => { e with invs := e.invs ++ [f] })) line
    | .publishing => modOc s line (fun e => { e with invs := e.invs ++ [f], metInv := true })

/-- A FWD is answered, waits, or is stale. -/
def applyFwd (s : State) (f : Flit) : State :=
  let line := f.offset / 128
  match kget s.blg.oc line with
  | some e =>
    if e.filled then fwdData s f e.node e.data
    else if e.st = .claiming ∨ e.fillOut then modOc s line (fun e => { e with fwds := e.fwds ++ [f] })
    else bumpBC s .fwdStale
  | none =>
    match s.blg.far.filter (fun e => e.1 % 2 ^ 41 == line &&
        homePlane s.blg (BitVec.ofNat 16 (e.1 / 2 ^ 41)) f.offset == homePlane s.blg f.src 0) with
    | [e] => fwdData s f (BitVec.ofNat 16 (e.1 / 2 ^ 41)) e.2.data
    | _ => bumpBC s .fwdStale

end Sys2Proof.Machine
end

