-- ==== Sys2Proof/Machine/Stagehands.lean ====
section
/-! DEFINITION. Stagehands (R514 to R516, R521, R528, R534): slots, pieces, their sources and destinations. -/

namespace Sys2Proof.Machine

open Sys2Proof

/-! ## SLOT_POST (R514, R515) -/

/-- The descriptor holds no reserved value and no non-zero must-be-zero field; LEN is in its range. -/
def descOk (d : Bytes) : Bool :=
  let op := dOp d
  decide (1 ≤ op ∧ op ≤ 4) && byteAt d 1 / 2 == 0 && decide (natAt d 4 2 < 4096) && allZero (slice d 32 32) &&
    decide (1 ≤ dLen d ∧ dLen d ≤ (if op = 4 then 64 else 2 ^ 40)) &&
    (decide (3 ≤ op) || dNode d == 0) && (op != 4 || dSrc d == 0) &&
    (op != 3 || (decide (natAt d 16 2 < 512) && natAt d 22 2 == 0))

/-- SLOT_POST. -/
def slotPost (s : State) (ch : Nat) (m : ApronMsg) : State :=
  let n := m.opt.toNat
  let slot := m.size.toNat
  let d := m.data.take 64
  if (getHand s n).resetting || (getSH s n slot).own then respond s ch m St.busy 0 []
  else if !descOk d then respond s ch m St.badarg 0 []
  else
    respond (modSH s n slot (fun _ => { own := true, desc := d, msg := slice m.data 64 64, total := pieceCount d })) ch m St.ok 0 []

/-! ## Pieces -/

/-- Every part of the source is in: the message leaves, or the destination is translated. -/
def pieceReady (s : State) (n slot id : Nat) (destX : State → XWait → XRes → State) : State :=
  match findPiece s n slot id with
  | none => s
  | some p =>
    let x := getSH s n slot
    let d := x.desc
    let (a, len) := pieceSpan d p.idx
    if p.bad ≠ 0 then pieceEnd s n slot id p.bad
    else if dOp d = 3 then
      let f : Flit := { dst := dNode d, src := s.blg.node, ctx := p.wire, kind := Kind.bulkMsg,
                        payload := payloadOf [(0, leBytes 2 (dRdv d)), (2, leBytes 4 (dDst d + a)), (7, leBytes 2 (dTally d)), (9, leBytes 1 len),
                          (10, leBytes 1 (b2n (decide (p.idx + 1 = x.total)))), (16, memRead p.data 0 len)] }
      originate (modPiece s n slot id (fun p => { p with sent := true })) .blg { flit := f, purpose := .piece n slot id 0, plane := 0 }
    else
      let w : XWait := { engine := n, op := .bulk, va := dDst d + a, for_ := .dest n slot id }
      match translate s (dCtx d) w with
      | (s, some r) => destX s w r
      | (s, none) => s

/-- The destination of a piece is translated (R217, R516). -/
def destXlat (s : State) (n slot id : Nat) (w : XWait) (r : XRes) : State :=
  match findPiece s n slot id with
  | none => s
  | some p =>
    let x := getSH s n slot
    let d := x.desc
    match r with
    | .fail why level entry => pieceEnd (xlatFault s (dCtx d) w why level entry) n slot id why.status
    | .ok phys wire _ =>
      let (_, len) := pieceSpan d p.idx
      let data := memRead p.data 0 len
      let s' := modPiece s n slot id (fun p => { p with sent := true })
      if wireStruck s wire then pieceEnd s n slot id St.struck
      else if physNode phys = s.blg.node then lmemWrite s' (physOff phys) data (.destWrite n slot id)
      else
        blgRequest s' (physNode phys) wire Kind.bulk (physOff phys)
          (payloadOf [(0, leBytes 6 (physOff phys)), (7, leBytes 2 (dTally d)), (9, leBytes 1 len),
            (10, leBytes 1 (b2n (decide (p.idx + 1 = x.total)))), (16, data)]) (.piece n slot id 0)

/-- A part of the source is in, or has failed. -/
def partDone (s : State) (n slot id part status : Nat) (line : Bytes) : State :=
  match findPiece s n slot id with
  | none => s
  | some p =>
    match (pieceParts (getSH s n slot).desc p.idx)[part]? with
    | none => s
    | some (va, len, at_) =>
      let s := modPiece s n slot id (fun p => { p with
        need := p.need - 1, bad := if p.bad = 0 then status else p.bad,
        data := if status = 0 then memWrite p.data at_ (slice line (va % 128) len) else p.data })
      if p.need ≤ 1 then pieceReady s n slot id (fun s w r => destXlat s n slot id w r) else s

/-- A part of the source is translated (R215, R217). -/
def sourceXlat (s : State) (n slot id part : Nat) (w : XWait) (r : XRes) : State :=
  if (findPiece s n slot id).isNone then s
  else
    let d := (getSH s n slot).desc
    match r with
    | .fail why level entry => partDone (xlatFault s (dCtx d) w why level entry) n slot id part why.status []
    | .ok phys wire _ =>
      let s' := modPiece s n slot id (fun p => { p with wire := wire })
      if wireStruck s wire then partDone s n slot id part St.struck []
      else if physNode phys = s.blg.node then lmemReadLine s' (physOff phys) (.source n slot id part)
      else
        let off := physOff phys / 128 * 128
        blgRequest s' (physNode phys) wire Kind.load off (payloadOf [(0, reqHead off 4 (dTally d) 0 0 0 0)]) (.piece n slot id part)

/-- The context of a PMSG is known (R210): the message leaves. -/
def pmsgXlat (s : State) (n slot id : Nat) (w : XWait) (r : XRes) : State :=
  if (findPiece s n slot id).isNone then s
  else
    let x := getSH s n slot
    let d := x.desc
    match r with
    | .fail why level entry => pieceEnd (xlatFault s (dCtx d) w why level entry) n slot id why.status
    | .ok _ wire _ =>
      if wireStruck s wire then pieceEnd s n slot id St.struck
      else
        let f : Flit := { dst := dNode d, src := s.blg.node, ctx := wire, kind := Kind.pmsg,
                          payload := payloadOf [(7, leBytes 2 (dTally d)), (9, leBytes 1 (dLen d)), (16, x.msg.take (dLen d))] }
        originate (modPiece s n slot id (fun p => { p with sent := true })) .blg { flit := f, purpose := .piece n slot id 0, plane := 0 }

/-- The parts of a piece's source are translated, one after another. -/
def readParts (s : State) (n slot id : Nat) : Nat → List (Nat × Nat × Nat) → State
  | _, [] => s
  | part, (va, _, _) :: rest =>
    let w : XWait := { engine := n, op := .source, va := va, for_ := .source n slot id part }
    let s := match translate s (dCtx (getSH s n slot).desc) w with
      | (s, some r) => sourceXlat s n slot id part w r
      | (s, none) => s
    readParts s n slot id (part + 1) rest

/-- The next piece of a slot is cut and begun (R516). -/
def cutPiece (s : State) (n slot : Nat) : State :=
  let x := getSH s n slot
  let d := x.desc
  let idx := x.cut
  let parts := if dOp d = 4 then [] else pieceParts d idx
  let vas := parts.map (·.1) ++ (if dOp d ≤ 2 then [dDst d + (pieceSpan d idx).1] else [])
  let (s, id) := openOp s n 2 (dCtx d) vas
  let p : Piece := { idx := idx, op := id, need := parts.length }
  let s := modSH s n slot (fun x => { x with cut := idx + 1, pieces := x.pieces ++ [p] })
  if 3 ≤ dOp d ∧ (s.blg.node = 0xFFFF ∨ reservedNode s.blg.form (dNode d)) then pieceEnd s n slot id St.badarg
  else if dOp d = 4 then
    let w : XWait := { engine := n, op := .ctxOnly, va := 0, for_ := .dest n slot id }
    match translate s (dCtx d) w with
    | (s, some r) => pmsgXlat s n slot id w r
    | (s, none) => s
  else readParts s n slot id 0 parts

/-! ## STAGEHAND_DESCRIPTOR (R514) -/

/-- The request belongs to the piece numbered `id` of a slot. -/
def ofPiece (n slot id : Nat) (p : Purpose) : Bool :=
  match p with
  | .piece h k i _ => h == n && k == slot && i == id
  | _ => false

/-- A request of the piece waits to leave. -/
def pieceWaits (s : State) (n slot id : Nat) : Bool :=
  s.blg.outflows.any (fun e => e.2.queue.any (fun q => ofPiece n slot id q.purpose) ||
      e.2.outst.any (fun o => o.waiting && ofPiece n slot id o.purpose)) ||
    s.blg.flowWait.any (fun q => ofPiece n slot id q.purpose)

/-- Requests of the piece that have been sent and not answered. -/
def piecesOut (s : State) (n slot id : Nat) : Nat :=
  s.blg.outflows.foldl (fun k e => k + e.2.outst.countP (fun o => !o.waiting && ofPiece n slot id o.purpose)) 0

/-- The piece has been sent: its flit or local write, or every LOAD of a GET. -/
def pieceSent (s : State) (n slot : Nat) (p : Piece) : Bool :=
  !pieceWaits s n slot p.op && (p.sent || (dOp (getSH s n slot).desc == 2 && piecesOut s n slot p.op == p.need))

/-- The slot has sent every flit. -/
def slotSent (s : State) (n slot : Nat) : Bool :=
  let x := getSH s n slot
  !x.own || (x.cut == x.total && x.pieces.all (pieceSent s n slot))

/-- Owned slots not yet taken, in the order they are taken. -/
def readySlots (h : Stagehand) : List Nat :=
  ((List.range 16).map (fun i => (h.last + 1 + i) % 16)).filter (fun k =>
    let x := h.slots.getD k {}
    x.own && x.cut == 0)
def isPmsgSlot (h : Stagehand) (k : Nat) : Bool := dOp (h.slots.getD k {}).desc == 4
def pmsgReady (h : Stagehand) : Option Nat := if h.resetting then none else (readySlots h).find? (isPmsgSlot h)

/-- Stagehand `n` cuts the next piece: a PMSG ahead of every other, else the descriptor it runs, else the next owned slot. -/
def stagehandStep (s : State) (n : Nat) : State :=
  let h := getHand s n
  if h.resetting then s
  else
    match pmsgReady h with
    | some k => cutPiece (modHand s n (fun h => { h with last := k })) n k
    | none =>
      if s.blg.hands.toList.any (fun g => (pmsgReady g).isSome) then s
      else
        let cur := h.current.filter (fun k => !slotSent s n k)
        match cur with
        | some k => if (getSH s n k).cut < (getSH s n k).total then cutPiece s n k else s
        | none =>
          match (readySlots h) with
          | [] => modHand s n (fun h => { h with current := none })
          | k :: _ => cutPiece (modHand s n (fun h => { h with last := k, current := some k })) n k

/-! ## Completions -/

/-- A request of a piece completes: the flit of a piece, or a source read by LOAD. -/
def pieceReply (s : State) (n slot id part status : Nat) (reply : Option Flit) : State :=
  match findPiece s n slot id with
  | none => s
  | some p =>
    if p.need = 0 then pieceEnd s n slot id status
    else partDone s n slot id part status ((reply.map (·.line)).getD [])

/-! ## STAGEHAND_RESET (R528, R534) -/

/-- Pieces of a slot not yet sent. -/
def unsentPieces (s : State) (n slot : Nat) : List Nat :=
  ((getSH s n slot).pieces.filter (fun p => !pieceSent s n slot p)).map (·.op)

/-- Requests of a piece that have not been sent leave their queues. -/
def dropUnsent (s : State) (n slot id : Nat) : State :=
  let mine := ofPiece n slot id
  let left := fun (fl : OutFlow) => { fl with outst := fl.outst.filter (fun o => !(o.waiting && mine o.purpose)),
                                              queue := fl.queue.filter (fun q => !mine q.purpose) }
  { s with blg.outflows := s.blg.outflows.map (fun e => (e.1, left e.2)),
           blg.flowWait := s.blg.flowWait.filter (fun q => !mine q.purpose) }

def resetSlot (s : State) (n slot : Nat) (status : Nat) : State :=
  let x := getSH s n slot
  if !x.own then s
  else
    let rest := x.total - x.cut
    let s := (unsentPieces s n slot).foldl (fun s id => pieceEnd (dropUnsent s n slot id) n slot id status)
      (modSH s n slot (fun x => { x with cut := x.total, done := x.done + rest }))
    slotDone (tallyAddN s (dTally x.desc) rest status) n slot

/-- STAGEHAND_RESET. -/
def stagehandResetOp (s : State) (n : Nat) : State :=
  let s := modHand s n (fun h => { h with resetting := true, current := none })
  let s := (List.range 16).foldl (fun s k => resetSlot s n k St.timeout) s
  modHand s n (fun h => { h with resetting := h.slots.any (·.own) })

end Sys2Proof.Machine
end

