-- ==== Sys2Proof/Machine/BelugSettle.lean ====
section
/-! DEFINITION. How Belug's operations go on: completions of its requests (R181), fences (R266 to R270, R522), operations held
back, and the tick of an empty queue (log 1). -/

namespace Sys2Proof.Machine

open Sys2Proof

/-! ## Fences (R267 to R270, R522) -/

def modFence (s : State) (id : Nat) (f : FenceRun → FenceRun) : State :=
  { s with blg.fences := s.blg.fences.map (fun x => if x.id = id then f x else x) }

/-- INVs that have arrived and are not yet applied: source and SEQ (R269). -/
def invsHere (b : Belug) : List (Nat × Nat) :=
  let here := b.inbox.map (·.1) ++ b.ports.toList.flatMap (fun p => p.landing.map (·.flit))
  (here.filter (fun f => f.kind == Kind.inv)).map (fun f => (f.src.toNat, f.seq.toNat))

/-- A fence begins. -/
def beginFence (s : State) (ch tag scope : Nat) (rel acq : Bool) : State :=
  let id := s.blg.nextOp
  { s with blg.nextOp := id + 1,
           blg.fences := s.blg.fences ++ [{ id := id, ch := ch, tag := tag, scope := scope, rel := rel, acq := acq,
                                            phase := if rel then 0 else 3, barrier := id,
                                            invs := if scope = 2 ∧ acq then invsHere s.blg else [] }] }

/-- An earlier operation of a kind is not complete. -/
def earlierOpen (s : State) (f : FenceRun) (kind : Nat) : Bool :=
  s.blg.openOps.any (fun o => o.kind == kind && decide (o.id < f.barrier) && (f.scope != 0 || o.engine == 32 + f.ch))

/-- A fence has no more to do. -/
def endFence (s : State) (f : FenceRun) : State :=
  rspDone { s with blg.fences := s.blg.fences.filter (fun x => x.id != f.id) } f.ch f.tag f.status 0

def afterRelease (s : State) (f : FenceRun) : State :=
  if f.acq then modFence s f.id (fun x => { x with phase := 3 }) else endFence s f

/-- R267 step 3. -/
def sendFences (s : State) (f : FenceRun) : State :=
  let planes := onesOf s.blg.dirtyPlanes
  let s := modFence s f.id (fun x => { x with phase := 2, planes := planes, clear := planes })
  planes.foldl (fun s p =>
    let node := BitVec.ofNat 16 (nodeHouse s.blg.node * 128 + 96 + p)
    blgRequest s node (kgetD s.blg.dirtyCtx p 0) Kind.fence 0 (payloadOf [(0, reqHead 0 0 0 0 2 0 0)]) (.relFence f.id p)) s

/-- R267 step 4. -/
def clearDirty (s : State) (f : FenceRun) : State :=
  let st := if s.blg.lostStatus = 0 then f.status else s.blg.lostStatus
  modFence { s with blg.dirtyPlanes := f.clear.foldl (fun d p => setBit d p false) s.blg.dirtyPlanes, blg.lostStatus := 0 } f.id
    (fun x => { x with status := st })

/-- A fence goes one phase further where it can. -/
def advance (s : State) (f : FenceRun) : State :=
  match f.phase with
  | 0 =>
    if earlierOpen s f 1 then s
    else if f.scope = 2 then
      let s := modFence s f.id (fun x => { x with phase := 1, lines := s.blg.oc.map (fun e => e.2.id) })
      s.blg.oc.foldl (fun s e => publish s e.1) s
    else afterRelease s f
  | 1 => if f.lines.any (fun id => (findOc s id).isSome) then s else sendFences s f
  | 2 =>
    if f.planes.isEmpty then
      let s := clearDirty s f
      match s.blg.fences.find? (fun x => x.id == f.id) with
      | some g => afterRelease s g
      | none => s
    else s
  | _ => if earlierOpen s f 0 || (invsHere s.blg).any f.invs.contains then s else endFence s f

/-- Every fence as far as it goes, the oldest first. -/
def advanceAll (s : State) (ids : List Nat) : Nat → State
  | 0 => s
  | n + 1 =>
    advanceAll (ids.foldl (fun s id => match s.blg.fences.find? (fun x => x.id == id) with
      | some f => advance s f
      | none => s) s) ids n

/-- FENCE of a release is answered. -/
def fenceReply (s : State) (id plane status : Nat) : State :=
  modFence s id (fun x => { x with planes := x.planes.filter (· != plane), status := if x.status = 0 then status else x.status })

/-! ## Completions (R181) -/

/-- What a completed request was for goes on. -/
def purposeDone (s : State) (p : Purpose) (metInv : Bool) (status : Nat) (reply : Option Flit) : State :=
  match p with
  | .piece n slot id part => pieceReply s n slot id part status reply
  | .apron op => apronDone s op status reply
  | .fill key => fillDone s key status reply metInv
  | .claim id => claimDone s id status
  | .ocFill id => ocFillDone s id status reply
  | .publish id => publishDone s id status
  | .relFence id plane => fenceReply s id plane status
  | .mergedStore _ => s
  | .combined _ => s

/-- The request dirties its plane (R267). -/
def dirties (f : Flit) : Bool := f.kind == Kind.store || f.kind == Kind.rmem || (f.kind == Kind.atomic && f.aop != aopClaim)

def oneDone (s : State) (o : Outst) (status : Nat) (reply : Option Flit) : State :=
  purposeDone (if dirties o.flit then markDirty s o.port o.flit.ctx else s) o.purpose o.metInv status reply

/-- A request of Belug completes; DOMAIN_DOWN takes every coherent one with it (R284). -/
def blgComplete (s : State) (o : Outst) (status : Nat) (reply : Option Flit) : State :=
  let s := oneDone s o status reply
  if status = St.domainDown ∧ coherentKind o.flit.kind then
    let (s, gone) := takeCoherent s
    domainCaches (gone.foldl (fun s g => oneDone s g St.domainDown none) s)
  else s

/-! ## What is held back goes on -/

/-- Requests refused before any send complete (R606). -/
def earlyDone (s : State) : State :=
  s.blg.early.foldl (fun s e => purposeDone s e.1 false e.2 none) { s with blg.early := [] }

/-- Operations held back are tried again, the oldest first. -/
def retryGated (s : State) : State := s.blg.gated.foldl performApron { s with blg.gated := [] }

/-- One round of all that may go on. -/
def settleOnce (s : State) : State :=
  let s := judgeLate (retryGated (retryFlowWait (earlyDone s)))
  advanceAll s (s.blg.fences.map (·.id)) 4

/-- All that may go on: a second round for what the first set free. -/
def settle (s : State) : State := settleOnce (settleOnce s)

/-- What the block does on an empty queue: 1 ns passes, what is due by the clock alone happens, and what was held back and may
go on does (log 1). -/
def idle (s : State) : State := settle (dueReset (tick s))

/-! ## FENCE and KSTART of the apron -/

def apronFenceOp (s : State) (ch : Fin 24) (m : ApronMsg) : State :=
  onApron s ch m 4 (fun s =>
    let kind := m.opt.toNat % 4
    settle (beginFence s ch.val m.tag.toNat (m.opt.toNat / 4) (kind != 1) (kind != 0)))
def execApronFence (ch : Fin 24) (m : ApronMsg) (s : State) : Res := .next (apronFenceOp s ch m)

/-- KSTART: the house acquire of R270. -/
def kstartOp (s : State) (ch : Fin 24) (m : ApronMsg) : State :=
  onApron s ch m 9 (fun s => settle (beginFence s ch.val m.tag.toNat 2 false true))
def execKstart (ch : Fin 24) (m : ApronMsg) (s : State) : Res := .next (kstartOp s ch m)

/-! ## LOAD, STORE, ATOMIC, RMEM of the apron -/

def apronOp (s : State) (ch : Fin 24) (m : ApronMsg) (t : Nat) : State := onApron s ch m t (fun s => settle (acceptApron s ch.val m))
def execApronLoad (ch : Fin 24) (m : ApronMsg) (s : State) : Res := .next (apronOp s ch m 0x01)
def execApronStore (ch : Fin 24) (m : ApronMsg) (s : State) : Res := .next (apronOp s ch m 0x02)
def execApronAtomic (ch : Fin 24) (m : ApronMsg) (s : State) : Res := .next (apronOp s ch m 0x03)
def execApronRmem (ch : Fin 24) (m : ApronMsg) (s : State) : Res := .next (apronOp s ch m 0x0D)

/-! ## INV_RANGE (R246) -/

/-- Far-cache copies of the lines that bytes `off` to `off + n - 1` of a node touch leave; their fills are not kept. -/
def dropRange (s : State) (node : BitVec 16) (off n : Nat) : State :=
  let lo := lineId node (off / 128)
  let hi := lineId node ((off + n + 127) / 128)
  spoilFills { s with blg.far := kdelRange s.blg.far lo hi } (fun k => decide (lo ≤ k) && decide (k < hi))

/-- The first address beyond a page that failed at a level. -/
def beyondPage (va level : Nat) : Nat :=
  let sh := if level ≤ 4 then levelShift level else 57
  (va / 2 ^ sh + 1) * 2 ^ sh

/-- One page of the range is translated, or has failed: the next address. -/
def rangePage (s : State) (op : AOp) (va : Nat) : XRes → State × Nat
  | .ok phys _ _ =>
    let stop := min (op.m.addr.toNat + op.m.field 16 8) ((va / 65536 + 1) * 65536)
    (dropRange s (physNode phys) (physOff phys) (stop - va), stop)
  | .fail _ level _ => (s, beyondPage va level)

/-- The range from `va` on, page by page, until a page has to be walked for or the range ends. -/
def rangeFrom (s : State) (op : AOp) (va : Nat) : Nat → State
  | 0 => s
  | n + 1 =>
    if op.m.addr.toNat + op.m.field 16 8 ≤ va then endApron s op St.ok 0 []
    else
      let w : XWait := { engine := 32 + op.ch, op := .range, va := va, for_ := .range op va }
      match translate s op.m.ctx.toNat w with
      | (s, some r) => let (s, next) := rangePage s op va r
                       rangeFrom s op next n
      | (s, none) => s

/-- Pages of a range, and one more. -/
def rangeFuel (op : AOp) : Nat := op.m.field 16 8 / 65536 + 3

def invRangeOp (s : State) (ch : Fin 24) (m : ApronMsg) : State :=
  onApron s ch m 5 (fun s =>
    let (s, id) := openOp s (32 + ch.val) 3 m.ctx.toNat [m.addr.toNat]
    let op : AOp := { id := id, ch := ch.val, m := m }
    settle (rangeFrom s op m.addr.toNat (rangeFuel op)))
def execInvRange (ch : Fin 24) (m : ApronMsg) (s : State) : Res := .next (invRangeOp s ch m)

end Sys2Proof.Machine
end

