-- ==== Sys2Proof/Machine/CollPost.lean ====
section
/-! DEFINITION. COLL_POST (R326, R333, R519): the post of a contribution, and of its later blocks. -/

namespace Sys2Proof.Machine

open Sys2Proof

/-- No reserved code and no non-zero must-be-zero byte in a descriptor (R321, R322, R362, R366, R505). -/
def descWell (b : Bytes) : Bool :=
  let d := parseDesc b
  decide (1 ≤ d.op) && decide (d.op ≤ 0x0B) && decide (d.opr ≤ 6) && fmtKnown d.fmt && fmtKnown d.ofmt &&
    d.flags.toNat / 16 == 0 && allZero (slice b 5 3) && allZero (slice b 14 2) && allZero (slice b 26 6)

/-- Bytes of an array of `n` elements in a region. -/
def arrayBytes (fmt n : Nat) : Nat := if isMx fmt then 192 * ceilDiv n (perChunk fmt) else n * wordBytes fmt

/-- Bytes of the expert region of a rank (R397). -/
def expertRegion (j : CJob) (rank : Nat) : Nat :=
  192 * (countChunks j rank + (hostedBy j.tab rank).length * j.n * j.tab.cap * tokenChunks j)

/-- Bytes a member's input region holds for certain at posting (log 55), and its output region. -/
def inBytes (j : CJob) (rank : Nat) : Nat :=
  let d := j.d
  if !(sendersOf j).contains rank then 0
  else if d.op = COp.curtain then 0
  else if d.op = COp.lse then 192 * ceilDiv d.count (perIn d)
  else if d.op = COp.sparse then 192 * ceilDiv (ceilDiv (unitCount j) 8) 192
  else if d.op = COp.index then 4
  else if d.op = COp.dispatch then 192 * d.count * tokenChunks j
  else if d.op = COp.combine then expertRegion j rank
  else arrayBytes d.fmt d.count
def outBytes (j : CJob) (rank : Nat) : Nat :=
  let d := j.d
  if d.op = COp.curtain then 0
  else if d.op = COp.lse then 192 * ceilDiv d.count (perIn d) * (perIn d / perOut d)
  else if d.op = COp.kernel then 192 * ceilDiv d.count (perIn d)
  else if d.op = COp.index then 192 * ceilDiv (ceilDiv d.count 32768) 48 + 4 * ceilDiv d.count 32768 * d.aux
  else if d.op = COp.dispatch then expertRegion j rank
  else if d.op = COp.combine then 192 * d.count * tokenChunks j
  else arrayBytes d.ofmt (if d.op = COp.reduceScatter then d.count / j.n else if d.op = COp.allGather then j.n * d.count else d.count)

/-- The output region overlaps the input region (R326). -/
def regionsMeet (j : CJob) (rank inVa outVa : Nat) : Bool :=
  let a := inBytes j rank
  let b := outBytes j rank
  decide (0 < a) && decide (0 < b) && decide (inVa < outVa + b) && decide (outVa < inVa + a)

/-- In cue-sequence order within the group. -/
def insertColl (m : MColl) : List MColl → List MColl
  | [] => [m]
  | x :: xs => if x.group = m.group ∧ (x.seq + 65536 - m.seq) % 65536 < 32768 then m :: x :: xs else x :: insertColl m xs

def postGroup (m : ApronMsg) : Nat := m.field 40 2 % 4096
def postSeq (m : ApronMsg) : Nat := m.field 42 2
def postTally (m : ApronMsg) : Nat := m.field 44 2 % 4096

/-- A later block is ready (R333, R519). -/
def postPart (s : State) (ch : Nat) (m : ApronMsg) : State :=
  match findColl s (postGroup m) (postSeq m) with
  | some c =>
    if !c.blockwise then respond s ch m St.badarg 0 []
    else respond (modColl s c.group c.seq (fun c => { c with ready := c.ready ++ [m.field 46 1] })) ch m St.ok 0 []
  | none => respond s ch m St.badarg 0 []

/-- The collective is posted with the WIRE_CTX of its context. -/
def postColl (s : State) (ch : Nat) (m : ApronMsg) (entry : Nat) (wire : BitVec 16) : State :=
  let b := m.data.take 32
  let d := parseDesc b
  let n := entryField s.blg entry 4 2 % 32768
  let g := postGroup m
  let j := memberJob g n d
  let blockwise := bitOf (m.field 47 1) 0
  let c : MColl := { group := g, seq := postSeq m, rank := entryField s.blg entry 2 2 % 16384, n := n,
                     planes := BitVec.ofNat 24 (entryField s.blg entry 6 3), hold := entryField s.blg entry 10 4 % 2 ^ 20 * 1000,
                     desc := d, digest := descDigest b, inVa := m.field 16 8, outVa := m.field 24 8,
                     launch := BitVec.ofNat 64 (m.field 32 8), tally := postTally m, ctx := wire, blockwise := blockwise,
                     ready := if blockwise then [0] else List.range (stepCount j),
                     late := if s.blg.cue.st = .unset then none else some (decide (m.field 32 8 < s.blg.cue.count.toNat)),
                     stripes := (List.range (stripeCount j)).map (fun k => { stripe := k }), posted := s.blg.cue.count }
  respond { s with blg.colls := insertColl c s.blg.colls } ch m St.ok 0 []

/-- The context of a post is known, or its translation has failed (R227). -/
def postXlat (s : State) (op : AOp) (x : XWait) (r : XRes) : State :=
  if !isOpen s op.id then s
  else
    let s := closeOp s op.id
    match r with
    | .fail why level entry => respond (xlatFault s op.m.ctx.toNat x why level entry) op.ch op.m why.status why.code []
    | .ok _ wire _ =>
      if wireStruck s wire then respond s op.ch op.m St.struck 0 []
      else
        match groupEntry s.blg (postGroup op.m) with
        | none => respond s op.ch op.m St.badarg 0 []
        | some i => if (findColl s (postGroup op.m) (postSeq op.m)).isSome then respond s op.ch op.m St.busy 0 []
                    else postColl s op.ch op.m i wire

/-- A message of type COLL_POST without a reserved field (R519). -/
def acceptPost (s : State) (ch : Nat) (m : ApronMsg) : State :=
  match groupEntry s.blg (postGroup m) with
  | none => respond s ch m St.badarg 0 []
  | some i =>
    if bitOf (m.field 47 1) 1 then postPart s ch m
    else if !descWell (m.data.take 32) then respond s ch m St.badarg 0 []
    else
      let j := memberJob (postGroup m) (entryField s.blg i 4 2 % 32768) (parseDesc (m.data.take 32))
      if regionsMeet j (entryField s.blg i 2 2 % 16384) (m.field 16 8) (m.field 24 8) then
        respond (tallyAdd s (postTally m) St.badarg) ch m St.badarg 0 []
      else if (findColl s (postGroup m) (postSeq m)).isSome then respond s ch m St.busy 0 []
      else
        let (s, id) := openOp s (32 + ch) 9 m.ctx.toNat []
        let op : AOp := { id := id, ch := ch, m := m }
        let x : XWait := { engine := 32 + ch, op := .ctxOnly, va := 0, for_ := .post op }
        match translate s m.ctx.toNat x with
        | (s, some r) => postXlat s op x r
        | (s, none) => s

end Sys2Proof.Machine
end

