-- ==== Sys2Proof/Machine/FlitCore.lean ====
section
/-! DEFINITION. Flits through a hop: arrival and checks (R91 to R98, R138, R139, R229, R231), placement, spraying and the
resequencer (R104 to R134), the output arbiter (R126, R127), aging (R183), pace (R115), peephole samples (R142 to R146). -/

namespace Sys2Proof.Machine

open Sys2Proof

/-! ## Credits returned -/

/-- One VCv slot has been freed: its credit is owed to the partner (R101). -/
def oweP (p : Port) (v : Nat) : Port :=
  { p with owed := lmod p.owed v (· + 1), owedQ := if p.owedQ.contains v then p.owedQ else p.owedQ ++ [v] }

/-- The landing slot of input `inp` (a port number; 72 and above: an internal end) is free again (R101). -/
def freeLanding (s : State) (inp v : Nat) : State := modItvPort s inp (oweP · v)

/-! ## Peephole (R142 to R146) -/

/-- One step of the LFSR x^24 + x^23 + x^22 + x^17 + 1 (log 40). -/
def lfsrStep (x : BitVec 24) : BitVec 24 :=
  let b := (x.getLsbD 23 ^^ x.getLsbD 22) ^^ (x.getLsbD 21 ^^ x.getLsbD 16)
  setBit (x <<< 1) 0 b

/-- Whether the flit is sampled, and the port's settings after it. -/
def peepStep (q : Peep) (egress : Bool) : Peep × Bool :=
  if q.random then
    let x := lfsrStep (if egress then q.lfsrOut else q.lfsrIn)
    let hit := x.toNat % 2 ^ q.k == 2 ^ q.k - 1
    (if egress then { q with lfsrOut := x } else { q with lfsrIn := x }, hit)
  else
    let n := if egress then q.seenOut else q.seenIn
    (if egress then { q with seenOut := n + 1 } else { q with seenIn := n + 1 }, n % 2 ^ q.k == 0)

/-- The record of R144, with R145's cut in a partitioned house. -/
def sampleRecord (s : State) (n : Nat) (egress express mcast : Bool) (f : Flit) : Bytes :=
  let hdrOnly := s.itv.sec.parts != 0 && !f.enc && f.ctx != 0
  let body := flitBody f
  leBytes 8 s.itv.cue.count.toNat ++ leBytes 1 n ++
    leBytes 1 (b2n egress + 2 * b2n express + 4 * b2n mcast + 8 * b2n hdrOnly) ++ leBytes 1 f.vc ++
    leBytes 1 (itvPort s n).peep.k ++ leBytes 2 s.itv.core.sampleNo.toNat ++
    leBytes 2 (diePace (s.itv.core.dies.get (if n < 36 then 0 else 1))) ++
    (if hdrOnly then body.take 16 ++ zeros 48 else body.take 64)

/-- A flit passes a watched port: perhaps sampled; samples beyond 250,000 in a second are lost and counted (R146). -/
def peep (s : State) (n : Nat) (egress express mcast : Bool) (f : Flit) : State :=
  let q := (itvPort s n).peep
  if q.dirs.getLsbD (b2n egress) && q.mask.getLsbD f.vc && f.vc < 8 then
    let (q', hit) := peepStep q egress
    let s := modItvPort s n (fun p => { p with peep := q' })
    if hit then
      let rec_ := sampleRecord s n egress express mcast f
      let sec := s.now / 1000000000
      let used := if s.itv.core.peepSec = sec then s.itv.core.peepIn else 0
      let s := { s with itv.core.sampleNo := s.itv.core.sampleNo + 1, itv.core.peepSec := sec, itv.core.peepIn := used + 1 }
      if used < 250000 && subscribed s 0 then telemeter s 0 rec_ else bump s (coreIdx 0 18) 1
    else s
  else s

/-! ## Arrival -/

/-- A hop asks for a resync (R92, R94). -/
def askResync (s : State) (r : PortRef) : State :=
  let s := bumpPort s r .resync 1
  modPort s r (fun p => { p with resyncOut := true, resyncAt := s.now, ctlDue := p.ctlDue ++ [1] })

/-- Tokens of a bucket that gains one each 16 beats and holds at most `lim` (R137, R138). -/
def bucket (s : State) (p : Port) (lim : Nat) : Nat × Nat :=
  let gained := 7 * (s.now - p.tokenAt) / 128
  if p.tokens + gained ≥ lim then (lim, s.now) else (p.tokens + gained, p.tokenAt + (gained * 128 + 6) / 7)

/-- This Itvos input faces a Belug, a seat's. -/
def facesSeat (s : State) (n : Nat) : Bool :=
  match (itvPort s n).partner with
  | some o => o.part == 2
  | none => false

/-- The partition of the seat at port `n` (R579): 0xFF none. -/
def seatPartOf (s : State) (n : Nat) : Nat := s.itv.sec.seatPart.getD n 0xFF

/-- VCs whose CTX Itvos checks (R229, R231). -/
def ctxChecked (v : Nat) : Bool := v == 0 || v == 1 || v == 2 || v == 6

/-- A flit whose CTX does not belong to where it comes from (R229, R231). -/
def ctxForeign (s : State) (n : Nat) (f : Flit) : Bool :=
  ctxChecked f.vc &&
    (if s.itv.sec.parts = 0 then f.ctx != 0
     else facesSeat s n && (f.ctx == 0 || f.ctx.toNat / 4096 != seatPartOf s n))

/-- A flit whose CTX does not belong where it goes (R231). -/
def ctxCross (s : State) (o : Nat) (f : Flit) : Bool :=
  ctxChecked f.vc && s.itv.sec.parts != 0 && facesSeat s o && f.ctx.toNat / 4096 != seatPartOf s o

/-- Landing slots of VC v in use at input `n`, with those that express flits still hold (R99, R133). -/
def landingUsed (s : State) (n v : Nat) : Nat :=
  (itvPort s n).landing.countP (fun l => l.flit.vc == v) +
    (List.range 72).foldl (fun k o => k + (itvPort s o).outq.countP (fun e => e.express && e.inp == n && e.flit.vc == v)) 0

/-- VC0 arrivals bound for an output within 32 beats (R139). -/
def countOver (s : State) (n : Nat) (f : Flit) : State :=
  match chooseOut s (itvPort s n).lastChoice f with
  | .out o _ =>
    let ts := ((itvPort s o).vc0Times.filter (fun t => decide (7 * (s.now - t) < 8 * 32))) ++ [s.now]
    let s := modItvPort s o (fun p => { p with vc0Times := ts })
    if ts.length > principalLimit s.itv then bump s (overIdx o) 1 else s
  | _ => s

/-- A checked flit of VC v takes a landing slot, or is an overrun (R97). -/
def land (s : State) (r : PortRef) (f : Flit) : State :=
  let used := match r with
    | .itv n => landingUsed s n.val f.vc
    | .blg n => (blgPort s n.val).landing.countP (fun l => l.flit.vc == f.vc)
  if used < (getPort s r).cred then
    let s := modPort s r (fun p => { p with landing := p.landing ++ [{ flit := f, at_ := s.now }] })
    let s := bumpPort s r .flitsIn 1
    match r with
    | .itv n => peep (if f.vc = 0 then countOver s n.val f else s) n.val false false false f
    | .blg n => if f.cm then bumpB s (16 * n.val + 10) 1 else s
  else
    let s := bumpPort s r .overrun 1
    realign s r (currentRate (getPort s r))

/-- A malformed flit of R96 among those with a VC. -/
def malformed (s : State) (r : PortRef) (f : Flit) (mbz : Nat) : Bool :=
  mbz != 0 || (f.dk && f.kind != Kind.svc) || (f.enc && !(getPort s r).features.getLsbD featEnc) ||
    (match r with
     | .itv _ => f.hops == 15 && look s.itv f != .toLocal
     | .blg _ => false)

/-- A flit with a VC that passed R91 (R95, R96, R138, R229, R231, R97). -/
def arriveData (s : State) (r : PortRef) (f : Flit) (mbz : Nat) : State :=
  let s := modPort s r (fun p => { p with rxCount := lmod p.rxCount f.vc (fun n => (n + 1) % 65536) })
  if malformed s r f mbz then modPort (bumpPort s r .malformed 1) r (oweP · f.vc)
  else
    match r with
    | .blg _ => land s r f
    | .itv n =>
      let (tok, at_) := bucket s (getPort s r) 6
      if f.vc = 0 ∧ facesSeat s n.val ∧ tok = 0 then
        modPort (bump s (policedIdx n.val) 1) r (oweP · f.vc)
      else
        let s := if f.vc = 0 ∧ facesSeat s n.val then modPort s r (fun p => { p with tokens := tok - 1, tokenAt := at_ }) else s
        if ctxForeign s n.val f then modPort (bump s (foreignIdx n.val) 1) r (oweP · f.vc) else land s r f

/-- A flit that passed R91: credits it carries (R101), then by kind. -/
def arrivePassed (s : State) (r : PortRef) (f : Flit) (mbz : Nat) : State :=
  if f.kind = Kind.linkCtl then
    if mbz ≠ 0 ∨ f.e2e ≠ 0 ∨ f.crv ≠ 0 ∨ f.crn ≠ 0 then bumpPort s r .malformed 1
    else modPort s r (fun p => { p with ctlIn := p.ctlIn ++ [f] })
  else
    let s := modPort s r (fun p => { p with retGot := lmod p.retGot f.crv.toNat (fun n => (n + f.crn.toNat) % 65536) })
    if (vcOf f.kind).isNone then bumpPort s r .malformed 1 else arriveData s r f mbz

/-- FEC bypass in force (R55). -/
def bypassOn (p : Port) : Bool := p.features.getLsbD featBypass && currentRate p == 0

/-- FLIT_ARRIVAL (R91, R92). -/
def flitArrivalOp (s : State) (r : PortRef) (raw : Bytes) : State :=
  let p := getPort s r
  whenever_ (p.st == .ready && !p.clockLost) s (fun s =>
    match flitReceive (bypassOn p) raw with
    | none => askResync (bumpPort s r .uncorrectable 1) r
    | some (bytes, fixed, three) =>
      let s := bumpPort (bumpPort s r .fecBytes fixed) r .fec3 three
      let (f, mbz) := parseFlit bytes
      arrivePassed s r f mbz)
where
  /-- only while `c` holds -/
  whenever_ (c : Bool) (s : State) (f : State → State) : State := if c then f s else s
def execFlitArrival (r : PortRef) (raw : Bytes) (s : State) : Res :=
  if raw.length = 256 then .next (flitArrivalOp s r raw) else .fault .illFormed

/-! ## The resequencer (R119 to R122) -/

def getStream (s : State) (k : Nat) : Stream := kgetD s.itv.core.streams k {}
def setStream (s : State) (k : Nat) (st : Stream) : State := { s with itv.core.streams := kset s.itv.core.streams k st }

/-- Release the entries of stream (inp, v) of an output whose turn has come, in ISN order; they move behind those released
before them. -/
def releaseRun : Nat → List QEntry → Nat → Nat → Nat → List QEntry × Nat
  | 0, q, _, _, rel => (q, rel)
  | n + 1, q, inp, v, rel =>
    match takeFirst (fun e => !e.released && e.inp == inp && e.flit.vc == v && e.isn == rel) q with
    | some (e, rest) => releaseRun n (rest ++ [{ e with released := true }]) inp v ((rel + 1) % 4096)
    | none => (q, rel)

/-- Some entry of the stream waits unreleased. -/
def holed (q : List QEntry) (inp v : Nat) : Bool := q.any (fun e => !e.released && e.inp == inp && e.flit.vc == v)

/-- After an arrival or a skip: release what can go; a hole is timed from the arrival of the later ISN (R122). -/
def settleStream (s : State) (inp o v : Nat) : State :=
  let k := streamKey inp o v
  let st := getStream s k
  let (q, rel) := releaseRun 64 (itvPort s o).outq inp v st.rel
  let s := modItvPort s o (fun p => { p with outq := q })
  setStream s k { st with rel := rel, holeAt := if holed q inp v then some (st.holeAt.getD s.now) else none }

/-- A sprayed flit reaches its output with its ISN: late if that was skipped (R122), else buffered (R120). -/
def reachOutput (s : State) (o : Nat) (e : QEntry) : State :=
  let v := e.flit.vc
  let st := getStream s (streamKey e.inp o v)
  if (e.isn + 4096 - st.rel) % 4096 ≥ 2048 then
    { bump s (coreIdx (dieOf o) 1) 1 with
      itv.core.copies := match e.copy with
        | some id => dropPointer s.itv.core.copies id
        | none => s.itv.core.copies }
  else settleStream (modItvPort s o (fun p => { p with outq := p.outq ++ [e] })) e.inp o v

/-- RESEQ_SKIP (R122): 256 beats at pace 1,450 after a later ISN arrived, the missing one is skipped. -/
def reseqSkipOp (s : State) (inp : Nat) (o : Fin 72) (v : Fin 8) : State :=
  let k := streamKey inp o.val v.val
  let st := getStream s k
  match st.holeAt with
  | none => s
  | some t =>
    let pace := diePace (s.itv.core.dies.get (if o.val < 36 then 0 else 1))
    if 8 * 256 * 1450 ≤ 7 * (s.now - t) * pace then
      let s := bump s (coreIdx (dieOf o.val) 0) 1
      settleStream (setStream s k { st with rel := (st.rel + 1) % 4096 }) inp o.val v.val
    else s
def execReseqSkip (inp : Nat) (out : Fin 72) (vc : Fin 8) (s : State) : Res := .next (reseqSkipOp s inp out vc)

/-! ## Placement -/

/-- The input's last path (R118). -/
def inpLastPath (s : State) (inp : Nat) : Nat := if inp < 72 then (itvPort s inp).lastPath else s.itv.core.lastPath
def setLastPath (s : State) (inp path : Nat) : State :=
  if inp < 72 then modItvPort s inp (fun p => { p with lastPath := path }) else { s with itv.core.lastPath := path }
def inpLastChoice (s : State) (inp : Nat) : KMap Nat := if inp < 72 then (itvPort s inp).lastChoice else s.itv.core.lastChoice
def setLastChoice (s : State) (inp g o : Nat) : State :=
  if inp < 72 then modItvPort s inp (fun p => { p with lastChoice := kset p.lastChoice g o })
  else { s with itv.core.lastChoice := kset s.itv.core.lastChoice g o }

/-- The die an input sprays from; an internal end stands on the die of its output (log 42). -/
def inpDie (inp o : Nat) : Nat := if inp < 72 then dieOf inp else dieOf o
def getDie (s : State) (d : Nat) : Die := if d = 0 then s.itv.core.dies.get 0 else s.itv.core.dies.get 1
def modDie (s : State) (d : Nat) (f : Die → Die) : State :=
  if d = 0 then { s with itv.core.dies := s.itv.core.dies.set 0 (f (s.itv.core.dies.get 0)) }
  else { s with itv.core.dies := s.itv.core.dies.set 1 (f (s.itv.core.dies.get 1)) }

/-- The path with the fewest flits in flight toward the output's die; a tie goes to the first after the last used (R118). -/
def choosePath (s : State) (inp o : Nat) : Option Nat :=
  let d := inpDie inp o
  let flying := fun k => s.itv.core.onPath.countP (fun x => x.path == k && inpDie x.inp (x.outs.headD (0, 0)).1 == d &&
    x.outs.any (fun t => dieOf t.1 == dieOf o))
  leastLoaded 8 flying ((List.range 8).filter (fun k => !(getDie s d).retired.getLsbD k)) (inpLastPath s inp)

/-- A core drop on a path, counted against it (R123). -/
def pathDrop (s : State) (inp o path : Nat) : State :=
  let d := inpDie inp o
  bump (modDie s d (fun x => { x with drops := (path, s.now) :: x.drops })) (coreIdx d (2 + path)) 1

/-- Flits of the same (o, v) that arrived at the switch earlier wait before this one (R105, R125). -/
def earlierWaits (s : State) (inp at_ o v : Nat) : Bool :=
  (List.range 72).any (fun q => (itvPort s q).landing.any (fun l =>
    (decide (l.at_ < at_) || (l.at_ == at_ && decide (q < inp))) && l.flit.vc == v &&
      !needsDirectory s l && l.mc.isEmpty &&
      (match chooseOut s (itvPort s q).lastChoice l.flit with
       | .out o' _ => o' == o
       | _ => false)))

/-- The conditions of the express path (R133). -/
def expressOk (s : State) (o v : Nat) (st : Stream) : Bool :=
  let p := itvPort s o
  p.outq.isEmpty && !(s.itv.core.onPath.any (fun x => x.outs.any (fun t => t.1 == o))) && st.next == st.rel &&
    p.st == .ready && decide (0 < credits p v)

/-- One unicast flit to output `o` (R104, R105, R112, R118 to R121, R123, R133). None: it waits. -/
def placeUnicast (s : State) (inp : Nat) (l : Landed) (o g : Nat) (fate : CoreFate) : Option State :=
  let f := l.flit
  let v := f.vc
  if earlierWaits s inp l.at_ o v then none
  else if v = 0 then
    if !slotFree s o v then none
    else
      let s := freeLanding (setLastChoice s inp g o) inp v
      if fate = .parity then some s
      else some (modItvPort s o (fun p => { p with outq := p.outq ++ [{ flit := f, at_ := l.at_, inp := inp, own := l.own }] }))
  else
    let k := streamKey inp o v
    let st := getStream s k
    match choosePath s inp o with
    | none => none
    | some path =>
      let express := expressOk s o v st
      if (st.next + 4096 - st.rel) % 4096 ≥ 64 || (!express && !slotFree s o v) then none
      else
        let s := setLastPath (setLastChoice s inp g o) inp path
        let s := setStream s k { st with next := (st.next + 1) % 4096 }
        let e : QEntry :=
          { flit := f, at_ := l.at_, inp := inp, isn := st.next, die := dieOf o, released := false, own := l.own, path := path }
        match fate with
        | .arrives =>
          if express then some (reachOutput s o { e with express := true })
          else some (reachOutput (freeLanding s inp v) o e)
        | .parity => some (pathDrop (freeLanding s inp v) inp o path)
        | .delayed =>
          some { freeLanding s inp v with
                 itv.core.onPath := s.itv.core.onPath ++
                   [{ flit := f, at_ := l.at_, inp := inp, path := path, outs := [(o, st.next)], own := l.own }] }

/-- Every target of a die is below its minimum plus cap and a multicast slot is free (R130, R131). -/
def mcastFree (s : State) (d v : Nat) (outs : List Nat) : Bool :=
  let tot := sharedTotal s d
  outs.all (fun o => decide (occupancy (itvPort s o) v < vcMin v + tot / 16)) && decide (copiesOn s d < tot / 8) &&
    decide (sharedUsed s d < tot)

/-- The stored copy of a die and its pointers (R128, R129). -/
def storeCopy (s : State) (inp : Nat) (l : Landed) (d path : Nat) (outs : List (Nat × Nat)) : State :=
  let id := s.itv.core.nextCopy
  let s := { s with itv.core.nextCopy := id + 1, itv.core.copies := kset s.itv.core.copies id (outs.length, d) }
  outs.foldl (fun s t => reachOutput s t.1
    { flit := l.flit, at_ := l.at_, inp := inp, isn := t.2, die := d, released := false, copy := some id, own := l.own,
      path := path }) s

/-- The multicast is placed on the dies that can take it; what is left of it waits (R129, R131). -/
def placeDie (s : State) (inp : Nat) (l : Landed) (d : Nat) (fate : CoreFate) : State × List Nat :=
  let outs := l.mc.filter (fun o => dieOf o == d)
  let v := l.flit.vc
  let open_ := outs.all (fun o => let st := getStream s (streamKey inp o v)
    decide ((st.next + 4096 - st.rel) % 4096 < 64))
  if outs.isEmpty then (s, [])
  else if !mcastFree s d v outs || !open_ then (s, outs)
  else
    let isns := outs.map (fun o => (o, (getStream s (streamKey inp o v)).next))
    let s := outs.foldl (fun s o => let k := streamKey inp o v
      setStream s k { getStream s k with next := ((getStream s k).next + 1) % 4096 }) s
    let path := (choosePath s inp (outs.headD 0)).getD 0
    match fate with
    | .arrives => (storeCopy s inp l d path isns, [])
    | .parity => (pathDrop s inp (outs.headD 0) path, [])
    | .delayed =>
      ({ s with itv.core.onPath := s.itv.core.onPath ++
           [{ flit := l.flit, at_ := l.at_, inp := inp, path := path, outs := isns, own := l.own, multi := true }] }, [])

/-- A landed flit and what becomes of it: it leaves the landing reserve (none left), waits as it is, or waits for less. -/
def placeOne (s : State) (inp : Nat) (l : Landed) (fate : CoreFate) : Option (State × Option Landed) :=
  let f := l.flit
  let v := f.vc
  let gone := fun (s : State) => some (freeLanding s inp v, (none : Option Landed))
  let mcast := fun (l : Landed) =>
    let (s, a) := placeDie s inp l 0 fate
    let (s, b) := placeDie s inp l 1 fate
    if (a ++ b).isEmpty then some (freeLanding s inp v, none)
    else if (a ++ b).length = l.mc.length then none else some (s, some { l with mc := a ++ b })
  let unicast := fun (_ : Unit) =>
    if needsDirectory s l then none
    else
      match chooseOut s (inpLastChoice s inp) f with
      | .noRoute => gone (bumpDel s .noRoute)
      | .updown => gone (bumpDel s .updown)
      | .toLocal => gone (openItvos s f)
      | .out o g =>
        if ctxCross s o f then gone (bump s (crossIdx o) 1)
        else (placeUnicast s inp l o g fate).map (fun s => (s, none))
  if !l.mc.isEmpty then mcast l
  else if holdsChorus s.itv && (f.vc = 4 || f.vc = 5) then
    match treeRoute s f with
    | .toReducer => if contribWaits s f then none else gone (openItvos (nokeyAbort s f) f)
    | .relay => gone (relayDown s f)
    | .down ports => if ports.isEmpty then gone (passDown s f)
      else (mcast { l with mc := ports }).map (fun (x : State × Option Landed) => (passDown x.1 f, x.2))
    | .notTree => unicast ()
  else unicast ()

/-- A flit arrives at its output from its internal path, or fails parity there (R120, R122, R123). -/
def pathArrive (s : State) (i : Nat) (fate : CoreFate) : State :=
  match s.itv.core.onPath[i]? with
  | none => s
  | some x =>
    let o := (x.outs.headD (0, 0)).1
    let s' := { s with itv.core.onPath := s.itv.core.onPath.eraseIdx i }
    match fate with
    | .delayed => s
    | .parity => pathDrop s' x.inp o x.path
    | .arrives =>
      let l : Landed := { flit := x.flit, at_ := x.at_, own := x.own }
      if x.multi then storeCopy s' x.inp l (dieOf o) x.path x.outs
      else x.outs.foldl (fun s t => reachOutput s t.1
        { flit := x.flit, at_ := x.at_, inp := x.inp, isn := t.2, die := dieOf t.1, released := false, own := x.own,
          path := x.path }) s'

/-- A flit received by Belug is delivered to its units, or forwarded between its ports when it is Service traffic for a
switch (R17, R18). -/
def deliverBelug (s : State) (p : Fin 24) (i : Nat) : State :=
  match (s.blg.ports.get p).landing[i]? with
  | none => s
  | some l =>
    let s := modPort s (.blg p) (fun q => oweP { q with landing := q.landing.eraseIdx i } l.flit.vc)
    if l.flit.dk then
      let o := swPlane l.flit.dst
      if (blgPort s o).st = .ready then
        modBlgPort s o (fun q => { q with outq := q.outq ++ [{ flit := l.flit, at_ := s.now, inp := p.val, own := true }] })
      else bumpB s (16 * o + 14) 1
    else openBelug s l.flit p.val

/-- FLIT_PLACE (R105). -/
def flitPlaceOp (s : State) (sel : PlaceSel) (fate : CoreFate) : State :=
  match sel with
  | .port (.blg p) i => deliverBelug s p i
  | .port (.itv p) i =>
    match (s.itv.ports.get p).landing[i]? with
    | none => s
    | some l =>
      match placeOne s p.val l fate with
      | none => s
      | some (s, rest) => modPort (if rest.isNone then atomReturned s l.flit else s) (.itv p) (fun q => match rest with
          | some l' => { q with landing := q.landing.set i l' }
          | none => { q with landing := q.landing.eraseIdx i })
  | .internal i =>
    if !s.itv.boot.originate then s
    else
      match s.itv.core.internal[i]? with
      | none => s
      | some l =>
        match placeOne s 72 l fate with
        | none => s
        | some (s, some l') => { s with itv.core.internal := s.itv.core.internal.set i l' }
        | some (s, none) => { s with itv.core.internal := s.itv.core.internal.eraseIdx i }
  | .path i => pathArrive s i fate
def execFlitPlace (sel : PlaceSel) (fate : CoreFate) (s : State) : Res := .next (flitPlaceOp s sel fate)

/-- PATH_RETIRE (R123): more than 16 drops in 1 s retire a path. -/
def pathRetireOp (s0 : State) (d : Fin 2) (k : Fin 8) : State :=
  let die := s0.itv.core.dies.get d
  let n := die.drops.countP (fun x => x.1 == k.val && decide (s0.now < x.2 + 1000000000))
  if n > 16 then
    let s := modDie s0 d.val (fun x => { x with retired := setBit x.retired k.val true })
    noteState s0 (raiseEvent s Ev.port)
  else s0
def execPathRetire (die : Fin 2) (path : Fin 8) (s : State) : Res := .next (pathRetireOp s die path)

/-- PACE_UPDATE (R115, R117): the lowest reading; Belug has one monitor reading of its own (R524). -/
def paceUpdateOp (s0 : State) (what : PaceOf) (rs : List Nat) : State :=
  match what with
  | .die d =>
    let low := paceLow s0.itv
    let s := modDie s0 d.val (fun x => { x with monitors := rs, pace := rs.min?.getD 0 })
    let s := if !low && paceLow s.itv then bump s (coreIdx 0 11) 1 else s
    noteState s0 s
  | .belug => { s0 with blg.pace := rs.headD 0 % 65536 }
def execPaceUpdate (of : PaceOf) (readings : List Nat) (s : State) : Res := .next (paceUpdateOp s of readings)

/-! ## The output arbiter -/

/-- Weights of an output's VC1 to VC7 (R98, R524, R734). -/
def weightsOf (s : State) (r : PortRef) : List Nat :=
  match r with
  | .itv p =>
    match chartPort s.itv p.val with
    | some e => if e.weightsGiven then 0 :: e.weights else [0, 10, 14, 4, 10, 10, 12, 4]
    | none => [0, 10, 14, 4, 10, 10, 12, 4]
  | .blg _ => 0 :: (List.range 7).map (fun i => s.blg.vcWeight.toNat / 256 ^ i % 256)

/-- First released entry of VC v (Belug: a VC0 entry needs a token of R137). -/
def nextOf (q : List QEntry) (v : Nat) : Option QEntry := q.find? (fun e => e.released && e.flit.vc == v)
def eligible (p : Port) (v : Nat) : Bool := (nextOf p.outq v).isSome && decide (0 < credits p v)

/-- The four steps of R126: the VC chosen and the counters after the choice. -/
def arbitrate (w : List Nat) (elig : List Nat) (ctr : List Int) : Option (Nat × List Int) :=
  let c1 := (List.range 8).map (fun v => if elig.contains v then ctr.getD v 0 + (lget w v : Nat) else 0)
  let total : Nat := (elig.map (lget w)).sum
  match elig.foldl (fun (best : Option Nat) v => match best with
      | none => some v
      | some b => if c1.getD b 0 < c1.getD v 0 then some v else some b) none with
  | none => none
  | some c => some (c, c1.set c (c1.getD c 0 - total))

/-- HELD of an ALIGN_DONE: flits of each VC still in the input buffer (R68, R93). -/
def heldCounts (s : State) (r : PortRef) : List Nat :=
  match r with
  | .itv n => (List.range 8).map (landingUsed s n.val)
  | .blg n => (List.range 8).map (fun v => (blgPort s n.val).landing.countP (fun l => l.flit.vc == v))

def counts16 (xs : List Nat) : Bytes := (List.range 8).flatMap (fun v => leBytes 2 (lget xs v))

/-- A LINK_CTL leaves with CODE `code` (R93, R94, R99, R100, R296). -/
def sendLinkCtl (s : State) (r : PortRef) (code : Nat) : State :=
  let held := if code = 3 then heldCounts s r else List.replicate 8 0
  let s := modPort s r (fun p =>
    let p := if code = 3 then { p with rxCount := List.replicate 8 0, owed := List.replicate 8 0, owedQ := [],
                                       retSent := held.map (fun h => p.cred - h) }
             else if p.granted then p else { p with retSent := List.replicate 8 p.cred }
    { p with granted := true, ctlAt := s.now })
  let p := getPort s r
  let d := refSide r
  let cue := cueFields s d p
  let payload := payloadOf [(0, leBytes 1 code), (1, cue), (16, counts16 p.txCount), (32, counts16 p.retSent), (48, counts16 held)]
  let f : Flit := { kind := Kind.linkCtl, payload := payload }
  let stamp := (getCue s d).count.toNat
  let s := modPort s r (fun p => { p with
    stamps := ((stamp % 65536, stamp, s.now) :: p.stamps).filter (fun x => decide (stamp ≤ x.2.1 + 65536)) })
  emit s (.flit r (flitWire f))

/-- The credit return the flit carries (R101): the VC that has waited longest, at most 31. -/
def takeReturn (p : Port) : Port × Nat × Nat :=
  match p.owedQ with
  | [] => (p, 0, 0)
  | v :: q =>
    let n := min 31 (lget p.owed v)
    ({ p with owed := lmod p.owed v (· - n), owedQ := if lget p.owed v > 31 then q ++ [v] else q,
              retSent := lmod p.retSent v (fun x => (x + n) % 65536) }, v, n)

/-- Express flits that found the transmitter taken are written to the buffer (R134). -/
def unexpress (s : State) (o : Nat) : State :=
  let q := (itvPort s o).outq
  let s := q.foldl (fun s e => if e.express then freeLanding s e.inp e.flit.vc else s) s
  modItvPort s o (fun p => { p with outq := p.outq.map (fun e => { e with express := false }) })

/-- A first push of a key-install leaves; with the last the command completes (R608). -/
def pushLeft (s : State) (f : Flit) : State :=
  if f.kind ≠ Kind.svc ∨ f.svc ≠ 0x0301 then s
  else
    let left := s.itv.sec.installing.map (fun x => (x.1, x.2.filter (fun g => !(g.dst == f.dst && g.payload == f.payload))))
    let s := { s with itv.sec.installing := left.filter (fun x => !x.2.isEmpty) }
    (left.filter (fun x => x.2.isEmpty)).foldl (fun s x => finishKept s (some x.1) none { status := St.ok }) s

/-- One data flit leaves an Itvos output (R81, R106, R127, R128, R165, R166, R173). -/
def sendItv (s : State) (n : Fin 72) (e : QEntry) (rest : List QEntry) : State :=
  let v := e.flit.vc
  let occ := occupancy (s.itv.ports.get n) v + (if v = 1 then dirWaiting s n.val else 0)
  let mark := v != 0 && decide (occ > vcMin v)
  let s := if mark && !e.flit.cm then bump s (cmSetIdx n.val) 1 else s
  let s := { s with itv.core.copies := match e.copy with
      | some id => dropPointer s.itv.core.copies id
      | none => s.itv.core.copies }
  let leaving := (leavingPorts s.itv e.flit).getLsbD n.val
  let s := { s with itv.routing.drains := s.itv.routing.drains.map (fun d =>
      if (d.why == .commit && leaving) || ((d.why == .disable || d.why == .rehearse) && d.ports.getLsbD n.val) then { d with lastSent := s.now } else d) }
  let (p, crv, crn) := takeReturn { s.itv.ports.get n with outq := rest }
  let f := { e.flit with cm := e.flit.cm || mark, down := e.flit.down || !isUp s n.val,
                         hops := if e.own then 0 else e.flit.hops + 1, crv := BitVec.ofNat 3 crv, crn := BitVec.ofNat 5 crn }
  let s := setPort s (.itv n) { p with txCount := lmod p.txCount v (fun x => (x + 1) % 65536) }
  let s := if e.express then freeLanding s e.inp v else s
  let s := if v = 0 then unexpress s n.val else s
  let s := bumpPort s (.itv n) .flitsOut 1
  let s := peep s n.val true e.express e.copy.isSome f
  pushLeft (emit s (.flit (.itv n) (flitWire f))) f

/-- One data flit leaves a Belug port; a VC0 flit takes a token (R137). -/
def sendBlg (s : State) (n : Fin 24) (e : QEntry) (rest : List QEntry) : State :=
  let v := e.flit.vc
  let (p, crv, crn) := takeReturn { s.blg.ports.get n with outq := rest }
  let f := { e.flit with crv := BitVec.ofNat 3 crv, crn := BitVec.ofNat 5 crn }
  let p := { p with txCount := lmod p.txCount v (fun x => (x + 1) % 65536), tokens := if v = 0 then p.tokens - 1 else p.tokens,
                    tokenAt := if v = 0 ∧ p.tokens = 4 then s.now else p.tokenAt }
  let s := bumpPort (setPort s (.blg n) p) (.blg n) .flitsOut 1
  emit s (.flit (.blg n) (flitWire f))

/-- VC0 may go: a released flit, a credit, and at Belug a token. -/
def vc0Ready (r : PortRef) (p : Port) : Bool :=
  eligible p 0 && (match r with
    | .itv _ => true
    | .blg _ => decide (0 < p.tokens))

/-- The entry leaves the queue of its port. -/
def sendEntry (s : State) (r : PortRef) (v : Nat) : State :=
  match takeFirst (fun e => e.released && e.flit.vc == v) (getPort s r).outq with
  | none => s
  | some (e, rest) =>
    match r with
    | .itv n => sendItv s n e rest
    | .blg n => sendBlg s n e rest

/-- FLIT_TRANSMIT (R79, R94, R98, R126): a due LINK_CTL, VC0, the VC of the arbiter, or a LINK_CTL for want of anything else. -/
def flitTransmitOp (s : State) (r : PortRef) : State :=
  let p := getPort s r
  if p.st ≠ .ready ∨ p.standin then s
  else
    match p.ctlDue with
    | c :: cs => sendLinkCtl (modPort s r (fun p => { p with ctlDue := cs })) r c
    | [] =>
      if vc0Ready r p then sendEntry s r 0
      else
        match arbitrate (weightsOf s r) ((List.range 8).filter (fun v => v != 0 && eligible p v)) p.arb with
        | some (v, ctr) => sendEntry (modPort s r (fun p => { p with arb := ctr })) r v
        | none => sendLinkCtl (modPort s r (fun p => { p with arb := List.replicate 8 0 })) r 0
def execFlitTransmit (r : PortRef) (s : State) : Res := .next (flitTransmitOp s r)

/-! ## Aging (R183) -/

/-- FLIT_AGED: an Itvos flit that has not left AGE_LIMIT after it landed; a flit Belug has not delivered in 50 µs. -/
def flitAgedOp (s : State) (loc : AgedAt) : State :=
  match loc with
  | .landing (.itv p) i =>
    match (s.itv.ports.get p).landing[i]? with
    | some l => if passed s l.at_ (ageLimit s.itv) then
        bumpDel (modPort s (.itv p) (fun q => oweP { q with landing := q.landing.eraseIdx i } l.flit.vc)) .aged else s
    | none => s
  | .output (.itv p) i =>
    match (s.itv.ports.get p).outq[i]? with
    | some e => if passed s e.at_ (ageLimit s.itv) then
        let s := modPort s (.itv p) (fun q => { q with outq := q.outq.eraseIdx i })
        let s := if e.express then freeLanding s e.inp e.flit.vc else s
        bumpDel { s with itv.core.copies := match e.copy with
          | some id => dropPointer s.itv.core.copies id
          | none => s.itv.core.copies } .aged else s
    | none => s
  | .landing (.blg p) i =>
    match (s.blg.ports.get p).landing[i]? with
    | some l => if passed s l.at_ 50000 then
        bumpB (modPort s (.blg p) (fun q => oweP { q with landing := q.landing.eraseIdx i } l.flit.vc)) (16 * p.val + 11) 1 else s
    | none => s
  | .inbox i =>
    match s.blg.inbox[i]? with
    | some (_, t, _) => if passed s t 50000 then bumpB { s with blg.inbox := s.blg.inbox.eraseIdx i } 11 1 else s
    | none => s
  | .output (.blg _) _ => s
def execFlitAged (loc : AgedAt) (s : State) : Res := .next (flitAgedOp s loc)

end Sys2Proof.Machine
end

