-- ==== Sys2Proof/Machine/PoolOps.lean ====
section
/-! DEFINITION. Pool memory: carves and rights (R230, R234 to R237), blocks and keys (R475, R478, R486), the tier map and the
mover's queue (R479 to R483), scrubs (R490), wardrobes (R446 to R463). -/

namespace Sys2Proof.Machine

open Sys2Proof

/-! ## Sizes (R33, R471, R473) -/

/-- 64 KiB frames of the stalls in the pool, of the gallery in the pool. -/
def stallsFrames : Nat := 188 * 16384
def galleryFrames (v : Itvos) : Nat := v.pool.galleryGiB * 16384
/-- Pool bytes as built (R33), whatever the licence. -/
def poolSize (v : Itvos) : Nat := (188 + v.pool.galleryGiB) * 2 ^ 30

/-! ## Carves (R230, R234) -/

def overlaps (a n b m : Nat) : Bool := decide (a < b + m) && decide (b < a + n)
/-- Blocks of the range are still being scrubbed (R490); a start scrub is judged by tier. -/
def scrubbing (v : Itvos) (off len : Nat) : Bool :=
  v.pool.scrubs.any (fun x => x.tier.isNone && overlaps off len (x.lo * 65536) ((x.hi - x.lo) * 65536))

/-! ## Blocks (R475, R486) -/

def poolKeysOf (v : Itvos) (part : Nat) : PoolKeys := kgetD v.sec.poolKeys part {}
def slotKey (k : PoolKeys) (e : Bool) : Option (BitVec 256) := if e then k.key1 else k.key0
def curKey (k : PoolKeys) : Option (BitVec 256) := slotKey k k.cur

/-- The tweak of a block of this pool (R610). -/
def tweakOf (v : Itvos) (b : Nat) : Nat := (poolNode v).toNat * 2 ^ 42 + b

inductive PoolAns where
  | ok (data : Bytes)
  | nokey
  | poison
  deriving DecidableEq, Repr

/-- The 64 bytes of block `b` of a partition's carve. -/
def blockRead (v : Itvos) (part b : Nat) : PoolAns :=
  match kget v.pool.blocks b with
  | none => .ok (zeros 64)
  | some m =>
    if m.poison then .poison
    else
      match slotKey (poolKeysOf v part) m.epoch with
      | none => .nokey
      | some k =>
        let d := memRead v.pool.mem (b * 64) 64
        .ok (if k = m.key then d else pad 64 (Config.xtsCross m.key k (tweakOf v b) d))

/-- The blocks of [off, off + len), ascending. -/
def blocksOf (off len : Nat) : List Nat :=
  if len = 0 then [] else (List.range ((off + len - 1) / 64 + 1 - off / 64)).map (· + off / 64)

/-- The content of several blocks: the first that fails decides. -/
def readBlocks (v : Itvos) (part : Nat) : List Nat → PoolAns
  | [] => .ok []
  | b :: bs =>
    match blockRead v part b with
    | .ok x => (match readBlocks v part bs with
      | .ok d => .ok (x ++ d)
      | e => e)
    | e => e

/-- A read of `len` bytes. -/
def poolRead (v : Itvos) (part off len : Nat) : PoolAns :=
  match readBlocks v part (blocksOf off len) with
  | .ok d => .ok (slice d (off % 64) len)
  | e => e

/-- A block takes new content under the current key. -/
def blockStore (v : Itvos) (b : Nat) (cur : Bool) (key : BitVec 256) (d : Bytes) : Itvos :=
  { v with pool.mem := memWrite v.pool.mem (b * 64) (pad 64 d),
           pool.blocks := kset v.pool.blocks b { epoch := cur, poison := false, key := key } }

/-- One block's part of a write: bytes `d` under `mask` (bit i: byte i of the block), or why it fails. -/
def blockWrite (v : Itvos) (part b : Nat) (d : Bytes) (mask : Nat) : Itvos × PoolAns :=
  let ks := poolKeysOf v part
  match curKey ks with
  | none => (v, .nokey)
  | some k =>
    if mask = 0 then (v, .ok [])
    else if mask = 2 ^ 64 - 1 then (blockStore v b ks.cur k d, .ok [])
    else
      match blockRead v part b with
      | .ok old =>
        (blockStore v b ks.cur k ((List.range 64).map (fun i => if bitOf mask i then d.getD i 0 else old.getD i 0)), .ok [])
      | e => (v, e)

/-- Bits [64 i, 64 i + 64) of a mask of bytes that starts at offset `off` within its first block. -/
def blockMask (mask off i : Nat) : Nat := mask * 2 ^ (off % 64) / 2 ^ (64 * i) % 2 ^ 64

/-- A write of `d` at `off` under `mask`: every block is checked before any changes. -/
def poolWrite (v : Itvos) (part off : Nat) (d : Bytes) (mask : Nat) : Itvos × PoolAns :=
  let shifted := zeros (off % 64) ++ d
  let bs := blocksOf off d.length
  let pieces := (List.range bs.length).map (fun i => (bs.getD i 0, pad 64 (shifted.drop (64 * i)), blockMask mask off i))
  let fails := pieces.filterMap (fun p => match (blockWrite v part p.1 p.2.1 p.2.2).2 with
    | .ok _ => none
    | e => some e)
  match fails with
  | e :: _ => (v, e)
  | [] => (pieces.foldl (fun v p => (blockWrite v part p.1 p.2.1 p.2.2).1) v, .ok [])

def fullMask (n : Nat) : Nat := 2 ^ n - 1

/-- Pages [lo, hi) have ZERO set in every block. -/
def zeroPages (v : Itvos) (lo hi : Nat) : Itvos :=
  { v with pool.mem := memZero v.pool.mem (lo * 65536) ((hi - lo) * 65536),
           pool.blocks := kdelRange v.pool.blocks (lo * 1024) (hi * 1024) }

/-- An uncorrectable block (R478): POISON, counted with its offset, the MEMORY event. -/
def poisonBlock (s : State) (b : Nat) : State :=
  let m := kgetD s.itv.pool.blocks b {}
  let s := { s with itv.pool.blocks := kset s.itv.pool.blocks b { m with poison := true },
                    itv.pool.ueLog := s.itv.pool.ueLog ++ [b * 64] }
  raiseEvent (bumpPool s .poolUe) Ev.memory

/-- A mismatch of duplicated units (R623): counted; the 16th within 1 s raises MEMORY. -/
def unitMismatch (s : State) (c : PoolCtr) : State :=
  let near := s.now :: s.itv.pool.mismatches.filter (fun t => s.now < t + 1000000000)
  let s := bumpPool { s with itv.pool.mismatches := near } c
  if near.length = 16 then raiseEvent s Ev.memory else s

/-! ## Tier map (R237, R479, R482) -/

/-- The first number from `n` on that is not in `used`. -/
def firstFree (used : List Nat) : Nat → Nat → Nat
  | 0, n => n
  | fuel + 1, n => if used.contains n then firstFree used fuel (n + 1) else n

/-- Frames of a tier in use: by pages, and reserved by moves (R483). -/
def usedFrames (v : Itvos) (gallery : Bool) : List Nat :=
  (v.pool.tier.filter (fun e => e.2.gallery == gallery)).map (fun e => e.2.frame) ++
    (v.pool.moves.filter (fun m => m.toGallery == gallery)).map (·.frame)

def freeFrame (v : Itvos) (gallery : Bool) : Option Nat :=
  let u := usedFrames v gallery
  let f := firstFree u (u.length + 1) 0
  if f < (if gallery then galleryFrames v else stallsFrames) then some f else none

/-- Stalls pages a carve's class pins there. -/
def pinnedStalls (v : Itvos) : Nat :=
  v.pool.carves.foldl (fun n c => if c.2.cls = .stalls then n + c.2.len / 65536 else n) 0

/-- An AUTO page of the stalls gives its frame up to a page of class STALLS; it goes to the gallery. -/
def evictOne (v : Itvos) : Option (Itvos × Nat) :=
  match v.pool.tier.find? (fun e => !e.2.gallery && !e.2.pin && !e.2.moving), freeFrame v true with
  | some (p, e), some g => some ({ v with pool.tier := kset v.pool.tier p { e with gallery := true, frame := g } }, e.frame)
  | _, _ => none

/-- A new page of a carve finds its frame (R482): AUTO and GALLERY in gallery, STALLS in stalls; the other tier where its own
has no frame (log 47). -/
def placePage (v : Itvos) (page carve : Nat) (cls : TierClass) : Itvos :=
  let wantGallery := cls != .stalls && v.pool.galleryOff == 0
  let put := fun (v : Itvos) (g : Bool) (f : Nat) =>
    { v with pool.tier := kset v.pool.tier page { gallery := g, pin := cls != .auto, carve := carve, frame := f } }
  match freeFrame v wantGallery with
  | some f => put v wantGallery f
  | none =>
    if wantGallery then
      match freeFrame v false with
      | some f => put v false f
      | none => v
    else
      match evictOne v with
      | some (v', f) => put v' false f
      | none => v

def pagesOf (off len : Nat) : List Nat := (List.range (len / 65536)).map (· + off / 65536)

def placePages (v : Itvos) (carve off len : Nat) (cls : TierClass) : Itvos :=
  (pagesOf off len).foldl (fun v p => placePage v p carve cls) v

/-- Pages leave the pool's tier map, their moves and queue places with them (R483, R496). -/
def dropPages (v : Itvos) (lo hi : Nat) : Itvos :=
  let gone := fun p => decide (lo ≤ p) && decide (p < hi)
  { v with pool.tier := kdelRange v.pool.tier lo hi, pool.queue := v.pool.queue.filter (fun p => !gone p),
           pool.moves := (v.pool.moves.filter (fun m => !gone m.page)).map (fun m =>
             if m.next.any gone then { m with next := none } else m),
           pool.sweeps := v.pool.sweeps.map (fun x => { x with left := x.left.filter (fun p => !gone p) }) }

/-- Moves of the pages that meet `p` are abandoned: MOVING clears, the reserved frame is free (R496). -/
def abandonMoves (v : Itvos) (p : Nat → Bool) : Itvos :=
  { v with pool.moves := v.pool.moves.filter (fun m => !p m.page),
           pool.tier := v.pool.tier.map (fun e => if p e.1 && e.2.moving then (e.1, { e.2 with moving := false }) else e) }

/-- An access to a page (R479): ACCESS up to 65,535; an AUTO gallery page at PROMOTE joins the queue (R482). -/
def touchPage (s : State) (page : Nat) : State :=
  match kget s.itv.pool.tier page with
  | none => s
  | some e =>
    let e := { e with access := min (e.access + 1) 65535 }
    let s := { s with itv.pool.tier := kset s.itv.pool.tier page e }
    if e.gallery && !e.pin && !e.moving && decide (e.access ≥ s.itv.pool.promote) && !s.itv.pool.queue.contains page &&
        !s.itv.pool.moves.any (fun m => m.next == some page) then
      if s.itv.pool.queue.length < 4096 then { s with itv.pool.queue := s.itv.pool.queue ++ [page] }
      else bumpPool s .promoteDrop
    else s

/-- Every page of an access (R479). -/
def touch (s : State) (off len : Nat) : State :=
  ((List.range ((off + len - 1) / 65536 + 1 - off / 65536)).map (· + off / 65536)).foldl touchPage s

end Sys2Proof.Machine
end

