-- ==== Sys2Proof/Machine/DirRows.lean ====
section
/-! DEFINITION. Commands of the directory: DIR_REQUEST, FENCE, INV_ACK, INV_RESEND, INV_ORPHAN, DIR_LATE, DOMAIN_DOWN_NOTICE
(R255 to R262, R268, R283). -/

namespace Sys2Proof.Machine

open Sys2Proof

/-! ## DIR_REQUEST -/

/-- The landing slot that holds a request for the directory. -/
def landedAt (s : State) (f : Flit) : Option (Nat × Nat) :=
  (List.range 72).findSome? (fun p =>
    ((itvPort s p).landing.findIdx? (fun l => l.flit == f && needsDirectory s l)).map (fun i => (p, i)))

/-- A wardrobe's control page holds the offset (R449, R457): the wardrobe. -/
def doorwayOf (v : Itvos) (off : Nat) : Option Nat :=
  (v.wards.find? (fun w => decide (w.1 < 16) && decide (controlPage w.2 ≤ off) && decide (off < controlPage w.2 + 65536))).map (·.1)

/-- A pool request the directory tracks: it meets memory that the chip holds and that is no control page (R252, R460). -/
def poolTracked (v : Itvos) (f : Flit) : Bool :=
  holdsPool v && (carveAt v f.offset 1).isSome && (doorwayOf v f.offset).isNone

/-- Requests that wait for a way try again where one is free. -/
def tryWays (s : State) (key : Nat) : State :=
  if decide ((waysOf s key).length < 256) && s.itv.dir.wayWait.any (fun x => setOf (flitLine x.1) == setOf key) then wayFreed s key
  else s

/-- A request met at the directory: what R192 and R194 say of combined and merged originals, then R255. -/
def directoryOp (s : State) (f : Flit) (t : Nat) : State × Bool :=
  match answeredOf s f with
  | some a => (itvSend (bumpDel s .dupReq) (if a.atom then oldFor f a.status a.old else doneFor f a.status), false)
  | none =>
    if carriedHere s f then (bumpDel s .dupReq, false)
    else
      let (s, go) := dirAct s f t
      (tryWays s (flitLine f), go)

/-- DIR_REQUEST (R255): a VC1 request to a seat stands in a landing reserve, one to this pool among what was delivered here. -/
def dirRequestOp (s : State) (f : Flit) : State :=
  match landedAt s f with
  | some (p, i) =>
    let t := (((itvPort s p).landing[i]?).map (·.at_)).getD s.now
    let (s, go) := directoryOp s f t
    if go then modItvPort s p (fun q => { q with landing := lmod q.landing i (fun l => { l with dirDone := true }) })
    else modItvPort s p (fun q => oweP { q with landing := q.landing.eraseIdx i } f.vc)
  | none =>
    if toOwnPool s.itv f && [0x02, 0x03, 0x04, 0x06].contains f.kind.toNat then
      fromInbox s .itv f (fun s =>
        if poolTracked s.itv f then
          let (s, go) := directoryOp s f s.now
          if go then passOn s f else s
        else if domainHit s f then answer s f St.domainDown
        else passOn s f)
    else s
def execDirRequest (f : Flit) (s : State) : Res := .next (dirRequestOp s f)

/-! ## FENCE (R268) -/

def fenceOp (s : State) (f : Flit) : State :=
  if f.kind = Kind.fence then
    fromInbox s .itv f (fun s =>
      let gone := s.itv.sec.struck.getLsbD (partOfSeat s (nodeSeat f.src))
      match arriveFlow s .itv f with
      | (s, none) => if gone && lostFlow s .itv f then itvSend (strikeDrop s (ctxPart f.ctx)) (doneFor f St.struck) else s
      | (s, some _) =>
        let s := bumpCoh s .fences
        if gone then itvSend (strikeDrop s (ctxPart f.ctx)) (doneFor f St.struck)
        else if domainHit s f then itvSend s (doneFor f St.domainDown)
        else
          let gs := (s.itv.dir.groups.filter (fun g => g.seat == nodeSeat f.src)).map (·.id)
          if gs.isEmpty then itvSend s (doneFor f St.ok)
          else modDir s (fun d => { d with fences := d.fences.filter (fun x => !sameReq x.1 f) ++ [(f, gs)] }))
  else s
def execFence (f : Flit) (s : State) : Res := .next (fenceOp s f)

/-! ## INV_ACK, INV_RESEND, INV_ORPHAN (R257, R261, R282) -/

def invAckOp (s : State) (f : Flit) : State :=
  if f.kind = Kind.invAck then
    fromInbox s .itv f (fun s =>
      match s.itv.dir.invs.find? (fun v => v.seat == nodeSeat f.src && v.seq == f.seq.toNat &&
          lineNo v.line == f.offset / 128) with
      | some v => closeInv s v
      | none => bumpCoh s .dupAck)
  else s
def execInvAck (f : Flit) (s : State) : Res := .next (invAckOp s f)

def findInv (s : State) (seat : Fin 72) (seq : Nat) : Option InvOut :=
  s.itv.dir.invs.find? (fun v => v.seat == seat.val && v.seq == seq)

/-- INV_RESEND (R257). -/
def invResendOp (s : State) (seat : Fin 72) (seq : Nat) : State :=
  match findInv s seat seq with
  | none => s
  | some v =>
    if passed s v.lastSend (itvE2E s.itv) && decide (v.sends ≤ itvRetryMax s.itv) then
      let s := modDir s (fun d => { d with invs := d.invs.map (fun x =>
        if x.seat == v.seat && x.seq == v.seq then { x with sends := x.sends + 1, lastSend := s.now } else x) })
      itvSend s { dst := seatNode s.itv v.seat, src := poolNode s.itv, kind := Kind.inv, seq := BitVec.ofNat 20 v.seq,
                  payload := payloadOf [(0, leBytes 6 (lineNo v.line * 128))] }
    else s
def execInvResend (seat : Fin 72) (seq : Nat) (s : State) : Res := .next (invResendOp s seat seq)

/-- INV_ORPHAN (R261): a sharer is removed; an owner is dead. -/
def invOrphanOp (s : State) (seat : Fin 72) (seq : Nat) : State :=
  match findInv s seat seq with
  | none => s
  | some v =>
    if passed s v.lastSend (itvE2E s.itv) && decide (v.sends > itvRetryMax s.itv) then
      if v.toOwner then deadOwner s v.seat
      else
        let s := match dirEntry s v.line with
          | some e => putEntry s v.line { e with sharers := setBit e.sharers v.seat false }
          | none => s
        closeInv (bumpCoh s .invOrphan) v
    else s
def execInvOrphan (seat : Fin 72) (seq : Nat) (s : State) : Res := .next (invOrphanOp s seat seq)

/-! ## DIR_LATE (R256, R262) -/

/-- The `i`-th request held for a line is dropped when SERVICE_LIMIT has passed; where the line is not in RECALL, the `i`-th of
its requests that wait for a way. -/
def dirLateOp (s : State) (line i : Nat) : State :=
  match (dirEntry s line).filter (fun e => !e.held.isEmpty) with
  | some e =>
    match e.held[i]? with
    | some (_, t) =>
      if passed s t 200000 then
        bumpCoh (modDir s (fun d => { d with entries := kset d.entries line { e with held := e.held.eraseIdx i } })) .dirLate
      else s
    | none => s
  | none =>
    let w := s.itv.dir.wayWait
    match (w.filter (fun x => flitLine x.1 == line))[i]? with
    | some x => if passed s x.2 200000 then bumpCoh (modDir s (fun d => { d with wayWait := w.erase x })) .dirLate else s
    | none => s
def execDirLate (line : Nat) (i : Nat) (s : State) : Res := .next (dirLateOp s line i)

/-- DOMAIN_DOWN_NOTICE (R283). -/
def execDomainDownNotice (part : Fin 16) (s : State) : Res := .next (domainDown s part.val)

end Sys2Proof.Machine
end

