-- ==== Sys2Proof/Machine/HomeItv.lean ====
section
/-! DEFINITION. The pool home of an Itvos (R191, R192, R204, R230, R234, R236, R263, R382, R478, R623), the wardrobe's doorways
(R457 to R464), and replies to requests the Itvos sent itself (R265, R278). -/

namespace Sys2Proof.Machine

open Sys2Proof

/-! ## What every pool request meets -/

/-- Bytes an access spans: SIZE, or LEN of a BULK; 0 where the field is no length. -/
def accessLen (f : Flit) : Nat := if f.kind = Kind.bulk then (if f.len ≤ 208 then f.len else 0) else sizeBytes f.sizeCode
/-- The access has a length and stays in one line (R216). -/
def inOneLine (f : Flit) : Bool := accessLen f != 0 && (f.kind == Kind.bulk || decide (f.offset % 128 + accessLen f ≤ 128))
/-- The right of R215: 0 R, 1 W, 2 A. -/
def rightOf (f : Flit) : Nat :=
  if f.kind = Kind.load then 0 else if f.kind = Kind.store ∨ f.kind = Kind.bulk then 1 else 2

/-- The carve of a request, or the status that refuses it (R236, R4, R230, R234). -/
def poolAdmit (v : Itvos) (f : Flit) : Nat × Carve :=
  let none_ : Carve := { base := 0, len := 0, part := 0, ctxValue := 0, ctxMask := 0, rights := 0, cls := .auto }
  if !holdsPool v then (St.unlicensed, none_)
  else if f.kind = Kind.rmem ∧ !holdsChorus v then (St.unlicensed, none_)
  else if !inOneLine f then (St.badarg, none_)
  else
    match carveAt v f.offset (accessLen f) with
    | none => (St.badarg, none_)
    | some (_, c) => if v.sec.parts != 0 && !carveAdmits c f.ctx (rightOf f) then (St.denied, c) else (St.ok, c)

/-- The partition that a strike must name for this request (R204): its sender's, or the carve's. -/
def struckRequest (s : State) (f : Flit) : Bool :=
  s.itv.sec.struck != 0 &&
    (s.itv.sec.struck.getLsbD (partOfSeat s (nodeSeat f.src)) ||
     (match partOfOffset s.itv f.offset with
      | some p => s.itv.sec.struck.getLsbD p
      | none => false))

/-- How a request ends at the home: a reply; dropped, to be performed by a re-send; or a mismatch of duplicated units. -/
inductive HomeEnd where
  | reply (f : Flit)
  | lost
  | mismatch (c : PoolCtr)
  deriving DecidableEq, Repr

def endHome (s : State) (f : Flit) : HomeEnd → State
  | .reply r => itvSend s r
  | .lost => unmark s .itv f
  | .mismatch c => unmark (unitMismatch s c) .itv f

/-- What the checked hardware met, where the request needs the content of block `b`: the block is lost (R478), or units
disagree (R623). -/
def hwMet (s : State) (f : Flit) (hw : HomeHw) (arith : Bool) (needs : Bool) : State × Option HomeEnd :=
  match hw with
  | .uncorrectable => if needs then (poisonBlock s (f.offset / 64), some .lost) else (s, none)
  | .xtsMismatch => (s, some (.mismatch .xtsMismatch))
  | .arithMismatch => if arith then (s, some (.mismatch .homeArith)) else (s, none)
  | .ok => (s, none)

/-! ## LOAD, STORE, BULK (R191, R192) -/

def poolLoad (s : State) (f : Flit) (c : Carve) (hw : HomeHw) : State :=
  let n := accessLen f
  let s := touch s f.offset n
  match hwMet s f hw false true with
  | (s, some e) => endHome s f e
  | (s, none) =>
    match poolRead s.itv c.part f.offset n with
    | .ok d => itvSend s (dataFor f St.ok d)
    | .nokey => itvSend s (refusalFor f St.nokey)
    | .poison => unmark s .itv f

/-- Bytes, first offset and mask that a STORE or a BULK writes: a STORE's mask counts within its OFFSET and SIZE. -/
def storeBytes (f : Flit) : Nat × Bytes × Nat :=
  if f.kind = Kind.bulk then (f.offset, slice f.payload 16 f.len, fullMask f.len)
  else
    let n := accessLen f
    (f.offset, slice f.payload (16 + f.offset % 128) n, f.mask.toNat / 2 ^ (f.offset % 128) % 2 ^ n)

/-- Some block of the write is only partly covered by its mask: its content is needed (R478). -/
def needsContent (off n mask : Nat) : Bool :=
  (List.range (blocksOf off n).length).any (fun i => let m := blockMask mask off i
    m != 0 && m != 2 ^ 64 - 1)

def poolStore (s : State) (f : Flit) (c : Carve) (hw : HomeHw) : State :=
  let (off, d, mask) := storeBytes f
  let s := touch s off d.length
  match hwMet s f hw false (needsContent off d.length mask) with
  | (s, some e) => endHome s f e
  | (s, none) =>
    match poolWrite s.itv c.part off d mask with
    | (v, .ok _) => itvSend { s with itv := v } (doneFor f St.ok)
    | (_, .nokey) => itvSend s (doneFor f St.nokey)
    | (_, .poison) => unmark s .itv f

/-- The answer to a duplicate STORE, RMEM or BULK: rights and keys afresh (R192). -/
def freshStatus (s : State) (f : Flit) (c : Carve) : Flit :=
  if (curKey (poolKeysOf s.itv c.part)).isNone then doneFor f St.nokey else doneFor f St.ok

/-! ## ATOMIC and RMEM (R263, R264, R382, R383) -/

def poolAtomic (s : State) (f : Flit) (c : Carve) (hw : HomeHw) : State :=
  let n := accessLen f
  if !atomicOk f.aop n f.offset then itvSend (keepAtomic s .itv f (zeros 16) St.badarg) (refusalFor f St.badarg)
  else
    let s := touch s f.offset n
    match hwMet s f hw true true with
    | (s, some e) => endHome s f e
    | (s, none) =>
      let done := fun (s : State) (st : Nat) (old : Bytes) => itvSend (keepAtomic s .itv f old st) (oldFor f st old)
      match poolRead s.itv c.part f.offset n with
      | .poison => unmark s .itv f
      | .nokey => done s St.nokey (zeros 16)
      | .ok old =>
        let w := 2 ^ (8 * n)
        let new := atomicNew f.aop n (leNat old) (f.opA % w) (f.opB % w)
        if f.aop = 0x02 ∧ leNat old ≠ f.opB % w then done s St.ok (pad 16 old)
        else
          match poolWrite s.itv c.part f.offset (leBytes n new) (fullMask n) with
          | (v, .ok _) => done { s with itv := v } St.ok (pad 16 old)
          | (_, .nokey) => done s St.nokey (zeros 16)
          | (_, .poison) => unmark s .itv f

/-- FMT, OPR, SIZE and OFFSET of an RMEM (R382, R383). -/
def rmemOk (f : Flit) : Bool :=
  if f.fmt < 128 then rmemPlainOk f.fmt f.opr else rmemLedgerOk f.fmt f.opr (accessLen f)

def rmemNew (f : Flit) (old : Bytes) : Bytes :=
  if f.fmt < 128 then rmemPlain f.fmt f.opr old (slice f.payload 16 old.length) else rmemLedger f.fmt old (slice f.payload 16 128)

def poolRmem (s : State) (f : Flit) (c : Carve) (hw : HomeHw) : State :=
  let n := accessLen f
  if !rmemOk f then itvSend s (doneFor f St.badarg)
  else
    let s := touch s f.offset n
    match hwMet s f hw true true with
    | (s, some e) => endHome s f e
    | (s, none) =>
      match poolRead s.itv c.part f.offset n with
      | .poison => unmark s .itv f
      | .nokey => itvSend s (doneFor f St.nokey)
      | .ok old =>
        match poolWrite s.itv c.part f.offset (rmemNew f old) (fullMask n) with
        | (v, .ok _) => itvSend { s with itv := v } (doneFor f St.ok)
        | (_, .nokey) => itvSend s (doneFor f St.nokey)
        | (_, .poison) => unmark s .itv f

/-! ## Doorways (R457 to R460, R464) -/

inductive Door where
  | alloc | handOn | free
  deriving DecidableEq, Repr

/-- The doorway that an ATOMIC to the control page of wardrobe `w` names. -/
def doorAt (w : Wardrobe) (f : Flit) : Option Door :=
  if f.kind ≠ Kind.atomic ∨ f.aop ≠ 0x01 then none
  else
    match f.offset - controlPage w, accessLen f with
    | 0x000, 8 => some .alloc
    | 0x100, 16 => some .handOn
    | 0x200, 8 => some .free
    | _, _ => none

/-- The result word of R458. -/
def doorWord (result pool off : Nat) : Bytes := leBytes 8 (result * 2 ^ 52 + pool * 2 ^ 48 + off) ++ zeros 8

def callerOf (f : Flit) : BitVec 16 × BitVec 16 := (f.src, f.ctx)

/-- A buffer that its caller owns, a foreign one, or an offset that starts none (R454, R459). -/
def doorBuffer (w : Wardrobe) (f : Flit) : Option (Nat × Nat × Bool) :=
  (bufAt w (f.opA % 2 ^ 48)).map (fun (b : Nat × Nat) => (b.1, b.2, kget w.owners (ownKey b.1 b.2) == some (callerOf f)))

/-- A node that may own a buffer: a seat of the house. -/
def ownerSeat (v : Itvos) (n : BitVec 16) : Bool :=
  houseSeat v n && decide (nodeSeat n < (if formOf v = 0 then 72 else 48))

/-- A doorway request of wardrobe `k`: status and result. -/
def doorAct (s : State) (k : Nat) (w : Wardrobe) (f : Flit) (d : Door) : State × Nat × Bytes :=
  let bad := (s, St.badarg, zeros 16)
  let a := f.opA
  match d with
  | .alloc =>
    if a % 2 ^ 64 / 2 ^ 32 ≠ 0 ∨ a % 2 ^ 32 = 0 ∨ a % 2 ^ 32 > 4194304 then bad
    else
      (match wardAlloc s k (a % 2 ^ 32) (callerOf f) with
       | (s, some (p, i)) => (s, St.ok, doorWord 0 p (bufOffset w p i))
       | (s, none) => (s, St.ok, doorWord 1 (poolFor (a % 2 ^ 32)) 0))
  | .handOn =>
    let node := BitVec.ofNat 16 (a / 2 ^ 64)
    let ctx := BitVec.ofNat 16 (a / 2 ^ 80)
    if a % 2 ^ 64 / 2 ^ 48 ≠ 0 ∨ a / 2 ^ 96 ≠ 0 ∨ !ownerSeat s.itv node ∨
        (s.itv.sec.parts ≠ 0 ∧ ctx.toNat / 4096 ≠ k) then bad
    else
      (match doorBuffer w f with
       | none => bad
       | some (p, i, true) =>
         ({ s with itv.wards := kset s.itv.wards k { w with owners := kset w.owners (ownKey p i) (node, ctx) } }, St.ok,
          doorWord 0 p (bufOffset w p i))
       | some (p, i, false) => (bumpWard s k p 2, St.ok, doorWord 2 p (bufOffset w p i)))
  | .free =>
    if a % 2 ^ 64 / 2 ^ 48 ≠ 0 then bad
    else
      (match doorBuffer w f with
       | none => bad
       | some (p, i, true) => (wardFree s k p i, St.ok, doorWord 0 p (bufOffset w p i))
       | some (p, i, false) => (bumpWard s k p 2, St.ok, doorWord 2 p (bufOffset w p i)))

/-- A request to a control page: a doorway, or BADARG (R457). -/
def doorwayReq (s : State) (k : Nat) (f : Flit) : State :=
  match kget s.itv.wards k with
  | none => itvSend s (refusalFor f St.badarg)
  | some w =>
    match doorAt w f with
    | none => itvSend s (refusalFor f St.badarg)
    | some d =>
      let (s, st, old) := doorAct (touch s f.offset (accessLen f)) k w f d
      itvSend (keepAtomic s .itv f old st) (oldFor f st old)

/-! ## One request at the pool home -/

/-- A new request, admitted. -/
def poolPerform (s : State) (f : Flit) (c : Carve) (hw : HomeHw) : State :=
  match doorwayOf s.itv f.offset with
  | some k => doorwayReq s k f
  | none =>
    if f.kind = Kind.load then poolLoad s f c hw
    else if f.kind = Kind.atomic then poolAtomic s f c hw
    else if f.kind = Kind.rmem then poolRmem s f c hw
    else poolStore s f c hw

/-- A duplicate other than an ATOMIC, admitted (R192). -/
def poolDuplicate (s : State) (f : Flit) (c : Carve) (hw : HomeHw) : State :=
  if f.kind = Kind.load then poolPerform s f c hw
  else if (doorwayOf s.itv f.offset).isSome then itvSend s (doneFor f St.badarg)
  else itvSend s (freshStatus s f c)

/-- A lost flow's request of a tenant that is struck is answered all the same (R640). -/
def lostStruck (s : State) (f : Flit) : Bool := lostFlow s .itv f && struckRequest s f

def poolServe (s : State) (f : Flit) (hw : HomeHw) : State :=
  if lostStruck s f then itvSend (strikeDrop s (partOfSeat s (nodeSeat f.src))) (refusalFor f St.struck)
  else
  match arriveFlow s .itv f with
  | (s, none) => s
  | (s, some fresh) =>
    if struckRequest s f then itvSend (strikeDrop s (partOfSeat s (nodeSeat f.src))) (refusalFor f St.struck)
    else if f.kind ≠ Kind.bulk ∧ domainHit s f then itvSend s (refusalFor f St.domainDown)
    else if f.kind = Kind.atomic ∧ !fresh then
      (match ringOf s .itv f with
       | some r => itvSend s (oldFor f r.status r.old)
       | none => s)
    else
      let (st, c) := poolAdmit s.itv f
      if st ≠ St.ok then
        itvSend (if f.kind = Kind.atomic then keepAtomic s .itv f (zeros 16) st else s) (refusalFor f st)
      else if fresh then poolPerform s f c hw
      else poolDuplicate s f c hw

/-- A request that the directory passed to this home, of kind `k`. -/
def fromHome (s : State) (f : Flit) (k : BitVec 5) (hw : HomeHw) : State :=
  if f.kind = k ∧ s.itv.dir.home.contains f then poolServe (modDir s (fun d => { d with home := d.home.erase f })) f hw else s

/-- A doorway request of one kind. -/
def doorOp (s : State) (f : Flit) (d : Door) : State :=
  match (doorwayOf s.itv f.offset).bind (kget s.itv.wards) with
  | some w => if doorAt w f = some d then fromHome s f Kind.atomic .ok else s
  | none => s
def execAlloc (f : Flit) (s : State) : Res := .next (doorOp s f .alloc)
def execHandOn (f : Flit) (s : State) : Res := .next (doorOp s f .handOn)
def execFree (f : Flit) (s : State) : Res := .next (doorOp s f .free)

/-- FREE_CACHE_REFILL (R461). -/
def freeCacheRefillOp (s : State) (w : Fin 17) (pool : Fin 8) : State :=
  match kget s.itv.wards w.val with
  | some x => { s with itv.wards := kset s.itv.wards w.val (cacheTurn x pool.val) }
  | none => s
def execFreeCacheRefill (w : Fin 17) (pool : Fin 8) (s : State) : Res := .next (freeCacheRefillOp s w pool)

/-- BULK to the pool (R230). -/
def poolBulk (s : State) (f : Flit) (hw : HomeHw) : State :=
  if f.kind = Kind.bulk then fromInbox s .itv f (fun s => poolServe s f hw) else s

/-- BULK_MSG and PMSG to the pool (R230): BADARG, and nothing written. -/
def poolMsg (s : State) (f : Flit) (k : BitVec 5) : State :=
  if f.kind = k then
    fromInbox s .itv f (fun s =>
      match arriveFlow s .itv f with
      | (s, none) => if lostStruck s f then itvSend (strikeDrop s (partOfSeat s (nodeSeat f.src))) (doneFor f St.struck) else s
      | (s, some _) =>
        if s.itv.sec.struck.getLsbD (partOfSeat s (nodeSeat f.src)) then itvSend (strikeDrop s (partOfSeat s (nodeSeat f.src))) (doneFor f St.struck)
        else itvSend s (doneFor f St.badarg))
  else s

/-! ## Replies to this Itvos (R182, R265, R278) -/

def itvComplete (s : State) (p : Purpose) (status : Nat) (reply : Option Flit) : State :=
  match p with
  | .mergedStore id => mergedDone s id status
  | .combined id => combinedDone s id status reply
  | _ => s

def itvReply (s : State) (f : Flit) (k : BitVec 5) : State :=
  if f.kind = k then
    fromInbox s .itv f (fun s =>
      match acceptReply s .itv f with
      | (s, some o) => itvComplete s o.purpose f.status (some f)
      | (s, none) => s)
  else s

end Sys2Proof.Machine
end

