-- ==== Sys2Proof/Machine/BelugHome.lean ====
section
/-! DEFINITION. The seat as a home: fabric requests to its memory (R181, R184, R190 to R193, R204, R230, R232, R263, R382, R513,
R520, R521), messages, and the answers of the accelerator's memory (R507, R511, R532). -/

namespace Sys2Proof.Machine

open Sys2Proof

/-! ## Admission (R230, R232, R233) -/

/-- Field of an entry of the export table. -/
def exportField (b : Belug) (e a n : Nat) : Nat := leNat (memRead b.tables (0x1000 + 0x20 * e + a) n)

/-- An export entry admits bytes `off` to `off + n - 1` to a context for a right. -/
def exportAdmits (b : Belug) (e off n : Nat) (ctx : BitVec 16) (right : Nat) : Bool :=
  let rights := exportField b e 20 1
  bitOf rights 7 && bitOf rights right && decide (exportField b e 0 8 ≤ off) && decide (off + n ≤ exportField b e 8 8) &&
    (ctx ^^^ BitVec.ofNat 16 (exportField b e 16 2)) &&& BitVec.ofNat 16 (exportField b e 18 2) == 0

/-- The status that refuses a request to this seat's memory, OK where it is admitted. -/
def seatAdmit (b : Belug) (f : Flit) : Nat :=
  let n := accessLen f
  if !inOneLine f then St.badarg
  else if b.window.toNat * 65536 < f.offset + n then St.badarg
  else if f.ctx != 0 && !(List.range 256).any (fun e => exportAdmits b e f.offset n f.ctx (rightOf f)) then St.denied
  else if f.kind = Kind.atomic ∧ f.aop ≠ aopClaim ∧ !atomicOk f.aop n f.offset then St.badarg
  else if f.kind = Kind.rmem ∧ !(decide (f.fmt < 128) && rmemPlainOk f.fmt f.opr) then St.badarg
  else St.ok

/-! ## Answers (R153, R184) -/

/-- The answer to a request in service; it is not sent when SERVICE_LIMIT has passed. -/
def answerHere (s : State) (f : Flit) (port : Nat) (r : Flit) : State :=
  match (getIn s .blg f).serving.find? (fun x => x.1 == f.seq.toNat) with
  | none => s
  | some x =>
    let s := endServing s .blg f
    if passed s x.2 200001 then s else blgSend s port r

/-- The answer at once. -/
def answerNow (s : State) (f : Flit) (port status : Nat) : State :=
  blgSend (if f.kind = Kind.atomic then keepAtomic s .blg f (zeros 16) status else s) port (refusalFor f status)

/-! ## Performing (R511, R513) -/

/-- The lines of its memory that a request touches. -/
def linesOf (f : Flit) : List Nat :=
  (List.range ((f.offset + accessLen f + 127) / 128 - f.offset / 128)).map (f.offset / 128 + ·)
def lineBusy (s : State) (f : Flit) : Bool := (linesOf f).any s.blg.rmemBusy.contains

/-- A request admitted and new, or a LOAD: it goes to the accelerator's memory, or waits for an RMEM of its line. -/
def performHere (s : State) (f : Flit) (port : Nat) : State :=
  if lineBusy s f then { s with blg.rmemWait := s.blg.rmemWait ++ [(f, port)] }
  else if f.kind = Kind.load then lmemRead s f.offset f.sizeCode (.serve f port 0)
  else if f.kind = Kind.atomic then
    lmemAtomic s f.offset (BitVec.ofNat 8 f.aop) (BitVec.ofNat 8 f.sizeCode) 2 f.opA f.opB (.serve f port 0)
  else if f.kind = Kind.rmem then
    lmemReadLine { s with blg.rmemBusy := s.blg.rmemBusy ++ [f.offset / 128] } f.offset (.rmemRead f port)
  else if f.kind = Kind.store then
    let (_, d, mask) := storeBytes f
    lmemWriteLine s (f.offset / 128) (zeros (f.offset % 128) ++ d) (mask * 2 ^ (f.offset % 128)) (.serve f port 0)
  else lmemWrite s f.offset (slice f.payload 16 f.len) (.serve f port 0)

/-- An RMEM of a line ends: the requests that waited go on. -/
def freeLine (s : State) (line : Nat) : State :=
  let ws := s.blg.rmemWait
  ws.foldl (fun s w => performHere s w.1 w.2)
    { s with blg.rmemBusy := s.blg.rmemBusy.filter (· != line), blg.rmemWait := [] }

/-- A message into a rendezvous buffer (R521): the status that refuses it; none where its entry is not armed. -/
def rdvField (b : Belug) (i a n : Nat) : Nat := leNat (memRead b.tables (0x5000 + 0x10 * i + a) n)
def rdvOf (f : Flit) : Nat := natAt f.payload 0 2
def msgOffset (f : Flit) : Nat := natAt f.payload 2 4
def rdvAdmit (b : Belug) (f : Flit) : Option Nat :=
  let i := rdvOf f
  if 512 ≤ i then some St.badarg
  else if !bitOf (rdvField b i 0 8) 63 then none
  else if f.len = 0 ∨ 208 < f.len ∨ rdvField b i 8 4 < msgOffset f + f.len then some St.badarg
  else some St.ok
def rdvBase (b : Belug) (i : Nat) : Nat := rdvField b i 0 6

/-- A PMSG goes to the apron. -/
def pmsgIn (s : State) (f : Flit) : State :=
  sendApron s (upChannel s s.blg.pmsgChannel.toNat)
    { typ := 0x34, tail := putAt (zeros 48) 0 (leBytes 2 f.src.toNat ++ leBytes 1 f.len), data := pad 64 (slice f.payload 16 f.len) }

/-! ## One request at the seat -/

def serveMem (s : State) (f : Flit) (port : Nat) (fresh : Bool) (hw : HomeHw) : State :=
  if f.kind = Kind.atomic ∧ !fresh then
    match ringOf s .blg f with
    | some r => blgSend s port (oldFor f r.status r.old)
    | none => s
  else
    let st := seatAdmit s.blg f
    if st ≠ St.ok then answerNow s f port st
    else if f.kind = Kind.atomic ∧ f.aop = aopClaim then answerNow s f port St.ok
    else if !fresh ∧ f.kind ≠ Kind.load then blgSend s port (doneFor f St.ok)
    else if f.kind = Kind.rmem ∧ hw = .arithMismatch then unmark (bumpBC s .homeArith) .blg f
    else performHere (beginServing s .blg f) f port

def serveBulkMsg (s : State) (f : Flit) (port : Nat) (fresh : Bool) : State :=
  match rdvAdmit s.blg f with
  | none => unmark (bumpBC s .rdvUnarmed) .blg f
  | some st =>
    if st ≠ St.ok ∨ !fresh then blgSend s port (doneFor f st)
    else lmemWrite (beginServing s .blg f) (rdvBase s.blg (rdvOf f) + msgOffset f) (slice f.payload 16 f.len) (.serve f port 0)

def servePmsg (s : State) (f : Flit) (port : Nat) (fresh : Bool) : State :=
  if f.len = 0 ∨ 64 < f.len then blgSend s port (doneFor f St.badarg)
  else blgSend (if fresh then pmsgIn s f else s) port (doneFor f St.ok)

/-- A request of kind `k` delivered to Belug. -/
def seatRequest (s : State) (f : Flit) (k : BitVec 5) (hw : HomeHw) : State :=
  if f.kind ≠ k then s
  else
    match takeFirst (fun (x : Flit × Nat × Nat) => x.1 == f) s.blg.inbox with
    | none => s
    | some ((_, _, port), rest) =>
      match arriveFlow { s with blg.inbox := rest } .blg f with
      | (s, none) => s
      | (s, some fresh) =>
        if !fresh && inService s .blg f then s
        else if s.blg.struck.isSome then answerNow s f port St.struck
        else if k = Kind.bulkMsg then serveBulkMsg s f port fresh
        else if k = Kind.pmsg then servePmsg s f port fresh
        else serveMem s f port fresh hw

/-! ## What the accelerator's memory answers (R507, R511) -/

/-- STATUS of the answer, as a reply carries it. -/
def lmemStatus (m : ApronMsg) : Nat := if m.ctx.toNat % 256 = 0 then St.ok else St.badarg

/-- A request of the fabric has its memory's answer: one line of it, then the reply. -/
def serveAnswer (s : State) (f : Flit) (port bad status : Nat) (data : Bytes) : State :=
  let st := if bad = 0 then status else bad
  let same := fun (r : LReq) => match r.why with
    | .serve g p _ => g == f && p == port
    | _ => false
  if s.blg.lmem.any same then
    { s with blg.lmem := s.blg.lmem.map (fun r => if same r then { r with why := .serve f port st } else r) }
  else if !inService s .blg f then s
  else if f.kind = Kind.load then answerHere s f port (if st = 0 then dataFor f st (data.take (accessLen f)) else refusalFor f st)
  else if f.kind = Kind.atomic then
    let old := if st = 0 then pad 16 (data.take (accessLen f)) else zeros 16
    answerHere (keepAtomic s .blg f old st) f port (oldFor f st old)
  else if f.kind = Kind.bulkMsg then
    let i := rdvOf f
    let s := tallyAdd s (rdvField s.blg i 12 2 % 4096) st
    answerHere (if bitOf (rdvField s.blg i 14 1) 0 && f.last then raiseIrq s Irq.rdv else s) f port (doneFor f st)
  else answerHere s f port (doneFor f st)

/-- The line of an RMEM is read (R513): the reduction, then the write. -/
def rmemReadDone (s : State) (f : Flit) (port status : Nat) (line : Bytes) : State :=
  let n := accessLen f
  let p := f.offset % 128
  if status ≠ 0 then freeLine (answerHere s f port (doneFor f status)) (f.offset / 128)
  else
    lmemWriteLine s (f.offset / 128) (zeros p ++ rmemPlain f.fmt f.opr (slice line p n) (slice f.payload 16 n))
      ((2 ^ n - 1) * 2 ^ p) (.rmemWrite f port)

def ownRmemReadDone (s : State) (op : AOp) (status : Nat) (line : Bytes) : State :=
  if status ≠ 0 then freeLine (endApron s op status 0 []) (opLine op)
  else
    lmemWriteLine s (opLine op) (rmemPlain op.m.b7.toNat op.m.opt.toNat line (op.m.data.take 128)) (2 ^ 128 - 1) (.ownRmemWrite op)

/-! ## Translations that waited for a walk -/

/-- Any unit's translation ends. -/
def resumeXlat (s : State) (w : XWait) (r : XRes) : State :=
  match w.for_ with
  | .apron op => apronXlat s op w r
  | .source n slot id part => sourceXlat s n slot id part w r
  | .dest n slot id => if w.op = .ctxOnly then pmsgXlat s n slot id w r else destXlat s n slot id w r
  | .range op va => let (s, next) := rangePage s op va r
                    rangeFrom s op next (rangeFuel op)
  | .post op => postXlat s op w r

/-! ## LMEM_RSP -/

def lmemDone (s : State) (why : LFor) (status : Nat) (data : Bytes) : State :=
  match why with
  | .walk id =>
    let (s, rs) := walkAnswer s id status data
    rs.foldl (fun s (x : XWait × XRes) => resumeXlat s x.1 x.2) s
  | .apronLocal op => endApron s op status 0 (if status = 0 then data.take (opSize op) else [])
  | .source n slot id part => partDone s n slot id part status data
  | .destWrite n slot id => pieceEnd s n slot id status
  | .serve f port bad => serveAnswer s f port bad status data
  | .rmemRead f port => rmemReadDone s f port status data
  | .rmemWrite f port => freeLine (answerHere s f port (doneFor f status)) (f.offset / 128)
  | .ownRmemRead op => ownRmemReadDone s op status data
  | .ownRmemWrite op => freeLine (endApron s op status 0 []) (opLine op)
  | .faultRecord => s

def lmemRspOp (s : State) (ch : Fin 24) (m : ApronMsg) : State :=
  if m.typ ≠ 0x18 ∨ !(getCh s ch.val).up then s
  else
    let s := takeWords s ch.val m
    match takeFirst (fun (r : LReq) => r.tag == m.tag.toNat && r.ch == ch.val) s.blg.lmem with
    | none => s
    | some (r, rest) => settle (lmemDone { s with blg.lmem := rest } r.why (lmemStatus m) (pad 128 m.data))
def execLmemRsp (ch : Fin 24) (m : ApronMsg) (s : State) : Res := .next (lmemRspOp s ch m)

/-! ## Rows with a home on each side -/

def execLoad (side : Side) (f : Flit) (hw : HomeHw) (s : State) : Res :=
  .next (match side with
    | .itv => fromHome s f Kind.load hw
    | .blg => settle (seatRequest s f Kind.load hw))
def execStore (side : Side) (f : Flit) (hw : HomeHw) (s : State) : Res :=
  .next (match side with
    | .itv => fromHome s f Kind.store hw
    | .blg => settle (seatRequest s f Kind.store hw))
def execAtomic (side : Side) (f : Flit) (hw : HomeHw) (s : State) : Res :=
  .next (match side with
    | .itv => fromHome s f Kind.atomic hw
    | .blg => settle (seatRequest s f Kind.atomic hw))
def execRmem (side : Side) (f : Flit) (hw : HomeHw) (s : State) : Res :=
  .next (match side with
    | .itv => fromHome s f Kind.rmem hw
    | .blg => settle (seatRequest s f Kind.rmem hw))
def execBulk (side : Side) (f : Flit) (hw : HomeHw) (s : State) : Res :=
  .next (match side with
    | .itv => poolBulk s f hw
    | .blg => settle (seatRequest s f Kind.bulk hw))
def execBulkMsg (side : Side) (f : Flit) (s : State) : Res :=
  .next (match side with
    | .itv => poolMsg s f Kind.bulkMsg
    | .blg => settle (seatRequest s f Kind.bulkMsg .ok))
def execPmsg (side : Side) (f : Flit) (s : State) : Res :=
  .next (match side with
    | .itv => poolMsg s f Kind.pmsg
    | .blg => settle (seatRequest s f Kind.pmsg .ok))

/-! ## DATA, DONE, and requests without an answer -/

def blgReply (s : State) (f : Flit) (k : BitVec 5) : State :=
  if f.kind = k then
    fromInbox s .blg f (fun s =>
      match acceptReply s .blg f with
      | (s, some o) => blgComplete s o f.status (some f)
      | (s, none) => s)
  else s
def execData (side : Side) (f : Flit) (s : State) : Res :=
  .next (match side with
    | .itv => itvReply s f Kind.data
    | .blg => settle (blgReply s f Kind.data))
def execDone (side : Side) (f : Flit) (s : State) : Res :=
  .next (match side with
    | .itv => itvReply s f Kind.done
    | .blg => settle (blgReply s f Kind.done))

/-- RESEND_TIMEOUT (R188, R189). -/
def resendTimeoutOp (s : State) (side : Side) (node : BitVec 16) (seq : BitVec 20) : State :=
  match resendOrEnd s side node.toNat seq.toNat with
  | (s, none) => s
  | (s, some o) => match side with
    | .itv => itvComplete s o.purpose St.timeout none
    | .blg => settle (blgComplete s o St.timeout none)
def execResendTimeout (side : Side) (node : BitVec 16) (seq : BitVec 20) (s : State) : Res := .next (resendTimeoutOp s side node seq)

/-- HOME_WAIT_TIMEOUT (R156). -/
def homeWaitTimeoutOp (s : State) (node : BitVec 16) (seq : BitVec 20) : State :=
  match waitOrEnd s node.toNat seq.toNat with
  | (s, none) => s
  | (s, some o) => settle (blgComplete s o St.timeout none)
def execHomeWaitTimeout (node : BitVec 16) (seq : BitVec 20) (s : State) : Res := .next (homeWaitTimeoutOp s node seq)

/-! ## SERVICE_LATE (R184) -/

def isReply (f : Flit) : Bool := f.kind == Kind.data || f.kind == Kind.done
def lateReply (s : State) (node : BitVec 16) (seq : BitVec 20) (f : Flit) (at_ : Nat) : Bool :=
  isReply f && f.dst == node && f.seq == seq && passed s at_ 200001

/-- A reply not sent 200 µs after its request arrived is not sent. R631 gives Belug no counter of these. -/
def serviceLateOp (s : State) (side : Side) (node : BitVec 16) (seq : BitVec 20) : State :=
  match side with
  | .itv =>
    match takeFirst (fun (l : Landed) => l.own && lateReply s node seq l.flit l.at_) s.itv.core.internal with
    | some (_, rest) => bumpDel { s with itv.core.internal := rest } .serviceLate
    | none => s
  | .blg =>
    let fl := kgetD s.blg.inflows node.toNat {}
    if fl.serving.any (fun x => x.1 == seq.toNat && passed s x.2 200001) then
      setInflows s .blg (kset s.blg.inflows node.toNat { fl with serving := fl.serving.filter (fun x => x.1 != seq.toNat) })
    else
      let late := fun (q : QEntry) => q.own && lateReply s node seq q.flit q.at_
      match (List.range 24).find? (fun p => (blgPort s p).outq.any late) with
      | some p => modBlgPort s p (fun q => match takeFirst late q.outq with
          | some (_, rest) => { q with outq := rest }
          | none => q)
      | none => s
def execServiceLate (side : Side) (node : BitVec 16) (seq : BitVec 20) (s : State) : Res := .next (serviceLateOp s side node seq)

/-! ## INV and FWD (R258, R260) -/

def invOp (s : State) (f : Flit) : State :=
  if f.kind = Kind.inv then settle (fromInbox s .blg f (fun s => applyInv s f)) else s
def execInv (f : Flit) (s : State) : Res := .next (invOp s f)
def fwdOp (s : State) (f : Flit) : State :=
  if f.kind = Kind.fwd then settle (fromInbox s .blg f (fun s => applyFwd s f)) else s
def execFwd (f : Flit) (s : State) : Res := .next (fwdOp s f)

end Sys2Proof.Machine
end

