-- ==== Sys2Proof/Machine/Callboard.lean ====
section
/-! DEFINITION. The callboard hardware, the interrupt block, the mirror and the CXL interface (R535 to R561). -/

namespace Sys2Proof.Machine

open Sys2Proof

/-- UNKNOWN_COMMAND (R547, R562): a CODE outside the catalogue ends with BADARG and DETAIL 0xFFFF. -/
def unknownCommandOp (s : State) (n : Fin 8) : State :=
  if waitsIn s n.val && accepting s && (rowOf (getSlot s n.val).code.toNat).isNone then
    completeSlot (acceptSlot s n.val) n.val { status := St.badarg, detail := 0xFFFF }
  else s
def execUnknownCommand (slot : Fin 8) (s : State) : Res := .next (unknownCommandOp s slot)

/-- Commands that greenroom accepts on slot 0 (R721); reset-partial at level 5 only. -/
def greenAllowed (s : State) (n : Nat) : Bool :=
  let x := getSlot s n
  n == 0 && ([0x0001, 0x0601, 0x0602, 0x0702].contains x.code.toNat ||
    (x.code.toNat == 0x0501 && byteAt (slotPayload s n) 0 == 5))

/-- CALLBOARD_HW_ANSWER (R556, R557, R681): BUSY during switchover and before Yalny starts; in greenroom DENIED for what it does
not accept. -/
def hwAnswerOp (s : State) (n : Fin 8) : State :=
  let early := s.itv.boot.mode == .starting && !s.itv.boot.yalny
  let busy := s.itv.boot.mode == .switching || early
  let green := s.itv.boot.mode == .greenroom && !greenAllowed s n.val
  if waitsIn s n.val && (busy || green) then
    let s := modSlot s n.val (fun x => { x with seqEcho := x.seq.setWidth 32 })
    completeSlot s n.val { status := if green then St.denied else St.busy }
  else s
def execCallboardHwAnswer (slot : Fin 8) (s : State) : Res := .next (hwAnswerOp s slot)

/-- TIMEOUT with APPLIED (R547). -/
def timeoutReply (applied : Bool) : Reply := { status := St.timeout, detail := if applied then 0x8000 else 0 }

/-- COMMAND_TIMEOUT (R555): a command still running at its bound. -/
def commandTimeoutOp (s : State) (n : Fin 8) (applied : Bool) : State :=
  match (getSlot s n.val).running, rowOf (getSlot s n.val).code.toNat with
  | some t, some row => if passed s t (row.bound * 1000000) then completeSlot s n.val (timeoutReply applied) else s
  | _, _ => s
def execCommandTimeout (slot : Fin 8) (applied : Bool) (s : State) : Res := .next (commandTimeoutOp s slot applied)

/-! ## Interrupt block (R543, R544) -/

/-- The pending message of an unmasked entry goes once the link is up. -/
def flushVector (s : State) (v : Nat) : State :=
  match s.itv.cb.msix[v]? with
  | none => s
  | some e =>
    if s.itv.cb.pba.getLsbD v && !e.masked && s.itv.cb.cxlUp then
      raiseVector { s with itv.cb.pba := setBit s.itv.cb.pba v false } v
    else s

/-- RW1C write to EVENT_CAUSE; ITV_ALERT_N rises with its last bit (R758). -/
def eventCauseWriteOp (s : State) (v : Word) : State :=
  let left := s.itv.cb.eventCause &&& ~~~ (v.setWidth 8)
  let s' := { s with itv.cb.eventCause := left }
  if s.itv.cb.eventCause != 0 && left = 0 then emit s' (.alert .itv false) else s'
def execEventCauseWrite (v : Word) (s : State) : Res := .next (eventCauseWriteOp s v)

def modMsix (s : State) (v : Nat) (f : MsixEntry → MsixEntry) : State :=
  if h : v < 16 then { s with itv.cb.msix := s.itv.cb.msix.set v (f (s.itv.cb.msix.get ⟨v, h⟩)) h } else s

/-- Unmasking an entry sends its pending message (R544). -/
def msixUnmaskOp (s : State) (v : Fin 16) : State := flushVector (modMsix s v.val (fun e => { e with masked := false })) v.val
def execMsixVectorUnmask (v : Fin 16) (s : State) : Res := .next (msixUnmaskOp s v)

/-! ## BAR0 (R540 to R552) -/

/-- A write to one slot's registers; while OWN is 1 it is ignored and counted (R552). -/
def slotWrite (s : State) (n off : Nat) (v : Word) : State :=
  if (getSlot s n).own then { s with itv.cb.cbIgnored := satAdd s.itv.cb.cbIgnored 1 }
  else
    modSlot s n (fun x =>
      if off = 0 then { x with own := v.getLsbD 63, len := v.extractLsb' 32 16 &&& 0x7FFF, code := v.extractLsb' 0 16 }
      else if off = 8 then { x with seq := v }
      else if 0x40 ≤ off then { x with payload := memWrite x.payload (off - 0x40) (leBytes 8 v.toNat) }
      else x)

/-- An 8-byte write to BAR0; reserved ranges and RO registers ignore it (R540). -/
def bar0Write (s : State) (addr : Nat) (v : Word) : State :=
  let a := addr / 8 * 8
  if 0x1000 ≤ a ∧ a < 0x1100 then
    let e := (a - 0x1000) / 16
    if a % 16 = 0 then modMsix s e (fun x => { x with addr := v })
    else flushVector (modMsix s e (fun x => { x with data := v.setWidth 32, masked := v.getLsbD 32 })) e
  else if a = 0x1C00 then eventCauseWriteOp s v
  else if a = 0x1C08 then { s with itv.cb.eventMask := v.setWidth 8 }
  else if 0x4000 ≤ a ∧ a < 0xC000 then slotWrite s ((a - 0x4000) / 0x1000) (a % 0x1000) v
  else s

/-- Chorus cores in service: four for each cluster neither retired nor in reset (R399, R676). -/
def coresInService (v : Itvos) : Nat :=
  if holdsChorus v then 4 * (18 - popcount (v.coll.retired ||| v.coll.resetting)) else 0

/-- Eight byte-wide entries of a map register (R676). -/
def mapWord (xs : List Nat) : Nat := leNat ((xs.take 8).map (BitVec.ofNat 8))
/-- PHYS with RETIRED in bit 7, of each logical cluster. -/
def clusterEntries (v : Itvos) : List Nat :=
  let m := if v.boot.clusterMap.isEmpty then v.fuse.clusterMap else v.boot.clusterMap
  (List.range 18).map (fun i => lget m i + 128 * b2n (v.coll.retired.getLsbD i))

/-- An 8-byte read of BAR0 (R540 to R545). -/
def bar0Read (s : State) (addr : Nat) : Word :=
  let a := addr / 8 * 8
  let m := s.itv.cb.mirror
  let code := if s.itv.fuse.gradeP then (0x502D32375654492D5644 : Nat) else 0x542D32375654492D5644
  let n := match a with
    | 0x00 => code % 2 ^ 64
    | 0x08 => code / 2 ^ 64
    | 0x10 => s.itv.fuse.letter.toNat * 256 + s.itv.fuse.digit.toNat
    | 0x18 => s.itv.fuse.serial.toNat
    | 0x20 => m.swid.toNat
    | 0x28 => m.held.toNat
    | 0x30 => m.firmware.toNat
    | 0x38 => m.state.toNat
    | 0x40 => m.pace.toNat
    | 0x48 => m.cueStatus.toNat
    | 0x50 => m.cueSnap.toNat
    | 0x58 => m.readyLo.toNat
    | 0x60 => m.readyHi.toNat
    | 0x68 => m.power.toNat
    | 0x70 => m.thermal.toNat
    | 0x78 => m.cxlLink.toNat
    | 0x80 => m.seq.toNat
    | 0x160 => s.itv.fuse.banks1 * 2 ^ 24 + s.itv.fuse.banks0 * 2 ^ 16 + coresInService s.itv
    | _ =>
      if 0x100 ≤ a ∧ a < 0x148 then mapWord (s.itv.fuse.portMap.drop (a - 0x100))
      else if 0x148 ≤ a ∧ a < 0x160 then mapWord ((clusterEntries s.itv).drop (a - 0x148))
      else if 0x1000 ≤ a ∧ a < 0x1100 then
        match s.itv.cb.msix[(a - 0x1000) / 16]? with
        | some e => if a % 16 = 0 then e.addr.toNat else e.data.toNat + b2n e.masked * 2 ^ 32
        | none => 0
      else if a = 0x1800 then s.itv.cb.pba.toNat
      else if a = 0x1C00 then s.itv.cb.eventCause.toNat
      else if a = 0x1C08 then s.itv.cb.eventMask.toNat
      else if 0x4000 ≤ a ∧ a < 0xC000 then
        let x := getSlot s ((a - 0x4000) / 0x1000)
        match a % 0x1000 with
        | 0 => b2n x.own * 2 ^ 63 + x.len.toNat * 2 ^ 32 + x.code.toNat
        | 8 => x.seq.toNat
        | 0x10 => x.seqEcho.toNat * 2 ^ 32 + x.detail.toNat * 2 ^ 16 + x.stCode.toNat
        | 0x18 => x.resultLen.toNat
        | o => if 0x40 ≤ o then leNat (memRead x.payload (o - 0x40) 8) else 0
      else 0
  BitVec.ofNat 64 n

/-! ## The mirror (R541, R542) -/

/-- A refresh: MIRROR_SEQ up by 1, the registers, MIRROR_SEQ up by 1 again. -/
def mirrorRefreshOp (s : State) : State :=
  if s.itv.boot.yalny then
    { s with itv.cb.mirror := { mirrorOf s.itv with seq := s.itv.cb.mirror.seq + 2 } }
  else s
def execMirrorRefresh (s : State) : Res := .next (mirrorRefreshOp s)

/-! ## CXL (R535 to R539, R558, R559, R679) -/

/-- A Function Level Reset (R558). -/
def flrOp (s : State) : State :=
  { s with itv.cb.busMaster := false, itv.cb.hdmCommitted := false, itv.cb.msix := Vector.replicate 16 {}, itv.cb.pba := 0,
           itv.cb.eventMask := 0 }
def execFunctionLevelReset (s : State) : Res := .next (flrOp s)

/-- PERST_N: asserted (low) it resets the CXL interface as a Function Level Reset does (R679). -/
def perstOp (s : State) (level : Bool) : State :=
  let s := { s with itv.cb.perst := level }
  if level then s else flrOp s
def execPerstN (level : Bool) (s : State) : Res := .next (perstOp s level)

/-- The CXL link goes down: nothing else changes (R537, R559). -/
def cxlLinkDownOp (s : State) : State := { s with itv.cb.cxlUp := false, itv.cb.cxlRate := 0, itv.cb.cxlWidth := 0 }
def execCxlLinkDown (s : State) : Res := .next (cxlLinkDownOp s)

/-- The link trains or returns: rate and width are reported, waiting messages go (R536, R544). -/
def cxlLinkUpOp (s : State) (rate width : Nat) : State :=
  let s := { s with itv.cb.cxlUp := true, itv.cb.cxlRate := rate, itv.cb.cxlWidth := width }
  (List.range 16).foldl flushVector s
def execCxlLinkUp (rate width : Nat) (s : State) : Res := .next (cxlLinkUpOp s rate width)

/-- A command on the CXL primary mailbox (R539; log 5). -/
def cxlMailboxOp (s : State) (op : Nat) (input : Bytes) : State := emit s (.mailbox (Config.mailboxAnswer op input))
def execCxlMailboxCommand (op : Nat) (input : Bytes) (s : State) : Res := .next (cxlMailboxOp s op input)

end Sys2Proof.Machine
end

