-- ==== Sys2Proof/Machine/BelugRegs.lean ====
section
/-! DEFINITION. Belug's configuration space (R221, R222, R233, R517, R518, R520, R523 to R526, R631, R677), its resets (R528)
and REGISTER_WRITE. -/

namespace Sys2Proof.Machine

open Sys2Proof

/-! ## Interrupt registers (R524, R526, R500) -/

/-- BELUG_ALERT_N follows the enabled causes. -/
def noteAlert (s0 s : State) : State :=
  if alertLow s0.blg = alertLow s.blg then s else emit s (.alert .blg (alertLow s.blg))

/-- INT_CAUSE: ones clear. -/
def intCauseWriteOp (s : State) (v : Word) : State := noteAlert s { s with blg.cause := s.blg.cause &&& ~~~(v.setWidth 8) }
def execIntCauseWrite (v : Word) (s : State) : Res := .next (intCauseWriteOp s v)

/-! ## Fabric settings (R524, R525) -/

/-- HOME_MAPk: all eight entries. -/
def homeMapWriteOp (s : State) (k : Nat) (v : Word) : State :=
  { s with blg.homeWritten := true,
           blg.homeMap := (List.range 24).map (fun i =>
             if i / 8 = k then v.toNat / 2 ^ (8 * (i % 8)) % 32 else s.blg.homeMap.getD i 0) }
def execHomeMapWrite (k : Fin 3) (v : Word) (s : State) : Res := .next (homeMapWriteOp s k.val v)

/-- Weights of VC1 to VC7, one byte each. -/
def vcWeights (v : Word) : List Nat := (List.range 7).map (fun i => v.toNat / 256 ^ i % 256)
/-- VC_WEIGHT. -/
def vcWeightWriteOp (s : State) (v : Word) : State :=
  let w := vcWeights v
  if w.sum ≠ 64 ∨ w.contains 0 then bumpBC s .cfgRefused else { s with blg.vcWeight := v.setWidth 56 }
def execVcWeightWrite (v : Word) (s : State) : Res := .next (vcWeightWriteOp s v)

/-- E2E_TIMEOUT: 100 to 100,000 µs; another value is refused as R525 refuses weights (log 51). -/
def e2eWriteOp (s : State) (v : Word) : State :=
  let us := v.toNat % 2 ^ 24
  if 100 ≤ us ∧ us ≤ 100000 then { s with blg.e2e := BitVec.ofNat 24 us } else bumpBC s .cfgRefused

/-! ## Tallies and tables (R517, R518, R233, R520, R533) -/

/-- A tally is written; the waits are judged against the value. -/
def tallyWriteOp (s : State) (t : Nat) (v : Word) : State :=
  tallyWaits { s with blg.tallies := kset s.blg.tallies t (packTally 0 0 v.toNat) } t
def execTallyWrite (t : Fin 4096) (v : Word) (s : State) : Res := .next (tallyWriteOp s t.val v)

/-- Field of an entry of the group table (R518). -/
def groupField (b : Belug) (g a n : Nat) : Nat := leNat (memRead b.groupMem (0x3000 + 0x20 * g + a) n)
def groupValid (b : Belug) (g : Nat) : Bool := bitOf (groupField b g 0 2) 15
def groupNumber (b : Belug) (g : Nat) : Nat := groupField b g 0 2 % 4096
def groupPlanes (b : Belug) (g : Nat) : BitVec 24 := BitVec.ofNat 24 (groupField b g 6 3)

/-- A word of an entry is written: LIVE of its group becomes PLANES. -/
def groupTableWriteOp (s : State) (g word : Nat) (v : Word) : State :=
  let s := { s with blg.groupMem := memWrite s.blg.groupMem (0x3000 + 0x20 * g + 8 * word) (leBytes 8 v.toNat) }
  { s with blg.live := kset s.blg.live (groupNumber s.blg g) (groupPlanes s.blg g) }
def execGroupTableWrite (g : Fin 256) (word : Fin 4) (v : Word) (s : State) : Res := .next (groupTableWriteOp s g.val word.val v)

/-! ## Translation registers (R221, R222) -/

def invSlotWrite (s : State) (n : Fin 4) (off : Nat) (v : Word) : State :=
  if (s.blg.invSlots.get n).own then s
  else
    modInvSlot s n (fun x =>
      if off = 0x00 then { x with own := v.getLsbD 63, irq := v.getLsbD 62, typ := v.extractLsb' 0 2 }
      else if off = 0x08 then { x with ctx := v.extractLsb' 0 16 }
      else if off = 0x10 then { x with va := v.extractLsb' 16 41 }
      else { x with pages := v.extractLsb' 0 41 })

def xlatWrite (s : State) (a : Nat) (v : Word) : State :=
  if a = 0x300 then { s with blg.ctxBase := v.extractLsb' 12 36 }
  else if a = 0x308 then { s with blg.ctxCount := v.extractLsb' 0 17 }
  else if a = 0x310 then { s with blg.window := v.extractLsb' 0 32 }
  else if a = 0x318 then { s with blg.faultBase := v.extractLsb' 12 36 }
  else if a = 0x320 then { s with blg.faultTail := v.extractLsb' 20 20, blg.faultLog2 := v.extractLsb' 0 4 }
  else if a = 0x328 then { s with blg.faultLost := v.extractLsb' 0 16 }
  else if h : 0x400 ≤ a ∧ a < 0x480 then invSlotWrite s ⟨(a - 0x400) / 0x20, by omega⟩ (a % 0x20) v
  else s

/-! ## Resets (R528) -/

/-- RESET_CTL level 2: BP re-rehearses. -/
def bpResetOp (s : State) (p : Fin 24) : State :=
  modPort (moveTo s (.blg p) .dark .none) (.blg p) (fun q => { q with waitMs := 0, redo := none })
def execBpReset (p : Fin 24) (s : State) : Res := .next (bpResetOp s p)

/-- Belug after a whole-chip reset: everything lost but fuses; which reference inputs run is the board's. -/
def resetBelug (b : Belug) (now : Nat) : Belug :=
  { fuse := b.fuse, resetAt := now, lostA := b.lostA, lostB := b.lostB, useB := b.lostA && !b.lostB, bothLost := b.bothLost }
def belugResetOp (s : State) : State := noteAlert s { s with blg := resetBelug s.blg s.now }
def execBelugReset (s : State) : Res := .next (belugResetOp s)
def execApronRstN (s : State) : Res := .next (belugResetOp s)

def execStagehandReset (n : Fin 32) (s : State) : Res := .next (settle (stagehandResetOp s n.val))

/-- RESET_CTL. -/
def resetCtlOp (s : State) (v : Word) : State :=
  let target := bits v.toNat 12 8
  match v.toNat % 4 with
  | 1 => stagehandResetOp s target
  | 2 => if h : target < 24 then bpResetOp s ⟨target, h⟩ else s
  | 3 => belugResetOp s
  | _ => s

/-- BELUG_START_WAIT_END: the first sends are taken 250 ms after the reset began. -/
def startWaitEndOp (s : State) : State :=
  if s.blg.startWait && passed s s.blg.resetAt 250000000 then
    let fresh := fun (fl : OutFlow) => { fl with outst := fl.outst.map (fun o => if o.waiting then { o with born := s.now } else o) }
    sendWaiting { s with blg.startWait := false, blg.outflows := s.blg.outflows.map (fun e => (e.1, fresh e.2)) }
  else s
def execBelugStartWaitEnd (s : State) : Res := .next (startWaitEndOp s)

/-! ## The whole space -/

/-- An 8-byte write at an aligned offset; RO registers and reserved offsets ignore it. -/
def cfgWrite (s : State) (a : Nat) (v : Word) : State :=
  if a = 0x100 then intCauseWriteOp s v
  else if a = 0x108 then noteAlert s { s with blg.mask := v.setWidth 8 }
  else if a = 0x110 then { s with blg.intChannel := v.setWidth 5 }
  else if a = 0x128 then resetCtlOp s v
  else if 0x200 ≤ a ∧ a < 0x218 then homeMapWriteOp s ((a - 0x200) / 8) v
  else if a = 0x218 then vcWeightWriteOp s v
  else if a = 0x220 then e2eWriteOp s v
  else if a = 0x228 then { s with blg.retryMax := v.setWidth 4 }
  else if a = 0x230 then { s with blg.pmsgChannel := v.setWidth 5 }
  else if 0x300 ≤ a ∧ a < 0x480 then xlatWrite s a v
  else if 0x3000 ≤ a ∧ a < 0x5000 then groupTableWriteOp s ((a - 0x3000) / 0x20) (a % 0x20 / 8) v
  else if (0x1000 ≤ a ∧ a < 0x3000) ∨ (0x5000 ≤ a ∧ a < 0x7000) then
    { s with blg.tables := memWrite s.blg.tables a (leBytes 8 v.toNat) }
  else if 0x8000 ≤ a then tallyWriteOp s ((a - 0x8000) / 8) v
  else s

/-- Eight entries of a map register. -/
def packEight (f : Nat → Nat) : Nat := leNat ((List.range 8).map (fun j => BitVec.ofNat 8 (f j)))
/-- ABSENT: planes that the adopted PLANES_FITTED leaves out (R16). -/
def absentMask (b : Belug) : Nat := match b.planes with
  | some n => 2 ^ 24 - 2 ^ n
  | none => 0
/-- OWN of each slot of a stagehand. -/
def slotState (b : Belug) (n : Nat) : Nat :=
  (List.range 16).foldl (fun v k => v + 2 ^ k * b2n (((b.hands[n]?).getD {}).slots.getD k {}).own) 0
def invSlotRead (x : InvSlot) (off : Nat) : Nat :=
  if off = 0x00 then b2n x.own * 2 ^ 63 + b2n x.irq * 2 ^ 62 + x.typ.toNat
  else if off = 0x08 then x.status.toNat * 2 ^ 56 + x.ctx.toNat
  else if off = 0x10 then x.va.toNat * 65536
  else x.pages.toNat

/-- An 8-byte read at an aligned offset; reserved offsets read 0. -/
def cfgRead (s : State) (a : Nat) : Word :=
  let b := s.blg
  BitVec.ofNat 64 <|
    if a = 0x00 then leNat ([0x44, 0x56, 0x2D, 0x42, 0x4C, 0x47, 0x32, 0x34] : Bytes)
    else if a = 0x08 then leNat ([0x2D, 0x41] : Bytes)
    else if a = 0x10 then b.fuse.letter.toNat * 256 + b.fuse.digit.toNat
    else if a = 0x18 then b.fuse.serial.toNat
    else if a = 0x20 then b.node.toNat
    else if a = 0x28 then absentMask b * 2 ^ 32 + readyMask b.ports
    else if 0x40 ≤ a ∧ a < 0x58 then packEight (fun j => b.fuse.bpMap.getD (8 * ((a - 0x40) / 8) + j) 0)
    else if a = 0x100 then b.cause.toNat
    else if a = 0x108 then b.mask.toNat
    else if a = 0x110 then b.intChannel.toNat
    else if a = 0x118 then b.cue.count.toNat
    else if a = 0x120 then (b.cue.level.getD 255) * 256 + cueStateCode b.cue.st
    else if a = 0x130 then b.vreq * 65536 + b.pace
    else if 0x200 ≤ a ∧ a < 0x218 then packEight (fun j => b.homeMap.getD (8 * ((a - 0x200) / 8) + j) 0)
    else if a = 0x218 then b.vcWeight.toNat
    else if a = 0x220 then b.e2e.toNat
    else if a = 0x228 then b.retryMax.toNat
    else if a = 0x230 then b.pmsgChannel.toNat
    else if a = 0x300 then b.ctxBase.toNat * 4096
    else if a = 0x308 then b.ctxCount.toNat
    else if a = 0x310 then b.window.toNat
    else if a = 0x318 then b.faultBase.toNat * 4096
    else if a = 0x320 then b.faultHead.toNat * 2 ^ 40 + b.faultTail.toNat * 2 ^ 20 + b.faultLog2.toNat
    else if a = 0x328 then b.faultLost.toNat
    else if 0x400 ≤ a ∧ a < 0x480 then invSlotRead ((b.invSlots[(a - 0x400) / 0x20]?).getD {}) (a % 0x20)
    else if 0x800 ≤ a ∧ a < 0x900 then slotState b ((a - 0x800) / 8)
    else if 0x3000 ≤ a ∧ a < 0x5000 then leNat (memRead b.groupMem a 8)
    else if (0x1000 ≤ a ∧ a < 0x3000) ∨ (0x5000 ≤ a ∧ a < 0x7000) then leNat (memRead b.tables a 8)
    else if 0x7000 ≤ a ∧ a < 0x8000 then kgetD b.ctr ((a - 0x7000) / 8) 0
    else if 0x8000 ≤ a then (tallyWord b ((a - 0x8000) / 8)).toNat
    else 0

/-- CFG_WR of a channel (R506): aligned offsets below 0x1_0000. -/
def cfgMessage (s : State) (ch : Nat) (tag : BitVec 16) (a : Nat) (v : Word) : State :=
  if !(getCh s ch).up then s
  else
    let m : ApronMsg := { typ := 0x0B, tag := tag, addr := BitVec.ofNat 64 a, tail := leBytes 8 v.toNat ++ zeros 40 }
    let s := takeWords s ch m
    if a % 8 ≠ 0 ∨ 0x10000 ≤ a ∨ 4096 ≤ tag.toNat then respond s ch m St.badarg 0 []
    else if a = 0x128 ∧ v.toNat % 4 = 3 then belugResetOp s
    else settle (respond (cfgWrite s a v) ch m St.ok 0 [])

/-- REGISTER_WRITE. -/
def registerWriteOp (s : State) (w : RegWrite) : State :=
  match w with
  | .bar0 a v => bar0Write s a v
  | .cfg ch tag a v => cfgMessage s ch.val tag a v
  | .pcie bm commit => { s with itv.cb.busMaster := bm, itv.cb.hdmCommitted := commit }
def execRegisterWrite (w : RegWrite) (s : State) : Res := .next (registerWriteOp s w)

end Sys2Proof.Machine
end

