-- ==== Sys2Proof/Machine/BelugRows.lean ====
section
/-! DEFINITION. Rows of the apron that are no memory operation: slots, tallies, acknowledgement and replay of words, retraining
(R503, R504, R514, R517, R527, R532), and Belug's VC0 bucket (R137). -/

namespace Sys2Proof.Machine

open Sys2Proof

/-! ## Stagehands -/

def execSlotPost (ch : Fin 24) (m : ApronMsg) (s : State) : Res := .next (onApron s ch m 0x06 (fun s => slotPost s ch.val m))
def execStagehandDescriptor (n : Fin 32) (s : State) : Res := .next (settle (stagehandStep s n.val))

/-! ## TALLY_READ (R517) -/

def tallyReadMsg (s : State) (ch : Nat) (m : ApronMsg) : State :=
  let t := m.field 16 2
  let target := BitVec.ofNat 32 (m.field 20 4)
  let w := tallyWord s.blg t
  if m.opt = 0 ∨ tallyMet w target then respond s ch m St.ok 0 (leBytes 8 w.toNat)
  else if 256 ≤ s.blg.waits.length then respond s ch m St.busy 0 []
  else { s with blg.waits := s.blg.waits ++ [{ ch := ch, tag := m.tag.toNat, tally := t, target := target, since := s.now }] }
def execTallyRead (ch : Fin 24) (m : ApronMsg) (s : State) : Res := .next (onApron s ch m 0x08 (fun s => tallyReadMsg s ch.val m))

/-- TALLY_WAIT_TIMEOUT: wait `i` of those outstanding, after 10 ms. -/
def tallyWaitTimeoutOp (s : State) (i : Nat) : State :=
  match s.blg.waits[i]? with
  | some w =>
    if passed s w.since 10000000 then
      rspData { s with blg.waits := s.blg.waits.eraseIdx i } w.ch w.tag St.timeout 0 (leBytes 8 (tallyWord s.blg w.tally).toNat)
    else s
  | none => s
def execTallyWaitTimeout (i : Nat) (s : State) : Res := .next (tallyWaitTimeoutOp s i)

/-! ## Words held, acknowledged and replayed (R503, R504) -/

/-- Every held word again, from the oldest. -/
def replay (s : State) (ch : Nat) : State :=
  let s := modCh s ch (fun c => { c with lastAck := s.now })
  if (getCh s ch).held.isEmpty then s else emit s (.words ch (getCh s ch).held)

/-- ACK: the oldest held word is released. -/
def apronAckOp (s : State) (ch : Nat) : State :=
  modCh s ch (fun c => if c.held.isEmpty then c
    else pushWords { c with held := c.held.drop 1, retries := 0, lastAck := s.now } [])
def execApronAck (ch : Fin 24) (s : State) : Res := .next (apronAckOp s ch.val)

/-- RETRY: replay; after 8 without an ACK between them the channel retrains. -/
def apronRetryOp (s : State) (ch : Nat) : State :=
  let c := getCh s ch
  if !c.up || c.retraining then s
  else
    let s := modCh s ch (fun c => { c with retries := c.retries + 1 })
    if c.retries + 1 < 8 then replay s ch else modCh s ch (fun c => { c with retraining := true })
def execApronRetry (ch : Fin 24) (s : State) : Res := .next (apronRetryOp s ch.val)

/-- 64 word times (16 ns) without an ACK while words are held. -/
def apronReplayTimeoutOp (s : State) (ch : Nat) : State :=
  let c := getCh s ch
  if c.up && !c.retraining && !c.held.isEmpty && passed s c.lastAck 16 then replay s ch else s
def execApronReplayTimeout (ch : Fin 24) (s : State) : Res := .next (apronReplayTimeoutOp s ch.val)

/-- A channel goes DOWN (R504, R527): its words are lost, and unanswered LMEM requests go on another (R532). -/
def channelDown (s : State) (ch : Nat) : State :=
  let s := modCh s ch (fun c => { c with up := false, retraining := false, held := [], waiting := [] })
  let mine := s.blg.lmem.filter (fun r => r.ch == ch)
  mine.foldl (fun s r =>
    let dest := upChannel s (r.msg.addr.toNat / 128 % 24)
    sendApron { s with blg.lmem := s.blg.lmem.map (fun x => if x.tag = r.tag then { x with ch := dest } else x) } dest r.msg) s

/-- APRON_RETRAIN: a retrain ends, well or not; three in a row that do not take the channel DOWN. -/
def apronRetrainOp (s : State) (ch : Nat) (ok : Bool) : State :=
  let c := getCh s ch
  if !c.up || !c.retraining then s
  else
    let s := raiseIrq (bumpB s (408 + ch) 1) Irq.apron
    if ok then replay (modCh s ch (fun c => { c with retraining := false, retries := 0, fails := 0 })) ch
    else if c.fails + 1 < 3 then modCh s ch (fun c => { c with fails := c.fails + 1 })
    else channelDown s ch
def execApronRetrain (ch : Fin 24) (ok : Bool) (s : State) : Res := .next (apronRetrainOp s ch.val ok)

/-- The word is valid and fails its CRC (R502). -/
def wordBad (word : Bytes) (ctl : BitVec 24) : Bool :=
  ctl.getLsbD 23 && crc16 (pad 64 word ++ [ctl.extractLsb' 16 8]) != (ctl.extractLsb' 0 16).toNat

/-- APRON_CRC_ERROR: RETRY once, and later words are discarded until the expected one. -/
def apronCrcErrorOp (s : State) (ch : Nat) (word : Bytes) (ctl : BitVec 24) : State :=
  let c := getCh s ch
  if !c.up || !wordBad word ctl then s
  else
    let s := bumpB s (384 + ch) 1
    if c.discarding then s else emit (modCh s ch (fun c => { c with discarding := true })) (.ak ch 12)
def execApronCrcError (ch : Fin 24) (word : Bytes) (ctl : BitVec 24) (s : State) : Res := .next (apronCrcErrorOp s ch.val word ctl)

/-! ## The VC0 bucket (R137) -/

/-- PRINCIPAL_TOKEN: one token each 16 beats, at most 4; a VC0 flit that waited for one may then go (FLIT_TRANSMIT). -/
def principalTokenOp (s : State) (p : Fin 24) : State :=
  let q := s.blg.ports.get p
  let (t, at_) := bucket s q 4
  setPort s (.blg p) { q with tokens := t, tokenAt := at_ }
def execPrincipalToken (p : Fin 24) (s : State) : Res := .next (principalTokenOp s p)

end Sys2Proof.Machine
end

