-- ==== Sys2Proof/Machine/Chorus.lean ====
section
/-! DEFINITION. The chorus cores (R405 to R445): the instruction word, its four slots, entries. -/

namespace Sys2Proof.Machine

open Sys2Proof

/-! ## The instruction word (R413 to R415) -/

/-- The fields of a slot (R414). -/
structure SlotF where
  op : Nat
  gn : Bool
  gp : Nat
  dst : Nat
  sa : Nat
  sb : Nat
  fn : Nat
  imm : Nat
  deriving DecidableEq, Repr

def slotOf (w : Nat) : SlotF :=
  { op := bits w 63 56, gn := bitOf w 55, gp := bits w 54 52, dst := bits w 51 47, sa := bits w 46 42, sb := bits w 41 37,
    fn := bits w 36 32, imm := bits w 31 0 }

/-- The four slots of word `i` of an object: scalar, flit, memory and move, control (R413, R431). -/
def wordSlot (obj : Bytes) (i slot : Nat) : SlotF := slotOf (natAt obj (128 + 32 * i + 8 * slot) 8)

def objConst (obj : Bytes) : Nat := natAt obj 16 4
def objWork (obj : Bytes) : Nat := natAt obj 20 4
def objWords (obj : Bytes) : Nat := natAt obj 24 2
def objMerge (obj : Bytes) : Nat := natAt obj 26 2
def objFinish (obj : Bytes) : Nat := natAt obj 28 2
/-- LEDGER_BYTES (R427). -/
def ledgerSize (cls : Nat) : Nat := if cls = 2 then 88 else if cls = 3 then 24 else 48
def ledgerBytes (obj : Bytes) : Nat :=
  let n := ((objHandles obj).map (fun h => h.2 * ledgerSize h.1)).sum
  (n + 255) / 256 * 256

/-! ## What a word reads and writes -/

/-- What a step works on: the core, its chunk's buffer, the values from outside. -/
structure CoreEnv where
  core : ChorusCore
  buf : StateBuf
  obj : Bytes
  desc : Desc
  cue : Nat
  pace : Nat
  /-- number of the first free value of this step (log 3) -/
  free : Nat
  deriving DecidableEq, Repr

def sreg (k : ChorusCore) (i : Nat) : Word := k.sregs.getD i 0
def freg (k : ChorusCore) (i : Nat) : Bytes := pad 256 (k.fregs.getD i [])
/-- p0 reads 1 (R410). -/
def pred (k : ChorusCore) (i : Nat) : Bool := i == 0 || k.preds.getD i false
def setS (k : ChorusCore) (i : Nat) (v : Word) : ChorusCore := { k with sregs := k.sregs.set i v }
def setF (k : ChorusCore) (i : Nat) (v : Bytes) : ChorusCore := { k with fregs := k.fregs.set (i % 16) (pad 256 v) }
def setP (k : ChorusCore) (i : Nat) (v : Bool) : ChorusCore := if i % 8 = 0 then k else { k with preds := k.preds.set (i % 8) v }

/-- The slot executes (R415). -/
def guarded (k : ChorusCore) (x : SlotF) : Bool := pred k x.gp != x.gn

/-- A write of one slot, applied at the end of the step. -/
abbrev Effect := ChorusCore × StateBuf → ChorusCore × StateBuf
def onCore (f : ChorusCore → ChorusCore) : Effect := fun x => (f x.1, x.2)
def onBuf (f : StateBuf → StateBuf) : Effect := fun x => (x.1, f x.2)

def immS (x : SlotF) : Word := BitVec.ofInt 64 (sext 32 x.imm)

/-! ### Scalar slot (R418) -/

def condOf (c : Nat) (a b : Word) : Bool :=
  match c with
  | 0 => a == b
  | 1 => a != b
  | 2 => BitVec.slt a b
  | 3 => BitVec.sle a b
  | 4 => BitVec.ult a b
  | _ => BitVec.ule a b

def scalarSlot (e : CoreEnv) (x : SlotF) : Effect :=
  let a := sreg e.core x.sa
  let b := if x.fn % 2 = 1 then immS x else sreg e.core x.sb
  let n := b.toNat % 64
  let put := fun (v : Word) => onCore (setS · x.dst v)
  match x.op with
  | 0x01 => put (a + b)
  | 0x02 => put (a - b)
  | 0x03 => put (a * b)
  | 0x04 => put (a &&& b)
  | 0x05 => put (a ||| b)
  | 0x06 => put (a ^^^ b)
  | 0x07 => put (a <<< n)
  | 0x08 => put (a >>> n)
  | 0x09 => put (BitVec.sshiftRight a n)
  | 0x0A => put (if BitVec.slt b a then b else a)
  | 0x0B => put (if BitVec.slt a b then b else a)
  | 0x0C => put (if BitVec.ult b a then b else a)
  | 0x0D => put (if BitVec.ult a b then b else a)
  | 0x10 => put (immS x)
  | 0x11 => put (BitVec.ofNat 64 (x.imm * 2 ^ 32 + a.toNat % 2 ^ 32))
  | 0x18 => onCore (setP · (x.dst % 8) (condOf (x.fn / 2) a b))
  | 0x20 => put (BitVec.ofNat 64 e.cue)
  | 0x21 => put (BitVec.ofNat 64 e.pace)
  | _ => id

/-! ### Flit slot (R419, R420) -/

def laneBytes (fmt : Nat) : Nat := elemBits fmt / 8
def laneCount (fmt : Nat) : Nat := 256 / max 1 (laneBytes fmt)
def lane (fmt : Nat) (v : Bytes) (i : Nat) : Nat := natAt v (i * laneBytes fmt) (laneBytes fmt)
def lanes (fmt n : Nat) (f : Nat → Nat) : Bytes := (List.range n).flatMap (fun i => leBytes (laneBytes fmt) (f i))

/-- FADD to FMAX on one lane. -/
def laneOp (op fmt a b : Nat) : Nat :=
  match floatOf fmt with
  | some f =>
    let x := decodeFloat f a
    let y := decodeFloat f b
    encodeFloat f 0 false (match op with
      | 3 => addNum 0 x y
      | 4 => addNum 0 x (negNum y)
      | 5 => mulNum x y
      | 6 => minNum x y
      | _ => maxNum x y)
  | none =>
    let w := elemBits fmt
    match op with
    | 3 => (a + b) % 2 ^ w
    | 4 => (a + 2 ^ w - b) % 2 ^ w
    | 5 => a * b % 2 ^ w
    | 6 => if sext w b < sext w a then b else a
    | _ => if sext w a < sext w b then b else a

/-- A finite value rounded to an integer under ROUND. -/
def roundInt (rm : Nat) (m e : Int) : Int :=
  if 0 ≤ e then m * 2 ^ e.toNat
  else
    let D : Nat := 2 ^ (-e).toNat
    let q := m.natAbs / D
    let r := m.natAbs % D
    let neg := decide (m < 0)
    let up := match rm with
      | 0 => decide (D < 2 * r) || (2 * r == D && q % 2 == 1)
      | 1 => false
      | 2 => r != 0 && !neg
      | _ => r != 0 && neg
    let v : Int := (q + b2n up : Nat)
    if neg then -v else v

/-- FCVT of one lane (R419, R366, R367). A NaN, or an infinity that is not clamped, has no stated integer: a free value (log 3). -/
def convert (from_ to_ rm : Nat) (sat : Bool) (a free : Nat) : Nat :=
  let v := match floatOf from_ with
    | some f => decodeFloat f a
    | none => dyadic (sext (elemBits from_) a) 0
  match floatOf to_ with
  | some f => encodeFloat f rm sat v
  | none =>
    let w := elemBits to_
    let open_ := (Config.freeWord free).toNat % 2 ^ w
    match v with
    | .nan => open_
    | .inf neg => if sat then (if neg then 2 ^ (w - 1) else 2 ^ (w - 1) - 1) else open_
    | .zero _ => 0
    | .fin m e => encodeInt w sat (roundInt rm m e)

/-- An add in a core: one that would carry L beyond the class's width sets NAN instead (R420). -/
def coreAdd (l : Ledger) (v : Num) : Ledger :=
  let n := ledgerAdd l v
  if fitsSigned l.width n.val then n else { n with val := l.val, nan := true }

def modHandle (b : StateBuf) (h : Nat) (f : List Ledger → List Ledger) : StateBuf := { b with ledgers := lmod b.ledgers h f }
def handleOf (b : StateBuf) (h : Nat) : List Ledger := b.ledgers.getD h []

/-- Lane `i` as a number; a lane beyond the register, which no rule gives a value, is a free value (log 3). -/
def laneNum (free fmt : Nat) (v : Bytes) (i : Nat) : Num :=
  let c := if i < laneCount fmt then lane fmt v i else (Config.freeWord (free + i)).toNat % 2 ^ elemBits fmt
  match floatOf fmt with
  | some f => decodeFloat f c
  | none => dyadic (sext (elemBits fmt) c) 0

/-- Terms added to ledgers `at_` on. -/
def addTerms (at_ : Nat) (vs : List Num) (ls : List Ledger) : List Ledger :=
  (List.range vs.length).foldl (fun ls i => lmod ls (at_ + i) (fun l => coreAdd l (vs.getD i (.zero false)))) ls

/-- A rounded ledger (R372, R375). -/
def roundLedger (fmt rm : Nat) (sat : Bool) (l : Ledger) : Nat :=
  match floatOf fmt with
  | some f => encodeFloat f rm sat (ledgerNum rm l)
  | none => encodeInt (elemBits fmt) sat l.val

def flitSlot (e : CoreEnv) (x : SlotF) : Effect :=
  let a := freg e.core x.sa
  let b := freg e.core x.sb
  let put := fun (v : Bytes) => onCore (setF · x.dst v)
  let bytewise := fun (f : Byte → Byte → Byte) => put ((List.range 256).map (fun i => f (a.getD i 0) (b.getD i 0)))
  let base := x.imm % 65536
  let num := x.imm / 65536
  match x.op with
  | 0x01 => put a
  | 0x02 => put (zeros 256)
  | 0x08 => bytewise (· &&& ·)
  | 0x09 => bytewise (· ||| ·)
  | 0x0A => bytewise (· ^^^ ·)
  | 0x0B => put (lanes x.fn (laneCount x.fn) (fun _ => (sreg e.core x.sa).toNat % 2 ^ elemBits x.fn))
  | 0x0C => put ((List.range 256).map (fun i => a.getD (byteAt b i) 0))
  | 0x0D =>
    let to_ := x.imm % 32
    put (lanes to_ (256 / max 1 (max (laneBytes x.fn) (laneBytes to_))) (fun i =>
      convert x.fn to_ (bits x.imm 9 8) (bitOf x.imm 10) (lane x.fn a i) (e.free + i)))
  | 0x10 => onBuf (modHandle · (x.dst % 8) (addTerms base ((List.range (sreg e.core x.sb).toNat).map (laneNum e.free x.fn a))))
  | 0x11 => onBuf (modHandle · (x.dst % 8) (addTerms base ((List.range num).map (fun i =>
      mulNum (laneNum e.free x.fn a i) (laneNum (e.free + 512) x.fn b i)))))
  | 0x12 =>
    let ls := (handleOf e.buf (x.sa % 8)).drop base
    let own := bitOf x.imm 19
    let rm := if own then rndOf e.desc else bits x.imm 17 16
    let sat := if own then satOf e.desc else bitOf x.imm 18
    put ((ls.take (192 / max 1 (laneBytes x.fn))).flatMap (fun l => leBytes (laneBytes x.fn) (roundLedger x.fn rm sat l)))
  | 0x13 => onBuf (modHandle · (x.dst % 8) (fun ls => (List.range num).foldl (fun ls i =>
      lmod ls (base + i) (fun l => emptyLedger l.width)) ls))
  | 0x00 => id
  | op => put (lanes x.fn (laneCount x.fn) (fun i => laneOp op x.fn (lane x.fn a i) (lane x.fn b i)))

/-! ### Memory and move slot (R422, R423) -/

def moveAddr (e : CoreEnv) (x : SlotF) : Nat := (sreg e.core x.sa + BitVec.ofNat 64 x.imm).toNat
/-- Bytes of scratch (R412): CONST from the object, WORK as written in this entry. -/
def scratchRead (e : CoreEnv) (a n : Nat) : Bytes :=
  (List.range n).map (fun i =>
    if a + i < objConst e.obj then e.obj.getD (128 + 32 * objWords e.obj + a + i) 0 else memGet e.core.work (a + i))

def moveSlot (e : CoreEnv) (x : SlotF) : Effect :=
  let a := moveAddr e x
  let putS := fun (v : Nat) => onCore (setS · x.dst (BitVec.ofNat 64 v))
  match x.op with
  | 0x01 => putS (leNat (scratchRead e a 8))
  | 0x02 => let v := leBytes 8 (sreg e.core x.sb).toNat
            onCore (fun k => { k with work := memWrite k.work a v })
  | 0x03 => let v := if x.fn % 8 = 0 then memRead e.buf.w0 a 256 else scratchRead e a 256
            onCore (setF · x.dst v)
  | 0x04 =>
    let v := freg e.core x.sb
    if x.fn % 8 = 0 then onBuf (fun b => { b with w0 := memWrite b.w0 a v }) else onCore (fun k => { k with work := memWrite k.work a v })
  | 0x05 => putS (natAt (freg e.core x.sa) x.imm 8)
  | 0x06 => let v := putAt (freg e.core x.sa) x.imm (leBytes 8 (sreg e.core x.sb).toNat)
            onCore (setF · x.dst v)
  | 0x07 => let n := (sreg e.core x.sb).toNat
            let v := (freg e.core x.sa).take n
            onCore (fun k => { k with outbox := k.outbox ++ [(v, n)] })
  | _ => id

/-! ### Control slot (R424, R425) -/

def controlWrites (e : CoreEnv) (x : SlotF) : Effect :=
  let a := pred e.core (x.sa % 8)
  let b := pred e.core (x.sb % 8)
  match x.op with
  | 0x04 => onCore (setP · x.dst (a && b))
  | 0x05 => onCore (setP · x.dst (a || b))
  | 0x06 => onCore (setP · x.dst (a != b))
  | 0x07 => onCore (setP · x.dst (!a))
  | 0x08 => onCore (setP · x.dst (bitOf x.imm 0))
  | _ => id

/-- Count of a LOOP. -/
def loopCount (e : CoreEnv) (x : SlotF) : Nat := if x.fn % 2 = 1 then x.imm / 65536 else (sreg e.core x.sa).toNat

/-- A word that ends a loop body goes round again, or leaves the loop. -/
def loopEnd (k : ChorusCore) : ChorusCore :=
  match k.loops with
  | l :: ls => if l.last = k.pc then
      (if 1 < l.left then { k with pc := l.first, loops := { l with left := l.left - 1 } :: ls } else { k with pc := k.pc + 1, loops := ls })
    else { k with pc := k.pc + 1 }
  | [] => { k with pc := k.pc + 1 }

/-- Where the core goes after a word; `none` after HALT. -/
def controlNext (e : CoreEnv) (x : SlotF) (k : ChorusCore) : Option ChorusCore :=
  if !guarded e.core x then some (loopEnd k)
  else
    match x.op with
    | 0x01 => some { k with pc := x.imm % 65536 }
    | 0x02 =>
      let n := loopCount e x
      let last := x.imm % 65536
      some (if n = 0 then { k with pc := last + 1 } else { k with pc := k.pc + 1, loops := { first := k.pc + 1, last := last, left := n } :: k.loops })
    | 0x03 => none
    | _ => some (loopEnd k)

/-! ## Checks as it runs (R438) -/

def inRange (a n lo hi : Nat) : Bool := decide (lo ≤ a) && decide (a + n ≤ hi)

def moveOk (e : CoreEnv) (x : SlotF) : Bool :=
  let a := moveAddr e x
  let c := objConst e.obj
  let top := c + objWork e.obj
  let window := fun (store : Bool) => a % 256 == 0 && (if x.fn % 8 = 0 then inRange a 256 (ledgerBytes e.obj) (objState e.obj)
    else inRange a 256 (if store then c else 0) top)
  match x.op with
  | 0x01 => a % 8 == 0 && inRange a 8 0 top
  | 0x02 => a % 8 == 0 && inRange a 8 c top
  | 0x03 => window false
  | 0x04 => window true
  | 0x05 => decide (x.imm ≤ 248)
  | 0x06 => decide (x.imm ≤ 248)
  | 0x07 => let n := (sreg e.core x.sb).toNat
            decide (1 ≤ n) && decide (n ≤ 192)
  | _ => true

def flitOk (e : CoreEnv) (x : SlotF) : Bool :=
  let fits := fun (h n : Nat) => decide (x.imm % 65536 + n ≤ (handleOf e.buf (h % 8)).length)
  match x.op with
  | 0x10 => fits x.dst (sreg e.core x.sb).toNat
  | 0x11 => fits x.dst (x.imm / 65536)
  | 0x12 => decide (x.imm % 65536 < (handleOf e.buf (x.sa % 8)).length)
  | 0x13 => fits x.dst (x.imm / 65536)
  | _ => true

def controlOk (e : CoreEnv) (x : SlotF) : Bool :=
  x.op != 0x02 || (decide (loopCount e x ≤ 65535) && decide (e.core.loops.length < 4))

/-- Every slot that executes passes its run-time check. -/
def wordOk (e : CoreEnv) : Bool :=
  let go := fun (i : Nat) (ok : CoreEnv → SlotF → Bool) => let x := wordSlot e.obj e.core.pc i
    !guarded e.core x || ok e x
  decide (e.core.pc < objWords e.obj) && go 1 flitOk && go 2 moveOk && go 3 controlOk

/-- One word as one step (R416): core and buffer after it; `true` where the entry has ended. -/
def stepWord (e : CoreEnv) : ChorusCore × StateBuf × Bool :=
  let slot := fun (i : Nat) (f : CoreEnv → SlotF → Effect) => let x := wordSlot e.obj e.core.pc i
    if guarded e.core x then f e x else id
  let (k, b) := slot 3 controlWrites (slot 2 moveSlot (slot 1 flitSlot (slot 0 scalarSlot (e.core, e.buf))))
  match controlNext e (wordSlot e.obj e.core.pc 3) k with
  | some k => (k, b, false)
  | none => (k, b, true)

/-! ## Entries (R405, R426 to R430) -/

def modCore (s : State) (i : Nat) (f : ChorusCore → ChorusCore) : State :=
  { s with itv.coll.cores := kmod s.itv.coll.cores i {} f }
def isBuf (g q c : Nat) (b : StateBuf) : Bool := b.group == g && b.seq == q && b.chunk == c
def modBuf (s : State) (g q c : Nat) (f : StateBuf → StateBuf) : State :=
  { s with itv.coll.bufs := s.itv.coll.bufs.map (fun b => if isBuf g q c b then f b else b) }

/-- The core takes entries: its cluster is in service, no entry runs, chorus is not paused (R405, R445, R654). -/
def coreFree (s : State) (i : Nat) : Bool :=
  (coresNow s.itv).contains i && !(coreAt s i).active && !s.itv.pwr.chorusPaused

/-- VALID of a member's chunk (R363, R364). -/
def chunkValid (j : CJob) (c : Nat) : Nat := if isMx j.d.fmt then 192 else (chunkSpan j c).2 * wordBytes j.d.fmt

/-- An entry starts: s0 to s7 and f0 as R426 gives them, everything else zero. -/
def startEntry (s : State) (b : StateBuf) (c : Cast) (e : CueEntry) (fin : Bool) (rank valid : Nat) (f0 : Bytes) : State :=
  let obj := kernelObj s e.desc
  let ss := [b.chunk, rank, valid, c.nodes.length, e.desc.count, e.desc.aux, b.chunk / 1024, e.desc.flags.toNat]
  modCore s b.core (fun _ =>
    { active := true, finish := fin, group := b.group, seq := b.seq, chunk := b.chunk, rank := rank, slot := kernelSlot e.desc,
      pc := if fin then objFinish obj else objMerge obj,
      sregs := ss.map (BitVec.ofNat 64) ++ List.replicate 24 0, fregs := f0 :: List.replicate 15 (zeros 256) })

/-- MERGE of an admitted member chunk: at once in ARRIVAL mode, in ascending rank once all are here in ORDERED (R429). -/
def mergeOp (s : State) (f : Flit) : State :=
  match s.itv.coll.bufs.find? (fun b => b.waiting.any (fun w => w.2.1 == f)) with
  | none => s
  | some b =>
    match b.waiting.find? (fun w => w.2.1 == f), getCast s b.group with
    | some w, some c =>
      match findEntry c b.seq with
      | none => s
      | some e =>
        let ordered := objOrdered (kernelObj s e.desc)
        let turn := !ordered || (b.waiting.length + b.merged.length == c.nodes.length && b.waiting.all (fun x => decide (w.1 ≤ x.1)))
        -- in ARRIVAL mode the oldest admitted goes first
        let first := ordered || (b.waiting.head?.map (·.2.1)) == some f
        if !coreFree s b.core || !turn || !first || !((findRun s b.group b.seq).map (fun r => !r.aborted)).getD false then s
        else
          let s := match w.2.2 with
            | some x => wardFree s b.ward x.1 x.2
            | none => s
          let s := modBuf s b.group b.seq b.chunk (fun b => { b with waiting := b.waiting.filter (fun x => x.2.1 != f) })
          startEntry s b c e false w.1 (cHead f).valid
            (elemBytes f ++ slice f.payload 0 16 ++ headerBytes f ++ zeros 32)
    | _, _ => s
def execMerge (f : Flit) (s : State) : Res := .next (mergeOp s f)

/-- FINISH of a chunk index all of whose members are merged (R429). -/
def finishOp (s : State) (g q ch : Nat) : State :=
  match s.itv.coll.bufs.find? (isBuf g q ch), getCast s g with
  | some b, some c =>
    match findEntry c q with
    | none => s
    | some e =>
      if coreFree s b.core && b.waiting.isEmpty && b.merged.length == c.nodes.length && b.finished.isNone then
        startEntry s b c e true everyRank (chunkValid (castJob c e.desc) ch) (zeros 256)
      else s
  | _, _ => s
def execFinish (group : Nat) (cueSeq : BitVec 16) (chunk : Nat) (s : State) : Res := .next (finishOp s group cueSeq.toNat chunk)

/-- The entry ends: a MERGE counts its member, a FINISH gives the chunk's result (R423, R429, R442). -/
def endEntryOn (s : State) (i : Nat) : State :=
  let k := coreAt s i
  let s := modCore s i (fun k => { k with active := false })
  if k.dead then modCore s i (fun k => { k with dead := false })
  else if k.finish then
    advanceStripe (modBuf s k.group k.seq k.chunk (fun b => { b with finished := some (k.outbox.headD ([], 0)) })) k.group k.seq
      (k.chunk / 1024)
  else modBuf s k.group k.seq k.chunk (fun b => { b with merged := b.merged ++ [k.rank] })

/-- The buffer an entry works on; one that has been freed is no longer read by anything else. -/
def entryBuf (s : State) (k : ChorusCore) : StateBuf :=
  match s.itv.coll.bufs.find? (isBuf k.group k.seq k.chunk) with
  | some b => b
  | none => { group := k.group, seq := k.seq, chunk := k.chunk, core := 0, ward := 16, pool := 0, idx := 0,
              ledgers := [] }

/-- CHORUS_WORD: one word of the entry that runs on a core. A failed check is a chorus fault (R438). -/
def chorusWordOp (s : State) (i : Nat) (fault : Bool) : State :=
  let k := coreAt s i
  if !k.active then s
  else
    let obj := ((kget s.itv.coll.kernels k.slot).map (·.obj)).getD []
    let desc := (((getCast s k.group).bind (findEntry · k.seq)).map (·.desc)).getD {}
    let e : CoreEnv := { core := k, buf := entryBuf s k, obj := obj, desc := desc, cue := s.itv.cue.count.toNat,
                         pace := diePace (s.itv.core.dies.get (if i < 36 then 0 else 1)), free := s.free }
    if fault || (!k.dead && !wordOk e) then
      clusterFault (modCore s i (fun k => { k with active := false, dead := false })) k.group i .chorusFault
    else
      let (k', b, done) := stepWord e
      let s := { s with free := s.free + 1024 }
      let s := modCore s i (fun _ => k')
      let s := if k.dead then s else modBuf s k.group k.seq k.chunk (fun _ => b)
      if done then endEntryOn s i else s
def execChorusWord (core : Fin 72) (fault : Bool) (s : State) : Res := .next (chorusWordOp s core.val fault)

end Sys2Proof.Machine
end

