-- ==== Sys2Proof/Machine/ChorusCheck.lean ====
section
/-! DEFINITION. The checker of chorus objects (R431 to R437): its rules in the order of R435, intervals, bounds on steps. -/

namespace Sys2Proof.Machine

open Sys2Proof

/-! ## 0x01: header (R431 to R433) -/

/-- One entry of the handle table (R432). -/
def handleOk (obj : Bytes) (h : Nat) : Bool :=
  let e := slice obj (64 + 8 * h) 8
  if h < byteAt obj 7 then
    decide (byteAt e 0 ≤ 3) && byteAt e 1 == 0 && decide (1 ≤ natAt e 2 2) && decide (natAt e 2 2 ≤ 384) && natAt e 4 4 == 0
  else allZero e

def headerOk (obj : Bytes) : Bool :=
  let cw := objWords obj
  obj.length == 128 + 32 * cw + objConst obj && natAt obj 0 4 == 0x524F4843 && natAt obj 4 2 == 1 &&
    decide (byteAt obj 6 ≤ 1) && decide (byteAt obj 7 ≤ 8) && fmtKnown (byteAt obj 8) && fmtKnown (byteAt obj 9) &&
    decide (byteAt obj 10 ≤ 6) && byteAt obj 11 == 0 && (List.range 8).all (handleOk obj) &&
    objState obj % 256 == 0 && decide (256 ≤ objState obj) && decide (objState obj ≤ 65536) &&
    decide (ledgerBytes obj ≤ objState obj) && objConst obj % 256 == 0 && decide (objConst obj ≤ 196608) &&
    objWork obj % 256 == 0 && decide (objConst obj + objWork obj ≤ 262144) && decide (1 ≤ cw) && decide (cw ≤ 16384) &&
    objMerge obj == 0 && decide (1 ≤ objFinish obj) && decide (objFinish obj + 1 ≤ cw) && allZero (slice obj 30 34)

/-! ## 0x02: encodings (R414, R418 to R424) -/

/-- Every field is at most the value given: those that an opcode does not name at most 0. -/
def fieldsTo (x : SlotF) (dst sa sb fn imm : Nat) : Bool :=
  decide (x.dst ≤ dst) && decide (x.sa ≤ sa) && decide (x.sb ≤ sb) && decide (x.fn ≤ fn) && decide (x.imm ≤ imm)

def immTop : Nat := 2 ^ 32 - 1
def elemFmts : List Nat := [1, 2, 3, 4, 5, 6, 0x10, 0x11]
def smallFloats : List Nat := [2, 3, 4, 5, 6]

def scalarWell (x : SlotF) : Bool :=
  let imm := x.fn % 2 == 1
  if x.op = 0 then fieldsTo x 0 0 0 0 0
  else if x.op ≤ 0x0D then (if imm then fieldsTo x 31 31 0 1 immTop else fieldsTo x 31 31 31 0 0)
  else if x.op = 0x10 then fieldsTo x 31 0 0 0 immTop
  else if x.op = 0x11 then fieldsTo x 31 31 0 0 immTop
  else if x.op = 0x18 then (if imm then fieldsTo x 7 31 0 11 immTop else fieldsTo x 7 31 31 10 0)
  else (x.op == 0x20 || x.op == 0x21) && fieldsTo x 31 0 0 0 0

def flitWell (x : SlotF) : Bool :=
  let f := elemFmts.contains x.fn
  if x.op = 0 then fieldsTo x 0 0 0 0 0
  else if x.op = 0x01 then fieldsTo x 15 15 0 0 0
  else if x.op = 0x02 then fieldsTo x 15 0 0 0 0
  else if x.op ≤ 0x07 then fieldsTo x 15 15 15 31 0 && f
  else if x.op ≤ 0x0A ∨ x.op = 0x0C then fieldsTo x 15 15 15 0 0
  else if x.op = 0x0B then fieldsTo x 15 31 0 31 0 && f
  else if x.op = 0x0D then fieldsTo x 15 15 0 31 0x7FF && f && elemFmts.contains (x.imm % 32) && bits x.imm 7 5 == 0
  else if x.op = 0x10 then fieldsTo x 7 15 31 31 0xFFFF && f && x.fn != 1
  else if x.op = 0x11 then fieldsTo x 7 15 15 31 immTop && smallFloats.contains x.fn
  else if x.op = 0x12 then fieldsTo x 15 7 0 31 0xFFFFF && f && (!bitOf x.imm 19 || bits x.imm 18 16 == 0)
  else x.op == 0x13 && fieldsTo x 7 0 0 0 immTop

def moveWell (x : SlotF) : Bool :=
  match x.op with
  | 0x00 => fieldsTo x 0 0 0 0 0
  | 0x01 => fieldsTo x 31 31 0 0 immTop
  | 0x02 => fieldsTo x 0 31 31 0 immTop
  | 0x03 => fieldsTo x 15 31 0 1 immTop
  | 0x04 => fieldsTo x 0 31 15 1 immTop
  | 0x05 => fieldsTo x 31 15 0 0 immTop
  | 0x06 => fieldsTo x 15 15 31 0 immTop
  | 0x07 => fieldsTo x 0 15 31 0 0
  | _ => false

def controlWell (x : SlotF) : Bool :=
  match x.op with
  | 0x00 => fieldsTo x 0 0 0 0 0
  | 0x01 => fieldsTo x 0 0 0 0 0xFFFF
  | 0x02 => if x.fn = 1 then fieldsTo x 0 0 0 1 immTop else fieldsTo x 0 31 0 0 0xFFFF
  | 0x03 => fieldsTo x 0 0 0 0 0
  | 0x07 => fieldsTo x 7 7 0 0 0
  | 0x08 => fieldsTo x 7 0 0 0 1
  | op => [4, 5, 6].contains op && fieldsTo x 7 7 7 0 0

def wordWell (obj : Bytes) (i : Nat) : Bool :=
  scalarWell (wordSlot obj i 0) && flitWell (wordSlot obj i 1) && moveWell (wordSlot obj i 2) && controlWell (wordSlot obj i 3)

/-! ## 0x03: single writer (R416) -/

/-- A slot that can execute: p0 reads 1, so its negation never does (R410, R415). -/
def canRun (x : SlotF) : Bool := !(x.gp == 0 && x.gn)
/-- A slot that may not execute. -/
def canSkip (x : SlotF) : Bool := !(x.gp == 0 && !x.gn)

def sDst0 (x : SlotF) : Option Nat := if canRun x && x.op != 0 && x.op != 0x18 then some x.dst else none
def sDst2 (x : SlotF) : Option Nat := if canRun x && (x.op == 1 || x.op == 5) then some x.dst else none
def fDst1 (x : SlotF) : Option Nat := if canRun x && ((x.op != 0 && decide (x.op ≤ 0x0D)) || x.op == 0x12) then some x.dst else none
def fDst2 (x : SlotF) : Option Nat := if canRun x && (x.op == 3 || x.op == 6) then some x.dst else none
def pDst0 (x : SlotF) : Option Nat := if canRun x && x.op == 0x18 then some x.dst else none
def pDst3 (x : SlotF) : Option Nat := if canRun x && decide (4 ≤ x.op) then some x.dst else none

def wordSingle (obj : Bytes) (i : Nat) : Bool :=
  let meet := fun (a b : Option Nat) => a.isSome && a == b
  let x := wordSlot obj i
  !meet (sDst0 (x 0)) (sDst2 (x 2)) && !meet (fDst1 (x 1)) (fDst2 (x 2)) && !meet (pDst0 (x 0)) (pDst3 (x 3))

/-! ## 0x04: flow (R424, R425, R433) -/

/-- Bodies of the loops of an object: first and last word. -/
def loopBodies (obj : Bytes) : List (Nat × Nat) :=
  (List.range (objWords obj)).filterMap (fun i =>
    let x := wordSlot obj i 3
    if x.op = 2 ∧ canRun x then some (i + 1, x.imm % 65536) else none)

def inBody (i : Nat) (b : Nat × Nat) : Bool := decide (b.1 ≤ i) && decide (i ≤ b.2)
/-- Bodies that hold word `i`, outermost first. -/
def bodiesAt (bs : List (Nat × Nat)) (i : Nat) : List (Nat × Nat) := bs.filter (inBody i)
def innerBody (bs : List (Nat × Nat)) (i : Nat) : Option (Nat × Nat) := (bodiesAt bs i).getLast?

/-- First and last-but-one word of the region of a word (R433). -/
def regionEnd (obj : Bytes) (i : Nat) : Nat := if i < objFinish obj then objFinish obj else objWords obj

def wordFlows (obj : Bytes) (bs : List (Nat × Nat)) (i : Nat) : Bool :=
  let x := wordSlot obj i 3
  let t := x.imm % 65536
  if !canRun x then true
  else if x.op = 1 then
    decide (i < t) && decide (t < regionEnd obj i) && ((innerBody bs i).map (fun b => decide (t ≤ b.2))).getD true
  else if x.op = 2 then
    decide (i < t) && decide (t < regionEnd obj i) && (bodiesAt bs i).all (fun b => decide (t < b.2)) &&
      decide ((bodiesAt bs i).length < 4)
  else true

/-! ## Intervals (R436) -/

abbrev Span := Nat × Nat
def wordTop : Nat := 2 ^ 64 - 1
def fullSpan : Span := (0, wordTop)
def oneSpan (n : Nat) : Span := (n, n)
def isOne (a : Span) : Bool := a.1 == a.2
/-- A result that may wrap has the full range. -/
def noWrap (lo hi : Nat) : Span := if hi ≤ wordTop then (lo, hi) else fullSpan
def hull (a b : Span) : Span := (min a.1 b.1, max a.2 b.2)
/-- 2^k - 1 at least `n`. -/
def onesAbove (n : Nat) : Nat := 2 ^ (Nat.log2 n + 1) - 1

/-- One scalar op on intervals; between two single values the bitwise ops, shifts and choices are exact. -/
def spanOp (op : Nat) (a b : Span) : Span :=
  let exact := fun (f : Word → Word → Word) (o : Span) =>
    if isOne a && isOne b then oneSpan (f (BitVec.ofNat 64 a.1) (BitVec.ofNat 64 b.1)).toNat else o
  let small := fun (x : Span) => decide (x.2 < 2 ^ 63)
  let sh : Span := if b.2 < 64 then b else if isOne b then oneSpan (b.1 % 64) else (0, 63)
  match op with
  | 0x01 => noWrap (a.1 + b.1) (a.2 + b.2)
  | 0x02 => if b.2 ≤ a.1 then (a.1 - b.2, a.2 - b.1) else fullSpan
  | 0x03 => noWrap (a.1 * b.1) (a.2 * b.2)
  | 0x04 => exact (· &&& ·) (0, min a.2 b.2)
  | 0x05 => exact (· ||| ·) (max a.1 b.1, onesAbove (max a.2 b.2))
  | 0x06 => exact (· ^^^ ·) (0, onesAbove (max a.2 b.2))
  | 0x07 => noWrap (a.1 * 2 ^ sh.1) (a.2 * 2 ^ sh.2)
  | 0x08 => (a.1 / 2 ^ sh.2, a.2 / 2 ^ sh.1)
  | 0x09 => if small a then (a.1 / 2 ^ sh.2, a.2 / 2 ^ sh.1)
            else exact (fun x y => BitVec.sshiftRight x (y.toNat % 64)) fullSpan
  | 0x0A => if small a && small b then (min a.1 b.1, min a.2 b.2)
            else exact (fun x y => if BitVec.slt y x then y else x) (hull a b)
  | 0x0B => if small a && small b then (max a.1 b.1, max a.2 b.2)
            else exact (fun x y => if BitVec.slt x y then y else x) (hull a b)
  | 0x0C => (min a.1 b.1, min a.2 b.2)
  | 0x0D => (max a.1 b.1, max a.2 b.2)
  | _ => fullSpan

/-- What holds on every path to a word: intervals of s0 to s31, the least and greatest number of SENDs so far. -/
structure Facts where
  regs : List Span
  sendLo : Nat := 0
  sendHi : Nat := 0
  deriving DecidableEq, Repr

def Facts.reg (k : Facts) (i : Nat) : Span := k.regs.getD i (0, 0)
def joinFacts (a b : Facts) : Facts :=
  { regs := (List.range 32).map (fun i => hull (a.reg i) (b.reg i)), sendLo := min a.sendLo b.sendLo, sendHi := max a.sendHi b.sendHi }

/-- At entry (R436). Full field widths: CHUNK 34 bits (R86), COUNT 48, AUX 32, the stripe number 32, FLAGS 8. -/
def fieldFacts (fin : Bool) : Facts :=
  { regs := [(0, 2 ^ 34 - 1), if fin then oneSpan everyRank else (0, 71), (1, 192), (1, 72), (0, 2 ^ 48 - 1), (0, 2 ^ 32 - 1),
             (0, 2 ^ 32 - 1), (0, 255)] ++ List.replicate 24 (0, 0) }

/-- The second operand of a scalar slot. -/
def spanB (k : Facts) (x : SlotF) : Span := if x.fn % 2 = 1 then oneSpan (immS x).toNat else k.reg x.sb

/-- What a word makes of the facts before it (R416: all sources as they stand at its start). -/
def wordFacts (obj : Bytes) (i : Nat) (k : Facts) : Facts :=
  let x0 := wordSlot obj i 0
  let x2 := wordSlot obj i 2
  let put := fun (k' : Facts) (x : SlotF) (v : Span) =>
    { k' with regs := k'.regs.set x.dst (if canSkip x then hull (k.reg x.dst) v else v) }
  let v0 : Span :=
    match x0.op with
    | 0x10 => oneSpan (immS x0).toNat
    | 0x11 => let a := k.reg x0.sa
              let low : Span := if a.2 < 2 ^ 32 then a else if isOne a then oneSpan (a.1 % 2 ^ 32) else (0, 2 ^ 32 - 1)
              (x0.imm * 2 ^ 32 + low.1, x0.imm * 2 ^ 32 + low.2)
    | 0x20 => fullSpan
    | 0x21 => fullSpan
    | op => spanOp op (k.reg x0.sa) (spanB k x0)
  let k1 := if (sDst0 x0).isSome then put k x0 v0 else k
  let k2 := if (sDst2 x2).isSome then put k1 x2 fullSpan else k1
  if x2.op = 7 ∧ canRun x2 then
    { k2 with sendLo := k2.sendLo + b2n (!canSkip x2), sendHi := k2.sendHi + 1 }
  else k2

/-- Registers that a loop's body changes have the full range. -/
def widen (obj : Bytes) (b : Nat × Nat) (k : Facts) : Facts :=
  let ws := ((List.range (b.2 + 1 - b.1)).map (b.1 + ·)).flatMap (fun i =>
    (sDst0 (wordSlot obj i 0)).toList ++ (sDst2 (wordSlot obj i 2)).toList)
  { k with regs := (List.range 32).map (fun i => if ws.contains i then fullSpan else k.reg i) }

def countSpan (k : Facts) (x : SlotF) : Span := if x.fn = 1 then oneSpan (x.imm / 65536) else k.reg x.sa

/-- Where control goes from a word, with the facts there. -/
def wordEdges (obj : Bytes) (i : Nat) (k : Facts) : List (Nat × Facts) :=
  let x := wordSlot obj i 3
  let out := wordFacts obj i k
  let t := x.imm % 65536
  let skip := if canSkip x then [(i + 1, out)] else []
  if !canRun x then [(i + 1, out)]
  else if x.op = 1 then (t, out) :: skip
  else if x.op = 2 then
    let n := countSpan k x
    (if 0 < n.2 then [(i + 1, widen obj (i + 1, t) out)] else []) ++ (if n.1 = 0 then [(t + 1, out)] else []) ++ skip
  else if x.op = 3 then skip
  else [(i + 1, out)]

/-- Facts at each reachable word of `is`, ascending; those waiting at words beyond are left in the second part. -/
def flowPass (obj : Bytes) : List Nat → KMap Facts → KMap Facts → KMap Facts × KMap Facts
  | [], done, wait => (done, wait)
  | i :: is, done, wait =>
    match kget wait i with
    | none => flowPass obj is done wait
    | some k =>
      let wait := (wordEdges obj i k).foldl (fun w e => kset w e.1 (match kget w e.1 with
        | some o => joinFacts o e.2
        | none => e.2)) (kdel wait i)
      flowPass obj is (kset done i k) wait

def regionWords (obj : Bytes) (fin : Bool) : List Nat :=
  if fin then (List.range (objWords obj - objFinish obj)).map (objFinish obj + ·) else List.range (objFinish obj)
def regionPass (obj : Bytes) (fin : Bool) : KMap Facts × KMap Facts :=
  flowPass obj (regionWords obj fin) [] [(if fin then objFinish obj else 0, fieldFacts fin)]

/-! ## 0x06: bound on steps (R421, R435) -/

/-- Steps of a word's flit op. -/
def flitSteps (x : SlotF) : Nat :=
  let elem := decide (3 ≤ x.op) && decide (x.op ≤ 7)
  if !canRun x then 1
  else if (elem && x.fn == 1) || (x.op == 0x0D && (x.fn == 1 || x.imm % 32 == 1)) then 4
  else if ((elem || x.op == 0x0D || x.op == 0x10) && x.fn == 2) || x.op == 0x11 || x.op == 0x12 then 2
  else 1

/-- Longest way from a word out of the loop body that holds it, and to a HALT. -/
structure Cost where
  exit : Option Nat := none
  halt : Option Nat := none
  deriving DecidableEq, Repr

def maxOpt : Option Nat → Option Nat → Option Nat
  | some a, some b => some (max a b)
  | some a, none => some a
  | none, b => b
def addOpt (a b : Option Nat) : Option Nat :=
  match a, b with
  | some a, some b => some (a + b)
  | _, _ => none
def Cost.join (a b : Cost) : Cost := { exit := maxOpt a.exit b.exit, halt := maxOpt a.halt b.halt }
/-- `a`, then `b` from where `a` exits. -/
def Cost.seq (a b : Cost) : Cost := { exit := addOpt a.exit b.exit, halt := maxOpt a.halt (addOpt a.exit b.halt) }
def Cost.stay : Cost := { exit := some 0 }
/-- A body run `n` times. -/
def Cost.times (n : Nat) (b : Cost) : Cost :=
  if n = 0 then Cost.stay
  else { exit := b.exit.map (n * ·), halt := match b.exit with
    | some x => b.halt.map (· + (n - 1) * x)
    | none => b.halt }

/-- The way on from word `j`, seen from a word in body `b`; `cs` holds the costs of the words after it. -/
def costFrom (bs : List (Nat × Nat)) (cs : KMap Cost) (b : Option (Nat × Nat)) : Nat → Nat → Cost
  | 0, _ => {}
  | fuel + 1, j =>
    if (b.map (fun b => decide (b.2 < j))).getD false then Cost.stay
    else
      let c := kgetD cs j {}
      match innerBody bs j with
      | none => c
      | some x => if some x = b then c else Cost.seq c (costFrom bs cs b fuel (x.2 + 1))

def wordCost (obj : Bytes) (bs : List (Nat × Nat)) (facts : KMap Facts) (cs : KMap Cost) (i : Nat) : Cost :=
  let x := wordSlot obj i 3
  let w : Cost := { exit := some (flitSteps (wordSlot obj i 1)) }
  let t := x.imm % 65536
  let go := costFrom bs cs (innerBody bs i) 6
  let skip : Cost := if canSkip x then go (i + 1) else {}
  if !canRun x then Cost.seq w (go (i + 1))
  else if x.op = 1 then Cost.seq w ((go t).join skip)
  else if x.op = 2 then
    let n := countSpan (kgetD facts i { regs := [] }) x
    let runs := (Cost.times n.2 (kgetD cs (i + 1) {})).join (if n.1 = 0 then Cost.stay else {})
    Cost.seq w ((Cost.seq runs (go (t + 1))).join skip)
  else if x.op = 3 then (Cost.seq w skip).join { halt := w.exit }
  else Cost.seq w (go (i + 1))

/-- Costs of words, last first. -/
def costPass (obj : Bytes) (bs : List (Nat × Nat)) (facts : KMap Facts) : List Nat → KMap Cost → KMap Cost
  | [], cs => cs
  | i :: is, cs => costPass obj bs facts is (kset cs i (wordCost obj bs facts cs i))

/-- MERGE_STEPS or FINISH_STEPS. -/
def entrySteps (obj : Bytes) (facts : KMap Facts) (fin : Bool) : Nat :=
  let cs := costPass obj (loopBodies obj) facts (regionWords obj fin).reverse []
  ((kgetD cs (if fin then objFinish obj else 0) {}).halt).getD 0

/-! ## 0x05, 0x07 to 0x0A -/

/-- Single values are aligned or not; an interval of more than one is proven aligned to nothing. -/
def provenAt (a : Span) (align n lo hi : Nat) : Bool := isOne a && a.1 % align == 0 && decide (lo ≤ a.1) && decide (a.1 + n ≤ hi)

def loopBounded (obj : Bytes) (k : Facts) (i : Nat) : Bool :=
  let x := wordSlot obj i 3
  !(x.op == 2 && canRun x) || decide ((countSpan k x).2 ≤ 65535)

def accessProven (obj : Bytes) (k : Facts) (i : Nat) : Bool :=
  let x := wordSlot obj i 2
  let a := k.reg x.sa
  let at_ := noWrap (a.1 + x.imm) (a.2 + x.imm)
  let c := objConst obj
  let top := c + objWork obj
  if !canRun x then true
  else match x.op with
    | 1 => provenAt at_ 8 8 0 top
    | 2 => provenAt at_ 8 8 c top
    | 3 => if x.fn = 0 then provenAt at_ 256 256 (ledgerBytes obj) (objState obj) else provenAt at_ 256 256 0 top
    | 4 => if x.fn = 0 then provenAt at_ 256 256 (ledgerBytes obj) (objState obj) else provenAt at_ 256 256 c top
    | _ => true
def offsetOk (obj : Bytes) (i : Nat) : Bool :=
  let x := wordSlot obj i 2
  !(x.op == 5 || x.op == 6) || decide (x.imm ≤ 248)

/-- A ledger op's handle is in use and its class accepts the op and FN (R420, R432). -/
def ledgerNamed (obj : Bytes) (i : Nat) : Bool :=
  let x := wordSlot obj i 1
  let h := if x.op = 0x12 then x.sa else x.dst
  let cls := byteAt obj (64 + 8 * h)
  if !canRun x ∨ x.op < 0x10 then true
  else decide (h < byteAt obj 7) && (match x.op with
    | 0x10 => (cls == 1 && smallFloats.contains x.fn) || (cls == 3 && isInt x.fn)
    | 0x11 => cls == 2
    | 0x12 => if cls = 3 then isInt x.fn else (cls == 1 || cls == 2) && !isInt x.fn
    | _ => cls != 0)
/-- Its ledger indices are below E. -/
def ledgerProven (obj : Bytes) (k : Facts) (i : Nat) : Bool :=
  let x := wordSlot obj i 1
  let E := fun (h : Nat) => natAt obj (64 + 8 * h + 2) 2
  let at_ := x.imm % 65536
  let within := fun (n : Nat) => n == 0 || decide (at_ + n ≤ E x.dst)
  if !canRun x then true
  else match x.op with
    | 0x10 => within (k.reg x.sb).2
    | 0x11 => within (x.imm / 65536)
    | 0x12 => decide (at_ < E x.sa)
    | 0x13 => within (x.imm / 65536)
    | _ => true

def sendPlaced (obj : Bytes) (bs : List (Nat × Nat)) (i : Nat) : Bool :=
  (wordSlot obj i 2).op != 7 || (decide (objFinish obj ≤ i) && (bodiesAt bs i).isEmpty)
/-- VALID of a SEND lies from 1 to 192; a HALT of the FINISH region has one SEND behind it. -/
def sendProven (obj : Bytes) (k : Facts) (i : Nat) : Bool :=
  let x := wordSlot obj i 2
  let h := wordSlot obj i 3
  let out := wordFacts obj i k
  (!(x.op == 7 && canRun x) || (decide (1 ≤ (k.reg x.sb).1) && decide ((k.reg x.sb).2 ≤ 192))) &&
    (!(h.op == 3 && canRun h && decide (objFinish obj ≤ i)) || (out.sendLo == 1 && out.sendHi == 1))

def orderFree (obj : Bytes) (i : Nat) : Bool :=
  !(!objOrdered obj && decide (i < objFinish obj) &&
    (((wordSlot obj i 2).op == 4 && (wordSlot obj i 2).fn == 0) || (wordSlot obj i 1).op == 0x12))

def readsTime (obj : Bytes) (i : Nat) : Bool := (wordSlot obj i 0).op == 0x20 || (wordSlot obj i 0).op == 0x21

/-! ## The report (R435, R437, R575) -/

/-- REASON, WORD and the bounds; the bounds exist once the flow and the loops are good. -/
structure Verdict where
  reason : Nat
  word : Nat
  timing : Option Bool := none
  steps : Option (Nat × Nat) := none
  deriving DecidableEq, Repr

def checkObject (obj : Bytes) : Verdict :=
  if !headerOk obj then { reason := 1, word := 0 }
  else
    let ws := List.range (objWords obj)
    let timing := some (ws.any (readsTime obj))
    let bad := fun (p : Nat → Bool) => ws.find? (fun i => !p i)
    let bs := loopBodies obj
    match bad (wordWell obj), bad (wordSingle obj), bad (wordFlows obj bs) with
    | some i, _, _ => { reason := 2, word := i, timing := timing }
    | none, some i, _ => { reason := 3, word := i, timing := timing }
    | none, none, some i => { reason := 4, word := i, timing := timing }
    | none, none, none =>
      let (f0, out0) := regionPass obj false
      let (f1, out1) := regionPass obj true
      if (kget out0 (objFinish obj)).isSome then { reason := 4, word := objFinish obj - 1, timing := timing }
      else if (kget out1 (objWords obj)).isSome then { reason := 4, word := objWords obj - 1, timing := timing }
      else
        let facts := fun (i : Nat) => if i < objFinish obj then kget f0 i else kget f1 i
        let badAt := fun (p : Facts → Nat → Bool) => ws.find? (fun i => ((facts i).map (fun k => !p k i)).getD false)
        match badAt (loopBounded obj) with
        | some i => { reason := 5, word := i, timing := timing }
        | none =>
          let m := entrySteps obj f0 false
          let n := entrySteps obj f1 true
          let say := fun (r i : Nat) => ({ reason := r, word := i, timing := timing, steps := some (m, n) } : Verdict)
          let first := fun (a b : Option Nat) => match a, b with
            | some a, some b => some (min a b)
            | some a, none => some a
            | none, b => b
          if 65536 < m then say 6 0
          else if 65536 < n then say 6 (objFinish obj)
          else
            match first (bad (offsetOk obj)) (badAt (accessProven obj)), first (bad (ledgerNamed obj)) (badAt (ledgerProven obj)),
              first (bad (sendPlaced obj bs)) (badAt (sendProven obj)), bad (orderFree obj) with
            | some i, _, _, _ => say 7 i
            | none, some i, _, _ => say 8 i
            | none, none, some i, _ => say 9 i
            | none, none, none, some i => say 10 i
            | none, none, none, none => say 0 0

/-- The 64-byte result; a bound or a flag the checker did not reach is a free value (log 3). -/
def verdictResult (s : State) (obj : Bytes) (v : Verdict) (handle : Nat) : State × Bytes :=
  let fr := fun (i : Nat) => (Config.freeWord (s.free + i)).toNat
  let (m, n) := v.steps.getD (fr 0 % 2 ^ 32, fr 1 % 2 ^ 32)
  let t := v.timing.getD (fr 2 % 2 == 1)
  ({ s with free := s.free + 3 },
   leBytes 1 v.reason ++ leBytes 1 (b2n t) ++ leBytes 2 v.word ++ leBytes 4 m ++ leBytes 4 n ++ leBytes 4 handle ++
     pad 48 (Config.sha384 obj))

end Sys2Proof.Machine
end

