-- ==== Sys2Proof/Machine/CmdPool.lean ====
section
/-! DEFINITION. pool-carve, tier-policy, wardrobe-carve (R576 to R578, R448 to R450, R480, R481). -/

namespace Sys2Proof.Machine

open Sys2Proof

/-- Check 3 of R770: a licence that is not held. -/
def unlicensed (held : Bool) : Bool × Nat × Nat := (!held, St.unlicensed, 0)

/-- A partition exists: 0 in a single-tenant house (R576). -/
def partExists (v : Itvos) (p : Nat) : Bool := if v.sec.parts = 0 then p == 0 else decide (p < v.sec.parts)

/-- Check 6 of R770 for the partition named: STRUCK, then DOMAIN_DOWN (R565). -/
def partState (v : Itvos) (p : Nat) : List (Bool × Nat × Nat) :=
  [(v.sec.struck.getLsbD p, St.struck, 0), (v.dir.down.getLsbD p, St.domainDown, 0)]

/-! ## pool-carve -/

/-- The scrub that pool-carve of a class waits for (R490). -/
def scrubBusy (v : Itvos) (cls : Nat) : Bool :=
  if cls = 1 || v.pool.galleryOff != 0 then !v.pool.stallsScrubbed else !v.pool.galleryScrubbed

def classOf (n : Nat) : TierClass := if n = 1 then .stalls else if n = 2 then .gallery else .auto

def poolCarveCreateCmd : Cmd := fun s c =>
  let v := s.itv
  let b := byteAt c.payload
  let off := natAt c.payload 16 8
  let len := natAt c.payload 24 8
  let single := v.sec.parts == 0
  let cls := b 9
  let part := b 2
  checked s ([unlicensed (holdsPool v), ((kget v.pool.carves (b 0)).isSome, St.badarg, 0), (decide (b 1 > 3), St.badarg, 1),
      (!partExists v part, St.badarg, 2), mbz c 3 1, (single && natAt c.payload 4 2 != 0, St.badarg, 4),
      (single && natAt c.payload 6 2 != 0, St.badarg, 6), (decide (b 8 > 7), St.badarg, 8), (decide (cls > 2), St.badarg, 9),
      mbz c 10 6, (off % 65536 != 0 || decide (off + len > poolSize v) || v.pool.carves.any (fun x => overlaps off len x.2.base x.2.len), St.badarg, 16),
      (len % 65536 != 0 || len == 0, St.badarg, 24)] ++ partState v part ++
      [(scrubBusy v cls || scrubbing v off len, St.busy, 0),
       (cls == 1 && decide (pinnedStalls v + len / 65536 > stallsFrames), St.empty, 0)]) (fun _ =>
    let k : Carve := { base := off, len := len, part := part, ctxValue := BitVec.ofNat 16 (natAt c.payload 4 2),
                       ctxMask := BitVec.ofNat 16 (natAt c.payload 6 2), rights := BitVec.ofNat 3 (b 8), cls := classOf cls }
    let v := { v with pool.carves := kset v.pool.carves (b 0) k }
    ({ s with itv := placePages v (b 0) off len (classOf cls) }, some { status := St.ok }))
def execPoolCarveCreate (slot : Fin 8) (s : State) : Res :=
  .next (cmdRow s slot 0x0201 (byteIsOr 1 0 [0, 1, 2, 3]) false (.ok []) true poolCarveCreateCmd)

/-- A carve leaves the pool; ZERO is set in its range in the background (R576, R490). -/
def releaseCarve (v : Itvos) (n : Nat) : Itvos :=
  match kget v.pool.carves n with
  | none => v
  | some k =>
    let lo := k.base / 65536
    let hi := (k.base + k.len) / 65536
    let v := dropPages v lo hi
    { v with pool.carves := kdel v.pool.carves n, pool.scrubs := v.pool.scrubs ++ [{ lo := lo, hi := hi }],
             pool.window := if v.pool.window = some n then none else v.pool.window }

def poolCarveReleaseCmd : Cmd := fun s c =>
  let v := s.itv
  let n := byteAt c.payload 0
  let k := kget v.pool.carves n
  checked s ([unlicensed (holdsPool v), (k.isNone || (k.any (·.ward)), St.badarg, 0), mbz c 3 1, mbz c 10 6] ++
      (match k with
       | some k => partState v k.part
       | none => [])) (fun _ =>
    ({ s with itv := releaseCarve v n }, some { status := St.ok }))
def execPoolCarveRelease (slot : Fin 8) (s : State) : Res :=
  .next (cmdRow s slot 0x0201 (byteIs 1 1) false (.ok []) true poolCarveReleaseCmd)

/-- 256 GiB (R491). -/
def windowBytes : Nat := 2 ^ 38

/-- The fields after CARVE and ACTION, each zero with ACTION 2 and 3 (R576); the first that is not is refused. -/
def carveRest (c : Call) : Bool × Nat × Nat :=
  match [(2, 1), (3, 1), (4, 2), (6, 2), (8, 1), (9, 1), (10, 6), (16, 8), (24, 8)].find? (fun f => (mbz c f.1 f.2).1) with
  | some f => mbz c f.1 f.2
  | none => (false, St.badarg, 2)

def poolCarveWindowCmd : Cmd := fun s c =>
  let v := s.itv
  let n := byteAt c.payload 0
  checked s [unlicensed (holdsPool v), ((match kget v.pool.carves n with
      | some k => decide (k.len > windowBytes)
      | none => true), St.badarg, 0), carveRest c] (fun _ =>
    ({ s with itv.pool.window := some n }, some { status := St.ok }))
def execPoolCarveWindow (slot : Fin 8) (s : State) : Res :=
  .next (cmdRow s slot 0x0201 (byteIs 1 2) false (.ok []) true poolCarveWindowCmd)

def poolCarveClearWindowCmd : Cmd := fun s c =>
  checked s [unlicensed (holdsPool s.itv), carveRest c] (fun _ =>
    ({ s with itv.pool.window := none }, some { status := St.ok }))
def execPoolCarveClearWindow (slot : Fin 8) (s : State) : Res :=
  .next (cmdRow s slot 0x0201 (byteIs 1 3) false (.ok []) true poolCarveClearWindowCmd)

/-! ## tier-policy -/

/-- With GALLERY_OFF an accepted tier-policy ends with DEGRADED and DETAIL 1 (R577). -/
def tierReply (v : Itvos) : Reply := if v.pool.galleryOff != 0 then { status := St.degraded, detail := 1 } else { status := St.ok }

def tierPolicySettingsCmd : Cmd := fun s c =>
  let b := byteAt c.payload
  let decay := natAt c.payload 4 2
  let promote := natAt c.payload 6 2
  let demote := natAt c.payload 8 2
  let rate := natAt c.payload 12 4
  checked s [unlicensed (holdsPool s.itv), (decide (b 0 > 1), St.badarg, 0), (decide (b 3 > 1), St.badarg, 3),
             (decay == 0 || decide (decay > 1000), St.badarg, 4), (promote == 0, St.badarg, 6),
             (decide (demote ≥ promote), St.badarg, 8), (b 10 == 0 || decide (b 10 > 32), St.badarg, 10), mbz c 11 1,
             (decide (rate < 16) || decide (rate > 16384), St.badarg, 12)] (fun _ =>
    ({ s with itv.pool.enable := b 3 == 1, itv.pool.decayMs := decay, itv.pool.promote := promote, itv.pool.demote := demote,
              itv.pool.share := b 10, itv.pool.sweepRate := rate }, some (tierReply s.itv)))
def execTierPolicySettings (slot : Fin 8) (s : State) : Res :=
  .next (cmdRow s slot 0x0202 (byteIsOr 0 0 [0, 1]) false (.ok []) true tierPolicySettingsCmd)

/-- The class of a carve changes: PIN of its pages follows, its pages leave the promotion queue (R480, R497); the mover then
brings each page to its tier (R482). -/
def setClass (v : Itvos) (n : Nat) (k : Carve) (cls : TierClass) : Itvos :=
  let lo := k.base / 65536
  let hi := (k.base + k.len) / 65536
  let mine := fun p => decide (lo ≤ p) && decide (p < hi)
  { v with pool.carves := kset v.pool.carves n { k with cls := cls }, pool.queue := v.pool.queue.filter (fun p => !mine p),
           pool.tier := v.pool.tier.map (fun e => if mine e.1 then (e.1, { e.2 with pin := cls != .auto }) else e) }

def tierPolicyClassCmd : Cmd := fun s c =>
  let v := s.itv
  let n := byteAt c.payload 1
  let k := kget v.pool.carves n
  let cls := byteAt c.payload 2
  checked s [unlicensed (holdsPool v), (k.isNone || k.any (·.ward), St.badarg, 1), (decide (cls > 2), St.badarg, 2), mbz c 11 1,
             ((match k with
               | some k => cls == 1 && k.cls != .stalls && decide (pinnedStalls v + k.len / 65536 > stallsFrames)
               | none => false), St.empty, 0)] (fun _ =>
    match k with
    | some k => ({ s with itv := setClass v n k (classOf cls) }, some (tierReply v))
    | none => (s, none))
def execTierPolicyClass (slot : Fin 8) (s : State) : Res :=
  .next (cmdRow s slot 0x0202 (byteIs 0 1) false (.ok []) true tierPolicyClassCmd)

/-! ## wardrobe-carve -/

/-- A range is free for a wardrobe: in the pool, in no carve but `own`, in no scrub. -/
def rangeFree (v : Itvos) (off len : Nat) (own : Option Nat) : Bool :=
  decide (off + len ≤ poolSize v) && !scrubbing v off len &&
    !v.pool.carves.any (fun x => some x.1 != own && overlaps off len x.2.base x.2.len)

/-- The lowest 4 MiB-aligned offset where `len` bytes are free (R578): 0, or the first such offset after a carve or a scrub. -/
def wardBase (v : Itvos) (len : Nat) : Option Nat :=
  let up := fun a => (a + 4194303) / 4194304 * 4194304
  let cands := [0] ++ v.pool.carves.map (fun x => up (x.2.base + x.2.len)) ++
    (v.pool.scrubs.filter (fun x => x.tier.isNone)).map (fun x => up (x.hi * 65536))
  (cands.filter (fun a => rangeFree v a len none)).min?

/-- The highest carve number not in use (R578). -/
def wardCarve (v : Itvos) : Option Nat := ((List.range 256).map (255 - ·)).find? (fun n => (kget v.pool.carves n).isNone)

/-- Highest owned index of pool `k`, plus one. -/
def highOwned (w : Wardrobe) (k : Nat) : Nat :=
  w.owners.foldl (fun n o => if o.1 / 2 ^ 24 = k then max n (o.1 % 2 ^ 24 + 1) else n) 0

/-- Buffers over all carved wardrobes but `p` (R463). -/
def otherBuffers (v : Itvos) (p : Nat) : Nat :=
  v.wards.foldl (fun n w => if w.1 < 16 ∧ w.1 ≠ p then n + w.2.counts.sum else n) 0

/-- Runs of unowned indices below `n`, ascending. -/
def unownedRing (w : Wardrobe) (k n : Nat) : List (Nat × Nat) :=
  let mine := ((w.owners.filter (fun o => o.1 / 2 ^ 24 == k)).map (fun o => o.1 % 2 ^ 24)) ++ [n]
  (mine.foldl (fun (acc : Nat × List (Nat × Nat)) i => (i + 1, if acc.1 < i then acc.2 ++ [(acc.1, i - acc.1)] else acc.2))
    (0, [])).2

/-- The wardrobe with new counts, its free buffers in the rings. -/
def resized (w : Wardrobe) (counts : List Nat) : Wardrobe :=
  let w := { w with counts := counts, cache := List.replicate 8 [],
                    ring := (List.range 8).map (fun k => unownedRing w k (lget counts k)) }
  { w with lowest := (List.range 8).map (fun k => min (lget w.lowest k) (freeIn w k)) }

/-- A resize changes pool `k` while a lower pool holds an owned buffer, or shrinks below an owned one (R578). -/
def resizeBusy (w : Wardrobe) (counts : List Nat) : Bool :=
  (List.range 8).any (fun k => decide (lget counts k < highOwned w k) ||
    (lget counts k != lget w.counts k && (List.range k).any (fun j => highOwned w j != 0)))

def wardResult (base carve : Nat) : Bytes := leBytes 8 base ++ leBytes 1 carve ++ zeros 7

/-- A new wardrobe of partition `p` at `base`, in carve `n`: every page in stalls with PIN set (R449). -/
def wardCreate (v : Itvos) (p n base : Nat) (counts : List Nat) (val mask : BitVec 16) (rights : BitVec 3) : Itvos :=
  let k : Carve := { base := base, len := wardLen counts, part := p, ctxValue := val, ctxMask := mask, rights := rights,
                     cls := .stalls, ward := true }
  placePages { v with pool.carves := kset v.pool.carves n k, wards := kset v.wards p (newWardrobe base n counts) } n base
    (wardLen counts) .stalls

/-- With these counts the wardrobes would hold more than 16,777,216 buffers (R463). -/
def wardFull (v : Itvos) (p : Nat) (counts : List Nat) : Bool := decide (otherBuffers v p + counts.sum > 16777216)
/-- The stalls have no `more` pages free of pins. -/
def stallsFull (v : Itvos) (more : Nat) : Bool := decide (pinnedStalls v + more > stallsFrames)

/-- A resize in place: pages gained are placed, pages lost are scrubbed. -/
def wardResize (v : Itvos) (p : Nat) (w : Wardrobe) (k : Carve) (counts : List Nat) (val mask : BitVec 16) (rights : BitVec 3) :
    Itvos :=
  let new := wardLen counts
  let v := { v with pool.carves := kset v.pool.carves w.carve { k with len := new, ctxValue := val, ctxMask := mask, rights := rights },
                    wards := kset v.wards p (resized w counts) }
  if new > k.len then placePages v w.carve (k.base + k.len) (new - k.len) .stalls
  else if new < k.len then
    let lo := (k.base + new) / 65536
    let hi := (k.base + k.len) / 65536
    { dropPages v lo hi with pool.scrubs := v.pool.scrubs ++ [{ lo := lo, hi := hi }] }
  else v

def wardChecks (v : Itvos) (c : Call) : List (Bool × Nat × Nat) :=
  let b := byteAt c.payload
  [unlicensed (holdsPool v), (!partExists v (b 0), St.badarg, 0), (decide (b 1 > 2), St.badarg, 1)]

/-- The partition has a wardrobe: its pools get the counts asked for. -/
def wardChange (s : State) (p : Nat) (w : Wardrobe) (counts : List Nat) (val mask : BitVec 16) (rights : BitVec 3) : State × Option Reply :=
  let k := (kget s.itv.pool.carves w.carve).getD { base := w.base, len := 0, part := p, ctxValue := 0, ctxMask := 0, rights := 0,
                                                   cls := .stalls }
  checked s [(resizeBusy w counts, St.busy, 0),
             (wardFull s.itv p counts || !rangeFree s.itv w.base (wardLen counts) (some w.carve) ||
                stallsFull s.itv ((wardLen counts - k.len) / 65536), St.empty, 0)] (fun _ =>
    ({ s with itv := wardResize s.itv p w k counts val mask rights },
     some { status := St.ok, result := wardResult w.base w.carve }))
/-- The partition has none: one is made where there is a base, a carve number and room. -/
def wardPlace (s : State) (p : Nat) (counts : List Nat) (val mask : BitVec 16) (rights : BitVec 3) :
    Option Nat → Option Nat → Bool → State × Option Reply
  | some base, some n, false =>
    ({ s with itv := wardCreate s.itv p n base counts val mask rights }, some { status := St.ok, result := wardResult base n })
  | _, _, _ => ends s St.empty
def wardMake (s : State) (p : Nat) (counts : List Nat) (val mask : BitVec 16) (rights : BitVec 3) : State × Option Reply :=
  wardPlace s p counts val mask rights (wardBase s.itv (wardLen counts)) (wardCarve s.itv)
    (wardFull s.itv p counts || stallsFull s.itv (wardLen counts / 65536))

/-- wardrobe-carve-create (R449, R463). -/
def wardrobeCarveCreateCmd : Cmd := fun s c =>
  let b := byteAt c.payload
  let counts := (List.range 8).map (fun k => natAt c.payload (16 + 4 * k) 4)
  let val := BitVec.ofNat 16 (natAt c.payload 4 2)
  let mask := BitVec.ofNat 16 (natAt c.payload 6 2)
  checked s (wardChecks s.itv c ++ [(decide (b 8 > 7), St.badarg, 8), mbz c 9 7] ++ partState s.itv (b 0) ++
      [(!s.itv.pool.stallsScrubbed, St.busy, 0)]) (fun _ =>
    match kget s.itv.wards (b 0) with
    | some w => wardChange s (b 0) w counts val mask (BitVec.ofNat 3 (b 8))
    | none => wardMake s (b 0) counts val mask (BitVec.ofNat 3 (b 8)))
def execWardrobeCarveCreate (slot : Fin 8) (s : State) : Res :=
  .next (cmdRow s slot 0x0203 (byteIsOr 1 0 [0, 1, 2]) false (.ok []) true wardrobeCarveCreateCmd)

/-- The wardrobe of a partition goes, its carve with it. -/
def wardRelease (v : Itvos) (p : Nat) : Itvos :=
  match kget v.wards p with
  | some w => releaseCarve { v with wards := kdel v.wards p } w.carve
  | none => v

def wardrobeCarveReleaseCmd : Cmd := fun s c =>
  let v := s.itv
  let p := byteAt c.payload 0
  let w := kget v.wards p
  checked s (wardChecks v c ++ [(w.isNone, St.badarg, 0), mbz c 9 7] ++ partState v p ++
      [(w.any (fun w => !w.owners.isEmpty), St.busy, 0)]) (fun _ =>
    ({ s with itv := wardRelease v p }, some { status := St.ok }))
def execWardrobeCarveRelease (slot : Fin 8) (s : State) : Res :=
  .next (cmdRow s slot 0x0203 (byteIs 1 1) false (.ok []) true wardrobeCarveReleaseCmd)

def wardrobeCarveReclaimCmd : Cmd := fun s c =>
  let v := s.itv
  let p := byteAt c.payload 0
  let owner := BitVec.ofNat 16 (natAt c.payload 2 2)
  checked s (wardChecks v c ++ [((kget v.wards p).isNone, St.badarg, 0), mbz c 9 7] ++ partState v p) (fun _ =>
    let (s, n) := wardReclaim s p (fun o => o.1 == owner)
    (s, some { status := St.ok, result := leBytes 4 n }))
def execWardrobeCarveReclaim (slot : Fin 8) (s : State) : Res :=
  .next (cmdRow s slot 0x0203 (byteIs 1 2) false (.ok []) true wardrobeCarveReclaimCmd)

end Sys2Proof.Machine
end

