-- ==== Sys2Proof/Machine/CmdColl.lean ====
section
/-! DEFINITION. cast-set, cue-sheet-add, cue-arm, curtain-set, understudy-swap, prompt-book-read, entrance-read, chorus-load,
chorus-check (R317 to R324, R349, R368, R407, R434, R569 to R575). -/

namespace Sys2Proof.Machine

open Sys2Proof

/-! ## Shared -/

/-- The group of a payload has a cast list. -/
def castNamed (s : State) (c : Call) : Option Cast :=
  let g := natAt c.payload 0 2
  if 4095 < g then none else getCast s g

/-- Check 6 of R770 for the partition of a group. -/
def groupState (s : State) (x : Option Cast) : List (Bool × Nat × Nat) :=
  match x with
  | some k => partState s.itv k.part
  | none => []

/-- A seat end-point under R25, in this house one of the partition (R318, R569). -/
def memberSeat (v : Itvos) (part : Nat) (n : BitVec 16) : Bool :=
  !reservedNode (formOf v) n && !isPoolNode n &&
    (v.sec.parts == 0 || !(isHouseSwitch v && nodeHouse n == swIndex (swid v)) || v.sec.seatPart.getD (nodeSeat n) 0xFF == part)

/-- What this Itvos knows of a group's collectives goes. -/
def dropRuns (s : State) (g : Nat) : State :=
  { s with itv.coll.runs := s.itv.coll.runs.filter (fun r => r.group != g) }

/-! ## cast-set -/

/-- Expert tables from byte `off`, each part on a 64-byte boundary; none where the buffer ends before them or one breaks R395. -/
def expertTables (n : Nat) (buf : Bytes) (len : Nat) : Nat → Nat → Option (List ExpertTable)
  | 0, _ => some []
  | k + 1, off =>
    let E := natAt buf off 2
    let size := 16 + 2 * E
    let t : ExpertTable := { topk := natAt buf (off + 2) 2, h := natAt buf (off + 4) 4, cap := natAt buf (off + 8) 2,
                             rank := (List.range E).map (fun i => natAt buf (off + 16 + 2 * i) 2) }
    if off + size ≤ len ∧ 1 ≤ E ∧ E ≤ 4096 ∧ 1 ≤ t.topk ∧ t.topk ≤ 8 ∧ 1 ≤ t.h ∧ 1 ≤ t.cap ∧ allZero (slice buf (off + 10) 6) ∧
        t.rank.all (fun r => decide (r < n)) then
      (expertTables n buf len k (off + (size + 63) / 64 * 64)).map (t :: ·)
    else none

def castSetCmd : Cmd := fun s c =>
  let v := s.itv
  let g := natAt c.payload 0 2
  let n := natAt c.payload 2 2
  let planes : BitVec 24 := BitVec.ofNat 24 (natAt c.payload 4 3)
  let hold := natAt c.payload 8 4
  let k := byteAt c.payload 12
  let part := byteAt c.payload 13
  let fitted := ((v.routing.chart.map (·.planes)).getD planes)
  let busy := ((getCast s g).map outstanding).getD false
  let gone := n == 0
  let need := (2 * n + 63) / 64 * 64
  checked s [unlicensed (holdsChorus v), (decide (g > 4095), St.badarg, 0), (decide (n > 16384), St.badarg, 2),
      (!gone && (planes == 0 || planes &&& ~~~fitted != 0), St.badarg, 4), mbz c 7 1,
      (!gone && (decide (hold < 10) || decide (hold > 1000000)), St.badarg, 8), (!gone && decide (k > 16), St.badarg, 12),
      (!gone && !partExists v part, St.badarg, 13), mbz c 14 2,
      (if gone then (false, St.badarg, 16) else refCheck c 16 0),
      (!gone && decide (bufLen c 16 < (if k = 0 then 2 * n else need)), St.badarg, 24)] (fun _ =>
    if gone then
      checked s (groupState s (getCast s g) ++ [(busy, St.busy, 0)]) (fun _ =>
        (dropRuns { s with itv.coll.casts := kdel s.itv.coll.casts g } g, some { status := St.ok }))
    else withHost s c 16 (fun buf =>
      let nodes := (List.range n).map (fun i => BitVec.ofNat 16 (natAt buf (2 * i) 2))
      let tabs := expertTables n buf (bufLen c 16) k need
      checked s ([(nodes.eraseDups.length != n || !nodes.all (memberSeat v part) || tabs.isNone, St.badarg, 16)] ++
          partState v part ++ [(busy, St.busy, 0)]) (fun _ =>
        let new : Cast := { nodes := nodes, planes := planes, live := planes, hold := hold * 1000, tables := tabs.getD [],
                            part := part, lead := ((getCast s g).map (·.lead)).getD 256 }
        (dropRuns { s with itv.coll.casts := kset s.itv.coll.casts g new } g, some { status := St.ok }))))
def execCastSet (slot : Fin 8) (host : HostRead) (s : State) : Res :=
  .next (cmdRow s slot 0x0101 anyPayload false host true castSetCmd)

/-! ## cue-sheet-add -/

def isLedgerFmt (f : Nat) : Bool := (decide (2 ≤ f) && decide (f ≤ 6)) || isMx f
def isMoeFmt (f : Nat) : Bool := decide (2 ≤ f) && decide (f ≤ 6)

/-- OPRs that R368 allows with an OP (KERNEL apart), FMTs with both, OFMTs with all three (R374 for AND, OR, XOR). -/
def oprAllowed (op opr : Nat) : Bool :=
  if op = COp.allReduce ∨ op = COp.reduceScatter then decide (1 ≤ opr) && decide (opr ≤ 6)
  else if op = COp.sparse ∨ op = COp.combine then opr == 1
  else opr == 0
def fmtAllowed (op opr f : Nat) : Bool :=
  if op = COp.allReduce ∨ op = COp.reduceScatter then isInt f || (decide (opr ≤ 3) && (isLedgerFmt f || f == 1))
  else if op = COp.allGather ∨ op = COp.multicast then fmtKnown f && f != 0x12
  else if op = COp.sparse then isLedgerFmt f
  else if op = COp.index then f == 0x12
  else if op = COp.lse then f == 2 || f == 4
  else if op = COp.curtain then f == 0x11
  else isMoeFmt f
def ofmtAllowed (op opr f o : Nat) : Bool :=
  if op = COp.allReduce ∨ op = COp.reduceScatter ∨ op = COp.sparse then
    if isInt f then isInt o && (decide (opr ≤ 3) || o == f) else if f = 1 then o == 1 else isLedgerFmt o || o == 1
  else if op = COp.lse then o == 2 || o == 4
  else if op = COp.combine then isMoeFmt o && elemBits o == elemBits f
  else o == f

/-- Bytes of one member's contribution, packed (R323, R363, R364). -/
def packedBytes (j : CJob) : Nat :=
  let d := j.d
  if isMx d.fmt then d.count / 32 * (4 * elemBits d.fmt + 1)
  else if d.op = COp.lse then d.count * wordBytes d.fmt + 8 * ceilDiv d.count (perIn d)
  else if d.op = COp.dispatch then 192 * d.count * tokenChunks j
  else d.count * wordBytes d.fmt

/-- The kernel a handle names: loaded, of this generation (R407, R443). -/
def kernelOf (s : State) (h : Nat) : Option Kernel :=
  if h = 0 then none
  else match kget s.itv.coll.kernels ((h - 1) % 65536) with
    | some k => if (k.gen * 65536 + (h - 1) % 65536 + 1) % 2 ^ 32 = h then some k else none
    | none => none

/-- Checks of a descriptor at payload byte 8, in ascending byte order (R321 to R323, R368, R385, R388, R390, R395, R407). -/
def descChecks (s : State) (k : Cast) (c : Call) : List (Bool × Nat × Nat) :=
  let b := slice c.payload 8 32
  let d := parseDesc b
  let j := castJob k d
  let n := k.nodes.length
  let isK := d.op == COp.kernel
  let many := decide (1 < (housesOf k.nodes).length)
  let kn := kernelOf s d.kernel
  let declares := fun (i v : Nat) => match kn with
    | some x => byteAt x.obj i == v
    | none => true
  let mx := isMx d.fmt || isMx d.ofmt
  let sched := d.flags.getLsbD 3
  [(d.op == 0 || decide (d.op > 0x0B) || (isK && many), St.badarg, 8),
   (decide (d.opr > 6) || (if isK then !declares 10 d.opr else !oprAllowed d.op d.opr), St.badarg, 9),
   (!fmtKnown d.fmt || (if isK then !declares 8 d.fmt else !fmtAllowed d.op d.opr d.fmt), St.badarg, 10),
   (!fmtKnown d.ofmt || (if isK then !declares 9 d.ofmt else !ofmtAllowed d.op d.opr d.fmt d.ofmt), St.badarg, 11),
   (d.flags.toNat / 16 != 0 || (satOf d && isMx d.ofmt) || (d.op == COp.lse && rndOf d != 0) ||
      (sched && (decide (n > 72) || many || isK)), St.badarg, 12),
   mbz c 13 3,
   (d.count == 0 || (mx && d.count % 32 != 0) || (d.op == COp.reduceScatter && d.count % n != 0) ||
      decide (packedBytes j > 2 ^ 40) || (d.op == COp.sparse && d.aux != 0 && d.count % d.aux != 0), St.badarg, 16),
   mbz c 22 2, (isK && kn.isNone, St.badarg, 24),
   ((d.op == COp.lse && d.aux != 0) || (d.op == COp.index && (d.aux == 0 || decide (d.aux > 32768))) ||
      (d.op == COp.sparse && (d.aux == 0 || decide (unitChunks j > 1024))) ||
      ((d.op == COp.dispatch || d.op == COp.combine) && (decide (d.aux ≥ k.tables.length) || decide (tokenChunks j > 1024))),
      St.badarg, 28),
   (decide (d.root ≥ n), St.badarg, 32), mbz c 34 6]

/-- Ended entries older than the 16 latest, whose kept results are gone, leave the book; so does what is known of them. -/
def pruneSheet (s : State) (g : Nat) : State :=
  match getCast s g with
  | none => s
  | some k =>
    let keepsResults := fun (q : Nat) => ((findRun s g q).map (fun r => r.stripes.any (fun x => !x.results.isEmpty))).getD false
    let old := (k.sheet.filter (·.ended)).dropLast.take ((k.sheet.filter (·.ended)).length - 16)
    let gone := (old.filter (fun e => !keepsResults e.seq)).map (·.seq)
    let s := modCast s g (fun k => { k with sheet := k.sheet.filter (fun e => !(e.ended && gone.contains e.seq)) })
    { s with itv.coll.runs := s.itv.coll.runs.filter (fun r => !(r.group == g && gone.contains r.seq)) }

def cueSheetAddCmd : Cmd := fun s c =>
  let v := s.itv
  let op := byteAt c.payload 8
  let q := natAt c.payload 2 2
  let k := castNamed s c
  let early := [(op == 0 || decide (op > 0x0B), St.badarg, 8), unlicensed (holdsChorus v), unlicensed (op != COp.kernel || holdsKernel v),
                (k.isNone, St.badarg, 0)]
  checked s early (fun _ =>
    match k with
    | none => (s, none)
    | some k =>
      let g := natAt c.payload 0 2
      checked s ([((k.nextSeq.map (· != q)).getD false, St.badarg, 2), mbz c 4 4] ++ descChecks s k c ++ partState v k.part ++
          [(decide (16 ≤ (k.sheet.filter (fun e => !e.ended)).length), St.busy, 0)]) (fun _ =>
        let b := slice c.payload 8 32
        let ext := if k.nextSeq.isNone then q else k.lastExt + 1
        let e : CueEntry := { seq := q, ext := ext, desc := parseDesc b, digest := descDigest b }
        let s := dropEnded s g q
        let s := modCast s g (fun k => { k with sheet := k.sheet ++ [e], nextSeq := some ((q + 1) % 65536), lastExt := ext })
        (pruneSheet s g, some { status := St.ok })))
where
  /-- An ended entry of the same sequence, 65,536 entries ago, is forgotten. -/
  dropEnded (s : State) (g q : Nat) : State :=
    { modCast s g (fun k => { k with sheet := k.sheet.filter (fun e => e.seq != q) }) with
      itv.coll.runs := s.itv.coll.runs.filter (fun r => !isRun g q r) }
def execCueSheetAdd (slot : Fin 8) (s : State) : Res :=
  .next (cmdRow s slot 0x0102 anyPayload false (.ok []) true cueSheetAddCmd)

/-! ## cue-arm, curtain-set, understudy-swap -/

/-- A registered entry becomes eligible; one without a step here has ended (R324, R571). -/
def armEntry (s : State) (g q : Nat) : State :=
  let s := modCast s g (fun k => { k with sheet := k.sheet.map (fun e => if e.seq = q ∧ !e.ended then { e with armed := true } else e) })
  match getCast s g with
  | none => s
  | some k =>
    match findEntry k q with
    | none => s
    | some e => if (stripesHere s k (castJob k e.desc)).isEmpty then endEntry s g q else s

def cueArmCmd : Cmd := fun s c =>
  let g := natAt c.payload 0 2
  let a := natAt c.payload 2 2
  let n := (natAt c.payload 4 2 + 65536 - a) % 65536 + 1
  let k := castNamed s c
  let known := fun (q : Nat) => (k.map (fun k => k.sheet.any (fun e => e.seq == q && !e.ended))).getD false
  let qs := (List.range (min n 16)).map (fun i => (a + i) % 65536)
  checked s ([unlicensed (holdsChorus s.itv), (k.isNone, St.badarg, 0), (!known a, St.badarg, 2),
      (decide (n > 16) || !qs.all known, St.badarg, 4), mbz c 6 2] ++ groupState s k) (fun _ =>
    (qs.foldl (fun s q => armEntry s g q) s, some { status := St.ok }))
def execCueArm (slot : Fin 8) (s : State) : Res :=
  .next (cmdRow s slot 0x0103 anyPayload false (.ok []) true cueArmCmd)

def curtainSetCmd : Cmd := fun s c =>
  let k := castNamed s c
  let lead := natAt c.payload 2 2
  checked s ([unlicensed (holdsChorus s.itv), (k.isNone, St.badarg, 0), (decide (lead < 64), St.badarg, 2), mbz c 4 4] ++
      groupState s k) (fun _ =>
    (modCast s (natAt c.payload 0 2) (fun k => { k with lead := lead }), some { status := St.ok }))
def execCurtainSet (slot : Fin 8) (s : State) : Res :=
  .next (cmdRow s slot 0x0104 anyPayload false (.ok []) true curtainSetCmd)

def understudySwapCmd : Cmd := fun s c =>
  let k := castNamed s c
  let r := natAt c.payload 2 2
  let node := BitVec.ofNat 16 (natAt c.payload 4 2)
  let within := fun (p : Cast → Bool) => (k.map p).getD false
  checked s ([unlicensed (holdsChorus s.itv), (k.isNone, St.badarg, 0), (within (fun k => decide (r ≥ k.nodes.length)), St.badarg, 2),
      (within (fun k => !memberSeat s.itv k.part node || k.nodes.contains node), St.badarg, 4), mbz c 6 2] ++ groupState s k ++
      [(within outstanding, St.busy, 0)]) (fun _ =>
    (modCast s (natAt c.payload 0 2) (fun k => { k with nodes := k.nodes.set r node }), some { status := St.ok }))
def execUnderstudySwap (slot : Fin 8) (s : State) : Res :=
  .next (cmdRow s slot 0x0105 anyPayload false (.ok []) true understudySwapCmd)

/-! ## prompt-book-read, entrance-read -/

def recExt (r : Bytes) : Nat := natAt r 2 6
def recStripe (r : Bytes) : Nat := natAt r 8 4
def isGap (r : Bytes) : Bool := bitOf (byteAt r 13) 3
/-- Ascending CUE_EXT, then STRIPE (R574). -/
def insertRec (r : Bytes) : List Bytes → List Bytes
  | [] => [r]
  | x :: xs =>
    if recExt r < recExt x ∨ (recExt r = recExt x ∧ recStripe r ≤ recStripe x) then r :: x :: xs else x :: insertRec r xs

/-- Records of a group from a CUE_EXT on, then every GAP record of the ring (R354, R574). -/
def bookWanted (ring : List Bytes) (g ext n : Nat) : List Bytes :=
  let mine := ring.filter (fun r => !isGap r && natAt r 0 2 == g && decide (ext ≤ recExt r))
  (mine.foldr insertRec [] ++ ring.filter isGap).take n

def promptBookReadCmd : Cmd := fun s c =>
  let g := natAt c.payload 0 2
  let n := natAt c.payload 8 4
  let fl := byteAt c.payload 12
  checked s [unlicensed (holdsPool s.itv), (decide (g > 4095), St.badarg, 0), (n == 0 || decide (n > 2097152), St.badarg, 8),
      (decide (fl > 1), St.badarg, 12), mbz c 13 3, refCheck c 16 1, (decide (bufLen c 16 < 32 * n), St.badarg, 16),
      (!hostReach s c, St.badarg, 16), (!s.itv.boot.bookDone, St.busy, 0)] (fun _ =>
    let rs := bookWanted (if fl = 1 then s.itv.coll.mirror else s.itv.coll.book) g (natAt c.payload 2 6) n
    (s, some { status := St.ok, result := leBytes 4 rs.length, bulk := some (16, rs.flatten) }))
def execPromptBookRead (slot : Fin 8) (landed : Bool) (s : State) : Res :=
  .next (cmdRow s slot 0x0106 anyPayload false (.ok []) landed promptBookReadCmd)

/-- Entrance records of a group (0xFFFF: all) and a sequence (none: all), newest last (R343, R574). -/
def entrancesWanted (xs : List Bytes) (g : Nat) (q : Option Nat) : List Bytes :=
  xs.filter (fun r => (g == 0xFFFF || natAt r 0 2 == g) && ((q.map (natAt r 2 2 == ·)).getD true))

def entranceReadCmd : Cmd := fun s c =>
  let g := natAt c.payload 0 2
  let fl := byteAt c.payload 4
  checked s [unlicensed (holdsChorus s.itv), (decide (g > 4095) && g != 0xFFFF, St.badarg, 0), (decide (fl > 1), St.badarg, 4),
      mbz c 5 11, refCheck c 16 1, (decide (bufLen c 16 < 2097152), St.badarg, 16), (!hostReach s c, St.badarg, 16)]
      (fun _ =>
    let rs := entrancesWanted s.itv.coll.entrances g (if fl = 1 then none else some (natAt c.payload 2 2))
    (s, some { status := St.ok, result := leBytes 4 rs.length, bulk := some (16, rs.flatten) }))
def execEntranceRead (slot : Fin 8) (landed : Bool) (s : State) : Res :=
  .next (cmdRow s slot 0x0107 anyPayload false (.ok []) landed entranceReadCmd)

/-! ## chorus-load, chorus-check -/

/-- An outstanding entry names the kernel of a slot (R434, R443). -/
def kernelNamed (s : State) (k : Nat) : Bool :=
  s.itv.coll.casts.any (fun c => c.2.sheet.any (fun e => !e.ended && e.desc.op == COp.kernel && kernelSlot e.desc == k))

/-- A cluster or a core is in reset (R698). -/
def coreResetting (s : State) : Bool := s.itv.coll.resetting != 0

/-- Instruction words of the kernels in the slots but `k` (R434). -/
def wordsLoaded (s : State) (k : Nat) : Nat :=
  ((s.itv.coll.kernels.filter (fun x => x.1 != k)).map (fun x => objWords x.2.obj)).sum

def chorusObjectCmd (load : Bool) : Cmd := fun s c =>
  let k := byteAt c.payload 0
  checked s [unlicensed (!load || holdsKernel s.itv), (if load then decide (k > 63) else k != 0, St.badarg, 0), mbz c 1 15,
      refCheck c 16 0, (decide (bufLen c 16 > 721024), St.badarg, 24)] (fun _ =>
    withHost s c 16 (fun obj =>
      let v := checkObject obj
      let reply := fun (s : State) (st detail h : Nat) =>
        let (s, r) := verdictResult s obj v h
        (s, some ({ status := st, detail := detail, result := r } : Reply))
      if v.reason ≠ 0 then reply s St.denied v.reason 0
      else if !load then reply s St.ok 0 0
      else if kernelNamed s k || coreResetting s then reply s St.busy 0 0
      else if wordsLoaded s k + objWords obj > 65536 then reply s St.empty 0 0
      else
        let gen := kgetD s.itv.coll.gens k 0 + 1
        let s := { s with itv.coll.gens := kset s.itv.coll.gens k gen,
                          itv.coll.kernels := kset s.itv.coll.kernels k { obj := obj, gen := gen } }
        reply s St.ok 0 ((gen * 65536 + k + 1) % 2 ^ 32)))
def execChorusLoad (slot : Fin 8) (host : HostRead) (s : State) : Res :=
  .next (cmdRow s slot 0x0108 anyPayload false host true (chorusObjectCmd true))
def execChorusCheck (slot : Fin 8) (host : HostRead) (s : State) : Res :=
  .next (cmdRow s slot 0x0109 anyPayload false host true (chorusObjectCmd false))

end Sys2Proof.Machine
end

