-- ==== Sys2Proof/Machine/Rehearsal.lean ====
section
/-! DEFINITION. The rehearsal of a port, the running monitor, clock loss and the reference clocks (R37 to R76). -/

namespace Sys2Proof.Machine

open Sys2Proof

/-- The meaning acts only when `c` holds; otherwise nothing happens. -/
def whenever (c : Bool) (s : State) (f : State → State) : State := if c then f s else s

/-! ## DARK to ALIGN -/

/-- Both reference inputs lost for 100 µs: no port rehearses (R72). -/
def refDead (s : State) : Side → Bool
  | .itv => s.itv.boot.bothLost.isSome
  | .blg => s.blg.bothLost.isSome

/-- A rehearsal begins: lanes usable but for those still shorted, taps at their start values (R44, R66). -/
def beginRehearsal (p : Port) : Port :=
  { clearLink p with
    txUse := ~~~ (p.shorted.extractLsb' 0 8), rxUse := 0xFF, rxOut := 0, redo := none, clkTx := 0, clkRx := 0,
    inverted := 0, reversed := false, heard := [], copies := 0, ackSent := false, ackSeen := false, verdict := 0,
    heldFor := .none, modeTx := none, modeRx := none, rev := 0, features := 0, taps := List.replicate 9 (4, 8) }

/-- The ports of Itvos start once Yalny has started, and stay DARK in greenroom (R680, R720); those of Belug start by
themselves (R689). -/
def mayRehearse (s : State) (r : PortRef) : Bool :=
  match r with
  | .itv _ => s.itv.boot.started && !s.itv.boot.held
  | .blg _ => true

/-- PORT_RETRY (R48): an enabled port in DARK or DOWN whose wait has passed leaves for DETECT. -/
def portRetryOp (s : State) (r : PortRef) : State :=
  let p := getPort s r
  whenever ((p.st == .dark || p.st == .down) && p.enabled && mayRehearse s r && !(refDead s (refSide r) && p.reason == .refclk)
      && passed s p.since (p.waitMs * 1000000)) s
    (fun s => setSt (modPort s r beginRehearsal) r .detect p.reason)
def execPortRetry (r : PortRef) (s : State) : Res := .next (portRetryOp s r)

/-- Faults found are counted per lane (R66). -/
def countLanes (p : Port) (m : BitVec 9) : Port :=
  { p with laneFaults := (List.range 9).map (fun i => lget p.laneFaults i + b2n (m.getLsbD i)) }

/-- DETECT (R47, R65, R66): shorted legs, then far terminations; no far end at all takes the port DOWN with FACING. -/
def detectOp (s : State) (r : PortRef) (o : DetectObs) : State :=
  whenever ((getPort s r).st == .detect) s (fun s =>
    if o.term = 0 && !o.signal then
      failTo (modPort s r (fun p => countLanes { p with shorted := o.short } o.short)) r .down .facing
    else
      let bad := o.short ||| ~~~ o.term
      let s := modPort s r (fun p => countLanes { p with shorted := o.short, txUse := ~~~ (bad.extractLsb' 0 8),
                                                         clkTx := if bad.getLsbD 8 then 3 else 0 } bad)
      setSt s r .clock (if o.short != 0 then .short else if bad != 0 then .opened else .none))
def execDetect (r : PortRef) (obs : DetectObs) (s : State) : Res := .next (detectOp s r obs)

/-- The stand-in of R42: lane 7 if usable, else lane 0, else none. -/
def standinOf (use : BitVec 8) : Nat := if use.getLsbD 7 then 1 else if use.getLsbD 0 then 2 else 3

/-- CLOCK (R42, R47): lock to the clock lane, else lane 7, else lane 0; with no clock source in a direction the attempt fails. -/
def clockOp (s : State) (r : PortRef) (o : ClockObs) : State :=
  let p := getPort s r
  whenever (p.st == .clock) s (fun s =>
    let rx := if o.clk then 0 else if o.lane7 then 1 else if o.lane0 then 2 else 3
    let tx := if o.txClk && p.clkTx != 3 then 0 else standinOf p.txUse
    let s := modPort s r (fun p => countLanes { p with clkRx := rx, clkTx := tx } (if rx = 0 then 0 else 0x100#9))
    if rx = 3 || tx = 3 then failTo s r .down .clockLane
    else setSt s r .align (if rx != 0 || tx != 0 then .clockLane else p.reason))
def execClock (r : PortRef) (obs : ClockObs) (s : State) : Res := .next (clockOp s r obs)

/-- The lanes on which a pattern arrived. -/
def seenLanes (order : List (Option Nat)) : List (Nat × Nat) :=
  (List.range 8).filterMap (fun i => match order[i]? with
    | some (some l) => some (i, l)
    | _ => none)

/-- ALIGN (R49): polarity, order as sent or fully reversed, skew; any other order ends the attempt with LANE_ORDER. -/
def alignOp (s : State) (r : PortRef) (o : AlignObs) : State :=
  let p := getPort s r
  whenever (p.st == .align) s (fun s =>
    let seen := seenLanes o.order
    let straight := seen.all (fun x => x.2 == x.1)
    let rev := seen.all (fun x => x.2 == 7 - x.1)
    if !straight && !rev then failTo s r .dark .laneOrder
    else
      let use : BitVec 8 := seen.foldl (fun m x => setBit m x.2 true) 0
      let lost : BitVec 9 := (~~~ use).setWidth 9
      let s := modPort s r (fun p => countLanes { p with
                 rxUse := use &&& ~~~ p.rxOut, inverted := o.inverted,
                 reversed := !straight && rev, skew := o.skew, heard := [], copies := 0, ackSent := false,
                 ackSeen := false } lost)
      let s := setSt s r .offer (if use != 0xFF then .opened else p.reason)
      sendOffer s r)
def execAlign (r : PortRef) (obs : AlignObs) (s : State) : Res := .next (alignOp s r obs)

/-! ## OFFER and NAMES -/

/-- The highest protocol revision both frames accept (R52); 0: none. -/
def commonRev (a b : Byte) : Nat :=
  let hi := min (a.toNat % 16) (b.toNat % 16)
  if max (a.toNat / 16) (b.toNat / 16) ≤ hi then hi else 0

/-- The end of OFFER (R52 to R54, R57, R59): revision, features, modes, dress length; then NAMES, or HELD without a chart. -/
def modeChoice (s : State) (r : PortRef) (o : Offer) : State :=
  let p := getPort s r
  let own := ownOffer s r
  let minM := max own.minMode.toNat o.minMode.toNat
  let rates := match p.redo with
    | some k => 2 ^ k
    | none => own.rates.toNat &&& o.rates.toNat
  let uTx := usableLanes p.txUse o.rxLanes p.clkTx
  let uRx := usableLanes p.rxUse o.txLanes p.clkRx
  let rev := commonRev own.rev o.rev
  if rev = 0 then failTo s r .down .rev
  else
    match bestMode rates uTx minM, bestMode rates uRx minM with
    | some a, some b =>
      let rate := min (rateOf a) (rateOf b)
      match modeAt rate uTx minM, modeAt rate uRx minM with
      | some mt, some mr =>
        let dress := match p.redo with
          | some _ => 24
          | none => max own.dressLog2.toNat o.dressLog2.toNat
        let s := modPort s r (fun p => { p with
                    rev := rev, modeTx := some mt, modeRx := some mr, minMode := minM,
                    dressLog2 := dress, features := BitVec.ofNat 4 (own.features.toNat &&& o.features.toNat) })
        match r with
        | .itv _ => if s.itv.routing.chart.isNone then
                      sendOffer (setSt (modPort s r (fun p => { p with verdict := 2, heldFor := .noChart })) r .held .noChart) r
                    else setSt s r .names p.reason
        | .blg _ => setSt s r .names p.reason
      | _, _ => failTo s r .down .minMode
    | _, _ => failTo s r .down .minMode

/-- R769: both checks passed: SHIFT; the partner holds the port: HELD with PARTNER_HELD; the partner holds it no more: back to
NAMES. -/
def namesSettle (s : State) (r : PortRef) : State :=
  let p := getPort s r
  let v : Nat := (p.partner.map (fun o => o.verdict.toNat % 4)).getD 0
  if p.st == .names && p.verdict == 1 && v == 1 then setSt s r .shift p.reason
  else if p.st == .names && p.verdict == 1 && v == 2 then setSt s r .held .partnerHeld
  else if p.st == .held && p.reason == .partnerHeld && v == 1 then setSt s r .shift .none
  else if p.st == .held && p.reason == .partnerHeld && v == 0 then setSt s r .names .none
  else s

/-- A frame accepted after its eighth identical good copy (R51). -/
def acceptOffer (s : State) (r : PortRef) (o : Offer) : State :=
  let p := getPort s r
  let s := modPort s r (fun p => { p with partner := some o })
  if p.st = .offer then
    let s := if p.ackSent then s else sendOffer (modPort s r (fun p => { p with ackSent := true })) r
    if o.ack.getLsbD 0 then modeChoice (modPort s r (fun p => { p with ackSeen := true })) r o else s
  else namesSettle s r

/-- OFFER_FRAME (R51, R769): one copy of the partner's frame arrives. -/
def offerFrameOp (s : State) (r : PortRef) (frame : Bytes) : State :=
  let p := getPort s r
  whenever (p.st == .offer || p.st == .names || p.st == .held) s (fun s =>
    if !offerGood frame then modPort s r (fun p => { p with heard := [], copies := 0 })
    else
      let n := if frame = p.heard then p.copies + 1 else 1
      let s := modPort s r (fun p => { p with heard := frame, copies := n })
      if n = 8 then acceptOffer s r (parseOffer frame) else s)
def execOfferFrame (r : PortRef) (frame : Bytes) (s : State) : Res :=
  if frame.length = 64 then .next (offerFrameOp s r frame) else .fault .illFormed

/-- R58: the partner's PART, OWN_ID and OWN_PORT match the chart entry of logical port `n`. -/
def itvMatches (v : Itvos) (n : Nat) (o : Offer) : Bool :=
  match chartPort v n with
  | none => false
  | some e =>
    e.part != 0 && o.part.toNat == e.part && o.ownPort.toNat == e.peerPort &&
      (o.ownId == e.peerId || (e.part == 2 && o.ownId == 0xFFFF))

/-- R60: the partner of BPp is a house switch of plane p. -/
def blgMatches (n : Nat) (o : Offer) : Bool := o.part == 1 && swPlane o.ownId == n && swTier o.ownId == 0

/-- R60: the node ID, plane count and FORM of the first port that passes NAMES; HOME_MAP entry i := i mod n (R525). -/
def adopt (b : Belug) (o : Offer) : Belug :=
  let n := o.planes.toNat
  { b with node := o.assigned, planes := some n, form := o.form.toNat % 4,
           homeMap := if b.homeWritten then b.homeMap else (List.range 24).map (fun i => i % n) }

/-- Hold the port (R769). -/
def holdPort (s : State) (r : PortRef) (why : Reason) : State :=
  sendOffer (setSt (modPort s r (fun p => { p with verdict := 2, heldFor := why })) r .held why) r

/-- The own check has passed (R769). -/
def passNames (s : State) (r : PortRef) : State :=
  namesSettle (sendOffer (modPort s r (fun p => { p with verdict := 1, heldFor := .none })) r) r

/-- NAMES (R58 to R60, R769). -/
def namesOp (s : State) (r : PortRef) : State :=
  let p := getPort s r
  match p.partner with
  | none => s
  | some o =>
    whenever (p.st == .names && p.verdict == 0) s (fun s =>
      match r with
      | .itv i =>
        if s.itv.routing.chart.isNone then holdPort s r .noChart
        else if itvMatches s.itv i.val o then passNames (namesHook s i.val o) r
        else holdPort s r .miswired
      | .blg i =>
        if !blgMatches i.val o then holdPort s r .miswired
        else
          match s.blg.planes with
          | none => passNames { s with blg := adopt s.blg o } r
          | some n =>
            if n = o.planes.toNat ∧ s.blg.node = o.assigned ∧ s.blg.form = o.form.toNat % 4 then passNames s r
            else holdPort s r .nodeConflict)
def execNames (r : PortRef) (s : State) : Res := .next (namesOp s r)

/-! ## SHIFT to READY -/

/-- SHIFT (R47): at the chosen rate, relocked and deskewed. -/
def shiftOp (s : State) (r : PortRef) : State :=
  whenever ((getPort s r).st == .shift) s (fun s => setSt s r .tune (getPort s r).reason)
def execShift (r : PortRef) (s : State) : Res := .next (shiftOp s r)

/-- One tap under one request (R44, R45): the new value and the answer (0 NONE, 1 DONE, 2 AT_LIMIT). -/
def tapStep (v lim start : Nat) (req : BitVec 2) : Nat × Nat :=
  if req = 0 then (v, 0)
  else if req = 1 then (if v < lim then (v + 1, 1) else (v, 2))
  else if req = 2 then (if 0 < v then (v - 1, 1) else (v, 2))
  else (start, 1)

/-- TAP_REQUEST (R44, R45): C(−1) in 0 to 16, C(+1) in 0 to 24; C(0) is never set directly. -/
def tapRequestOp (s : State) (r : PortRef) (lane : Fin 9) (pre post : BitVec 2) : State :=
  let p := getPort s r
  whenever (p.st == .tune) s (fun s =>
    let t := p.taps.getD lane.val (4, 8)
    let a := tapStep t.1 16 4 pre
    let c := tapStep t.2 24 8 post
    emit (modPort s r (fun p => { p with taps := p.taps.set lane.val (a.1, c.1) })) (.tapAnswer r lane.val a.2 0 c.2))
def execTapRequest (r : PortRef) (lane : Fin 9) (pre : BitVec 2) (_mid : BitVec 2) (post : BitVec 2) (s : State) : Res :=
  .next (tapRequestOp s r lane pre post)

/-- TUNE_DONE (R46). -/
def tuneDoneOp (s : State) (r : PortRef) : State :=
  whenever ((getPort s r).st == .tune) s (fun s => setSt s r .dress (getPort s r).reason)
def execTuneDone (r : PortRef) (s : State) : Res := .next (tuneDoneOp s r)

/-- TUNE_TIMEOUT (R46): 20 ms after tuning began the taps are kept and the port goes on to DRESS. -/
def tuneTimeoutOp (s : State) (r : PortRef) : State :=
  let p := getPort s r
  whenever (p.st == .tune && passed s p.since 20000000) s (fun s => setSt s r .dress p.reason)
def execTuneTimeout (r : PortRef) (s : State) : Res := .next (tuneTimeoutOp s r)

/-- R62: one direction passes. -/
def dressPass (log2 : Nat) (o : DressObs) : Bool := o.crcFails == 0 && decide (o.threeCorr * 2 ^ 20 ≤ 2 * 2 ^ log2)

/-- The lane on which at least 75 % of the byte errors fell (R63). -/
def worstLane (errs : List Nat) : Option Nat :=
  let tot := errs.sum
  if tot = 0 then none else (List.range errs.length).find? (fun i => decide (3 * tot ≤ 4 * lget errs i))

/-- What a failed direction calls for (R63): a lane, or a rate step. -/
def fallbackLane (mode : Nat) (o : DressObs) : Option Nat :=
  if modeWidth mode > 2 then worstLane o.laneErrs else none

/-- The next lower rate that both ends support. -/
def nextRate (p : Port) (own : Offer) : Option Nat :=
  let both := own.rates.toNat &&& ((p.partner.map (fun o => o.rates.toNat)).getD 7)
  ([1, 0].filter (fun k => decide (k < currentRate p) && bitOf both k)).head?

/-- Lanes usable in each direction now, with this end's and the partner's masks. -/
def uTxOf (p : Port) : Nat := usableLanes p.txUse ((p.partner.map (·.rxLanes)).getD 0xFF) p.clkTx
def uRxOf (p : Port) : Nat := usableLanes p.rxUse ((p.partner.map (·.txLanes)).getD 0xFF) p.clkRx

/-- Both directions take their best modes at `rate`, back to SHIFT; below the higher MIN_MODE the port goes DOWN (R63). -/
def refit (s : State) (r : PortRef) (rate : Nat) : State :=
  let p := getPort s r
  match modeAt rate (uTxOf p) p.minMode, modeAt rate (uRxOf p) p.minMode with
  | some mt, some mr => setSt (modPort s r (fun p => { p with modeTx := some mt, modeRx := some mr })) r .shift p.reason
  | _, _ => failTo s r .down .dress

/-- A lane retired by R63 is reported as PORT (R625). -/
def laneRetired (s : State) : PortRef → State
  | .itv _ => raiseEvent s Ev.port
  | .blg _ => raiseIrq s Irq.port

/-- DRESS_REHEARSAL (R62, R63): `own` is this receiver's count, `other` the partner's. -/
def dressOp (s : State) (r : PortRef) (own other : DressObs) : State :=
  let p := getPort s r
  whenever (p.st == .dress) s (fun s =>
    let okRx := dressPass p.dressLog2 own
    let okTx := dressPass p.dressLog2 other
    if okRx && okTx then enterReady s r
    else
      let laneRx := fallbackLane (p.modeRx.getD 11) own
      let laneTx := fallbackLane (p.modeTx.getD 11) other
      let step := (!okRx && laneRx.isNone) || (!okTx && laneTx.isNone)
      let s := match okRx, laneRx with
        | false, some l => laneRetired (modPort s r (fun p => { p with rxUse := setBit p.rxUse l false,
                                                                       rxOut := setBit p.rxOut l true })) r
        | _, _ => s
      let s := match okTx, laneTx with
        | false, some l => modPort s r (fun p => { p with txUse := setBit p.txUse l false })
        | _, _ => s
      if step then
        match nextRate p (ownOffer s r) with
        | some k => refit s r k
        | none => failTo s r .down .dress
      else refit s r (currentRate p))
def execDressRehearsal (r : PortRef) (own : DressObs) (partner : DressObs) (s : State) : Res := .next (dressOp s r own partner)

/-- Time of the dress rehearsal in ns: 2^DRESS_LOG2 flits at the flit time of the slower direction (R43, R57). -/
def flitBeats56 (mode : Nat) : Nat := [56, 64, 112, 112, 128, 224, 224, 224, 256, 448, 448, 896].getD mode 896
def dressNs (p : Port) : Nat :=
  2 ^ p.dressLog2 * max (flitBeats56 (p.modeTx.getD 11)) (flitBeats56 (p.modeRx.getD 11)) * 8 / (56 * 7)

/-- The timeout of R47 in ns; none where the state has none. -/
def stateTimeout (p : Port) : Option Nat :=
  match p.st with
  | .detect => some 100000
  | .clock => some 200000
  | .align => some 500000
  | .offer => some 1000000
  | .names => if (p.partner.map (fun o => o.verdict.toNat % 4)).getD 0 = 0 then some 100000 else none
  | .shift => some 500000
  | .dress => some (dressNs p)
  | _ => none

/-- REHEARSAL_TIMEOUT (R47, R769). -/
def rehearsalTimeoutOp (s : State) (r : PortRef) : State :=
  let p := getPort s r
  match stateTimeout p with
  | some t => whenever (passed s p.since t) s (fun s => failTo s r .dark p.reason)
  | none => s
def execRehearsalTimeout (r : PortRef) (s : State) : Res := .next (rehearsalTimeoutOp s r)

/-! ## In service -/

/-- RUNNING_MONITOR (R64): more than 64 flits failed in 1 s; R63 applies to the lanes of that second. -/
def runningMonitorOp (s : State) (r : PortRef) (o : DressObs) : State :=
  let p := getPort s r
  whenever (p.st == .ready && decide (o.crcFails > 64)) s (fun s =>
    match fallbackLane (p.modeRx.getD 11) o with
    | some l =>
      let s := realign (laneRetired s r) r (currentRate p)
      modPort s r (fun p => { p with rxUse := setBit p.rxUse l false, rxOut := setBit p.rxOut l true })
    | none =>
      match nextRate p (ownOffer s r) with
      | some k => realign s r k
      | none => failTo s r .down .dress)
def execRunningMonitor (r : PortRef) (obs : DressObs) (s : State) : Res := .next (runningMonitorOp s r obs)

/-- PHASE_RECENTRE (R39): each data lane's sampling phase moves by the steps the monitor found, in 1/64 UI. -/
def phaseRecentreOp (s : State) (r : PortRef) (steps : List Int) : State :=
  whenever ((getPort s r).st == .ready) s (fun s =>
    modPort s r (fun p => { p with phase := (List.range 8).map (fun i => p.phase.getD i 0 + steps.getD i 0) }))
def execPhaseRecentre (r : PortRef) (steps : List Int) (s : State) : Res := .next (phaseRecentreOp s r steps)

/-- SHORT_PROBE (R50, R66): a lane found clear returns to use at the next rehearsal. -/
def shortProbeOp (s : State) (r : PortRef) (lane : Fin 9) (still : Bool) : State :=
  modPort s r (fun p => if p.shorted.getLsbD lane.val && !still then { p with shorted := setBit p.shorted lane.val false } else p)
def execShortProbe (r : PortRef) (lane : Fin 9) (still : Bool) (s : State) : Res := .next (shortProbeOp s r lane still)

/-- CLOCK_LOSS (R67, R69, R73, R168). -/
def clockLossOp (s : State) (r : PortRef) : State :=
  let p := getPort s r
  match p.st with
  | .ready =>
    if p.clockLost then s
    else
      let s := bumpPort s r .clockDiscard 1
      if p.standin then leaveReady s r .dark .clockLane
      else modPort s r (fun p => countLanes { p with
                                                    clockLost := true, lostAt := s.now, excluded := true,
                                                    ctlDue := p.ctlDue ++ [2] } 0x100#9)
  | .dress => setSt s r .clock .clockLane
  | .clock | .align | .offer | .names | .shift | .tune => failTo s r .dark .clockLane
  | _ => s
def execClockLoss (r : PortRef) (s : State) : Res := .next (clockLossOp s r)

/-- STANDIN_TIMEOUT (R168): no ALIGN_DONE 100 µs after clock loss. -/
def standinTimeoutOp (s : State) (r : PortRef) : State :=
  let p := getPort s r
  whenever (p.st == .ready && p.clockLost && passed s p.lostAt 100000) s (fun s => leaveReady s r .dark .clockLane)
def execStandinTimeout (r : PortRef) (s : State) : Res := .next (standinTimeoutOp s r)

/-! ## Reference clocks (R70 to R72) -/

/-- Inputs lost (A, B), input in use, both lost since: of one chip. -/
def getRef (s : State) : Side → Bool × Bool × Bool × Option Nat
  | .itv => (s.itv.boot.lostA, s.itv.boot.lostB, s.itv.boot.useB, s.itv.boot.bothLost)
  | .blg => (s.blg.lostA, s.blg.lostB, s.blg.useB, s.blg.bothLost)

def setRef (s : State) (d : Side) (a b use : Bool) (both : Option Nat) : State :=
  match d with
  | .itv => { s with itv.boot.lostA := a, itv.boot.lostB := b, itv.boot.useB := use, itv.boot.bothLost := both }
  | .blg => { s with blg.lostA := a, blg.lostB := b, blg.useB := use, blg.bothLost := both }

def sideRefs : Side → List PortRef
  | .itv => itvRefs
  | .blg => blgRefs

/-- REFCLK_LOSS (R70): the PLLs move to the other input; with both lost, holdover begins (R72). -/
def refclkLossOp (s0 : State) (d : Side) (inputB : Bool) : State :=
  let (a, b, use, both) := getRef s0 d
  let a' := a || !inputB
  let b' := b || inputB
  let use' := if a' && b' then use else !b' && (use || a')
  let s := setRef s0 d a' b' use' (if a' && b' then (if both.isSome then both else some s0.now) else none)
  match d with
  | .itv =>
    let new := if inputB then !b else !a
    let s := if new then bump s (coreIdx 0 (if inputB then 20 else 19)) 1 else s
    noteState s0 s
  | .blg => s
def execRefclkLoss (side : Side) (inputB : Bool) (s : State) : Res := .next (refclkLossOp s side inputB)

/-- REFCLK_HOLDOVER_END (R72): 100 µs after both were lost every port goes DOWN with REFCLK. -/
def refclkHoldoverEndOp (s : State) (d : Side) : State :=
  match (getRef s d).2.2.2 with
  | none => s
  | some t =>
    whenever (passed s t 100000) s (fun s =>
      (sideRefs d).foldl (fun s r => if (getPort s r).enabled then moveTo s r .down .refclk else s) s)
def execRefclkHoldoverEnd (side : Side) (s : State) : Res := .next (refclkHoldoverEndOp s side)

/-- REFCLK_RETURN (R71, R72): no switch back; ports that went DOWN for the loss of both begin rehearsal again. -/
def refclkReturnOp (s0 : State) (d : Side) (inputB : Bool) : State :=
  let (a, b, use, both) := getRef s0 d
  let a' := a && inputB
  let b' := b && !inputB
  let s := setRef s0 d a' b' (if both.isSome then inputB else use) none
  let s := if both.isSome then
      (sideRefs d).foldl (fun s r =>
        let p := getPort s r
        if p.st = .down ∧ p.reason = .refclk then modPort (setSt s r .dark .none) r (fun p => { p with waitMs := 0 }) else s) s
    else s
  match d with
  | .itv => noteState s0 s
  | .blg => s
def execRefclkReturn (side : Side) (inputB : Bool) (s : State) : Res := .next (refclkReturnOp s side inputB)

end Sys2Proof.Machine
end

