-- ==== Sys2Proof/Machine/ChartOps.lean ====
section
/-! DEFINITION. Seating charts (R733 to R736), the default tables (R161), the checks of route-stage (R162). -/

namespace Sys2Proof.Machine

open Sys2Proof

def chartSize : Nat := 128 + 32 * 72

def parseChartPort (b : Bytes) (p : Nat) : ChartPort :=
  let a := 128 + 32 * p
  let fl := byteAt b (a + 1)
  { part := byteAt b a, up := bitOf fl 0, fecBypass := bitOf fl 1, weightsGiven := bitOf fl 2,
    peerId := BitVec.ofNat 16 (natAt b (a + 2) 2), peerPort := byteAt b (a + 4), dressLog2 := byteAt b (a + 5),
    minMode := byteAt b (a + 6), length := natAt b (a + 8) 2, modNear := byteAt b (a + 10), modFar := byteAt b (a + 11),
    weights := (List.range 7).map (fun i => byteAt b (a + 12 + i)) }

def parseChart (b : Bytes) : Chart :=
  { form := byteAt b 6, rootPlane := byteAt b 7, version := natAt b 8 4, planes := BitVec.ofNat 24 (natAt b 12 3),
    serial := BitVec.ofNat 64 (natAt b 16 8), swid := BitVec.ofNat 16 (natAt b 24 2), principalLimit := byteAt b 26,
    retryMax := byteAt b 27, e2eTimeout := natAt b 28 4, ageLimit := natAt b 32 4, longestL := natAt b 36 4,
    relayNext := (List.range 4).map (fun i => BitVec.ofNat 16 (natAt b (40 + 2 * i) 2)),
    ports := (List.range 72).map (parseChartPort b) }

/-- H of R185. -/
def hopsOf (form : Nat) : Nat := if form = 0 then 1 else if form = 1 then 3 else 5

/-- MAX_FLIGHT in whole ns, rounded up (R185, R735). -/
def maxFlightOf (c : Chart) : Nat := hopsOf c.form * c.ageLimit * 1000 + 50000 + (c.longestL * 8 + 6) / 7
/-- E2E_TIMEOUT below 2 × MAX_FLIGHT + SERVICE_LIMIT (R736), in sevenths of a ns. -/
def e2eShort (c : Chart) : Bool :=
  decide (7000 * c.e2eTimeout < 14 * (hopsOf c.form * c.ageLimit * 1000 + 50000) + 16 * c.longestL + 1400000)
/-- A switch ID that R24, R29, R30 and R21 give a switch of this form, its plane fitted (R736). -/
def swidGood (c : Chart) : Bool :=
  let i := swIndex c.swid
  c.planes.getLsbD (swPlane c.swid) &&
    match c.form, swTier c.swid with
    | 0, 0 => i == 0
    | 1, 0 => decide (i < 72)
    | 1, 1 => decide (i < 24)
    | 2, 0 => decide (i < 342)
    | 2, 1 => decide (i < 192)
    | 2, 2 => decide (i < 72)
    | _, _ => false

/-- UP class that R19 and R22 give port p. -/
def upClass (c : Chart) (p : Nat) : Bool :=
  decide (48 ≤ p) && ((c.form == 1 && swTier c.swid == 0) || (c.form == 2 && decide (swTier c.swid ≤ 1)))

/-- First refused byte among checks in ascending order. -/
def firstOf (cs : List (Bool × Nat)) : Option Nat := (cs.find? (·.1)).map (·.2)

/-- Bytes `a` to `a + n - 1` must be zero: a byte that is not is refused at its own offset. -/
def zeroChecks (b : Bytes) (a n : Nat) : List (Bool × Nat) := (List.range n).map (fun i => (byteAt b (a + i) != 0, a + i))

/-- Checks of one port entry, in byte order (R734, R736). -/
def portChecks (c : Chart) (b : Bytes) (p : Nat) : List (Bool × Nat) :=
  let a := 128 + 32 * p
  let e := c.ports.getD p {}
  let house := swTier c.swid == 0
  let seatPort := house && !upClass c p
  [(decide (e.part > 2) || (e.part == 2 && !seatPort), a),
   (decide (byteAt b (a + 1) ≥ 8) || e.up != upClass c p, a + 1),
   (e.part == 2 && e.peerId.toNat != swIndex c.swid * 128 + p, a + 2),
   (e.part == 2 && e.peerPort != swPlane c.swid, a + 4),
   (e.dressLog2 != 0 && (decide (e.dressLog2 < 20) || decide (e.dressLog2 > 32)), a + 5),
   (decide (e.minMode > 11), a + 6), (byteAt b (a + 7) != 0, a + 7),
   (e.weightsGiven && (e.weights.any (· == 0) || e.weights.sum != 64), a + 12)] ++ zeroChecks b (a + 19) 13

/-- The offset of the first refused byte of a chart (R736); none: its form is good. -/
def chartRefused (version : Nat) (b : Bytes) : Option Nat :=
  if b.length < chartSize then some b.length
  else
    let c := parseChart b
    firstOf ([(natAt b 0 4 != 0x54414553, 0), (natAt b 4 2 != 1, 4), (decide (c.form > 2), 6),
      (decide (c.rootPlane > 23) || (c.form != 0 && c.rootPlane != 0), 7), (c.version != version, 8),
      (byteAt b 15 != 0, 15), (!swidGood c, 24),
      (c.principalLimit != 16 && c.principalLimit != 32, 26), (decide (c.retryMax > 15), 27),
      (decide (c.e2eTimeout < 100) || decide (c.e2eTimeout > 100000) || e2eShort c, 28),
      (decide (c.ageLimit < 10) || decide (c.ageLimit > 1000), 32)] ++ zeroChecks b 48 80 ++
      (List.range 72).flatMap (portChecks c b))

/-! ## Default tables (R161) -/

def portMask (ps : List Nat) : BitVec 72 := ps.foldl (fun m p => setBit m p true) 0
/-- Group p (0 to 71): port p. Group 72: ports 48 to 71. Group 73: RELAY. Group 80 + q: ports 8q to 8q + 7. Group 96 + x: up
ports 48 + 8x to 55 + 8x. -/
def defaultGroups (c : Chart) : KMap (BitVec 144) :=
  let relay := if swTier c.swid = 0 then (List.range 72).filter (fun p => (c.ports.getD p {}).part == 2)
    else (List.range 72).filter (fun p => !upClass c p && (c.ports.getD p {}).part != 0)
  (List.range 72).map (fun p => (p, (portMask [p]).setWidth 144)) ++
  [(72, (portMask ((List.range 24).map (· + 48))).setWidth 144), (73, (portMask relay).setWidth 144)] ++
  (List.range 9).map (fun q => (80 + q, (portMask ((List.range 8).map (· + 8 * q))).setWidth 144)) ++
  (List.range 3).map (fun x => (96 + x, (portMask ((List.range 8).map (· + 48 + 8 * x))).setWidth 144))

def viaGroup (g : Nat) : BitVec 16 := BitVec.ofNat 16 (0x8000 + g)

/-- The route to house h (R161). -/
def houseRoute (c : Chart) (h : Nat) : Option Nat :=
  let t := swTier c.swid
  let i := swIndex c.swid
  if t = 0 then (if c.form = 0 ∨ h = i then none else some 72)
  else if t = 1 then
    if c.form = 1 then (if h < 72 then some h else none)
    else if h / 48 = i / 24 then some (h % 48) else some 72
  else if h / 48 < 8 then some (80 + h / 48) else none

/-- The route to another switch of the plane, on the up/down path to it (R161, R21). -/
def switchRoute (c : Chart) (tier idx : Nat) : Option Nat :=
  let t := swTier c.swid
  let i := swIndex c.swid
  if tier = t ∧ idx = i then none
  else if tier = 0 then houseRoute c idx
  else if c.form = 0 then none
  else if t = 0 then
    if c.form = 1 then (if tier = 1 ∧ idx < 24 then some (48 + idx) else none)
    else if tier = 1 then some (48 + idx % 24) else if idx < 72 then some (48 + idx / 3) else none
  else if t = 1 then
    if c.form = 1 then none
    else if tier = 2 then (if idx / 3 = i % 24 then some (96 + idx % 3) else none)
    else if idx % 24 = i % 24 then some 72 else none
  else if tier = 1 then (if idx % 24 = i / 3 ∧ idx / 24 < 8 then some (80 + idx / 24) else none) else none

/-- The table set Yalny builds from a chart (R161). -/
def defaultTables (c : Chart) : RouteSet :=
  let house := swTier c.swid = 0
  { seat := if house then
        ((List.range 72).filter (fun p => !upClass c p && (c.ports.getD p {}).part == 2)).map (fun p => (p, viaGroup p)) ++
          [(96 + swPlane c.swid, 0xC000)]
      else [],
    house := (List.range 342).filterMap (fun h => (houseRoute c h).map (fun g => (h, viaGroup g))),
    switch := (List.range 1536).filterMap (fun k => (switchRoute c (k / 512) (k % 512)).map (fun g => (k, viaGroup g))),
    relay := viaGroup 73, groups := defaultGroups c }

/-! ## Staged tables (R157 to R162) -/

def tableOf (b : Bytes) (a n : Nat) : KMap (BitVec 16) :=
  (List.range n).filterMap (fun i => let v := natAt b (a + 2 * i) 2; if v = 0 then none else some (i, BitVec.ofNat 16 v))

def parseTables (b : Bytes) : RouteSet :=
  { seat := tableOf b 0 128, house := tableOf b 256 512, switch := tableOf b 1280 1536,
    relay := BitVec.ofNat 16 (natAt b 4352 2),
    groups := (List.range 256).filterMap (fun g => let v := natAt b (4608 + 24 * g) 18
      if v = 0 then none else some (g, BitVec.ofNat 144 v)) }

/-- Ports of a mask are all of one class. -/
def oneClass (cls m : BitVec 72) : Bool := (m &&& cls == 0) || (m &&& cls == m)

/-- A VALID, non-LOCAL entry whose group's PRIMARY is empty, or with a must-be-zero bit set (R158, R162). -/
def entryBad (t : RouteSet) (e : BitVec 16) : Bool :=
  (e &&& 0x3F00) != 0 ||
    (e.getLsbD 15 && !e.getLsbD 14 && ((kgetD t.groups (e.toNat % 256) 0).extractLsb' 0 72 == 0))

/-- The first refused byte of a table set (R158, R159, R162). -/
def tablesRefused (cls : BitVec 72) (b : Bytes) : Option Nat :=
  let t := parseTables b
  let entries := fun (a n : Nat) => (List.range n).map (fun i => (entryBad t (BitVec.ofNat 16 (natAt b (a + 2 * i) 2)), a + 2 * i))
  firstOf (entries 0 128 ++ entries 256 512 ++ entries 1280 1536 ++ entries 4352 1 ++
    zeroChecks b 4354 254 ++
    (List.range 256).flatMap (fun g =>
      let v := kgetD t.groups g 0
      let p := v.extractLsb' 0 72
      let q := v.extractLsb' 72 72
      (!oneClass cls p || !oneClass cls q || (p &&& q) != 0, 4608 + 24 * g) :: zeroChecks b (4608 + 24 * g + 18) 6))

/-! ## Installing a chart (R59, R61, R303, R567, R735) -/

/-- A port against the new chart (R59, R61, R769): whether it was READY and matches, whether R61 takes it down. -/
def rejudge (s : State) (n : Nat) : State × Bool × Bool :=
  let p := itvPort s n
  match itvRef n with
  | none => (s, false, false)
  | some r =>
    match p.st with
    | .held =>
      if p.reason = .noChart ∨ p.reason = .miswired then
        (setSt (modPort s r (fun p => { p with verdict := 0, heldFor := .none })) r .names .none, false, false)
      else (s, false, false)
    | .ready =>
      match p.partner with
      | some o =>
        if itvMatches s.itv n o then (s, true, false)
        else (modPort (leaveReady s r .dark .miswired) r (fun p => { p with waitMs := 0 }), false, true)
      | none => (s, true, false)
    | _ => (s, false, false)

/-- Every port in turn: READY ones that match, ones R61 takes down. -/
def rejudgeAll (s : State) : State × Nat × Nat :=
  (List.range 72).foldl (fun (acc : State × Nat × Nat) n =>
    let (s, good, bad) := rejudge acc.1 n
    (s, acc.2.1 + b2n good, acc.2.2 + b2n bad)) (s, 0, 0)

/-- The chart in force: class bits, MAX_FLIGHT, default tables staged, and active if no set ever was (R567, R735). -/
def applyChart (s : State) (c : Chart) : State :=
  let t := defaultTables c
  let cls : BitVec 72 := (List.range 72).foldl (fun m p => setBit m p (upClass c p)) 0
  let first := !s.itv.routing.everActive
  let s := { s with
    itv.routing.chart := some c, itv.routing.portClass := cls, itv.routing.maxFlight := maxFlightOf c,
    itv.routing.staged := t, itv.routing.active := if first then t else s.itv.routing.active,
    itv.routing.stagedNew := !first, itv.routing.everActive := true }
  if first then ringRecord s 0x7F false else s

/-- The root role on acceptance of a chart (R303): returned to the charted root while LOCKED; a former root takes a parent. -/
def rootOnChart (s : State) : State :=
  if chartedRoot s.itv then (if s.itv.cue.st = .locked ∧ !s.itv.cue.root then takeRoot s else s)
  else if s.itv.cue.root then reparent { s with itv.cue.root := false, itv.cue.level := none, itv.cue.heldLevel := none } .itv
  else s

end Sys2Proof.Machine
end

