-- ==== Sys2Proof/Machine/CmdLinks.lean ====
section
/-! DEFINITION. Commands on identity, links and routes (R562, R566 to R568, R171 to R175). -/

namespace Sys2Proof.Machine

open Sys2Proof

/-! ## ident -/

/-- POOL_BYTES (R33): stalls less 4 GiB, and the gallery in the pool. -/
def poolBytes (v : Itvos) : Nat := if holdsPool v then (188 + v.pool.galleryGiB) * 2 ^ 30 else 0

def orderCode (v : Itvos) : Bytes :=
  [0x44, 0x56, 0x2D, 0x49, 0x54, 0x56, 0x37, 0x32, 0x2D] ++ [if v.fuse.gradeP then 0x50 else 0x54] ++ zeros 6

def runningVersion (v : Itvos) : Nat :=
  if v.boot.mode = .greenroom then 0 else if v.boot.slot = 1 then v.flash.img1.version else v.flash.img0.version

def identResult (v : Itvos) : Bytes :=
  let g := v.pool.found.getD { perChannel := 0, mrdimm := false, gib := 0, mts := 0 }
  orderCode v ++ [v.fuse.digit, v.fuse.letter] ++ zeros 6 ++ leBytes 8 v.fuse.serial.toNat ++ leBytes 2 (swid v).toNat ++
    leBytes 1 (heldLicences v).toNat ++ zeros 1 ++ leBytes 4 (runningVersion v) ++ leBytes 1 g.perChannel ++
    leBytes 1 (b2n g.mrdimm) ++ leBytes 2 g.gib ++ leBytes 2 g.mts ++ leBytes 1 v.pool.galleryOff ++ zeros 1 ++
    leBytes 8 (poolBytes v) ++ leBytes 1 (coresInService v) ++ zeros 7

def identCmd : Cmd := fun s _ => (s, some { status := St.ok, result := identResult s.itv })
def execIdent (slot : Fin 8) (s : State) : Res :=
  .next (cmdRow s slot 0x0001 anyPayload true (.ok []) true identCmd)

/-! ## link-status (R566) -/

/-- The reason reported (R66, R76): the port's own; READY below M0 shows DEGRADED, else a lost reference input. -/
def reportReason (s : State) (p : Port) : Reason :=
  if p.st ≠ .ready then p.reason
  else if p.modeTx != some 0 || p.modeRx != some 0 then .degraded
  else if s.itv.boot.lostA then .refclkA else if s.itv.boot.lostB then .refclkB else .none

/-- A direction runs a mode only in SHIFT, TUNE, DRESS and READY. -/
def modeByte (p : Port) (m : Option Nat) : Nat :=
  match p.st with
  | .shift | .tune | .dress | .ready => m.getD 0xFF
  | _ => 0xFF

def portRecord (s : State) (n : Nat) : Bytes :=
  let p := itvPort s n
  leBytes 1 (linkStateCode p.st) ++ leBytes 1 (reasonCode (reportReason s p)) ++ leBytes 1 (modeByte p p.modeTx) ++
    leBytes 1 (modeByte p p.modeRx) ++ leBytes 1 p.features.toNat ++ leBytes 1 (p.clkTx + 4 * p.clkRx) ++ [p.txUse, p.rxUse] ++
    p.taps.flatMap (fun t => leBytes 1 t.1 ++ leBytes 1 t.2) ++ zeros 6 ++
    (match p.partner with
     | some o => let b := offerBody o; b ++ leBytes 4 (crc32 b).toNat
     | none => zeros 64) ++
    (List.range 5).flatMap (fun i => leBytes 8 (kgetD s.itv.ctr (32 * n + i) 0)) ++
    leBytes 8 (p.offset % 2 ^ 64).toNat ++ zeros 112

def linkHead (s : State) : Bytes :=
  let c := s.itv.cue
  leBytes 4 s.itv.routing.maxFlight ++ leBytes 1 (cueStateCode c.st) ++ leBytes 1 (c.level.getD 0xFF) ++
    leBytes 1 (c.parent.getD 0xFF) ++ zeros 1 ++ leBytes 8 (c.offset % 2 ^ 64).toNat ++
    leBytes 1 (b2n s.itv.boot.lostA + 2 * b2n s.itv.boot.lostB + 4 * b2n s.itv.boot.useB) ++ zeros 47

def linkStatusCmd : Cmd := fun s c =>
  let first := byteAt c.payload 0
  let count := byteAt c.payload 1
  checked s [(decide (first > 71), St.badarg, 0), (count == 0 || decide (count > 15) || decide (first + count > 72), St.badarg, 1),
             mbz c 2 6] (fun _ =>
    (s, some { status := St.ok, result := linkHead s ++ (List.range count).flatMap (fun i => portRecord s (first + i)) }))
def execLinkStatus (slot : Fin 8) (s : State) : Res :=
  .next (cmdRow s slot 0x0002 anyPayload false (.ok []) true linkStatusCmd)

/-! ## seating-load (R567) -/

def anyDrain (v : Itvos) : Bool := !v.routing.drains.isEmpty

/-- The end of seating-load: DEGRADED with the number of ports R61 takes down; the READY ports that match. -/
def seatingReply (good bad : Nat) : Reply :=
  { status := if bad = 0 then St.ok else St.degraded, detail := bad, result := leBytes 4 good }

def seatingLoadCmd : Cmd := fun s c =>
  let version := natAt c.payload 16 4
  checked s [refCheck c 0 0, mbz c 20 4] (fun _ => withHost s c 0 (fun b =>
    match chartRefused version b with
    | some off => ends s St.badarg 0 (leBytes 4 off)
    | none =>
      let ch := parseChart b
      let loaded := (s.itv.routing.chart.map (·.version))
      checked s [(ch.serial != s.itv.fuse.serial, St.mismatch, 0),
                 ((match loaded with | some v => decide (version ≤ v) | none => false), St.staleEpoch, 0),
                 (anyDrain s.itv, St.draining, 0)] (fun _ =>
        let s1 := applyChart s ch
        let s1 := modStore s1 (fun x => { x with chart := some ch })
        let x := rejudgeAll s1
        let s3 := noteState s (rootOnChart x.1)
        (s3, some (seatingReply x.2.1 x.2.2)))))
def execSeatingLoad (slot : Fin 8) (host : HostRead) (s : State) : Res :=
  .next (cmdRow s slot 0x0003 anyPayload false host true seatingLoadCmd)

/-! ## route-stage, route-commit, the drain (R171 to R175, R568) -/

def routeStageCmd : Cmd := fun s c =>
  checked s [refCheck c 0 0, (bufLen c 0 != 10752, St.badarg, 8)] (fun _ => withHost s c 0 (fun b =>
    match tablesRefused s.itv.routing.portClass b with
    | some off => ends s St.badarg 0 (leBytes 4 off)
    | none =>
      checked s [(anyDrain s.itv, St.busy, 0)] (fun _ =>
        ({ s with itv.routing.staged := parseTables b, itv.routing.stagedNew := true, itv.routing.drained := false },
         some { status := St.ok }))))
def execRouteStage (slot : Fin 8) (host : HostRead) (s : State) : Res :=
  .next (cmdRow s slot 0x0004 anyPayload false host true routeStageCmd)

/-- The ports an entry's active group names (R172). -/
def groupPorts (t : RouteSet) (e : BitVec 16) : BitVec 72 :=
  if e.getLsbD 15 && !e.getLsbD 14 then
    let b := kgetD t.groups (e.toNat % 256) 0
    b.extractLsb' 0 72 ||| b.extractLsb' 72 72
  else 0

/-- Leaving ports of one table: of each entry of the active set, those absent from the staged group (R172). -/
def tableLeaving (a st : RouteSet) (ta ts : KMap (BitVec 16)) : BitVec 72 :=
  ta.foldl (fun m e => m ||| (groupPorts a e.2 &&& ~~~ groupPorts st (kgetD ts e.1 0))) 0

def allLeaving (r : Routing) : BitVec 72 :=
  let a := r.active
  let t := r.staged
  tableLeaving a t a.seat t.seat ||| tableLeaving a t a.house t.house ||| tableLeaving a t a.switch t.switch |||
    (groupPorts a a.relay &&& ~~~ groupPorts t t.relay)

def routeCommitCmd : Cmd := fun s _ =>
  let r := s.itv.routing
  if !r.stagedNew then ends s St.denied
  else if anyDrain s.itv then ends s St.draining
  else if r.drained then
    ({ s with itv.routing.active := r.staged, itv.routing.stagedNew := false, itv.routing.drained := false,
              itv.routing.everActive := true }, some { status := St.ok })
  else
    ({ s with itv.routing.drains := r.drains ++ [{ why := .commit, ports := allLeaving r, start := s.now, lastSent := s.now }] },
     some { status := St.draining })
def execRouteCommit (slot : Fin 8) (s : State) : Res :=
  .next (cmdRow s slot 0x0005 anyPayload false (.ok []) true routeCommitCmd)

/-- A flit placed on a leaving port by a changed entry remains (R173). -/
def leavingRemain (s : State) : Bool :=
  (List.range 72).any (fun o => (itvPort s o).outq.any (fun e => (leavingPorts s.itv e.flit).getLsbD o)) ||
    s.itv.core.onPath.any (fun x => x.outs.any (fun t => (leavingPorts s.itv x.flit).getLsbD t.1))

/-- A drain has ended (R74, R173, R174). -/
def drainEnds (s : State) (d : Drain) : Bool :=
  let quiet := passed s d.lastSent s.itv.routing.maxFlight
  match d.why with
  | .commit => (quiet && !leavingRemain s) || passed s d.start (ageLimit s.itv + s.itv.routing.maxFlight)
  | .left => quiet
  | .disable | .rehearse => quiet && (portsOf d.ports).all (fun o => (itvPort s o).outq.isEmpty &&
      !s.itv.core.onPath.any (fun x => x.outs.any (fun t => t.1 == o)))

/-- What the end of one drain brings: a port disabled or sent to rehearse goes to DARK, and its command completes (R74, R586). -/
def endDrain (s : State) (d : Drain) : State :=
  match d.why with
  | .commit => { s with itv.routing.drained := true }
  | .left => s
  | .disable =>
    let s := (portsOf d.ports).foldl (fun s o => match itvRef o with
      | some r => modPort (moveTo s r .dark .disabled) r (fun p => { p with enabled := false })
      | none => s) s
    finishKept s d.slot d.sess { status := St.ok }
  | .rehearse =>
    let s := (portsOf d.ports).foldl (fun s o => match itvRef o with
      | some r => modPort (moveTo s r .dark .none) r (fun p => { p with waitMs := 0 })
      | none => s) s
    finishKept s d.slot d.sess { status := St.ok }

/-- ROUTE_DRAIN_END (R173, R74). -/
def routeDrainEndOp (s : State) : State :=
  let ended := s.itv.routing.drains.filter (drainEnds s)
  let s' := { s with itv.routing.drains := s.itv.routing.drains.filter (fun d => !drainEnds s d) }
  ended.foldl endDrain s'
def execRouteDrainEnd (s : State) : Res := .next (routeDrainEndOp s)

end Sys2Proof.Machine
end

