-- ==== Sys2Proof/Machine/PoolMem.lean ====
section
/-! DEFINITION. The tier mover (R479 to R485, R494 to R498), the re-key sweep (R487, R488), scrubs (R477, R490), the CXL.mem
window (R491, R492). -/

namespace Sys2Proof.Machine

open Sys2Proof

/-! ## DECAY (R479) -/

def decayOp (s : State) : State :=
  if passed s s.itv.pool.decayAt (s.itv.pool.decayMs * 1000000) then
    { s with itv.pool.tier := s.itv.pool.tier.map (fun e => (e.1, { e.2 with access := e.2.access / 2 })),
             itv.pool.decayAt := s.now }
  else s
def execDecay (s : State) : Res := .next (decayOp s)

/-! ## MOVE_START (R482, R483, R494) -/

/-- A sweep is working on the page (R494). -/
def sweptNow (v : Itvos) (p : Nat) : Bool := v.pool.sweeps.any (fun x => x.left.head? == some p && x.block != 0)

/-- The first page whose tier is not the one its carve's class pins it to (R480). -/
def misplaced (v : Itvos) : Option (Nat × TierEntry) :=
  v.pool.tier.find? (fun e => !e.2.moving && !sweptNow v e.1 &&
    (match kget v.pool.carves e.2.carve with
     | some k => (k.cls == .stalls && e.2.gallery) || (k.cls == .gallery && !e.2.gallery)
     | none => false))

/-- A move of `page` begins: MOVING set, a frame of the other tier reserved. -/
def beginMove (v : Itvos) (page : Nat) (e : TierEntry) (frame : Nat) (next : Option Nat) : Itvos :=
  { v with pool.tier := kset v.pool.tier page { e with moving := true },
           pool.moves := v.pool.moves ++ [{ page := page, toGallery := !e.gallery, frame := frame, next := next }] }

/-- The clock hand's choice (R482): the first AUTO stalls page from the hand on with ACCESS at or below DEMOTE. -/
def coldPage (v : Itvos) : Option (Nat × TierEntry) :=
  let ok := v.pool.tier.filter (fun e => !e.2.gallery && !e.2.pin && !e.2.moving && e.2.access ≤ v.pool.demote && !sweptNow v e.1)
  let dist := fun (f : Nat) => (f + stallsFrames - v.pool.hand) % stallsFrames
  ok.foldl (fun best e => match best with
    | none => some e
    | some b => if dist e.2.frame < dist b.2.frame then some e else some b) none

/-- A promotion of `page` (R482): into a free stalls frame, else behind the demotion of a cold page; none: blocked. -/
def promote (v : Itvos) (page : Nat) (e : TierEntry) : Option Itvos :=
  match freeFrame v false with
  | some f => some (beginMove v page e f none)
  | none =>
    match coldPage v, freeFrame v true with
    | some (p, c), some g =>
      some { beginMove v p c g (some page) with pool.hand := (c.frame + 1) % stallsFrames }
    | _, _ => none

/-- MOVE_START: while fewer than 16 moves run and ENABLE is 1, a misplaced page of a class carve moves, else the head of the
promotion queue does. -/
def moveStartOp (s : State) : State :=
  let v := s.itv
  if !v.pool.enable || decide (v.pool.moves.length ≥ 16) || v.pool.galleryOff != 0 then s
  else
    match misplaced v with
    | some (p, e) =>
      match (if e.gallery then promote v p e else (freeFrame v true).map (fun f => beginMove v p e f none)) with
      | some v => { s with itv := v }
      | none => bumpPool s .promoteBlocked
    | none =>
      match v.pool.queue with
      | [] => s
      | p :: q =>
        let s := { s with itv.pool.queue := q }
        match kget v.pool.tier p with
        | some e =>
          if !e.gallery || e.moving || e.pin then s
          else if sweptNow v p then { s with itv.pool.queue := q ++ [p] }
          else
            match promote s.itv p e with
            | some v => { s with itv := v }
            | none => bumpPool s .promoteBlocked
        | none => s
def execMoveStart (s : State) : Res := .next (moveStartOp s)

/-- MOVE_COMPLETE (R483): one write of the tier map entry; the old frame is free, or the waiting promotion takes it. -/
def moveCompleteOp (s : State) (page : Nat) : State :=
  match takeFirst (fun (m : Move) => m.page == page) s.itv.pool.moves, kget s.itv.pool.tier page with
  | some (m, rest), some e =>
    let v := { s.itv with pool.moves := rest,
                          pool.tier := kset s.itv.pool.tier page { e with moving := false, gallery := m.toGallery, frame := m.frame } }
    let v := match m.next with
      | none => v
      | some n =>
        match kget v.pool.tier n with
        | some x => if x.gallery && !x.moving then beginMove v n x e.frame none else v
        | none => v
    bumpPool { s with itv := v } .moves
  | _, _ => s
def execMoveComplete (page : Nat) (s : State) : Res := .next (moveCompleteOp s page)

/-! ## SWEEP_STEP (R487, R488, R495, R498) -/

/-- The next page of a sweep that is not MOVING, first. -/
def sweepNext (v : Itvos) (x : Sweep) : Sweep :=
  match x.left.find? (fun p => !((kget v.pool.tier p).any (·.moving))) with
  | some p => if x.left.head? = some p then x else { x with left := p :: x.left.erase p, block := 0 }
  | none => x

/-- One block re-keyed under the current key. -/
def rekey (v : Itvos) (part b : Nat) : Itvos :=
  let ks := poolKeysOf v part
  match kget v.pool.blocks b, curKey ks with
  | some m, some k =>
    if m.epoch = ks.cur || m.poison then v
    else
      match blockRead v part b with
      | .ok d => blockStore v b ks.cur k d
      | _ => v
  | _, _ => v

/-- The sweep ends: the old slot is erased. -/
def sweepEnd (v : Itvos) (part : Nat) : Itvos :=
  let ks := poolKeysOf v part
  { v with pool.sweeps := v.pool.sweeps.filter (fun x => x.part != part),
           sec.poolKeys := kset v.sec.poolKeys part (if ks.cur then { ks with key0 := none } else { ks with key1 := none }) }

/-- SWEEP_STEP: the next block of the partition's sweep; after the last page the sweep ends. -/
def sweepStepOp (s : State) (part : Fin 16) (hw : HomeHw) : State :=
  match s.itv.pool.sweeps.find? (fun x => x.part == part.val) with
  | none => s
  | some x =>
    let x := sweepNext s.itv x
    match x.left with
    | [] => { s with itv := sweepEnd s.itv part.val }
    | p :: rest =>
      if (kget s.itv.pool.tier p).any (·.moving) then s
      else
        let b := p * 1024 + x.block
        let x' := if x.block + 1 < 1024 then { x with block := x.block + 1 } else { x with left := rest, block := 0 }
        let put := fun (s : State) =>
          let s := { s with itv.pool.sweeps := s.itv.pool.sweeps.map (fun y => if y.part == part.val then x' else y) }
          if x'.left.isEmpty then { s with itv := sweepEnd s.itv part.val } else s
        match hw with
        | .xtsMismatch => unitMismatch s .xtsMismatch
        | .uncorrectable => put (poisonBlock s b)
        | _ =>
          put (if (kget s.itv.pool.blocks b).any (·.poison) then bumpPool s .poolUe
               else { s with itv := rekey s.itv part.val b })
def execSweepStep (part : Fin 16) (hw : HomeHw) (s : State) : Res := .next (sweepStepOp s part hw)

/-! ## Scrubs (R477, R490, R685) -/

/-- MODE reads READY once stalls, gallery and prompt book are settled (R685). -/
def checkReady (s : State) : State :=
  let b := s.itv.boot
  if b.mode == .starting && b.yalny && ((b.stallsTrained && s.itv.pool.stallsScrubbed) || b.stallsFailed) && b.galleryDone &&
      b.bookDone then noteState s { s with itv.boot.mode := .ready }
  else s

/-- SCRUB_DONE: scrub `i` has set ZERO in its whole range. -/
def scrubDoneOp (s : State) (i : Nat) : State :=
  match s.itv.pool.scrubs[i]? with
  | none => s
  | some x =>
    let s := { s with itv.pool.scrubs := s.itv.pool.scrubs.eraseIdx i }
    match x.tier with
    | none => { s with itv := zeroPages s.itv x.lo x.hi }
    | some false => checkReady { s with itv.pool.stallsScrubbed := true }
    | some true => checkReady { s with itv.pool.galleryScrubbed := true }
def execScrubDone (i : Nat) (s : State) : Res := .next (scrubDoneOp s i)

/-- The block lies in the gallery. -/
def inGallery (v : Itvos) (b : Nat) : Bool := (kget v.pool.tier (b / 1024)).any (·.gallery)

/-- PATROL_SCRUB: a block read and, where corrected, written back; one that cannot be corrected is poisoned. -/
def patrolScrubOp (s : State) (b : Nat) (found : ScrubFound) : State :=
  match found with
  | .good => s
  | .corrected _ => bumpPool s (if inGallery s.itv b then .ceGallery else .ceStalls)
  | .lost => poisonBlock s b
def execPatrolScrub (block : Nat) (found : ScrubFound) (s : State) : Res := .next (patrolScrubOp s block found)

/-! ## The CXL.mem window (R491, R492) -/

/-- The window carve and the pool offset of window offset `off`; none: unmapped. -/
def windowAt (v : Itvos) (off : Nat) : Option (Carve × Nat) :=
  match v.pool.window.bind (kget v.pool.carves) with
  | some k => if holdsPool v && decide (off + 64 ≤ k.len) then some (k, k.base + off) else none
  | none => none

/-- In a partitioned house the master needs the permission of the partition's key blob. -/
def windowOk (v : Itvos) (k : Carve) : Bool := v.sec.parts == 0 || (poolKeysOf v k.part).window

/-- The host's accesses reach the window while the HDM decoder is committed and the link is up (R537, R558). -/
def windowOpen (s : State) : Bool := s.itv.cb.hdmCommitted && s.itv.cb.cxlUp && !s.itv.boot.held

/-- An uncorrectable window read is logged as a General Media event record (R539). -/
def cxlPoison (s : State) : State := emit s (.cxlData (zeros 64) true)

/-- CXL_MEM_READ of the 64 bytes at a window offset. -/
def cxlMemReadOp (s : State) (offset : Nat) (hw : HomeHw) : State :=
  if !windowOpen s then s
  else
    let off := offset / 64 * 64
    match windowAt s.itv off with
    | none => emit s (.cxlData (zeros 64) false)
    | some (k, a) =>
      if !windowOk s.itv k then cxlPoison s
      else
        let s := touch s a 64
        match hw with
        | .xtsMismatch => cxlPoison (unitMismatch s .xtsMismatch)
        | .uncorrectable => cxlPoison { poisonBlock s (a / 64) with itv.cb.media := s.itv.cb.media ++ [off] }
        | _ =>
          match blockRead s.itv k.part (a / 64) with
          | .ok d => emit s (.cxlData d false)
          | _ => cxlPoison s
def execCxlMemRead (offset : Nat) (hw : HomeHw) (s : State) : Res := .next (cxlMemReadOp s offset hw)

/-- CXL_MEM_WRITE of 64 bytes at a window offset. -/
def cxlMemWriteOp (s : State) (offset : Nat) (data : Bytes) : State :=
  if !windowOpen s then s
  else
    match windowAt s.itv (offset / 64 * 64) with
    | none => bumpPool s .cxlUnmapped
    | some (k, a) =>
      if !windowOk s.itv k then bumpPool s .cxlNokey
      else
        let s := touch s a 64
        match poolWrite s.itv k.part a (pad 64 data) (fullMask 64) with
        | (v, .ok _) => { s with itv := v }
        | _ => bumpPool s .cxlNokey
def execCxlMemWrite (offset : Nat) (data : Bytes) (s : State) : Res := .next (cxlMemWriteOp s offset data)

end Sys2Proof.Machine
end

