-- ==== Sys2Proof/Machine/Startup.lean ====
section
/-! DEFINITION. Start-up of Itvos (R679 to R688), the choice of an image slot (R704), restarts of the prompters (R714 to R719),
the watchdog and the bow's deadline (R694, R717). -/

namespace Sys2Proof.Machine

open Sys2Proof

/-! ## RESET_N (R679, R720) -/

/-- RESET_N: asserted (level false) it holds the chip in whole-chip reset; released, start-up begins, GREENROOM_N sampled
(`strap`: the pin is low). After a trip the chip stays in reset until THERM_TRIP_N is released (R768). -/
def resetNOp (s : State) (level strap : Bool) : State :=
  if !level then wholeReset s true
  else if s.itv.boot.held && !s.itv.pwr.tripPin then
    { s with itv.boot.held := false, itv.boot.releasedAt := s.now, itv.boot.strapLow := strap }
  else s
def execResetN (level : Bool) (strap : Bool) (s : State) : Res := .next (resetNOp s level strap)

/-! ## ROM and loader (R680, R688, R704) -/

/-- Greenroom: every fabric port DARK, nothing forwarded, SLOT reads 3 (R688, R704, R720). -/
def enterGreenroom (s : State) : State :=
  let s' := itvRefs.foldl (fun s r => moveTo s r .dark .none) s
  noteState s { s' with itv.boot.mode := .greenroom, itv.boot.slot := 3, itv.boot.greenSince := true, itv.boot.started := false,
                        itv.boot.bowPending := false }

/-- ROM_PHASE: greenroom by the strap, or where the stage-1 loader does not verify; else the loader runs. It waits for a clock
(R767). -/
def romPhaseOp (s : State) (loaderOk : Bool) : State :=
  let b := s.itv.boot
  if b.held || b.romDone || b.mode != .starting || (b.lostA && b.lostB) then s
  else
    let s := { s with itv.boot.romDone := true }
    if b.strapLow || !loaderOk then enterGreenroom s else s
def execRomPhase (loaderOk : Bool) (s : State) : Res := .next (romPhaseOp s loaderOk)

def getImg (f : Flash) (k : Nat) : Img := if k = 0 then f.img0 else f.img1
def modImg (f : Flash) (k : Nat) (g : Img → Img) : Flash :=
  if k = 0 then { f with img0 := g f.img0 } else { f with img1 := g f.img1 }

/-- Whether the image of a slot verifies at this start: it holds a script and passes R706. -/
def slotPasses (f : Flash) (chk : SlotCheck) (k : Nat) : Bool :=
  (if k = 0 then chk.slot0 else chk.slot1) && (getImg f k).st != .empty && f.rollback ≤ (getImg f k).svn

/-- The first rule of R704 that applies: the slot chosen, and whether a trial has failed. -/
def bootRule (f : Flash) : Flash × Nat × Bool :=
  match f.trialSlot with
  | some t =>
    if f.trialArmed then ({ f with trialArmed := false }, t, false)
    else ({ modImg f t (fun x => { x with st := .failed }) with trialSlot := none }, f.activeSlot, true)
  | none => (f, f.activeSlot, false)

/-- The slot started; one that fails is passed over for the other where that is ACTIVE or STAGED; none: greenroom. -/
def chooseSlot (f : Flash) (chk : SlotCheck) : Flash × Option Nat × Bool :=
  let (f, k, fell) := bootRule f
  if slotPasses f chk k then (f, some k, fell)
  else
    let o := 1 - k
    if ((getImg f o).st == .active || (getImg f o).st == .staged) && slotPasses f chk o then (f, some o, fell)
    else (f, none, fell)

/-- At fall-back the new store is discarded and the old one is in force (R719). -/
def fallStore (f : Flash) : Flash :=
  match f.other with
  | some o => { f with store := o, other := none }
  | none => f

/-- A script whose CONFIG_FORMAT differs converts the store in force and leaves the original in place (R719). -/
def convertStore (f : Flash) (k : Nat) : Flash :=
  let img := getImg f k
  if img.configFormat = f.store.format then f
  else { f with other := some f.store, store := { f.store with format := img.configFormat } }

/-- The loader's choice acts: the slot in use, or greenroom; a failed trial raises FIRMWARE (R717). -/
def loadSlot (s : State) (chk : SlotCheck) : State :=
  let (f, k, fell) := chooseSlot s.itv.flash chk
  let f := if fell then fallStore f else f
  let s := { s with itv.flash := f }
  let s := if fell then raiseEvent { s with itv.boot.bowPending := false } Ev.firmware else s
  match k with
  | none => enterGreenroom s
  | some k => { s with itv.boot.slot := k, itv.flash := convertStore f k, itv.boot.loaderDone := true }

/-- LOADER_PHASE. -/
def loaderPhaseOp (s : State) (chk : SlotCheck) : State :=
  let b := s.itv.boot
  if b.held || !b.romDone || b.loaderDone || b.mode != .starting then s else loadSlot s chk
def execLoaderPhase (chk : SlotCheck) (s : State) : Res := .next (loaderPhaseOp s chk)

/-! ## Yalny start (R678, R680, R682, R683) -/

/-- A stored licence: its signature over bytes 0 to 39 and its serial (R615, R683). -/
def licenceGood (v : Itvos) (blob : Bytes) : Bool :=
  Config.ecdsaVerify Config.licenceKey (blob.take 40) (slice blob 40 96) && natAt blob 8 8 == v.fuse.serial.toNat

/-- The features a chip holds (R4, R5): all three on a -P, those of its licences on a -T. -/
def featuresOf (v : Itvos) : BitVec 3 :=
  if v.fuse.gradeP then 7 else v.flash.licences.foldl (fun m l => setBit m (l.1 - 1) true) 0

/-- Licences that fail their checks are discarded and counted SIG_FAIL (R683). -/
def applyLicences (s : State) : State :=
  let bad := s.itv.flash.licences.filter (fun l => !licenceGood s.itv l.2.2)
  let s := bump { s with itv.flash.licences := s.itv.flash.licences.filter (fun l => licenceGood s.itv l.2.2) } sigFailIdx bad.length
  { s with itv.boot.licences := featuresOf s.itv }

/-- Logical clusters on their physical ones: one recorded as failed moves to the unused one of its die, or stays retired
(R678). -/
def placeClusters (v : Itvos) : List Nat × BitVec 18 :=
  (List.range 18).foldl (fun (acc : List Nat × BitVec 18) c =>
    let p := lget v.fuse.clusterMap c
    if !v.flash.clusterBad.contains p then (acc.1 ++ [p], acc.2)
    else
      let d := c / 9
      match ((List.range 10).map (· + 10 * d)).find? (fun q =>
          !v.fuse.clusterMap.contains q && !v.flash.clusterBad.contains q && !acc.1.contains q) with
      | some q => (acc.1 ++ [q], acc.2)
      | none => (acc.1 ++ [p], setBit acc.2 c true)) ([], 0)

/-- The stored chart as if by seating-load, but for the root role; one of another serial is discarded (R682). -/
def loadStoredChart (s : State) : State :=
  match s.itv.flash.store.chart with
  | some c =>
    if c.serial = s.itv.fuse.serial then (rejudgeAll (applyChart s c)).1
    else modStore s (fun x => { x with chart := none })
  | none => s

/-- The stored power settings (R680, R695). -/
def applyPower (s : State) : State :=
  let st := s.itv.flash.store
  let p := s.itv.pwr
  let g := st.ghost.getD (p.floor, p.upSlew, p.downSlew)
  { s with itv.pwr.vset := st.vset.getD p.vset, itv.pwr.cap := st.cap.getD p.cap, itv.pwr.floor := g.1, itv.pwr.upSlew := g.2.1,
           itv.pwr.downSlew := g.2.2 }

/-- A script on trial begins to accept commands: BOW_PENDING (R715). -/
def noteTrial (s : State) : State :=
  if s.itv.flash.trialSlot == some s.itv.boot.slot then
    { s with itv.boot.bowPending := true, itv.boot.bowAt := s.now }
  else { s with itv.boot.bowPending := false }

/-- YALNY_START: a configuration store that fails is discarded (`storeOk` false); chart, licences, power settings, cluster
placement, reducer wardrobe; the ports, the stalls and the gallery may start. -/
def yalnyStartOp (s : State) (storeOk : Bool) : State :=
  let b := s.itv.boot
  if b.held || !b.loaderDone || b.started || b.mode != .starting then s
  else
    let s0 := s
    let s := if storeOk then s else { s with itv.flash.store := {}, itv.flash.other := none }
    let s := loadStoredChart s
    let s := applyPower (applyLicences s)
    let (m, bad) := placeClusters s.itv
    let s := { s with itv.boot.started := true, itv.boot.yalny := true, itv.pwr.beatAt := s.now, itv.boot.clusterMap := m,
                      itv.coll.retired := bad,
                      itv.wards := if holdsChorus s.itv then kset s.itv.wards 16 (newWardrobe 0 0 reducerCounts) else s.itv.wards }
    noteState s0 (noteTrial s)
def execYalnyStart (storeOk : Bool) (s : State) : Res := .next (yalnyStartOp s storeOk)

/-! ## Stalls and gallery (R473, R474, R484, R490, R684) -/

/-- STALLS_TRAINED: the start scrub of the stalls begins, or POOL and CHORUS are treated as not held. -/
def stallsTrainedOp (s : State) (ok : Bool) : State :=
  let b := s.itv.boot
  if !b.started || b.stallsTrained || b.stallsFailed then s
  else if ok then
    { s with itv.boot.stallsTrained := true, itv.pool.scrubs := s.itv.pool.scrubs ++ [{ lo := 0, hi := stallsFrames, tier := some false }] }
  else checkReady (raiseEvent { s with itv.boot.stallsFailed := true } Ev.memory)
def execStallsTrained (ok : Bool) (s : State) : Res := .next (stallsTrainedOp s ok)

/-- The populations of R473: modules per channel, MRDIMM, GiB. -/
def populations : List (Nat × Bool × Nat) :=
  [(1, false, 32), (1, false, 64), (1, true, 64), (1, true, 128), (2, false, 64), (2, false, 128), (2, true, 128)]

def supported (p : Population) : Bool := populations.contains (p.perChannel, p.mrdimm, p.gib)

/-- GALLERY_TRAINED: the gallery's scrub begins, or it is left out: reason 1 population, 2 training (R474). -/
def galleryTrainedOp (s : State) (found : Option Population) (trained : Bool) : State :=
  if !s.itv.boot.started || s.itv.boot.galleryDone then s
  else
    let s' := { s with itv.boot.galleryDone := true, itv.pool.found := found }
    let s' := match found with
      | some p =>
        if !supported p then { s' with itv.pool.galleryOff := 1 }
        else if !trained then { s' with itv.pool.galleryOff := 2 }
        else
          let g := 8 * p.perChannel * p.gib
          { s' with itv.pool.galleryGiB := g,
                    itv.pool.scrubs := s'.itv.pool.scrubs ++ [{ lo := 0, hi := g * 16384, tier := some true }] }
      | none => { s' with itv.pool.galleryOff := 1 }
    checkReady (noteState s s')
def execGalleryTrained (found : Option Population) (trained : Bool) (s : State) : Res :=
  .next (galleryTrainedOp s found trained)

/-- ORIGINATE_ALLOWED (R686). -/
def originateOp (s : State) : State :=
  if !s.itv.boot.held && passed s s.itv.boot.releasedAt 200000000 then { s with itv.boot.originate := true } else s
def execOriginateAllowed (s : State) : Res := .next (originateOp s)

/-! ## Restarts of the prompters (R694, R704, R713 to R719) -/

/-- WATCHDOG_EXPIRY: a prompter reset at level 0. -/
def watchdogExpiryOp (s : State) : State := if s.itv.boot.yalny then prompterReset s none else s
def execWatchdogExpiry (s : State) : Res := .next (watchdogExpiryOp s)

/-- PROMPTER_RESTART: the loader chooses a slot, and its script accepts commands; MODE leaves SWITCHING (R556, R714, R715). -/
def prompterRestartOp (s : State) (chk : SlotCheck) : State :=
  if !s.itv.boot.restarting then s
  else
    let s0 := s
    let s := loadSlot { s with itv.boot.restarting := false } chk
    if s.itv.boot.mode = .greenroom then s
    else
      let s := noteTrial { s with itv.boot.yalny := true, itv.boot.mode := .starting, itv.pwr.beatAt := s.now }
      let s := noteState s0 (checkReady s)
      let who := s.itv.boot.restartSlot
      let s := { s with itv.boot.restartSlot := none }
      match who with
      | some n => finishKept s (some n) none { status := St.ok }
      | none => s
def execPrompterRestart (chk : SlotCheck) (s : State) : Res := .next (prompterRestartOp s chk)

/-- BOW_DEADLINE: 120 s without a bow; Yalny stops serving the watchdog (R717). -/
def bowDeadlineOp (s : State) : State :=
  if s.itv.boot.bowPending && s.itv.boot.watchdogStopped.isNone && passed s s.itv.boot.bowAt 120000000000 then
    { s with itv.boot.watchdogStopped := some s.now }
  else s
def execBowDeadline (s : State) : Res := .next (bowDeadlineOp s)

end Sys2Proof.Machine
end

