-- ==== Sys2Proof/Machine/Relay.lean ====
section
/-! DEFINITION. Script images (R705, R706), their staging (R708), the script relay (R709 to R712, R723). -/

namespace Sys2Proof.Machine

open Sys2Proof

/-! ## Images -/

/-- The image's fields (R705). -/
def parseImg (b : Bytes) : Img :=
  { st := .staged, version := natAt b 8 4, svn := natAt b 12 4, configFormat := natAt b 16 2, configOldest := natAt b 18 2,
    digest := Config.sha384 b, body := b }

/-- A malformed header, or a PART or KIND wrong for the target. -/
def imageMalformed (b : Bytes) (kind : Nat) : Bool :=
  natAt b 0 4 != 0x54524353 || natAt b 4 2 != 1 || byteAt b 6 != kind || byteAt b 7 != 1 || decide (natAt b 12 4 > 64) ||
    natAt b 28 4 != 0 || !allZero (slice b 80 48) || b.length != 128 + natAt b 24 4 + natAt b 20 4 + 96 ||
    decide (b.length > 67108864)

/-- The chain reaches the root, the digest holds, the signature holds. -/
def imageSigned (b : Bytes) : Bool :=
  let chain := slice b 128 (natAt b 24 4)
  let body := slice b (128 + natAt b 24 4) (natAt b 20 4)
  let n := b.length - 96
  Config.chainReachesRoot chain && Config.sha384 body == slice b 32 48 &&
    Config.ecdsaVerify (Config.chainKey chain) (b.take n) (b.drop n)

/-- The checks of R706 in order: status and DETAIL of the first that fails. -/
def imageRefused (v : Itvos) (b : Bytes) (kind : Nat) : Option (Nat × Nat) :=
  if imageMalformed b kind then some (St.badarg, 8)
  else if !imageSigned b then some (St.denied, 1)
  else if natAt b 12 4 < v.flash.rollback then some (St.staleEpoch, 0)
  else none

/-- Refusals are counted SIG_FAIL and STALE_REFUSED. -/
def countRefusal (s : State) (st : Nat) : State :=
  if st = St.denied then bump s sigFailIdx 1 else if st = St.staleEpoch then bump s staleRefusedIdx 1 else s

/-! ## Sender -/

def relayNext (v : Itvos) (hop : Nat) : Option (BitVec 16) :=
  match v.routing.chart.bind (fun c => c.relayNext[hop]?) with
  | some w => if w = 0xFFFF then none else some w
  | none => none

/-- A Service flit to another switch (R709). -/
def serviceFlit (s : State) (dst : BitVec 16) (payload : Bytes) : Flit :=
  { dst := dst, src := swid s.itv, kind := Kind.svc, dk := true, sk := true, payload := payload }

/-- The head of R710. -/
def relayPayload (code version offset : Nat) (rest : List (Nat × Bytes)) : Bytes :=
  payloadOf ([(0, leBytes 2 code), (4, leBytes 4 version), (8, leBytes 4 offset)] ++ rest)

def sendOfferTo (s : State) (img : Img) (dst : BitVec 16) : State :=
  let s := itvSend s (serviceFlit s dst (relayPayload 0x0401 img.version img.body.length [(16, pad 48 img.digest)]))
  { s with itv.relay.offerAt := s.now }

/-- The relay of an image begins with its first successor; the last switch in the order has none (R709). -/
def startRelay (s : State) (img : Img) : State :=
  match relayNext s.itv 0 with
  | none => s
  | some w =>
    sendOfferTo { s with itv.relay.sending := some img, itv.relay.hop := 0, itv.relay.acked := 0, itv.relay.flowing := false,
                         itv.relay.answerAt := s.now } img w

def endRelay (s : State) : State := { s with itv.relay.sending := none, itv.relay.flowing := false }

/-- A window of at most 4,096 DATA flits from `off` (R711). -/
def sendWindow (s : State) (img : Img) (dst : BitVec 16) (off : Nat) : State :=
  let n := min 4096 ((img.body.length - off + 191) / 192)
  let s := (List.range n).foldl (fun s i =>
    itvSend s (serviceFlit s dst (relayPayload 0x0402 img.version (off + 192 * i) [(16, pad 192 (slice img.body (off + 192 * i) 192))]))) s
  { s with itv.relay.windowAt := s.now, itv.relay.acked := off, itv.relay.flowing := true }

/-- RELAY_OFFER_TIMER: OFFER again every 10 s. -/
def relayOfferTimerOp (s : State) : State :=
  match s.itv.relay.sending, relayNext s.itv s.itv.relay.hop with
  | some img, some w =>
    if !s.itv.relay.flowing && passed s s.itv.relay.offerAt 10000000000 then sendOfferTo s img w else s
  | _, _ => s
def execRelayOfferTimer (s : State) : Res := .next (relayOfferTimerOp s)

/-- RELAY_SKIP: no ACK or HAVE for 10 min; the next switch in the order, and FIRMWARE. -/
def relaySkipOp (s : State) : State :=
  match s.itv.relay.sending with
  | none => s
  | some img =>
    if passed s s.itv.relay.answerAt 600000000000 then
      let s := raiseEvent { s with itv.relay.hop := s.itv.relay.hop + 1, itv.relay.acked := 0, itv.relay.flowing := false,
                                   itv.relay.answerAt := s.now } Ev.firmware
      match relayNext s.itv s.itv.relay.hop with
      | some w => sendOfferTo s img w
      | none => endRelay s
    else s
def execRelaySkip (s : State) : Res := .next (relaySkipOp s)

/-- RELAY_WINDOW_TIMEOUT: the window unacknowledged after E2E_TIMEOUT is sent again. -/
def relayWindowTimeoutOp (s : State) : State :=
  match s.itv.relay.sending, relayNext s.itv s.itv.relay.hop with
  | some img, some w =>
    if s.itv.relay.flowing && passed s s.itv.relay.windowAt (itvE2E s.itv) then sendWindow s img w s.itv.relay.acked else s
  | _, _ => s
def execRelayWindowTimeout (s : State) : Res := .next (relayWindowTimeoutOp s)

/-- An answer of the present successor. -/
def fromSuccessor (s : State) (f : Flit) : Option (Img × BitVec 16) :=
  match s.itv.relay.sending, relayNext s.itv s.itv.relay.hop with
  | some img, some w => if f.src = w ∧ natAt f.payload 4 4 = img.version then some (img, w) else none
  | _, _ => none

/-- ACK: the next window, or the end of the hop. -/
def relayAckOp (s : State) (f : Flit) : State :=
  fromInbox s .itv f (fun s =>
    match fromSuccessor s f with
    | none => s
    | some (img, w) =>
      let off := natAt f.payload 8 4
      let s := { s with itv.relay.answerAt := s.now }
      if img.body.length ≤ off then endRelay s else sendWindow s img w off)
def execRelayAck (f : Flit) (s : State) : Res := .next (relayAckOp s f)

/-- HAVE: the receiver holds the image; the hop ends. -/
def relayHaveOp (s : State) (f : Flit) : State :=
  fromInbox s .itv f (fun s =>
    match fromSuccessor s f with
    | some (img, _) => if slice f.payload 16 48 = pad 48 img.digest then endRelay s else s
    | none => s)
def execRelayHave (f : Flit) (s : State) : Res := .next (relayHaveOp s f)

/-- REFUSE: no answer. -/
def relayRefuseOp (s : State) (f : Flit) : State := fromInbox s .itv f (fun s => s)
def execRelayRefuse (f : Flit) (s : State) : Res := .next (relayRefuseOp s f)

/-! ## Receiver -/

def answerRelay (s : State) (f : Flit) (code offset : Nat) (rest : List (Nat × Bytes)) : State :=
  itvSend s (serviceFlit s f.src (relayPayload code (natAt f.payload 4 4) offset rest))

/-- The slot that holds an image with the digest. -/
def holdsDigest (v : Itvos) (d : Bytes) : Option Img :=
  [v.flash.img0, v.flash.img1].find? (fun x => x.st != .empty && pad 48 x.digest == d)

/-- OFFER: HAVE, REFUSE, or ACK; an OFFER of the image being received is answered with what is wanted next (R723). -/
def relayOfferOp (s : State) (f : Flit) : State :=
  fromInbox s .itv f (fun s =>
    let d := slice f.payload 16 48
    let r := s.itv.relay
    match holdsDigest s.itv d with
    | some img =>
      let s := answerRelay s f 0x0404 0 [(16, d)]
      if r.sending.isNone then startRelay s img else s
    | none =>
      if r.receiving && r.from_ == f.src && r.digest == d then answerRelay s f 0x0403 r.got.length []
      else if s.itv.boot.bowPending || r.sending.isSome || r.receiving || r.staging.isSome then answerRelay s f 0x0405 0 []
      else
        answerRelay { s with itv.relay.receiving := true, itv.relay.got := [], itv.relay.total := natAt f.payload 8 4,
                             itv.relay.version := natAt f.payload 4 4, itv.relay.digest := d, itv.relay.from_ := f.src }
          f 0x0403 0 [])
def execRelayOffer (f : Flit) (s : State) : Res := .next (relayOfferOp s f)

/-- The slot not in use. -/
def idleSlot (v : Itvos) : Nat := if v.boot.slot = 0 then 1 else 0

/-- Staging begins: the slot is EMPTY until the flash write has been read back (R708, R725). -/
def beginStage (s : State) (slot : Nat) (img : Img) (byRelay : Bool) (who : Option Caller) : State :=
  { s with itv.flash := if slot < 2 then modImg s.itv.flash slot (fun _ => {}) else s.itv.flash,
           itv.relay.staging := some (slot, img), itv.relay.byRelay := byRelay,
           itv.relay.stageSlot := match who with
             | some (.slot n) => some n
             | _ => none,
           itv.relay.stageSess := match who with
             | some (.sess k q) => some (k, q)
             | _ => none }

/-- The whole image is here: verified, staged into the slot not in use, and passed on. -/
def receivedAll (s : State) (f : Flit) : State :=
  let b := s.itv.relay.got
  let s := { s with itv.relay.receiving := false, itv.relay.got := [] }
  match (if pad 48 (Config.sha384 b) = s.itv.relay.digest then imageRefused s.itv b 0 else some (St.denied, 1)) with
  | some (st, _) => answerRelay (countRefusal s st) f 0x0405 0 []
  | none =>
    let img := parseImg b
    let s := answerRelay s f 0x0403 b.length []
    startRelay (beginStage s (idleSlot s.itv) img true none) img

/-- RELAY_DATA: bytes in order; each window's end is acknowledged. -/
def relayDataOp (s : State) (f : Flit) : State :=
  fromInbox s .itv f (fun s =>
    let r := s.itv.relay
    if !r.receiving || r.from_ != f.src || natAt f.payload 8 4 != r.got.length then s
    else
      let got := r.got ++ slice f.payload 16 (min 192 (r.total - r.got.length))
      let s := { s with itv.relay.got := got }
      if got.length ≥ r.total then receivedAll s f
      else if got.length % (4096 * 192) = 0 then answerRelay s f 0x0403 got.length [] else s)
def execRelayData (f : Flit) (s : State) : Res := .next (relayDataOp s f)

/-- SCRIPT_STAGED: the flash write has been read back (R708, R711); a failed one leaves the slot EMPTY, and its status is not
stated (log 48). -/
def scriptStagedOp (s : State) (ok : Bool) : State :=
  let r := s.itv.relay
  match r.staging with
  | none => s
  | some (slot, img) =>
    let s := { s with itv.relay.staging := none, itv.relay.stageSlot := none, itv.relay.stageSess := none, itv.relay.byRelay := false }
    if ok then
      let s := if slot < 2 then { s with itv.flash := modImg s.itv.flash slot (fun _ => { img with st := .staged }) }
               else { s with itv.flash.loader := some img.digest }
      let s := if r.byRelay then raiseEvent s Ev.firmware else s
      finishKept s r.stageSlot r.stageSess { status := St.ok }
    else finishKept (drawFree s) r.stageSlot r.stageSess { status := (freeVal s).toNat % 256 }
def execScriptStaged (ok : Bool) (s : State) : Res := .next (scriptStagedOp s ok)

end Sys2Proof.Machine
end

