-- ==== Sys2Proof/Machine/CmdFirmware.lean ====
section
/-! DEFINITION. Firmware, licence and attestation commands (R587 to R589, R614 to R616, R713 to R718). -/

namespace Sys2Proof.Machine

open Sys2Proof

def inGreen (s : State) : Bool := s.itv.boot.mode == .greenroom

/-! ## script-stage -/

/-- SLOT may be written: not the slot in use; in greenroom either, and 0xFF for the stage-1 loader (R721). -/
def stageSlotBad (s : State) (k : Nat) : Bool :=
  if inGreen s then k != 0 && k != 1 && k != 255 else decide (k > 1) || k == s.itv.boot.slot

def scriptStageCmd : Cmd := fun s c =>
  let k := byteAt c.payload 0
  let flags := byteAt c.payload 1
  checked s [(stageSlotBad s k, St.badarg, 0), (decide (flags > 1) || (inGreen s && flags != 0), St.badarg, 1), mbz c 2 2,
             refCheck c 8 0] (fun _ => withHost s c 8 (fun b =>
    match imageRefused s.itv b (if k = 255 then 1 else 0) with
    | some (st, d) => ends (countRefusal s st) st d
    | none =>
      let r := s.itv.relay
      if s.itv.boot.bowPending || r.sending.isSome || r.receiving || r.staging.isSome then ends s St.busy
      else
        let img := parseImg b
        let s := beginStage s (if k = 255 then 2 else k) img false (some c.who)
        (if flags = 1 then startRelay s img else s, none)))
def execScriptStage (slot : Fin 8) (host : HostRead) (s : State) : Res :=
  .next (cmdRow s slot 0x0601 anyPayload true host true scriptStageCmd)

/-! ## script-switch, script-bow -/

/-- A trial runs and its bow is not posted: any switch is a restart before the bow (R718). -/
def onTrial (s : State) : Bool := s.itv.flash.trialSlot.isSome && !s.itv.flash.trialArmed

def setTrial (s : State) (k : Nat) : State :=
  { s with itv.flash := { modImg s.itv.flash k (fun x => { x with st := .trial }) with trialSlot := some k, trialArmed := true } }

def scriptSwitchCmd : Cmd := fun s c =>
  let k := byteAt c.payload 0
  let img := getImg s.itv.flash k
  checked s [(decide (k > 1), St.badarg, 0), mbz c 1 7, (inGreen s && s.itv.boot.strapLow, St.denied, 2),
             (!onTrial s && (img.st == .empty || img.st == .failed || img.st == .trial), St.denied, 0),
             (!onTrial s && img.st == .staged && decide (img.configOldest > s.itv.flash.store.format), St.denied, 3)] (fun _ =>
    let s := if !onTrial s && img.st == .staged then setTrial s k else s
    if inGreen s then ({ s with itv.boot.level5At := some (s.now + 1000000) }, some { status := St.ok })
    else
      let s := finish s c { status := St.ok }
      (prompterReset s none, none))
def execScriptSwitch (slot : Fin 8) (s : State) : Res :=
  .next (cmdRow s slot 0x0602 anyPayload true (.ok []) true scriptSwitchCmd)

/-- The bow (R716, R707, R719). -/
def takeBow (s : State) (t : Nat) : State :=
  let f := s.itv.flash
  let old := f.activeSlot
  let f := modImg (modImg f old (fun x => if old = t then x else { x with st := .staged })) t (fun x => { x with st := .active })
  { s with itv.flash := { f with activeSlot := t, trialSlot := none, trialArmed := false, other := none,
                                 rollback := max f.rollback (getImg f t).svn },
           itv.boot.bowPending := false }

def scriptBowCmd : Cmd := fun s _ =>
  match s.itv.flash.trialSlot with
  | some t =>
    if s.itv.boot.bowPending && s.itv.boot.watchdogStopped.isNone then (takeBow s t, some { status := St.ok })
    else ends s St.denied
  | none => ends s St.denied
def execScriptBow (slot : Fin 8) (s : State) : Res :=
  .next (cmdRow s slot 0x0603 anyPayload false (.ok []) true scriptBowCmd)

/-! ## licence-apply (R588, R615, R616) -/

def licenceApplyCmd : Cmd := fun s c =>
  let n := natAt c.payload 0 2
  let b := slice c.payload 16 136
  let feature := byteAt b 6
  let held := kget s.itv.flash.licences feature
  checked s [(n != 136 || c.payload.length != 16 + n, St.badarg, 0), mbz c 2 14, (natAt b 0 4 != 0x4E43494C, St.badarg, 16),
             (natAt b 4 2 != 1, St.badarg, 20), (feature == 0 || decide (feature > 3), St.badarg, 22), mbz c 23 1, mbz c 36 4,
             mbz c 48 8, (!Config.ecdsaVerify Config.licenceKey (b.take 40) (slice b 40 96), St.denied, 1),
             (natAt b 8 8 != s.itv.fuse.serial.toNat, St.mismatch, 0),
             ((match held with
               | some (e, _) => decide (natAt b 16 4 ≤ e)
               | none => false), St.staleEpoch, 0)] (fun _ =>
    let s := { s with itv.flash.licences := kset s.itv.flash.licences feature (natAt b 16 4, b) }
    let s := { s with itv.boot.licences := featuresOf s.itv }
    (s, some { status := St.ok, result := leBytes 1 (heldLicences s.itv).toNat }))
def execLicenceApply (slot : Fin 8) (s : State) : Res :=
  .next (cmdRow s slot 0x0701 anyPayload false (.ok []) true licenceApplyCmd)

/-! ## attest-fetch (R589, R614) -/

/-- The stored configuration as bytes has no stated layout: its digest is free (log 49). -/
def partRecord (v : Itvos) (p : Nat) : Bytes :=
  let absent := if v.sec.parts = 0 then p != 0 else decide (p ≥ v.sec.parts)
  let pin := kgetD v.flash.pins p {}
  let ks := poolKeysOf v p
  let st := if absent then 0 else if v.sec.struck.getLsbD p then 2 else if v.dir.down.getLsbD p then 3 else 1
  leBytes 1 st ++ leBytes 1 (b2n ks.cur) ++ leBytes 2 (v.sec.jobKeys.countP (fun k => k.2.part == p)) ++ leBytes 4 pin.poolEpoch ++
    leBytes 4 pin.jobEpoch ++ leBytes 1 (b2n (curKey ks).isSome + 2 * b2n ks.window) ++ zeros 3 ++ pad 48 (pin.pin.getD [])

/-- Bytes 0 to LENGTH - 97 of the report; `cfg` is CONFIG_DIGEST. -/
def reportBody (v : Itvos) (nonce cfg : Bytes) : Bytes :=
  let len := 2008 + Config.certChain.length + 96
  let script := if v.boot.slot = 1 then v.flash.img1.digest else v.flash.img0.digest
  leBytes 4 0x54535441 ++ leBytes 2 1 ++ zeros 2 ++ leBytes 4 len ++ zeros 4 ++ pad 32 nonce ++ orderCode v ++
    [v.fuse.digit, v.fuse.letter] ++ zeros 6 ++ leBytes 8 v.fuse.serial.toNat ++ leBytes 8 v.cue.count.toNat ++ zeros 8 ++
    pad 48 Config.romDigest ++ pad 48 (v.flash.loader.getD Config.loaderDigest) ++ pad 48 script ++ pad 48 cfg ++
    leBytes 4 (runningVersion v) ++ leBytes 4 v.flash.rollback ++
    leBytes 4 (1 + 2 + 4 * b2n v.boot.debugUnlocked + 8 * b2n v.boot.strapLow + 16 * b2n v.boot.greenSince) ++
    leBytes 2 (heldLicences v).toNat ++ zeros 2 ++ pad 48 (Config.sha384 (v.flash.licences.flatMap (fun l => l.2.2))) ++
    pad 48 v.sec.layoutDigest ++ leBytes 1 v.sec.parts ++ zeros 7 ++ (List.range 16).flatMap (partRecord v) ++
    (List.range 72).flatMap (fun n => leBytes 8 (match (v.ports[n]?).bind (·.partner) with
      | some o => o.serial.toNat
      | none => 0)) ++ Config.certChain

def attestReport (v : Itvos) (nonce cfg : Bytes) : Bytes :=
  let b := reportBody v nonce cfg
  b ++ pad 96 (Config.devIdSign b)

/-- 48 free bytes (log 49). -/
def freeDigest (s : State) : State × Bytes :=
  ({ s with free := s.free + 6 }, (List.range 6).flatMap (fun i => leBytes 8 (Config.freeWord (s.free + i)).toNat))

def attestFetchCmd : Cmd := fun s c =>
  checked s [refCheck c 32 1] (fun _ =>
    let (s', cfg) := freeDigest s
    let r := attestReport s.itv (c.payload.take 32) cfg
    if bufLen c 32 < r.length then ends s St.badarg 32
    else (s', some { status := St.ok, result := leBytes 4 r.length, bulk := some (32, r) }))
def execAttestFetch (slot : Fin 8) (landed : Bool) (s : State) : Res :=
  .next (cmdRow s slot 0x0702 anyPayload true (.ok []) landed attestFetchCmd)

end Sys2Proof.Machine
end

