-- ==== Sys2Proof/Machine/CmdKeys.lean ====
section
/-! DEFINITION. partition-set, key-install, key-rotate, strike (R579 to R581, R599 to R603, R608, R611, R617). -/

namespace Sys2Proof.Machine

open Sys2Proof

/-! ## partition-set -/

/-- The partition holds a key, carve, wardrobe or cast list (R579). -/
def partHolds (v : Itvos) (p : Nat) : Bool :=
  v.sec.jobKeys.any (fun k => k.2.part == p) || (kget v.sec.poolKeys p).any (fun k => k.key0.isSome || k.key1.isSome) ||
    v.pool.carves.any (fun k => k.2.part == p) || (kget v.wards p).isSome || v.coll.casts.any (fun k => k.2.part == p)

/-- Partition of each seat under a layout; a single-tenant house has every seat in partition 0. -/
def seatParts (count : Nat) (seats : List Nat) : List Nat := if count = 0 then List.replicate 72 0 else seats
/-- A partition that the change removes or moves a seat out of. -/
def partLoses (n m : Nat) (old new : List Nat) (p : Nat) : Bool :=
  let before := seatParts n old
  let after := seatParts m new
  decide (p < max n 1) && (decide (max m 1 ≤ p) ||
    (List.range 72).any (fun i => before.getD i 0xFF == p && after.getD i 0xFF != p))

def partitionSetCmd : Cmd := fun s c =>
  let v := s.itv
  let n := byteAt c.payload 0
  let seats := (List.range 72).map (fun i => byteAt c.payload (8 + i))
  let bad := (List.range 72).find? (fun i => seats.getD i 0 != 0xFF && decide (n ≤ seats.getD i 0))
  checked s [(decide (n > 16), St.badarg, 0), mbz c 1 7, (bad.isSome, St.badarg, 8 + bad.getD 0),
      (!v.sec.strikes.isEmpty ||
        (List.range 16).any (fun p => partLoses v.sec.parts n v.sec.seatPart seats p && partHolds v p), St.busy, 0)] (fun _ =>
    let d := Config.sha384 (pad 80 c.payload)
    ({ s with itv.sec.parts := n, itv.sec.seatPart := seats, itv.sec.layoutDigest := pad 48 d },
     some { status := St.ok, result := pad 48 d }))
def execPartitionSet (slot : Fin 8) (s : State) : Res :=
  .next (cmdRow s slot 0x0301 anyPayload false (.ok []) true partitionSetCmd)

/-! ## key-install and key-rotate -/

/-- What key-install and key-rotate check up to the state of the partition: fields, then R600's order. -/
def blobChecks (s : State) (c : Call) (kind : Nat) : List (Bool × Nat × Nat) :=
  let v := s.itv
  let part := byteAt c.payload 0
  let n := natAt c.payload 8 2
  let b := slice c.payload 16 n
  let rec_ := kgetD v.flash.pins part {}
  let last := if kind = 0 then rec_.jobEpoch else rec_.poolEpoch
  let mine := entryFor b v.fuse.serial
  [(!partExists v part, St.badarg, 0), (byteAt c.payload 1 != kind, St.badarg, 1), mbz c 2 2,
   (n == 0 || decide (n > 4016) || c.payload.length != 16 + n, St.badarg, 8), mbz c 10 6,
   (!blobHeadOk b kind (v.sec.parts == 0) || n != 96 + 48 * byteAt b 6 || blobEpoch b != natAt c.payload 4 4 || blobPart b != part,
     St.badarg, 16),
   (natAt b 16 8 != v.fuse.serial.toNat, St.mismatch, 0), (decide (blobEpoch b ≤ last), St.staleEpoch, 0),
   ((rec_.pin.map (· != Config.sha384 (serviceKey b))).getD false, St.denied, 3), (kind == 1 && mine.isNone, St.denied, 4),
   ((mine.map (fun e => (openEntry v.fuse.serial b e).isNone)).getD false, St.denied, 1)]

/-- The blob is accepted: pin and epoch, in flash (R601). -/
def acceptBlob (s : State) (b : Bytes) (kind : Nat) : State :=
  { s with itv.flash.pins := kmod s.itv.flash.pins (blobPart b) {} (fun r =>
      { r with pin := some (r.pin.getD (Config.sha384 (serviceKey b))),
               jobEpoch := if kind = 0 then blobEpoch b else r.jobEpoch, poolEpoch := if kind = 1 then blobEpoch b else r.poolEpoch }) }
/-- The key of this chip's entry. -/
def ownKeyIn (s : State) (b : Bytes) : Option (BitVec 256) := (entryFor b s.itv.fuse.serial).bind (openEntry s.itv.fuse.serial b)

/-- A job blob is accepted: this chip's key installed where it has an entry, entries for no seat's serial counted, the blob kept. -/
def jobAccepted (s : State) (part : Nat) (b : Bytes) : State :=
  let s1 := acceptBlob s b 0
  let s2 := match ownKeyIn s1 b with
    | some k => installKey s1 .itv (blobJob b) part k (blobEpoch b) (blobUseAfter b)
    | none => s1
  let known := [s.itv.fuse.serial.toNat] ++ (List.range 72).filterMap (fun p => (seatSerial s p).map (·.toNat))
  let s3 := bump s2 keyUnusedIdx ((blobEntries b).countP (fun e => !known.contains e.1))
  { s3 with itv.sec.blobs := kset s3.itv.sec.blobs (blobJob b) b }
/-- First pushes that leave: those to READY seat ports with an entry. -/
def jobFirst (s : State) (part : Nat) (b : Bytes) : List Flit :=
  ((seatPorts s part).filter (fun p => (itvPort s p).st == .ready)).filterMap (fun p => pushFor s p b)
/-- The pushes of a blob begin. -/
def jobPushed (s : State) (part : Nat) (b : Bytes) : State :=
  (seatPorts s part).foldl (fun s p => match pushFor s p b with
    | some f => beginPush s p f
    | none => s) s

def keyInstallJobCmd : Cmd := fun s c =>
  let v := s.itv
  let part := byteAt c.payload 0
  let b := slice c.payload 16 (natAt c.payload 8 2)
  checked s ([(decide (byteAt c.payload 1 > 1), St.badarg, 1), unlicensed (holdsChorus v)] ++ blobChecks s c 0 ++ partState v part ++
      [((ownKeyIn s b).isSome && (kget v.sec.jobKeys (blobJob b)).isNone && decide (256 ≤ v.sec.jobKeys.length), St.empty, 0)])
      (fun _ =>
    let s1 := jobAccepted s part b
    let s2 := jobPushed s1 part b
    match jobFirst s1 part b, callerSlot c with
    | [], _ => (s2, some { status := St.ok })
    | _, none => (s2, some { status := St.ok })
    | fs, some n => ({ s2 with itv.sec.installing := s2.itv.sec.installing ++ [(n, fs)] }, none))
def execKeyInstallJob (slot : Fin 8) (s : State) : Res :=
  .next (cmdRow s slot 0x0302 (byteIsOr 1 0 [0, 1]) false (.ok []) true keyInstallJobCmd)

/-- The partition holds a pool key. -/
def hasPoolKey (v : Itvos) (p : Nat) : Bool := (poolKeysOf v p).key0.isSome || (poolKeysOf v p).key1.isSome

def keyInstallPoolCmd : Cmd := fun s c =>
  let v := s.itv
  let part := byteAt c.payload 0
  let b := slice c.payload 16 (natAt c.payload 8 2)
  checked s ([unlicensed (holdsPool v)] ++ blobChecks s c 1 ++ partState v part ++ [(hasPoolKey v part, St.denied, 2)]) (fun _ =>
    let s := acceptBlob s b 1
    let ks : PoolKeys := { key0 := ownKeyIn s b, cur := false, window := bitOf (byteAt b 7) 0 }
    ({ s with itv.sec.poolKeys := kset s.itv.sec.poolKeys part ks }, some { status := St.ok }))
def execKeyInstallPool (slot : Fin 8) (s : State) : Res :=
  .next (cmdRow s slot 0x0302 (byteIs 1 1) false (.ok []) true keyInstallPoolCmd)

/-- Pages of a partition's carves, ascending (R487). -/
def partPages (v : Itvos) (part : Nat) : List Nat :=
  (v.pool.tier.filter (fun e => (kget v.pool.carves e.2.carve).any (fun k => k.part == part))).map (·.1)

/-- The new key goes to the other slot and comes into force; the sweep starts. -/
def rotateKey (s : State) (part : Nat) (key : Option (BitVec 256)) (window : Bool) : State :=
  let ks := poolKeysOf s.itv part
  let ks := if ks.cur then { ks with key0 := key, cur := false, window := window } else { ks with key1 := key, cur := true, window := window }
  let pages := partPages s.itv part
  let s := { s with itv.sec.poolKeys := kset s.itv.sec.poolKeys part ks }
  if pages.isEmpty then
    { s with itv.sec.poolKeys := kset s.itv.sec.poolKeys part (if ks.cur then { ks with key0 := none } else { ks with key1 := none }) }
  else { s with itv.pool.sweeps := s.itv.pool.sweeps ++ [{ part := part, left := pages }] }

def keyRotateCmd : Cmd := fun s c =>
  let v := s.itv
  let part := byteAt c.payload 0
  let b := slice c.payload 16 (natAt c.payload 8 2)
  checked s ([unlicensed (holdsPool v)] ++ blobChecks s c 1 ++ partState v part ++
      [(v.pool.sweeps.any (fun x => x.part == part), St.busy, 0), (!hasPoolKey v part, St.nokey, 0)]) (fun _ =>
    let s := acceptBlob s b 1
    (rotateKey s part (ownKeyIn s b) (bitOf (byteAt b 7) 0), some { status := St.ok }))
def execKeyRotate (slot : Fin 8) (s : State) : Res :=
  .next (cmdRow s slot 0x0303 anyPayload false (.ok []) true keyRotateCmd)

/-! ## strike -/

/-- Keys of a partition leave this Itvos: job keys, both pool slots, with the sweep and the pushes of its keys (R611 step 2). -/
def eraseKeys (s : State) (part : Nat) : State :=
  let s := erasePartKeys s .itv part
  { s with itv.sec.poolKeys := kdel s.itv.sec.poolKeys part,
           itv.sec.blobs := s.itv.sec.blobs.filter (fun b => blobPart b.2 != part),
           itv.sec.pushes := s.itv.sec.pushes.filter (fun x => !(x.flit.svc == 0x0301 && byteAt x.flit.payload 2 == part)),
           itv.pool.sweeps := s.itv.pool.sweeps.filter (fun x => x.part != part) }

/-- The wardrobe is reclaimed, the moves of the partition's pages are abandoned (R465, R496). -/
def reclaimPart (s : State) (part : Nat) : State :=
  let (s, _) := wardReclaim s part (fun _ => true)
  let mine := partPages s.itv part
  { s with itv := abandonMoves s.itv mine.contains }

def pushAll (s : State) (part code : Nat) : State :=
  (seatPorts s part).foldl (fun s p => beginPush s p (seatFlit s p code part [])) s

/-- Steps 1 to 4 of R611, and the requests that wait here answered with STRUCK (R581). -/
def strikePart (s : State) (part : Nat) (slot : Option Nat) (sess : Option (Nat × Word)) : State :=
  let s := eraseKeys { s with itv.sec.struck := setBit s.itv.sec.struck part true } part
  let s := abortPart (pushAll s part 0x0302) part Ctl.struck (fun _ => true)
  let (s, held) := takeHeld (reclaimPart s part) part
  let s := held.foldl (fun s f => answer (strikeDrop s part) f St.struck) s
  { s with itv.sec.strikes := s.itv.sec.strikes ++ [{ part := part, slot := slot, sess := sess, lastDrop := s.now }] }

def strikeCmd : Cmd := fun s c =>
  let v := s.itv
  let part := byteAt c.payload 0
  checked s [(!partExists v part, St.badarg, 0), mbz c 1 7] (fun _ =>
    if v.sec.struck.getLsbD part then (s, some { status := St.ok })
    else (strikePart s part (callerSlot c) (callerSess c), none))
def execStrike (slot : Fin 8) (s : State) : Res :=
  .next (cmdRow s slot 0x0304 anyPayload false (.ok []) true strikeCmd)

end Sys2Proof.Machine
end

