-- ==== Sys2Proof/Machine/Power.lean ====
section
/-! DEFINITION. Power and thermal limits, the governor, the ghost light (chapter 19, R750 to R755). -/

namespace Sys2Proof.Machine

open Sys2Proof

/-! ## Records (R665) -/

/-- A record of `kind` as of now; DURATION reads 0xFFFF_FFFF while its event lasts. -/
def powerRecord (s : State) (kind overshoot : Nat) (duration : Option Nat) : Bytes :=
  let p := s.itv.pwr
  leBytes 8 s.itv.cue.count.toNat ++ leBytes 1 kind ++ zeros 1 ++ leBytes 2 p.cap ++ leBytes 2 (drawOf p) ++ leBytes 2 p.tj ++
    leBytes 4 overshoot ++ leBytes 4 (duration.getD 0xFFFFFFFF) ++ leBytes 2 (p.vdd / 1000) ++ zeros 6

/-- A record is kept (the latest 256), raises POWER and goes to the management plane. -/
def putRecord (s : State) (rec_ : Bytes) : State :=
  let s := { s with itv.pwr.records := (rec_ :: s.itv.pwr.records).take 256 }
  telemeter (raiseEvent s Ev.power) 1 rec_

/-- The first element that meets `p` is replaced. -/
def patchFirst {α : Type} (p : α → Bool) (f : α → α) : List α → List α
  | [] => []
  | x :: xs => if p x then f x :: xs else x :: patchFirst p f xs

/-- The newest record of `kind` takes bytes `bs` at `off` (its DURATION or OVERSHOOT, once known). -/
def patchRecord (s : State) (kind off : Nat) (bs : Bytes) : State :=
  { s with itv.pwr.records := patchFirst (fun r => byteAt r 8 == kind) (fun r => putAt r off bs) s.itv.pwr.records }

/-- The event of the newest record of `kind`, begun at `t`, has ended. -/
def endRecord (s : State) (kind t : Nat) : State := patchRecord s kind 20 (leBytes 4 ((s.now - t) / 1000))

/-! ## Limits (R646) -/

/-- Floor state holds while any of its causes does (R652, R659, R661, R667, R669). -/
def floorActive (p : Power) : Bool := p.shedUntil.isSome || p.pinSince.isSome || p.therm == .floor || p.therm == .trip

/-- The coolant inlet reads at or below 40 °C, and the reading is at most 1 s old (R643, R646). -/
def coolantOk (s : State) : Bool :=
  match s.itv.pwr.coolantAt with
  | some t => decide (s.itv.pwr.coolant ≤ 400) && decide (s.now ≤ t + 1000000000)
  | none => false

def sprintAllowed (s : State) : Bool := decide (0 < s.itv.pwr.sprint) && coolantOk s && s.itv.pwr.therm == .normal

/-- The rise of at most 100 W/ms from the floor, once floor state has ended (R652, R661). -/
def riseLimit (s : State) : Nat :=
  match s.itv.pwr.floorEndAt with
  | some t => 350 + (s.now - t) / 10000
  | none => 1350

/-- The lowest limit in force on the 1 ms mean, W. -/
def limitOf (s : State) : Nat :=
  let p := s.itv.pwr
  if floorActive p then 350 else min (riseLimit s) (min p.cap (if sprintAllowed s then 1200 else 900))

/-! ## Floor state (R654) -/

/-- The settings that waited are applied once neither floor state nor the loss of the heartbeat holds (R671). -/
def applyStored (s : State) : State :=
  match s.itv.pwr.stored with
  | some (f, u, d) =>
    if floorActive s.itv.pwr || s.itv.pwr.beatMissing then s
    else { s with itv.pwr.floor := f, itv.pwr.upSlew := u, itv.pwr.downSlew := d, itv.pwr.stored := none }
  | none => s

/-- After a cause of floor state came or went: the throttle, chorus, the ghost light, the start of the rise. -/
def refloor (s0 s : State) : State :=
  let was := floorActive s0.itv.pwr
  let is := floorActive s.itv.pwr
  let s := { s with itv.pwr.chorusPaused := is }
  if is then { s with itv.pwr.throttle := true, itv.pwr.ghostG := 0, itv.pwr.floorEndAt := none }
  else if was then applyStored { s with itv.pwr.floorEndAt := some s.now }
  else s

/-! ## Sprints (R648, R649) -/

/-- A running sprint ends when SPRINT_LEFT is 0 or a condition fails. -/
def sprintCheck (s : State) : State :=
  if s.itv.pwr.sprinting && !sprintAllowed s then
    putRecord { s with itv.pwr.sprinting := false, itv.pwr.sprintEndAt := some s.now } (powerRecord s 1 0 none)
  else s

/-- SPRINT_ACCOUNT: 1 s down for a second above 900 W, 0.1 s up otherwise, within 0 to 2 s. -/
def sprintAccountOp (s : State) : State :=
  let p := s.itv.pwr
  let left := if drawOf p > 900 then p.sprint - 10 else min (p.sprint + 1) 20
  sprintCheck { s with itv.pwr.sprint := left }
def execSprintAccount (s : State) : Res := .next (sprintAccountOp s)

/-! ## The ghost light (R655), in units of 10 mW -/

/-- T and G of a sample with real load `r`. -/
def ghostStep (p : Power) (r : Nat) : Nat × Nat :=
  if floorActive p then (r, 0)
  else
    let e := if p.beatMissing then 0 else min p.floor (min p.cap 900) * 100
    let h := min 900 p.cap * 100
    let d := max (p.ghostT - p.downSlew) (min e (p.ghostT + p.upSlew))
    let t := max r (min h d)
    (t, t - r)

/-! ## The governor (R644, R645) -/

/-- Where VDD_CORE goes, µV: down while a limit needs it, up while the pace is below 1,100, else to VSET (log 45). -/
def vddTarget (s : State) (tight : Bool) : Nat :=
  if floorActive s.itv.pwr || tight then 600000 else if paceLow s.itv then 800000 else s.itv.pwr.vset * 1000

/-- One 10 µs move: 2 mV per ms, 100 mV per ms in a shed (R645). An AVSBus write goes out when the target in mV changes; while
one is unacknowledged the regulator holds (R755). -/
def moveVdd (s : State) (tight : Bool) : State :=
  let p := s.itv.pwr
  if p.avsWait then s
  else
    let q := if p.shedUntil.isSome || p.pinSince.isSome then 1000 else 20
    let t := vddTarget s tight
    let v := if p.vdd < t then min t (p.vdd + q) else max t (p.vdd - q)
    let s' := { s with itv.pwr.vdd := v }
    if v / 1000 = p.vdd / 1000 then s' else emit s' (.avs (v / 1000))

/-! ## Samples -/

def meanOf (xs : List Nat) : Nat := if xs.length = 0 then 0 else xs.sum / xs.length

/-- 100 µs windows above 1,200 W in the last second, this one among them (R646). -/
def notePeak (s : State) : State :=
  let p := s.itv.pwr
  if meanOf (p.samples.take 10) > 1200 && (match p.peaks.head? with | some t => passed s t 100000 | none => true) then
    { s with itv.pwr.peaks := s.now :: p.peaks.filter (fun t => s.now < t + 1000000000) }
  else { s with itv.pwr.peaks := p.peaks.filter (fun t => s.now < t + 1000000000) }

/-- The electrical clamp: to 1,350 W, or to 1,200 W once 20 ms of the second are spent (R646, R647). -/
def clampCheck (s : State) : State :=
  let w := meanOf (s.itv.pwr.samples.take 10)
  let acts := decide (w > 1350) || (decide (w > 1200) && decide (s.itv.pwr.peaks.length ≥ 200))
  match acts, s.itv.pwr.clampAt with
  | true, none => putRecord { s with itv.pwr.clampAt := some s.now } (powerRecord s 7 0 none)
  | false, some t => endRecord { s with itv.pwr.clampAt := none } 7 t
  | _, _ => s

/-- Millijoules of a sum of W x 10 µs, rounded to nearest. -/
def mJ (v : Nat) : Nat := (v + 50) / 100

/-- The overshoot above the new cap (R653): its count ends when the 1 ms mean is at or below the cap. -/
def overshootStep (s : State) (draw : Nat) : State :=
  match s.itv.pwr.overshoot with
  | none => s
  | some v =>
    if drawOf s.itv.pwr ≤ s.itv.pwr.cap then
      let k := s.itv.pwr.overKind
      let s := { s with itv.pwr.overshoot := none, itv.pwr.overKind := 0 }
      let s := if k = 0 then s else patchRecord s k 16 (leBytes 4 (mJ v))
      if k = 8 then endRecord s 8 (s.itv.pwr.capAt + 5000000) else s
    else { s with itv.pwr.overshoot := some (v + (draw - s.itv.pwr.cap)) }

/-- A sample of the real load, with the ghost light added (R642, R655): T, G and the newest 100 draws. -/
def sampleIn (s : State) (real : Nat) : State :=
  let x := ghostStep s.itv.pwr (real * 100)
  { s with itv.pwr.ghostT := x.1, itv.pwr.ghostG := x.2, itv.pwr.samples := (x.1 / 100 :: s.itv.pwr.samples).take 100 }

/-- A sprint begins where the mean is above 900 W and one is allowed, and ends where it is not (R648, R649). -/
def sprintJudged (s : State) : State :=
  let mean := drawOf s.itv.pwr
  let s := sprintCheck (if mean > 900 && sprintAllowed s then { s with itv.pwr.sprinting := true } else s)
  if mean ≤ 900 then
    match s.itv.pwr.sprintEndAt with
    | some t => endRecord { s with itv.pwr.sprintEndAt := none, itv.pwr.sprinting := false } 1 t
    | none => { s with itv.pwr.sprinting := false }
  else s

/-- The governor's move, and the throttle (R644, R645). -/
def governed (s0 : State) : State :=
  let s := if riseLimit s0 ≥ 1350 then { s0 with itv.pwr.floorEndAt := none } else s0
  let tight := decide (drawOf s.itv.pwr > limitOf s)
  let s := moveVdd s tight
  { s with itv.pwr.throttle := tight || floorActive s.itv.pwr || s.itv.pwr.avsWait || s.itv.pwr.clampAt.isSome }

/-- POWER_SAMPLE (R642): the sample; the limits judged; the governor's move. -/
def powerSampleOp (s0 : State) (real : Nat) : State :=
  if s0.itv.boot.held then s0
  else
    let s := sampleIn s0 real
    governed (sprintJudged (overshootStep (clampCheck (notePeak s)) (s.itv.pwr.ghostT / 100)))
def execPowerSample (real : Nat) (s : State) : Res := .next (powerSampleOp s real)

/-! ## Caps (R650 to R653) -/

/-- CAP as accepted from either plane: tracking, or the fast shed for a cut faster than 100 W/ms. -/
def setCap (s : State) (cap : Nat) : State :=
  let p := s.itv.pwr
  let fast := decide (cap < p.cap) && decide ((p.cap - cap) * 1000000 > 100 * max (s.now - p.capAt) 1000000)
  let s1 := { s with itv.pwr.cap := cap, itv.pwr.capAt := s.now, itv.pwr.overshoot := some 0 }
  if fast then
    let s2 := putRecord { s1 with itv.pwr.overKind := 2, itv.pwr.capJudge := false } (powerRecord s1 2 0 none)
    refloor s { s2 with itv.pwr.shedUntil := some (s.now + (if floorActive p then 5000000 else 7000000)) }
  else { s1 with itv.pwr.overKind := 0, itv.pwr.capJudge := true }

/-- FLOOR, UP_SLEW and DOWN_SLEW as accepted from either plane; kept until floor state or the heartbeat loss ends (R671). -/
def setGhost (s : State) (f u d : Nat) : State := applyStored { s with itv.pwr.stored := some (f, u, d) }

/-- VSET and CAP of a POWER_SET (R732, R744): kept likewise, the newer of each in place of the older. -/
def applySet (s : State) : State :=
  match s.itv.pwr.storedSet with
  | some (v, c) =>
    if floorActive s.itv.pwr || s.itv.pwr.beatMissing then s
    else
      let s := { s with itv.pwr.vset := v.getD s.itv.pwr.vset, itv.pwr.storedSet := none }
      match c with
      | some cap => setCap s cap
      | none => s
  | none => s
def setLevels (s : State) (v c : Option Nat) : State :=
  let (v0, c0) := s.itv.pwr.storedSet.getD (none, none)
  applySet { s with itv.pwr.storedSet := some (v.or v0, c.or c0) }

/-- CAP_MISSED (R651): the mean is still above the cap 5 ms after acceptance. -/
def capMissedOp (s : State) : State :=
  let p := s.itv.pwr
  if p.capJudge && passed s p.capAt 5000000 then
    let s := { s with itv.pwr.capJudge := false }
    if drawOf p > p.cap then
      putRecord { s with itv.pwr.overKind := 8 } (powerRecord s 8 (mJ (p.overshoot.getD 0)) none)
    else s
  else s
def execCapMissed (s : State) : Res := .next (capMissedOp s)

/-- FLOOR_END (R652): the 5 ms of the cap-driven floor are over. -/
def floorEndOp (s : State) : State :=
  match s.itv.pwr.shedUntil with
  | some t =>
    if t ≤ s.now then applySet (refloor s (endRecord { s with itv.pwr.shedUntil := none } 2 s.itv.pwr.capAt)) else s
  | none => s
def execFloorEnd (s : State) : Res := .next (floorEndOp s)

/-! ## Thermal limits (R659, R660) -/

/-- The trip: THERM_TRIP_N asserted, every transmitter stopped, the chip held in whole-chip reset. -/
def tripOp (s : State) : State :=
  wholeReset (emit { s with itv.pwr.tripPin := true } .thermTrip) true

/-- THERMAL_TRIP. -/
def execThermalTrip (s : State) : Res := .next (tripOp s)

/-- The state a sample enters from `t` at once; none where nothing rises. -/
def thermUp (t : Therm) (tj : Nat) : Option Therm :=
  match t with
  | .normal => if tj ≥ 1050 then some .floor else if tj ≥ 1000 then some .hot else none
  | .hot => if tj ≥ 1050 then some .floor else none
  | _ => none

def thermExit : Therm → Nat
  | .hot => 980
  | .floor => 1000
  | _ => 0

/-- TJ_SAMPLE: the thresholds, and the exits after 1 s below the exit value. -/
def tjSampleOp (s : State) (tj : Nat) : State :=
  if s.itv.boot.held then s
  else if tj ≥ 1200 then tripOp { s with itv.pwr.tj := tj }
  else
    let s := { s with itv.pwr.tj := tj }
    match thermUp s.itv.pwr.therm tj with
    | some .floor =>
      let s1 := { s with itv.pwr.therm := .floor, itv.pwr.coolSince := none, itv.pwr.floorSince := s.now }
      sprintCheck (refloor s (putRecord s1 (powerRecord s1 4 0 none)))
    | some t => sprintCheck { s with itv.pwr.therm := t, itv.pwr.coolSince := none }
    | none =>
      if s.itv.pwr.therm == .normal then s
      else if tj < thermExit s.itv.pwr.therm then
        match s.itv.pwr.coolSince with
        | none => { s with itv.pwr.coolSince := some s.now }
        | some t =>
          if passed s t 1000000000 then
            let s1 := { s with itv.pwr.therm := .normal, itv.pwr.coolSince := none }
            if s.itv.pwr.therm == .floor then applySet (refloor s (endRecord s1 4 s.itv.pwr.floorSince)) else s1
          else s
      else { s with itv.pwr.coolSince := none }
def execTjSample (tj : Nat) (s : State) : Res := .next (tjSampleOp s tj)

/-! ## PWR_SHED_N (R661, R667) -/

/-- PWR_SHED_N asserted. -/
def pwrShedOp (s : State) : State :=
  if s.itv.pwr.pinSince.isSome then s
  else refloor s { s with itv.pwr.pinSince := some s.now, itv.pwr.pinRec := powerRecord s 3 0 none }
def execPwrShedN (s : State) : Res := .next (pwrShedOp s)

/-- 1 ms after the pin's release: floor state is left and the PIN_SHED record is written, with the time the pin was held. -/
def pwrShedReleaseOp (s : State) : State :=
  match s.itv.pwr.pinSince with
  | some t =>
    applySet (refloor s (putRecord { s with itv.pwr.pinSince := none }
      (putAt s.itv.pwr.pinRec 20 (leBytes 4 ((s.now - t) / 1000 - 1000)))))
  | none => s
def execPwrShedRelease (s : State) : Res := .next (pwrShedReleaseOp s)

/-! ## Heartbeat and coolant (R643, R663, R664, R739) -/

/-- HEARTBEAT_LOST: no heartbeat for 10 s. -/
def heartbeatLostOp (s : State) : State :=
  if !s.itv.pwr.beatMissing && s.itv.boot.yalny && passed s s.itv.pwr.beatAt 10000000000 then
    let s1 := { s with itv.pwr.beatMissing := true, itv.pwr.lostBeatAt := s.now }
    noteState s (putRecord s1 (powerRecord s1 5 0 none))
  else s
def execHeartbeatLost (s : State) : Res := .next (heartbeatLostOp s)

/-- A heartbeat: the 10 s start again; a missing one ends (R664). -/
def heartbeatCame (s : State) : State :=
  let s1 := { s with itv.pwr.beatAt := s.now, itv.pwr.beatMissing := false }
  if s.itv.pwr.beatMissing then
    let s1 := endRecord s1 5 s.itv.pwr.lostBeatAt
    noteState s (applySet (applyStored (putRecord s1 (powerRecord s1 6 0 (some 0)))))
  else s1

/-- COOLANT_STALE: the reading is older than 1 s and counts as above 40 °C. -/
def coolantStaleOp (s : State) : State := sprintCheck s
def execCoolantStale (s : State) : Res := .next (coolantStaleOp s)

/-- COOLANT_IN, the BMC's write (R738, R739). -/
def coolantInOp (s : State) (v : Nat) : State := sprintCheck { s with itv.pwr.coolant := v, itv.pwr.coolantAt := some s.now }
def execCoolantIn (v : Nat) (s : State) : Res := .next (coolantInOp s v)

/-! ## Rails (R662, R753, R755) -/

/-- BROWN_OUT: VDD_CORE below 0.50 V for more than 1 ms. THERM_TRIP_N is released with VDD_CORE removed (R660, R758). -/
def brownOutOp (s : State) : State := wholeReset { s with itv.pwr.tripPin := false } false
def execBrownOut (s : State) : Res := .next (brownOutOp s)

/-- RAIL_FAULT: another rail out of range for more than 1 ms; with a trip the chip stays in reset (R768). -/
def railFaultOp (s : State) (_rail : Rail) : State := wholeReset s s.itv.pwr.tripPin
def execRailFault (rail : Rail) (s : State) : Res := .next (railFaultOp s rail)

/-- AVS_RETRY: the outcome of an AVSBus write. Unacknowledged, the throttle alone holds the limits and POWER is raised. -/
def avsRetryOp (s : State) (acked : Bool) : State :=
  if acked then { s with itv.pwr.avsWait := false }
  else raiseEvent (emit { s with itv.pwr.avsWait := true, itv.pwr.throttle := true } (.avs (s.itv.pwr.vdd / 1000))) Ev.power
def execAvsRetry (acked : Bool) (s : State) : Res := .next (avsRetryOp s acked)

end Sys2Proof.Machine
end

