-- ==== Sys2Proof/Machine/CmdPower.lean ====
section
/-! DEFINITION. Power and telemetry commands (R562, R582 to R585, R142, R151). -/

namespace Sys2Proof.Machine

open Sys2Proof

/-- The newest power record, or 32 zero bytes (R665). -/
def newestRecord (s : State) : Bytes := (s.itv.pwr.records.head?).getD (zeros 32)

/-! ## power-cap, ghost-set -/

def powerCapCmd : Cmd := fun s c =>
  let cap := natAt c.payload 0 2
  checked s [(decide (cap < 350) || decide (cap > 1200), St.badarg, 0), mbz c 2 6] (fun _ =>
    let s := setCap s cap
    (s, some { status := St.ok, result := newestRecord s }))
def execPowerCap (slot : Fin 8) (s : State) : Res :=
  .next (cmdRow s slot 0x0401 anyPayload false (.ok []) true powerCapCmd)

def ghostSetCmd : Cmd := fun s c =>
  let f := natAt c.payload 0 2
  let u := natAt c.payload 2 2
  let d := natAt c.payload 4 2
  checked s [(decide (f > 700), St.badarg, 0), (u == 0 || decide (u > 500), St.badarg, 2),
             (d == 0 || decide (d > 500), St.badarg, 4), mbz c 6 2] (fun _ =>
    let s := setGhost s f u d
    let above := decide (f > s.itv.pwr.cap)
    (s, some { status := if above then St.degraded else St.ok, detail := b2n above, result := newestRecord s }))
def execGhostSet (slot : Fin 8) (s : State) : Res :=
  .next (cmdRow s slot 0x0402 anyPayload false (.ok []) true ghostSetCmd)

/-! ## pace-read, run-length-read -/

def paceResult (v : Itvos) : Bytes :=
  let d0 := v.core.dies.get 0
  let d1 := v.core.dies.get 1
  leBytes 2 (diePace d0) ++ leBytes 2 (diePace d1) ++ leBytes 2 (chipPace v) ++ leBytes 2 (v.pwr.vdd / 1000) ++
    leBytes 2 v.pwr.tj ++ zeros 6 ++ pad 32 (d0.monitors.flatMap (leBytes 2)) ++ pad 32 (d1.monitors.flatMap (leBytes 2))

def paceReadCmd : Cmd := fun s _ => (s, some { status := St.ok, result := paceResult s.itv })
def execPaceRead (slot : Fin 8) (s : State) : Res :=
  .next (cmdRow s slot 0x0403 anyPayload false (.ok []) true paceReadCmd)

/-- Bytes 0 to 23 are zero before 168 h of operation (R636); the trends are the last hourly inputs. -/
def runLengthResult (v : Itvos) : Bytes :=
  let last := v.flash.history.getLast?.getD []
  (if v.flash.hours < 168 then zeros 24 else leBytes 8 v.mgmt.lifeDate ++ leBytes 8 v.mgmt.lifeLow ++ leBytes 8 v.mgmt.lifeHigh) ++
    leBytes 4 (lget last 0) ++ leBytes 4 (lget last 1) ++ leBytes 4 (lget last 2) ++
    leBytes 4 (v.flash.rowRepairs.sum) ++ leBytes 8 v.flash.highHours ++ zeros 16

def runLengthReadCmd : Cmd := fun s _ => (s, some { status := St.ok, result := runLengthResult s.itv })
def execRunLengthRead (slot : Fin 8) (s : State) : Res :=
  .next (cmdRow s slot 0x0404 anyPayload false (.ok []) true runLengthReadCmd)

/-! ## counters-read (R585, R630) -/

/-- Counters of each set, but for the ring of set 0. -/
def setSize (k : Nat) : Nat := [2304, 128, 16, 8, 13, 640, 32, 24].getD k 0

/-- Pages of the start scrubs and of carve scrubs not yet set to ZERO (R490). -/
def scrubPages (v : Itvos) : Nat := (v.pool.scrubs.map (fun x => x.hi - x.lo)).sum
/-- Pages a re-key sweep of the partition has not visited (R487). -/
def sweepPages (v : Itvos) (p : Nat) : Nat :=
  ((v.pool.sweeps.filter (fun x => x.part == p)).map (fun x => x.left.length)).sum

/-- Free buffers of a pool: those in its cache and those in its ring (R461). -/
def freeCount (w : Wardrobe) (k : Nat) : Nat :=
  (w.cache.getD k []).length + ((w.ring.getD k []).map (·.2)).sum

/-- Entries that hold state (R585): none where index `i` of set `k` is a count. -/
def stateEntry (v : Itvos) (k i : Nat) : Option Nat :=
  if k = 1 && i % 64 = 10 then some (v.core.dies[i / 64]?.map (fun d => d.retired.toNat) |>.getD 0)
  else if k = 1 && i % 64 = 14 then some (lget v.flash.rowRepairs (i / 64))
  else if k = 6 && i = 8 then some (scrubPages v)
  else if k = 6 && 16 ≤ i then some (sweepPages v (i - 16))
  else none

/-- LOWEST_FREE of partition `w`, pool `k`. -/
def lowestEntry (k i : Nat) : Option (Nat × Nat) :=
  if k = 5 && i % 5 = 4 then some (i / 40, i % 40 / 5) else none

def counterAt (v : Itvos) (k i : Nat) : Nat :=
  match stateEntry v k i, lowestEntry k i with
  | some x, _ => x
  | none, some (w, p) => ((kget v.wards w).map (fun x => x.lowest.getD p 0)).getD 0
  | none, none => kgetD v.ctr (k * 65536 + i) 0

/-- The buffer: the set's counters in order, then for set 0 the ring. -/
def countersData (v : Itvos) (k : Nat) : Bytes :=
  (List.range (setSize k)).flatMap (fun i => leBytes 8 (counterAt v k i)) ++
    (if k = 0 then v.portRing.flatMap (fun r => leBytes 8 r.1 ++ leBytes 8 r.2) else [])

/-- CLEAR: every count to zero; state entries stand; LOWEST_FREE restarts at the free count. -/
def clearCounters (s : State) (k : Nat) : State :=
  let s := { s with itv.ctr := kdelRange s.itv.ctr (k * 65536) ((k + 1) * 65536) }
  if k = 5 then
    { s with itv.wards := s.itv.wards.map (fun (i, w) =>
        (i, if i < 16 then { w with lowest := (List.range 8).map (freeCount w) } else w)) }
  else s

def countersReadCmd : Cmd := fun s c =>
  let k := byteAt c.payload 0
  let flags := byteAt c.payload 1
  checked s [(decide (k > 7), St.badarg, 0), (decide (flags > 1), St.badarg, 1), mbz c 2 6, refCheck c 8 1] (fun _ =>
    let d := countersData s.itv k
    if bufLen c 8 < d.length then ends s St.badarg 8
    else
      let r : Reply := { status := St.ok, bulk := some (8, d),
                         result := leBytes 4 (d.length / 8) ++ zeros 4 ++ leBytes 8 s.itv.cue.count.toNat }
      (if flags = 1 then clearCounters s k else s, some r))
def execCountersRead (slot : Fin 8) (landed : Bool) (s : State) : Res :=
  .next (cmdRow s slot 0x0405 anyPayload false (.ok []) landed countersReadCmd)

/-! ## peephole-set (R142, R151) -/

/-- New settings of a port: LFSRs seeded with its number plus 1; K = 0 stops watching. -/
def peepOf (port dirs mask k mode : Nat) : Peep :=
  { dirs := if k = 0 then 0 else BitVec.ofNat 2 dirs, mask := BitVec.ofNat 8 mask, k := k, random := mode == 1,
    lfsrIn := BitVec.ofNat 24 (port + 1), lfsrOut := BitVec.ofNat 24 (port + 1) }

def peepholeSetCmd : Cmd := fun s c =>
  let b := byteAt c.payload
  checked s [(decide (b 0 > 71) && b 0 != 255, St.badarg, 0), (decide (b 1 > 3), St.badarg, 1),
             ((b 3 != 0 && decide (b 3 < 4)) || decide (b 3 > 24), St.badarg, 3), (decide (b 4 > 1), St.badarg, 4),
             mbz c 5 3] (fun _ =>
    let ports := if b 0 = 255 then List.range 72 else [b 0]
    (ports.foldl (fun s n => modItvPort s n (fun p => { p with peep := peepOf n (b 1) (b 2) (b 3) (b 4) })) s,
     some { status := St.ok }))
def execPeepholeSet (slot : Fin 8) (s : State) : Res :=
  .next (cmdRow s slot 0x0406 anyPayload false (.ok []) true peepholeSetCmd)

end Sys2Proof.Machine
end

