-- ==== Sys2Proof/Machine/CmdReset.lean ====
section
/-! DEFINITION. reset-partial (R586, R690 to R701) and the self-test after a cluster reset (R678). -/

namespace Sys2Proof.Machine

open Sys2Proof

/-- Checks of the fields (R12, R586): LEVEL, TARGET within `targets`, ACTION up to `actions`, zeros. -/
def resetChecks (c : Call) (targets actions : Nat) : List (Bool × Nat × Nat) :=
  [(decide (byteAt c.payload 0 > 5), St.badarg, 0), (decide (byteAt c.payload 1 ≥ targets), St.badarg, 1),
   (decide (byteAt c.payload 2 > actions), St.badarg, 2), mbz c 3 5]

/-! ## Level 0: the prompters (R555, R690) -/

def resetPrompterCmd : Cmd := fun s c =>
  checked s (resetChecks c 1 0) (fun _ =>
    let s := if isMgmt c then { s with itv.mgmt.resultLost := satAdd s.itv.mgmt.resultLost 1 } else s
    (prompterReset s (callerSlot c), none))
def execResetPrompter (slot : Fin 8) (s : State) : Res :=
  .next (cmdRow s slot 0x0501 (byteIsOr 0 0 [0, 1, 2, 3, 4, 5]) false (.ok []) true resetPrompterCmd)

/-! ## Level 1: a port (R74, R586) -/

/-- A READY port drains first; any other goes to DARK at once. -/
def closePort (s : State) (c : Call) (n : Nat) (why : DrainWhy) : State × Option Reply :=
  match itvRef n with
  | none => ends s St.badarg 1
  | some r =>
    if closing s.itv n then ends s St.busy
    else
      let d : Drain := { why := why, ports := setBit 0 n true, start := s.now, lastSent := s.now, slot := callerSlot c,
                         sess := callerSess c }
      if (getPort s r).st = .ready then ({ s with itv.routing.drains := s.itv.routing.drains ++ [d] }, none)
      else (endDrain s { d with slot := none, sess := none }, some { status := St.ok })

def resetPortRehearseCmd : Cmd := fun s c =>
  let n := byteAt c.payload 1
  checked s (resetChecks c 72 2 ++ [(!(itvPort s n).enabled, St.denied, 1)]) (fun _ => closePort s c n .rehearse)
def execResetPortRehearse (slot : Fin 8) (s : State) : Res :=
  .next (cmdRow s slot 0x0501 (fun p => byteIs 0 1 p && byteIsOr 2 0 [0, 1, 2] p) false (.ok []) true resetPortRehearseCmd)

def resetPortDisableCmd : Cmd := fun s c =>
  checked s (resetChecks c 72 2) (fun _ => closePort s c (byteAt c.payload 1) .disable)
def execResetPortDisable (slot : Fin 8) (s : State) : Res :=
  .next (cmdRow s slot 0x0501 (fun p => byteIs 0 1 p && byteIs 2 1 p) false (.ok []) true resetPortDisableCmd)

def resetPortEnableCmd : Cmd := fun s c =>
  let n := byteAt c.payload 1
  checked s (resetChecks c 72 2) (fun _ =>
    match itvRef n with
    | none => ends s St.badarg 1
    | some r =>
      if (getPort s r).enabled then ends s St.ok
      else ends (modPort s r (fun p => { p with enabled := true, reason := .none, waitMs := 0 })) St.ok)
def execResetPortEnable (slot : Fin 8) (s : State) : Res :=
  .next (cmdRow s slot 0x0501 (fun p => byteIs 0 1 p && byteIs 2 2 p) false (.ok []) true resetPortEnableCmd)

/-! ## Level 2: a cluster (R678, R691) -/

def resetClusterCmd : Cmd := fun s c =>
  let k := byteAt c.payload 1
  checked s (resetChecks c 18 0 ++ [(s.itv.coll.resetting.getLsbD k, St.busy, 0)]) (fun _ =>
    let groups := servedBy s k
    let s := { s with itv.coll.resetting := setBit s.itv.coll.resetting k true,
                      itv.coll.resetBy := kset s.itv.coll.resetBy k (callerSlot c, callerSess c) }
    (groups.foldl (fun s g => remapOwn s g 0xFFFF) s, none))
def execResetCluster (slot : Fin 8) (s : State) : Res :=
  .next (cmdRow s slot 0x0501 (byteIs 0 2) false (.ok []) true resetClusterCmd)

/-- CLUSTER_SELF_TEST: the cluster returns to service, or stays retired and its physical cluster is recorded in flash. -/
def clusterSelfTestOp (s : State) (k : Nat) (pass : Bool) : State :=
  if !s.itv.coll.resetting.getLsbD k then s
  else
    let was := s.itv.coll.retired.getLsbD k
    let who := kgetD s.itv.coll.resetBy k (none, none)
    let s := { s with itv.coll.resetting := setBit s.itv.coll.resetting k false, itv.coll.resetBy := kdel s.itv.coll.resetBy k,
                      itv.coll.retired := setBit s.itv.coll.retired k !pass }
    if pass then finishKept s who.1 who.2 { status := St.ok }
    else
      let phys := (s.itv.boot.clusterMap[k]?).getD (lget s.itv.fuse.clusterMap k)
      let s := { s with itv.flash.clusterBad := (phys :: s.itv.flash.clusterBad).eraseDups }
      let s := if was then s else raiseEvent (bumpColl s .clustersRetired) Ev.state
      finishKept s who.1 who.2 { status := St.degraded, detail := 1 }
def execClusterSelfTest (cluster : Fin 18) (pass : Bool) (s : State) : Res := .next (clusterSelfTestOp s cluster.val pass)

/-! ## Level 3: the core of a die (R690, R691, R701) -/

/-- Flits on the internal paths of the die and its bridge. -/
def clearPaths (s : State) (d : Nat) : State :=
  let mine := fun (x : OnPath) => inpDie x.inp (x.outs.headD (0, 0)).1 == d || x.outs.any (fun t => dieOf t.1 == d)
  let gone := s.itv.core.onPath.filter mine
  let s := gone.foldl (fun s x => countDiscards s (if x.inp < 72 then x.inp else (x.outs.headD (0, 0)).1) [x.flit]) s
  { s with itv.core.onPath := s.itv.core.onPath.filter (fun x => !mine x) }

/-- Atomics that wait in the combining tables that meet `p` go unperformed, and their marks are cleared (R626). -/
def dropWaiting (s : State) (p : Combine → Bool) : State :=
  let gone := (s.itv.dir.combine.filter p).flatMap (·.waiting)
  let s := gone.foldl (fun s f => unmark s .itv f) s
  modDir s (fun d => { d with combine := d.combine.map (fun c => if p c then { c with waiting := [] } else c) })

/-- The drains of ports of the die that a reset-partial was closing have nothing left to wait for. -/
def endClosing (s : State) (d : Nat) : State :=
  let mine := fun (x : Drain) => (x.why == .disable || x.why == .rehearse) && (portsOf x.ports).all (fun o => dieOf o == d)
  let gone := s.itv.routing.drains.filter mine
  gone.foldl endDrain { s with itv.routing.drains := s.itv.routing.drains.filter (fun x => !mine x) }

/-- What a core reset of die `d` leaves. -/
def coreReset (s0 : State) (d : Nat) : State :=
  let s := (diePorts d).foldl (fun s n => match itvRef n with
    | some r => if (getPort s r).st = .ready then leaveReady s r .dark .none else s
    | none => s) s0
  let s := dropWaiting (clearPaths s d) (fun c => (setOf (flitLine c.flit)).1 == d)
  let s := modDie s d (fun x => { x with retired := 0, drops := [] })
  let s := (s.itv.pool.moves.map (·.page)).foldl moveCompleteOp s
  noteState s0 (endClosing s d)

def resetCoreCmd : Cmd := fun s c =>
  let d := byteAt c.payload 1
  checked s (resetChecks c 2 0) (fun _ => (coreReset s d, some { status := St.ok }))
def execResetCore (slot : Fin 8) (s : State) : Res :=
  .next (cmdRow s slot 0x0501 (byteIs 0 3) false (.ok []) true resetCoreCmd)

/-! ## Level 4: a partition (R692) -/

/-- Step 1: requests held and waiting here are answered. -/
def answerPart (s : State) (part : Nat) : State :=
  let (s, held) := takeHeld s part
  let home := s.itv.dir.home.filter (ofPart s part)
  let s := modDir s (fun d => { d with home := d.home.filter (fun f => !ofPart s part f) })
  (held ++ home).foldl (fun s f => answer s f St.domainDown) s

/-- Step 2: collectives, cast lists and cue sheets. -/
def dropPartCasts (s : State) (part : Nat) : State :=
  let s := abortPart s part Ctl.timeout (fun _ => true)
  let groups := (s.itv.coll.casts.filter (fun c => c.2.part == part)).map (·.1)
  { s with itv.coll.casts := s.itv.coll.casts.filter (fun c => !groups.contains c.1),
           itv.coll.runs := s.itv.coll.runs.filter (fun r => !groups.contains r.group) }

/-- Step 4: wardrobe and carves. -/
def releasePart (s : State) (part : Nat) : State :=
  let v := wardRelease s.itv part
  { s with itv := ((v.pool.carves.filter (fun k => k.2.part == part)).map (·.1)).foldl releaseCarve v }

/-- Steps 1 to 6 of R692. -/
def partitionReset (s0 : State) (part : Nat) : State :=
  let s := dropPartCasts (answerPart s0 part) part
  let s := freePart (reclaimPart (eraseKeys s part) part) part
  let s := modDir (releasePart s part) (fun d => { d with down := setBit d.down part false })
  let s := { s with itv.sec.struck := setBit s.itv.sec.struck part false,
                    itv.sec.pushes := s.itv.sec.pushes.filter (fun x => byteAt x.flit.payload 2 != part) }
  noteState s0 (pushAll s part 0x0303)

def resetPartitionCmd : Cmd := fun s c =>
  let part := byteAt c.payload 1
  checked s (resetChecks c 16 0 ++ [(!partExists s.itv part, St.badarg, 1),
      (s.itv.sec.strikes.any (fun x => x.part == part), St.busy, 0)]) (fun _ =>
    (partitionReset s part, some { status := St.ok }))
def execResetPartition (slot : Fin 8) (s : State) : Res :=
  .next (cmdRow s slot 0x0501 (byteIs 0 4) false (.ok []) true resetPartitionCmd)

/-! ## Level 5: the whole chip (R586, R697) -/

def resetWholeChipCmd : Cmd := fun s c =>
  checked s (resetChecks c 1 0) (fun _ => ({ s with itv.boot.level5At := some (s.now + 1000000) }, some { status := St.ok }))
def execResetWholeChip (slot : Fin 8) (s : State) : Res :=
  .next (cmdRow s slot 0x0501 (byteIs 0 5) true (.ok []) true resetWholeChipCmd)

end Sys2Proof.Machine
end

