-- ==== Sys2Proof/Machine/CollRows.lean ====
section
/-! DEFINITION. The rows of collectives at the member and at the reducer: COLL_POST, RESULT, MCAST, CONTRIB, REPORT, ABORT, REMAP,
the timers, the prompt book's mirror and restore. -/

namespace Sys2Proof.Machine

open Sys2Proof

/-! ## Member -/

def execCollPost (ch : Fin 24) (m : ApronMsg) (s : State) : Res :=
  .next (onApron s ch m 0x07 (fun s => settle (acceptPost s ch.val m)))

/-- A flit of `kind` that waits for Belug's units with the port it came on; it is taken by `g`. -/
def fromSeatInbox (s : State) (f : Flit) (g : State → Nat → State) : State :=
  match s.blg.inbox.find? (fun x => x.1 == f) with
  | some x => settle (g (takeInbox s .blg f) x.2.2)
  | none => s

/-- A control flit (R338). -/
def isControl (f : Flit) : Bool := decide (stepReport ≤ (cHead f).step)

def resultOp (s : State) (f : Flit) (k : BitVec 5) : State :=
  if f.kind = k ∧ !isControl f then fromSeatInbox s f (fun s p => memberResult s f p) else s
def execResult (f : Flit) (s : State) : Res := .next (resultOp s f Kind.result)
def execMcast (f : Flit) (s : State) : Res := .next (resultOp s f Kind.mcast)

/-! ## Reducer -/

/-- CONTRIB: merged, dropped, or left to wait where a wardrobe pool is EMPTY (R428). -/
def contribOp (s : State) (f : Flit) (bad : Bool) : State :=
  if f.kind = Kind.contrib ∧ !isControl f ∧ s.itv.core.inbox.contains f then
    (takeContrib (takeInbox s .itv f) f bad).getD s
  else s
def execContrib (f : Flit) (residueBad : Bool) (s : State) : Res := .next (contribOp s f residueBad)

/-- A control CONTRIB with STEP `step` at a reducer of its group, LIVE here (R320, R348). -/
def onControl (s : State) (f : Flit) (step : Nat) (g : State → Cast → Sender → State) : State :=
  if f.kind = Kind.contrib ∧ (cHead f).step = step then
    fromInbox s .itv f (fun s =>
      match getCast s (cHead f).group with
      | none => bumpColl s .notCast
      | some c =>
        match senderOf s c f 0 with
        | none => bumpColl s .notCast
        | some w => if c.live.getLsbD (myPlane s) then g s c w else bumpColl s .remapDrop)
  else s

/-- REPORT (R341, R342). -/
def reportOp (s : State) (f : Flit) : State :=
  onControl s f stepReport (fun s c w =>
    let h := cHead f
    match findEntry c h.cueSeq, w with
    | none, _ => bumpColl s .noEntry
    | some e, .kid k _ =>
      if e.ended then bumpColl s .noEntry
      else
        let s := noteArrival (ensureRun s h.group h.cueSeq f.ctx) h.group h.cueSeq 0 []
        let s := modRun s h.group h.cueSeq (fun r => { r with covered := kset r.covered k (ctlCompared f) })
        judgeMismatch (noteMismatch s h.group h.cueSeq (ctlRank f)) h.group h.cueSeq false
    | some _, _ => s)
def execReport (f : Flit) (s : State) : Res := .next (reportOp s f)

/-- An ABORT that a member relays (R339). -/
def reducerAbort (s : State) (f : Flit) : State :=
  onControl s f stepAbort (fun s c _ =>
    let h := cHead f
    match findEntry c h.cueSeq with
    | none => bumpColl s .noEntry
    | some e => if e.ended then bumpColl s .noEntry else dropColl s h.group h.cueSeq (ctlStatus f))
def seatControl (s : State) (f : Flit) (step : Nat) (g : State → Nat → State) : State :=
  if f.kind = Kind.result ∧ (cHead f).step = step then fromSeatInbox s f g else s
def execAbort (side : Side) (f : Flit) (s : State) : Res :=
  .next (match side with
    | .itv => reducerAbort s f
    | .blg => seatControl s f stepAbort (fun s p => memberAbort s f p))

/-- A REMAP: passed on and applied once (R347, R348, R361). -/
def reducerRemap (s : State) (f : Flit) : State :=
  onControl s f stepRemap (fun s c _ =>
    let h := cHead f
    let p := ctlPlane f
    if c.live.getLsbD p then applyRemap (passRemap s c h.group h.cueSeq p (ctlRank f) f.ctx) h.group p else s)
def execRemap (side : Side) (f : Flit) (s : State) : Res :=
  .next (match side with
    | .itv => reducerRemap s f
    | .blg => seatControl s f stepRemap (fun s p => memberRemapFlit s f p))

/-! ## Timers -/

/-- HOLD_EXPIRY (R342, R344, R358). -/
def holdExpiryOp (s : State) (g q t : Nat) : State :=
  match getCast s g, findRun s g q with
  | some c, some run =>
    match findEntry c q, run.steps.find? (fun x => x.step == t && !x.ended) with
    | some e, some x =>
      if !passed s x.opened c.hold then s
      else if run.mism.isSome then judgeMismatch s g q true
      else
        match missingAt s c (castJob c e.desc) run t with
        | [] => s
        | r :: _ => abortColl s g q Ctl.timeout r
    | _, _ => s
  | _, _ => s
def execHoldExpiry (group : Nat) (cueSeq : BitVec 16) (step : Nat) (s : State) : Res :=
  .next (holdExpiryOp s group cueSeq.toNat step)

/-- RESULT_KEEP_EXPIRY (R335). -/
def resultKeepExpiryOp (s : State) (g q k : Nat) : State :=
  match getCast s g, (findRun s g q).bind (findStripe · k) with
  | some c, some x =>
    match x.complete with
    | some t => if passed s t c.hold then modStripe s g q k (fun x => { x with results := [] }) else s
    | none => s
  | _, _ => s
def execResultKeepExpiry (group : Nat) (cueSeq : BitVec 16) (stripe : Nat) (s : State) : Res :=
  .next (resultKeepExpiryOp s group cueSeq.toNat stripe)

/-! ## Prompt book (R352 to R354, R687) -/

/-- A record with MIRROR set, or cleared. -/
def markMirror (rec_ : Bytes) (m : Bool) : Bytes :=
  rec_.set 13 (BitVec.ofNat 8 (byteAt rec_ 13 / 2 * 2 + b2n m))

/-- MIRROR_WRITE (R353). -/
def mirrorWriteOp (s : State) (f : Flit) : State :=
  if f.kind = Kind.svc ∧ f.svc = Config.svcMirrorWrite.toNat then
    fromInbox s .itv f (fun s => { s with itv.coll.mirror := ringAdd s.itv.coll.mirror (markMirror (slice f.payload 16 32) true) })
  else s
def execMirrorWrite (f : Flit) (s : State) : Res := .next (mirrorWriteOp s f)

/-- A GAP record, of the own ring or of the mirror (R354). -/
def gapRec (s : State) (mirror : Bool) : Bytes :=
  bookRec 0 0 0xFFFFFFFF (myPlane s) (8 + b2n mirror) 0 (leBytes 8 s.itv.cue.count.toNat)

/-- PROMPT_BOOK_RESTORED: records that came from the neighbours; where none could, a GAP record. -/
def promptBookRestoredOp (s0 : State) (own mirror : Option (List Bytes)) : State :=
  if !s0.itv.boot.started || s0.itv.boot.bookDone || !(s0.itv.boot.stallsTrained || s0.itv.boot.stallsFailed) then s0
  else
    let alone := (nextPlane s0).isNone
    let s := { s0 with itv.boot.bookDone := true }
    let ring := fun (old : List Bytes) (xs : Option (List Bytes)) (m : Bool) =>
      match (if alone then none else xs) with
      | some rs => (rs.map (fun r => markMirror (pad 32 r) m)) ++ old
      | none => if alone && m then old else ringAdd old (gapRec s m)
    let s := { s with itv.coll.book := ring s.itv.coll.book own false, itv.coll.mirror := ring s.itv.coll.mirror mirror true }
    checkReady s
def execPromptBookRestored (own mirror : Option (List Bytes)) (s : State) : Res := .next (promptBookRestoredOp s own mirror)

/-- RESTORE_FROM_MIRROR: every record the neighbour of the request's source asks for goes back to it, one to a flit: this chip's mirror
records to the plane before, its own to the plane after (R354; log 50). -/
def restoreFromMirrorOp (s : State) (f : Flit) : State :=
  if f.kind = Kind.svc ∧ f.svc = Config.svcRestore.toNat then
    fromInbox s .itv f (fun s =>
      let q := swPlane f.src
      let F := onesOf ((s.itv.routing.chart.map (·.planes)).getD 0)
      let prev := ((F.reverse.find? (fun x => decide (x < myPlane s))).orElse (fun _ => F.getLast?)).getD (myPlane s)
      if q = myPlane s then s
      else
        let mine := if nextPlane s = some q then s.itv.coll.book else []
        let theirs := if prev = q then s.itv.coll.mirror else []
        (theirs ++ mine).foldl (fun s r => itvSend s (svcRecord s Config.svcRestore q r)) s)
  else s
def execRestoreFromMirror (f : Flit) (s : State) : Res := .next (restoreFromMirrorOp s f)

end Sys2Proof.Machine
end

