-- ==== Sys2Proof/Machine/KeysRun.lean ====
section
/-! DEFINITION. Keys at work: KEY_PUSH, KEY_REVOKE, PARTITION_CLEAR at Belug, their repeats, USE_AFTER, the end of a strike, the
debug port (R596, R605, R608, R609, R611, R612, R618, R621, R693). -/

namespace Sys2Proof.Machine

open Sys2Proof

/-! ## Belug -/

/-- A Service flit with an SVC_CODE that waits for Belug's units: taken with the port it came on. -/
def onSeatService (s : State) (f : Flit) (code : Nat) (g : State → Nat → State) : State :=
  if f.kind = Kind.svc ∧ f.svc = code then
    match s.blg.inbox.find? (fun x => x.1 == f) with
    | some x => settle (g (takeInbox s .blg f) x.2.2)
    | none => s
  else s

/-- KEY_PUSH (R609). -/
def keyPushOp (s : State) (r : Fin 24) (f : Flit) : State :=
  match s.blg.inbox.find? (fun x => x.1 == f) with
  | none => s
  | some x =>
    if x.2.2 ≠ r.val then s
    else onSeatService s f 0x0301 (fun s p =>
      let b := slice f.payload 16 96
      let entry := slice f.payload 112 48
      let job := blobJob b
      let part := byteAt f.payload 2
      let target := ((blgPort s p).partner.map (·.serial.toNat)).getD 0
      let last := kget s.blg.keyEpochs job
      if s.blg.struck = some part ∨ natAt b 16 8 ≠ target ∨ (last.map (fun e => decide (blobEpoch b ≤ e))).getD false ∨
          !blobHeadOk b 0 false ∨ blobPart b ≠ part ∨ natAt entry 0 8 ≠ s.blg.fuse.serial.toNat then s
      else
        match openEntry s.blg.fuse.serial b entry with
        | none => s
        | some key =>
          if (kget s.blg.keys job).isNone && decide (64 ≤ s.blg.keys.length) then bumpBC s .keyFull
          else
            let s := installKey s .blg job part key (blobEpoch b) (blobUseAfter b)
            { s with blg.keyEpochs := kset s.blg.keyEpochs job (blobEpoch b) })
def execKeyPush (r : Fin 24) (f : Flit) (s : State) : Res := .next (keyPushOp s r f)

/-- Pieces of a stagehand slot not yet sent, of a context that names the partition, complete with STRUCK; those cut later do so once
their context is known (R612). -/
def strikeSlot (s : State) (part n slot : Nat) : State :=
  let mine := ((getSH s n slot).pieces.filter (fun p => !pieceSent s n slot p && ctxPart p.wire == part)).map (·.op)
  mine.foldl (fun s id => pieceEnd (dropUnsent s n slot id) n slot id St.struck) s

/-- KEY_REVOKE (R612). -/
def keyRevokeOp (s : State) (f : Flit) : State :=
  onSeatService s f 0x0302 (fun s _ =>
    let part := byteAt f.payload 2
    if s.blg.struck.isSome then s
    else
      let s := erasePartKeys { s with blg.struck := some part, blg.cleared := false } .blg part
      let s := (List.range 32).foldl (fun s n => (List.range 16).foldl (fun s k => strikeSlot s part n k) s) s
      dropCaches s St.struck)
def execKeyRevoke (f : Flit) (s : State) : Res := .next (keyRevokeOp s f)

/-- PARTITION_CLEAR (R693). -/
def partitionClearOp (s : State) (f : Flit) : State :=
  onSeatService s f 0x0303 (fun s _ =>
    if s.blg.cleared then s
    else
      let (s, gone) := takeCoherent s
      let s := gone.foldl (fun s g => oneDone s g St.domainDown none) s
      { dropCaches s St.domainDown with blg.struck := none, blg.cleared := true })
def execPartitionClear (f : Flit) (s : State) : Res := .next (partitionClearOp s f)

/-! ## Repeats, and keys with time -/

/-- KEY_PUSH_REPEAT: push number `i` (R608). -/
def keyPushRepeatOp (s : State) (i : Nat) : State :=
  match s.itv.sec.pushes[i]? with
  | none => s
  | some x =>
    if !passed s x.lastSend (itvE2E s.itv) then s
    else if itvRetryMax s.itv < x.sends then { s with itv.sec.pushes := s.itv.sec.pushes.eraseIdx i }
    else
      sendSeat { s with itv.sec.pushes := s.itv.sec.pushes.set i { x with sends := x.sends + 1, lastSend := s.now } } x.port x.flit

def execKeyPushRepeat (i : Nat) (s : State) : Res := .next (keyPushRepeatOp s i)

/-- KEY_USE_AFTER (R605). -/
def keyUseAfterOp (s : State) (d : Side) (ctx : BitVec 16) : State :=
  match kget (keysOf s d) ctx.toNat with
  | none => s
  | some k =>
    if k.useAfter ≤ cueCount s d then setKeys s d (kset (keysOf s d) ctx.toNat { k with inForce := true, strictSince := true }) else s
def execKeyUseAfter (side : Side) (ctx : BitVec 16) (s : State) : Res := .next (keyUseAfterOp s side ctx)

/-- PREVIOUS_KEY_ERASE (R605). -/
def previousKeyEraseOp (s : State) (d : Side) (ctx : BitVec 16) : State :=
  match kget (keysOf s d) ctx.toNat with
  | none => s
  | some k =>
    if k.inForce && decide (k.useAfter + (sideRetry s d + 2) * sideE2E s d ≤ cueCount s d) then
      setKeys s d (kset (keysOf s d) ctx.toNat { k with prev := none, prevBase := [], prevRx := [] })
    else s
def execPreviousKeyErase (side : Side) (ctx : BitVec 16) (s : State) : Res := .next (previousKeyEraseOp s side ctx)

/-! ## STRIKE_SETTLE (R611 steps 5 and 6) -/

/-- ZERO is set over the partition's carves in the background. -/
def scrubPart (v : Itvos) (part : Nat) : Itvos :=
  { v with pool.scrubs := v.pool.scrubs ++ (v.pool.carves.filter (fun k => k.2.part == part)).map (fun k =>
      ({ lo := k.2.base / 65536, hi := (k.2.base + k.2.len) / 65536 } : Scrub)) }

def strikeSettleOp (s : State) (part : Nat) : State :=
  match s.itv.sec.strikes.find? (fun x => x.part == part) with
  | none => s
  | some x =>
    if passed s x.lastDrop (2 * s.itv.routing.maxFlight) then
      let s := { s with itv.sec.strikes := s.itv.sec.strikes.filter (fun x => x.part != part),
                        itv.flash.pins := kdel s.itv.flash.pins part }
      let s := { s with itv := scrubPart s.itv part }
      finishKept s x.slot x.sess { status := St.ok }
    else s
def execStrikeSettle (part : Fin 16) (s : State) : Res := .next (strikeSettleOp s part.val)

/-! ## DEBUG_UNLOCK (R596, R621) -/

def debugUnlockOp (s : State) (token : Bytes) : State :=
  if Config.debugTokenGood s.itv.fuse.serial token then
    { s with itv.sec.jobKeys := [], itv.sec.poolKeys := [], itv.sec.blobs := [], itv.pool.sweeps := [],
             itv.sec.pushes := s.itv.sec.pushes.filter (fun x => x.flit.svc != 0x0301), itv.boot.debugUnlocked := true }
  else s
def execDebugUnlock (token : Bytes) (s : State) : Res := .next (debugUnlockOp s token)

end Sys2Proof.Machine
end

