-- ==== Sys2Proof/Machine/LinkCtl.lean ====
section
/-! DEFINITION. LINK_CTL flits and what they ask for: resync (R93 to R95), the stand-in (R67, R68, R100), cue stamps (R296 to
R303). -/

namespace Sys2Proof.Machine

open Sys2Proof

/-- A count array of a LINK_CTL payload. -/
def countAt (f : Flit) (a v : Nat) : Nat := natAt f.payload (a + 2 * v) 2

/-- R95 for one VC: LOST credits are owed, RX_COUNT follows TX_COUNT, the returned total is restored. -/
def resyncVc (f : Flit) (p : Port) (v : Nat) : Port :=
  let lost := (countAt f 16 v + 65536 - lget p.rxCount v) % 65536
  let p := if lost = 0 then p else
    { p with owed := lmod p.owed v (· + lost), owedQ := if p.owedQ.contains v then p.owedQ else p.owedQ ++ [v] }
  { p with rxCount := p.rxCount.set v (countAt f 16 v), retGot := p.retGot.set v (countAt f 32 v),
           peerCred := if lget p.peerCred v = 0 then p.peerCred.set v (countAt f 32 v) else p.peerCred }

/-- Flits of VC v lost before this LINK_CTL (R95). -/
def lostOf (f : Flit) (p : Port) (v : Nat) : Nat := (countAt f 16 v + 65536 - lget p.rxCount v) % 65536

/-- R94: a LINK_CTL is due. -/
def resyncReqOp (s : State) (r : PortRef) : State :=
  if (getPort s r).st = .ready then modPort s r (fun p => { p with ctlDue := p.ctlDue ++ [0] }) else s
def execResyncReq (r : PortRef) (s : State) : Res := .next (resyncReqOp s r)

/-- STANDIN_REQ (R42, R68): flits stop and the stand-in lane carries the clock pattern; with no stand-in lane left the port
re-rehearses from DARK (R42, R69). -/
def standinReqOp (s : State) (r : PortRef) : State :=
  let p := getPort s r
  if p.st ≠ .ready then s
  else
    let src := standinOf p.txUse
    if src = 3 then leaveReady s r .dark .clockLane
    else emit (modPort s r (fun p => { p with standin := true, clkTx := src })) (.standin r src)
def execStandinReq (r : PortRef) (s : State) : Res := .next (standinReqOp s r)

/-- LINK_CTL (R95, R296): the common fields of a LINK_CTL that is not ALIGN_DONE, then what its CODE asks. -/
def linkCtlOp (s : State) (r : PortRef) (f : Flit) : State :=
  let p := getPort s r
  let s := modPort s r (fun p => { p with ctlIn := p.ctlIn.erase f })
  if p.st ≠ .ready ∨ p.clockLost then s
  else
    let code := byteAt f.payload 0
    let s := match r with
      | .itv n => (List.range 8).foldl (fun s v => bump s (lostIdx n.val v) (lostOf f p v)) s
      | .blg _ => s
    let s := if code = 3 then s else
      modPort s r (fun p => { (List.range 8).foldl (resyncVc f) p with resyncOut := false })
    let s := cueArrival s r f
    if code = 1 then resyncReqOp s r else if code = 2 then standinReqOp s r else s
def execLinkCtl (r : PortRef) (f : Flit) (s : State) : Res := .next (linkCtlOp s r f)

/-- RESYNC_REPEAT (R94): every 64 beats while unanswered. -/
def resyncRepeatOp (s : State) (r : PortRef) : State :=
  let p := getPort s r
  if p.st = .ready ∧ p.resyncOut ∧ beatsPassed s p.resyncAt 64 then
    modPort s r (fun p => { p with ctlDue := p.ctlDue ++ [1], resyncAt := s.now })
  else s
def execResyncRepeat (r : PortRef) (s : State) : Res := .next (resyncRepeatOp s r)

/-- No mode at the link's rate for the lanes left: the port leaves READY and is DOWN with MIN_MODE, a failed attempt (R68). -/
def noMode (s : State) (r : PortRef) : State := failTo s r .down .minMode

/-- STANDIN_DESKEWED (R68): the receiver has locked to the stand-in; ALIGN_DONE is due, and the receive direction runs on
`lanes` at the width R40 gives. -/
def standinDeskewedOp (s : State) (r : PortRef) (lanes : BitVec 8) : State :=
  let p := getPort s r
  if p.st = .ready ∧ p.clockLost then
    let clk := standinOf p.rxUse
    match modeAt (currentRate p) (usableLanes lanes p.rxUse clk) p.minMode with
    | none => noMode s r
    | some m => modPort s r (fun p => { p with clockLost := false, excluded := false, clkRx := clk, rxUse := lanes &&& p.rxUse,
                                               modeRx := some m, ctlDue := p.ctlDue ++ [3] })
  else s
def execStandinDeskewed (r : PortRef) (lanes : BitVec 8) (s : State) : Res := .next (standinDeskewedOp s r lanes)

/-- ALIGN_DONE (R68, R100): the counts of that direction start again, credits are CRED less HELD, flits resume. -/
def alignDoneOp (s : State) (r : PortRef) (f : Flit) (lanes : BitVec 8) : State :=
  let p := getPort s r
  let s := modPort s r (fun p => { p with ctlIn := p.ctlIn.erase f })
  if p.st = .ready ∧ p.standin then
    match modeAt (currentRate p) (usableLanes lanes p.txUse p.clkTx) p.minMode with
    | none => noMode s r
    | some m => modPort s r (fun p => { p with
        standin := false, txUse := lanes &&& p.txUse, modeTx := some m, txCount := List.replicate 8 0,
        retGot := (List.range 8).map (fun v => lget p.peerCred v - countAt f 48 v) })
  else s
def execAlignDone (r : PortRef) (f : Flit) (lanes : BitVec 8) (s : State) : Res := .next (alignDoneOp s r f lanes)

/-- CUE_STAMP_TIMER (R297): at least one LINK_CTL in every 8,192 beats. -/
def cueStampTimerOp (s : State) (r : PortRef) : State :=
  let p := getPort s r
  if p.st = .ready ∧ beatsPassed s p.ctlAt 8192 then modPort s r (fun p => { p with ctlDue := p.ctlDue ++ [0] }) else s
def execCueStampTimer (r : PortRef) (s : State) : Res := .next (cueStampTimerOp s r)

/-- PARENT_TIMEOUT (R302): no echoed LINK_CTL from the parent for 100 µs. -/
def parentTimeoutOp (s : State) (d : Side) : State :=
  match (getCue s d).parent with
  | none => s
  | some i =>
    let p := match d with
      | .itv => itvPort s i
      | .blg => blgPort s i
    if passed s p.echoAt 100000 then loseParent s d else s
def execParentTimeout (side : Side) (s : State) : Res := .next (parentTimeoutOp s side)

/-- ROOT_CLAIM (R303): the charted root takes the role if no READY partner has advertised a locked level within 20 µs of its
first READY port. -/
def rootClaimOp (s : State) : State :=
  let c := s.itv.cue
  match c.firstReady with
  | none => s
  | some t =>
    let lockedSeen := s.itv.ports.toList.any (fun p => p.st == .ready && p.peerLocked && p.peerLevel.isSome)
    if chartedRoot s.itv && !c.root && passed s t 20000 && !lockedSeen then takeRoot s else s
def execRootClaim (s : State) : Res := .next (rootClaimOp s)

end Sys2Proof.Machine
end

