-- ==== Sys2Proof/Machine/Mgmt.lean ====
section
/-! DEFINITION. The management plane: sessions, Nymco messages, telemetry, SPDM, the trust anchor (R726 to R732, R737, R740 to R745)
and the hourly estimator (R636). -/

namespace Sys2Proof.Machine

open Sys2Proof

/-! ## Sessions (R726, R727, R731, R743) -/

def getSess (s : State) (k : Nat) : Option Session := kget s.itv.mgmt.sessions k
def modSess (s : State) (k : Nat) (f : Session → Session) : State :=
  match getSess s k with
  | some x => { s with itv.mgmt.sessions := kset s.itv.mgmt.sessions k (f x) }
  | none => s

/-- Something answers on the management port: Yalny, or the greenroom service of the boot ROM (R721). -/
def mgmtServed (s : State) : Bool := accepting s || inGreen s

/-- SESSION_OPEN: a connection, and whether its TLS handshake passes under the anchor (R613). A fifth is closed before the
handshake; without an anchor a handshake passes in greenroom alone. -/
def sessionOpenOp (s : State) (handshake : Bool) : State :=
  let k := s.itv.mgmt.nextSession
  if !mgmtServed s then s
  else if s.itv.mgmt.sessions.length ≥ 4 then emit { s with itv.mgmt.nextSession := k + 1 } (.closed k)
  else if handshake && (s.itv.flash.anchor.isSome || inGreen s) then
    { s with itv.mgmt.nextSession := k + 1, itv.mgmt.sessions := kset s.itv.mgmt.sessions k {} }
  else emit { s with itv.mgmt.nextSession := k + 1 } (.closed k)
def execSessionOpen (handshake : Bool) (s : State) : Res := .next (sessionOpenOp s handshake)

/-- A RESULT that answers a message; it stays unread until the peer takes it (R741). -/
def sessReply (s : State) (k : Nat) (seq : Word) (r : Reply) : State :=
  emit (modSess s k (fun x => { x with unread := some (x.unread.getD s.now) })) (.nymco k 0x11 seq (resultBody r))

/-- A message of a session that has sent its HELLO; any other first message closes the session (R731). -/
def onSession (s : State) (k : Nat) (f : State → Session → State) : State :=
  match getSess s k with
  | none => s
  | some x => if x.hello then f s x else closeSession s k

/-- A message of ITS own: SEQ is the sender's number, free (R728; log 43). -/
def sendNymco (s : State) (k typ : Nat) (body : Bytes) : State := drawFree (emit s (.nymco k typ (freeVal s) body))

def badMessage (s : State) (k : Nat) (seq : Word) (off : Nat) : State := sessReply s k seq { status := St.badarg, detail := off }

/-- The first byte of [a, a + n) that is not zero. -/
def firstSet (b : Bytes) (a n : Nat) : Option Nat := (List.range n).findSome? (fun i => if byteAt b (a + i) != 0 then some (a + i) else none)

/-- HELLO: the role is claimed; a second rack manager's session closes. A later HELLO claims nothing. -/
def helloOp (s : State) (k : Nat) (seq : Word) (body : Bytes) : State :=
  match getSess s k with
  | none => s
  | some x =>
    let ack := fun (s : State) => sendNymco s k 0x02 (identResult s.itv)
    if x.hello then ack s
    else if byteAt body 0 > 1 then badMessage s k seq 0
    else
      match firstSet body 1 7 with
      | some i => badMessage s k seq i
      | none =>
        let rack := byteAt body 0 == 1
        if rack && s.itv.mgmt.sessions.any (fun y => y.2.rack) then closeSession s k
        else ack (modSess s k (fun x => { x with hello := true, rack := rack }))
def execHello (k : Nat) (seq : Word) (body : Bytes) (s : State) : Res := .next (helloOp s k seq body)

/-- SESSION_CLOSE by the peer: outstanding commands run on (R743). -/
def sessionCloseOp (s : State) (k : Nat) : State := { s with itv.mgmt.sessions := kdel s.itv.mgmt.sessions k }
def execSessionClose (k : Nat) (s : State) : Res := .next (sessionCloseOp s k)

/-- NYMCO_UNKNOWN_TYPE: a frame with an unknown TYPE, or with a must-be-zero field of its header that is not zero (R728). -/
def nymcoUnknownTypeOp (s : State) (k typ : Nat) (seq : Word) : State :=
  let known := [0x01, 0x10, 0x20, 0x21, 0x30, 0x40, 0x50].contains typ
  match getSess s k with
  | none => s
  | some x => if x.hello || typ == 1 then badMessage s k seq (if known then 2 else 0) else closeSession s k
def execNymcoUnknownType (k typ : Nat) (seq : Word) (s : State) : Res := .next (nymcoUnknownTypeOp s k typ seq)

/-- RESULT_UNREAD_TIMEOUT (R741). -/
def resultUnreadOp (s : State) (k : Nat) : State :=
  match (getSess s k).bind (·.unread) with
  | some t => if passed s t 10000000000 then closeSession s k else s
  | none => s
def execResultUnreadTimeout (k : Nat) (s : State) : Res := .next (resultUnreadOp s k)

/-! ## COMMAND (R730) -/

/-- The meaning of a CODE marked Mgmt in R562, by the bytes of its payload. -/
def mgmtCmd (code : Nat) (p : Bytes) : Option Cmd :=
  match code with
  | 0x0001 => some identCmd
  | 0x0002 => some linkStatusCmd
  | 0x0003 => some seatingLoadCmd
  | 0x0107 => some entranceReadCmd
  | 0x0401 => some powerCapCmd
  | 0x0402 => some ghostSetCmd
  | 0x0403 => some paceReadCmd
  | 0x0404 => some runLengthReadCmd
  | 0x0405 => some countersReadCmd
  | 0x0406 => some peepholeSetCmd
  | 0x0501 =>
    match byteAt p 0, byteAt p 2 with
    | 1, 1 => some resetPortDisableCmd
    | 1, 2 => some resetPortEnableCmd
    | 1, _ => some resetPortRehearseCmd
    | 2, _ => some resetClusterCmd
    | 3, _ => some resetCoreCmd
    | 4, _ => some resetPartitionCmd
    | 5, _ => some resetWholeChipCmd
    | _, _ => some resetPrompterCmd
  | 0x0601 => some scriptStageCmd
  | 0x0602 => some scriptSwitchCmd
  | 0x0603 => some scriptBowCmd
  | 0x0701 => some licenceApplyCmd
  | 0x0702 => some attestFetchCmd
  | _ => none

/-- Commands greenroom accepts here (R721). -/
def greenCode (code : Nat) (p : Bytes) : Bool :=
  [0x0001, 0x0601, 0x0602, 0x0702].contains code || (code == 0x0501 && byteAt p 0 == 5)

/-- Where the reference of a DIR 0 buffer stands in the payload. -/
def dataAt (code : Nat) : Option Nat := if code = 0x0003 then some 0 else if code = 0x0601 then some 8 else none

/-- The payload with the length of a DIR 0 buffer cut to the DATA that came: a shortfall is a short buffer (R730). -/
def clipLen (code : Nat) (p d : Bytes) : Bytes :=
  match dataAt code with
  | some off => if p.length < off + 12 then p else putAt p (off + 8) (leBytes 4 (min (natAt p (off + 8) 4) d.length))
  | none => p

/-- COMMAND: CODE, PAYLOAD_LEN, payload, DATA. -/
def commandOp (s : State) (k : Nat) (seq : Word) (body : Bytes) : State :=
  onSession s k (fun s x =>
    let code := natAt body 0 2
    let n := natAt body 4 4
    let p := slice body 8 n
    let d := body.drop (8 + n)
    if body.length < 8 then badMessage s k seq 0
    else if natAt body 2 2 != 0 then badMessage s k seq (if byteAt body 2 != 0 then 2 else 3)
    else if body.length < 8 + n then badMessage s k seq 4
    else
      match mgmtCmd code p, rowOf code with
      | some f, some row =>
        if inGreen s && !greenCode code p then sessReply s k seq { status := St.denied }
        else if x.cmds.length ≥ 8 || !mgmtServed s then sessReply s k seq { status := St.busy }
        else
          let s := modSess s k (fun x => { x with cmds := x.cmds ++ [(code, seq)] })
          runCmd s { payload := clipLen code p d, who := .sess k seq, host := .ok d } n row f
      | _, _ => sessReply s k seq { status := St.denied })
def execCommand (k : Nat) (seq : Word) (body : Bytes) (s : State) : Res := .next (commandOp s k seq body)

/-! ## The rack manager (R731, R732, R744) -/

/-- HEARTBEAT; from another role it has no effect. -/
def heartbeatOp (s : State) (k : Nat) : State := onSession s k (fun s x => if x.rack then heartbeatCame s else s)
def execHeartbeat (k : Nat) (s : State) : Res := .next (heartbeatOp s k)

/-- The first field of a POWER_SET that R732 refuses: its offset. -/
def powerSetBad (b : Bytes) : Option Nat :=
  let valid := byteAt b 0
  let vset := natAt b 2 2
  let cap := natAt b 4 2
  let f := natAt b 6 2
  let u := natAt b 8 2
  let d := natAt b 10 2
  let checks : List (Bool × Nat) :=
    [(decide (b.length ≠ 16), 0), (decide (valid > 7), 0), (byteAt b 1 != 0, 1),
     (bitOf valid 0 && (decide (vset < 600) || decide (vset > 800) || vset % 5 != 0), 2),
     (bitOf valid 1 && (decide (cap < 350) || decide (cap > 1200)), 4), (bitOf valid 2 && decide (f > 700), 6),
     (bitOf valid 2 && (u == 0 || decide (u > 500)), 8), (bitOf valid 2 && (d == 0 || decide (d > 500)), 10),
     ((firstSet b 12 4).isSome, (firstSet b 12 4).getD 12)]
  (checks.find? (·.1)).map (·.2)

/-- The groups of a POWER_SET that are valid: VSET, CAP, the ghost settings. -/
def powerSetParts (b : Bytes) : Option Nat × Option Nat × Option (Nat × Nat × Nat) :=
  let valid := byteAt b 0
  (if bitOf valid 0 then some (natAt b 2 2) else none, if bitOf valid 1 then some (natAt b 4 2) else none,
   if bitOf valid 2 then some (natAt b 6 2, natAt b 8 2, natAt b 10 2) else none)

/-- POWER_SET: the valid groups act, and are stored (R695). -/
def powerSetOp (s : State) (k : Nat) (seq : Word) (body : Bytes) : State :=
  onSession s k (fun s x =>
    if !x.rack || inGreen s then sessReply s k seq { status := St.denied }
    else
      match powerSetBad body with
      | some off => badMessage s k seq off
      | none =>
        let (v, c, g) := powerSetParts body
        let s := modStore s (fun st => { st with vset := v.or st.vset, cap := c.or st.cap, ghost := g.or st.ghost })
        let s := if v.isSome || c.isSome then setLevels s v c else s
        let s := match g with
          | some (f, u, d) => setGhost s f u d
          | none => s
        let above := (g.map (fun g => decide (g.1 > s.itv.pwr.cap))).getD false
        sessReply s k seq { status := if above then St.degraded else St.ok, detail := b2n above, result := newestRecord s })
def execPowerSet (k : Nat) (seq : Word) (body : Bytes) (s : State) : Res := .next (powerSetOp s k seq body)

/-! ## Telemetry (R740) -/

def subscribeBad (b : Bytes) : Option Nat :=
  let period := natAt b 4 4
  let checks : List (Bool × Nat) :=
    [(decide (b.length ≠ 8), 0), (decide (byteAt b 0 > 31), 0), (byteAt b 2 != 0, 2), (byteAt b 3 != 0, 3),
     (byteAt b 0 != 0 && (decide (period < 100) || decide (period > 60000)), 4)]
  (checks.find? (·.1)).map (·.2)

/-- SUBSCRIBE replaces the session's subscription; STREAMS 0 ends it. -/
def subscribeOp (s : State) (k : Nat) (seq : Word) (body : Bytes) : State :=
  onSession s k (fun s _ =>
    if inGreen s then sessReply s k seq { status := St.denied }
    else
      match subscribeBad body with
      | some off => badMessage s k seq off
      | none =>
        let s := modSess s k (fun x => { x with streams := BitVec.ofNat 8 (byteAt body 0), sets := BitVec.ofNat 8 (byteAt body 1),
                                                period := natAt body 4 4, snapAt := s.now })
        sessReply s k seq { status := St.ok })
def execSubscribe (k : Nat) (seq : Word) (body : Bytes) (s : State) : Res := .next (subscribeOp s k seq body)

/-- The counters of a set as counters-read gives them, result and buffer (R585). -/
def snapshotOf (v : Itvos) (n : Nat) : Bytes :=
  let d := countersData v n
  leBytes 4 (d.length / 8) ++ zeros 4 ++ leBytes 8 v.cue.count.toNat ++ d

/-- TELEMETRY_SNAPSHOT: a PERIOD has passed; one record per counter set chosen. -/
def telemetrySnapshotOp (s : State) (k : Nat) : State :=
  match getSess s k with
  | none => s
  | some x =>
    if x.streams.getLsbD 4 && passed s x.snapAt (x.period * 1000000) then
      let sets := (List.range 8).filter (fun i => x.sets.getLsbD i)
      sendNymco (modSess s k (fun x => { x with snapAt := s.now })) k 0x31
        (leBytes 1 4 ++ zeros 3 ++ leBytes 4 sets.length ++ sets.flatMap (snapshotOf s.itv))
    else s
def execTelemetrySnapshot (k : Nat) (s : State) : Res := .next (telemetrySnapshotOp s k)

/-! ## SPDM and the anchor (R727, R737, R745) -/

/-- The responder's answer: the request, and the signed report for the nonce that bytes 4 to 35 hold. -/
def spdmReply (s : State) (msg : Bytes) : State × Bytes :=
  let (s', cfg) := freeDigest s
  (s', Config.spdmAnswer msg (attestReport s.itv (slice msg 4 32) cfg))

/-- SPDM over MCTP on I3C (no session), or in a message of a session. -/
def spdmOp (s : State) (k : Option Nat) (msg : Bytes) : State :=
  match k with
  | none =>
    if mgmtServed s then let (s, a) := spdmReply s msg; emit s (.spdm a) else s
  | some k => onSession s k (fun s _ => let (s, a) := spdmReply s msg; sendNymco s k 0x40 a)
def execSpdm (k : Option Nat) (msg : Bytes) (s : State) : Res := .next (spdmOp s k msg)

/-- ANCHOR_SET: in greenroom the first anchor, in service a new one; every session closes. -/
def anchorSetOp (s : State) (k : Nat) (seq : Word) (cert : Bytes) : State :=
  onSession s k (fun s _ =>
    if inGreen s && s.itv.flash.anchor.isSome then sessReply s k seq { status := St.denied }
    else if !Config.isAnchorCert cert then badMessage s k seq 0
    else closeAll { sessReply s k seq { status := St.ok } with itv.flash.anchor := some cert })
def execAnchorSet (k : Nat) (seq : Word) (cert : Bytes) (s : State) : Res := .next (anchorSetOp s k seq cert)

/-! ## ESTIMATOR_UPDATE (R636) -/

/-- An hour has passed: the inputs join the history in flash, an hour above 0.78 V counts as 4 hours of wear; from 168 h on the
projection gives the dates (log 6). -/
def estimatorOp (s : State) (e : EstInputs) : State :=
  if !s.itv.boot.yalny || !passed s s.itv.mgmt.estAt 3600000000000 then s
  else
    let f := s.itv.flash
    let high := f.highHours + b2n e.vddHigh
    let wear := f.wearHours + (if e.vddHigh then 4 else 1)
    let hist := f.history ++ [[e.paceDrift, e.serdesTrend, e.correctedPerDay, f.rowRepairs.sum, high]]
    let out := if f.hours + 1 < 168 then (0, 0, 0) else Config.lifeProjection hist wear
    { s with itv.flash.hours := f.hours + 1, itv.flash.wearHours := wear, itv.flash.highHours := high, itv.flash.history := hist,
             itv.mgmt.estAt := s.now, itv.mgmt.lifeDate := out.1, itv.mgmt.lifeLow := out.2.1, itv.mgmt.lifeHigh := out.2.2 }
def execEstimatorUpdate (inp : EstInputs) (s : State) : Res := .next (estimatorOp s inp)

end Sys2Proof.Machine
end

