-- ==== Sys2Proof/Machine/SramRows.lean ====
section
/-! DEFINITION. The scrub of the SRAM and what an uncorrectable error does in each budget (R123, R290, R470, R626, R627). -/

namespace Sys2Proof.Machine

open Sys2Proof

/-- A core event of the die (R630, set 1): 12 SRAM_CE, 13 SRAM_UE, 15 TABLE_UE, 16 CHORUS_SRAM_UE, 17 PROMPTER_UE. -/
def bumpCore (s : State) (d k : Nat) : State := bump s (coreIdx d k) 1

/-- The flit at place `i` of an output's buffer is lost: a core drop against the path it used (R123). A stored copy goes with all its
pointers. -/
def bufferLost (s : State) (o i : Nat) : State :=
  match (itvPort s o).outq[i]? with
  | none => s
  | some e =>
    if e.express then s
    else
      let s := pathDrop s e.inp o e.path
      match e.copy with
      | none => modItvPort s o (fun p => { p with outq := p.outq.eraseIdx i })
      | some id =>
        let s := (List.range 72).foldl (fun s o => modItvPort s o (fun p => { p with outq := p.outq.filter (fun x => x.copy != some id) })) s
        { s with itv.core.copies := kdel s.itv.core.copies id }

/-- An entry of the directory is lost (R290): an owned line is a dead owner's; for any other every seat of its partition is sent INV.
A recall goes on until those are acknowledged. -/
def entryLost (s : State) (key : Nat) : State :=
  match dirEntry s key with
  | none => s
  | some e =>
    let s := bumpCoh s .dirUe
    match partOfLine s key with
    | none => modDir s (fun d => { d with entries := kdel d.entries key })
    | some part =>
      let seats := (List.range 72).filter (fun i => partOfSeat s i == part)
      if e.owner.isSome then
        if s.itv.dir.down.getLsbD part then s else sendNotices (domainDown s part) part
      else if e.st = .recall then seats.foldl (fun s i => sendInv s key i false none) s
      else openGroup (modDir s (fun d => { d with entries := kdel d.entries key })) 128 key seats

/-- The chorus staging of a cluster is lost: the cluster is retired, its groups leave this plane (R399, R626). -/
def stagingLost (s : State) (d cl : Nat) : State :=
  let s := bumpCore s d 16
  let s := if s.itv.coll.retired.getLsbD cl then s
    else raiseEvent (bumpColl { s with itv.coll.retired := setBit s.itv.coll.retired cl true } .clustersRetired) Ev.state
  (servedBy s cl).foldl (fun s g => remapOwn s g 0xFFFF) s

/-- A cast list or cue sheet is lost and reloaded: the group's outstanding collectives abort with TIMEOUT. -/
def castLost (s : State) (g : Nat) : State :=
  match getCast s g with
  | none => s
  | some c => (c.sheet.filter (fun e => !e.ended)).foldl (fun s e => abortColl s g e.seq Ctl.timeout 0xFFFF) s

/-- The state of a seat's inbound flow is lost (R627). -/
def flowLostAt (s : State) (seat : Nat) : State :=
  let t := s.now + (itvRetryMax s.itv + 2) * itvE2E s.itv
  { bumpDel s .flowLost with itv.inflows := kset s.itv.inflows seat { lostUntil := some t } }

/-- A damaged word of the key store: its key is erased. -/
def keyLost (s : State) (job : Option (BitVec 16)) (pool : Option (Nat × Bool)) : State :=
  let s := match job with
    | some x => { s with itv.sec.jobKeys := kdel s.itv.sec.jobKeys x.toNat }
    | none => s
  let s := match pool with
    | some (p, slot) => { s with itv.sec.poolKeys := kmod s.itv.sec.poolKeys p {} (fun k =>
        if slot then { k with key1 := none } else { k with key0 := none }) }
    | none => s
  raiseEvent (bump s keyUeIdx 1) Ev.security

/-- What an uncorrectable error does, by the budget it struck. -/
def sramLost (s : State) (d : Nat) : SramPart → State
  | .outputBuffer o i => bufferLost s o.val i
  | .directory key => entryLost s key
  | .chorusStaging cl => stagingLost s d cl.val
  | .wardrobeCache off => poisonBlock (poisonBlock s (off / 128 * 2)) (off / 128 * 2 + 1)
  | .routing key => { bumpCore s d 15 with itv.lostTables := (key :: s.itv.lostTables).eraseDups }
  | .castList g => castLost (bumpCore s d 15) g
  | .combining id => dropWaiting (bumpCore s d 15) (fun c => c.id == id)
  | .flowState seat => flowLostAt s seat.val
  | .jobKey ctx => keyLost s (some ctx) none
  | .poolKey p slot => keyLost s none (some (p.val, slot))
  | .prompter => raiseEvent (prompterReset (bumpCore s 0 17) none) Ev.firmware

/-- SRAM_SCRUB: a word read; one corrected a second time within 24 h has its row replaced, which is recorded in flash (R470). -/
def sramScrubOp (s : State) (d : Fin 2) (part : SramPart) (found : ScrubFound) : State :=
  match found with
  | .good => s
  | .corrected again =>
    let s := bumpCore s d.val 12
    if again then { s with itv.flash.rowRepairs := lmod s.itv.flash.rowRepairs d.val (· + 1) } else s
  | .lost => sramLost (bumpCore s d.val 13) d.val part
def execSramScrub (die : Fin 2) (part : SramPart) (found : ScrubFound) (s : State) : Res := .next (sramScrubOp s die part found)

/-- TABLE_RELOAD: the entry is read again from its stalls copy (R626). -/
def tableReloadOp (s : State) (key : Nat) : State := { s with itv.lostTables := s.itv.lostTables.filter (· != key) }
def execTableReload (key : Nat) (s : State) : Res := .next (tableReloadOp s key)

end Sys2Proof.Machine
end

