-- ==== Sys2Proof/Machine/Dispatch.lean ====
section
/-! DEFINITION. One arm per command: one direct call of its meaning. -/

namespace Sys2Proof.Machine

open Sys2Proof

def exec (i : Instr) (s : State) : Host.Outcome State Fault Refusal :=
  match i with
  | .ident slot => Sys2Proof.Machine.execIdent slot s
  | .linkStatus slot => Sys2Proof.Machine.execLinkStatus slot s
  | .seatingLoad slot host => Sys2Proof.Machine.execSeatingLoad slot host s
  | .routeStage slot host => Sys2Proof.Machine.execRouteStage slot host s
  | .routeCommit slot => Sys2Proof.Machine.execRouteCommit slot s
  | .routeDrainEnd => Sys2Proof.Machine.execRouteDrainEnd s
  | .castSet slot host => Sys2Proof.Machine.execCastSet slot host s
  | .cueSheetAdd slot => Sys2Proof.Machine.execCueSheetAdd slot s
  | .cueArm slot => Sys2Proof.Machine.execCueArm slot s
  | .curtainSet slot => Sys2Proof.Machine.execCurtainSet slot s
  | .understudySwap slot => Sys2Proof.Machine.execUnderstudySwap slot s
  | .promptBookRead slot landed => Sys2Proof.Machine.execPromptBookRead slot landed s
  | .entranceRead slot landed => Sys2Proof.Machine.execEntranceRead slot landed s
  | .chorusLoad slot host => Sys2Proof.Machine.execChorusLoad slot host s
  | .chorusCheck slot host => Sys2Proof.Machine.execChorusCheck slot host s
  | .poolCarveCreate slot => Sys2Proof.Machine.execPoolCarveCreate slot s
  | .poolCarveRelease slot => Sys2Proof.Machine.execPoolCarveRelease slot s
  | .poolCarveWindow slot => Sys2Proof.Machine.execPoolCarveWindow slot s
  | .poolCarveClearWindow slot => Sys2Proof.Machine.execPoolCarveClearWindow slot s
  | .tierPolicySettings slot => Sys2Proof.Machine.execTierPolicySettings slot s
  | .tierPolicyClass slot => Sys2Proof.Machine.execTierPolicyClass slot s
  | .wardrobeCarveCreate slot => Sys2Proof.Machine.execWardrobeCarveCreate slot s
  | .wardrobeCarveRelease slot => Sys2Proof.Machine.execWardrobeCarveRelease slot s
  | .wardrobeCarveReclaim slot => Sys2Proof.Machine.execWardrobeCarveReclaim slot s
  | .partitionSet slot => Sys2Proof.Machine.execPartitionSet slot s
  | .keyInstallJob slot => Sys2Proof.Machine.execKeyInstallJob slot s
  | .keyInstallPool slot => Sys2Proof.Machine.execKeyInstallPool slot s
  | .keyRotate slot => Sys2Proof.Machine.execKeyRotate slot s
  | .strike slot => Sys2Proof.Machine.execStrike slot s
  | .powerCap slot => Sys2Proof.Machine.execPowerCap slot s
  | .ghostSet slot => Sys2Proof.Machine.execGhostSet slot s
  | .paceRead slot => Sys2Proof.Machine.execPaceRead slot s
  | .runLengthRead slot => Sys2Proof.Machine.execRunLengthRead slot s
  | .countersRead slot landed => Sys2Proof.Machine.execCountersRead slot landed s
  | .peepholeSet slot => Sys2Proof.Machine.execPeepholeSet slot s
  | .resetPrompter slot => Sys2Proof.Machine.execResetPrompter slot s
  | .resetPortRehearse slot => Sys2Proof.Machine.execResetPortRehearse slot s
  | .resetPortDisable slot => Sys2Proof.Machine.execResetPortDisable slot s
  | .resetPortEnable slot => Sys2Proof.Machine.execResetPortEnable slot s
  | .resetCluster slot => Sys2Proof.Machine.execResetCluster slot s
  | .resetCore slot => Sys2Proof.Machine.execResetCore slot s
  | .resetPartition slot => Sys2Proof.Machine.execResetPartition slot s
  | .resetWholeChip slot => Sys2Proof.Machine.execResetWholeChip slot s
  | .scriptStage slot host => Sys2Proof.Machine.execScriptStage slot host s
  | .scriptSwitch slot => Sys2Proof.Machine.execScriptSwitch slot s
  | .scriptBow slot => Sys2Proof.Machine.execScriptBow slot s
  | .licenceApply slot => Sys2Proof.Machine.execLicenceApply slot s
  | .attestFetch slot landed => Sys2Proof.Machine.execAttestFetch slot landed s
  | .unknownCommand slot => Sys2Proof.Machine.execUnknownCommand slot s
  | .callboardHwAnswer slot => Sys2Proof.Machine.execCallboardHwAnswer slot s
  | .commandTimeout slot applied => Sys2Proof.Machine.execCommandTimeout slot applied s
  | .registerWrite w => Sys2Proof.Machine.execRegisterWrite w s
  | .eventCauseWrite v => Sys2Proof.Machine.execEventCauseWrite v s
  | .msixVectorUnmask v => Sys2Proof.Machine.execMsixVectorUnmask v s
  | .mirrorRefresh => Sys2Proof.Machine.execMirrorRefresh s
  | .functionLevelReset => Sys2Proof.Machine.execFunctionLevelReset s
  | .perstN level => Sys2Proof.Machine.execPerstN level s
  | .cxlLinkDown => Sys2Proof.Machine.execCxlLinkDown s
  | .cxlMemRead offset hw => Sys2Proof.Machine.execCxlMemRead offset hw s
  | .cxlMemWrite offset data => Sys2Proof.Machine.execCxlMemWrite offset data s
  | .portRetry r => Sys2Proof.Machine.execPortRetry r s
  | .detect r obs => Sys2Proof.Machine.execDetect r obs s
  | .clock r obs => Sys2Proof.Machine.execClock r obs s
  | .align r obs => Sys2Proof.Machine.execAlign r obs s
  | .offerFrame r frame => Sys2Proof.Machine.execOfferFrame r frame s
  | .names r => Sys2Proof.Machine.execNames r s
  | .shift r => Sys2Proof.Machine.execShift r s
  | .tapRequest r lane pre mid post => Sys2Proof.Machine.execTapRequest r lane pre mid post s
  | .tuneDone r => Sys2Proof.Machine.execTuneDone r s
  | .tuneTimeout r => Sys2Proof.Machine.execTuneTimeout r s
  | .dressRehearsal r own partner => Sys2Proof.Machine.execDressRehearsal r own partner s
  | .rehearsalTimeout r => Sys2Proof.Machine.execRehearsalTimeout r s
  | .runningMonitor r obs => Sys2Proof.Machine.execRunningMonitor r obs s
  | .phaseRecentre r steps => Sys2Proof.Machine.execPhaseRecentre r steps s
  | .shortProbe r lane still => Sys2Proof.Machine.execShortProbe r lane still s
  | .clockLoss r => Sys2Proof.Machine.execClockLoss r s
  | .standinTimeout r => Sys2Proof.Machine.execStandinTimeout r s
  | .refclkLoss side inputB => Sys2Proof.Machine.execRefclkLoss side inputB s
  | .refclkHoldoverEnd side => Sys2Proof.Machine.execRefclkHoldoverEnd side s
  | .refclkReturn side inputB => Sys2Proof.Machine.execRefclkReturn side inputB s
  | .flitArrival r raw => Sys2Proof.Machine.execFlitArrival r raw s
  | .flitPlace sel fate => Sys2Proof.Machine.execFlitPlace sel fate s
  | .flitTransmit r => Sys2Proof.Machine.execFlitTransmit r s
  | .reseqSkip inp out vc => Sys2Proof.Machine.execReseqSkip inp out vc s
  | .pathRetire die path => Sys2Proof.Machine.execPathRetire die path s
  | .paceUpdate of readings => Sys2Proof.Machine.execPaceUpdate of readings s
  | .flitAged loc => Sys2Proof.Machine.execFlitAged loc s
  | .linkCtl r f => Sys2Proof.Machine.execLinkCtl r f s
  | .resyncReq r => Sys2Proof.Machine.execResyncReq r s
  | .resyncRepeat r => Sys2Proof.Machine.execResyncRepeat r s
  | .standinReq r => Sys2Proof.Machine.execStandinReq r s
  | .alignDone r f lanes => Sys2Proof.Machine.execAlignDone r f lanes s
  | .cueStampTimer r => Sys2Proof.Machine.execCueStampTimer r s
  | .parentTimeout side => Sys2Proof.Machine.execParentTimeout side s
  | .rootClaim => Sys2Proof.Machine.execRootClaim s
  | .dirRequest f => Sys2Proof.Machine.execDirRequest f s
  | .load side f hw => Sys2Proof.Machine.execLoad side f hw s
  | .store side f hw => Sys2Proof.Machine.execStore side f hw s
  | .atomic side f hw => Sys2Proof.Machine.execAtomic side f hw s
  | .fence f => Sys2Proof.Machine.execFence f s
  | .rmem side f hw => Sys2Proof.Machine.execRmem side f hw s
  | .bulk side f hw => Sys2Proof.Machine.execBulk side f hw s
  | .bulkMsg side f => Sys2Proof.Machine.execBulkMsg side f s
  | .pmsg side f => Sys2Proof.Machine.execPmsg side f s
  | .data side f => Sys2Proof.Machine.execData side f s
  | .done side f => Sys2Proof.Machine.execDone side f s
  | .inv f => Sys2Proof.Machine.execInv f s
  | .invAck f => Sys2Proof.Machine.execInvAck f s
  | .fwd f => Sys2Proof.Machine.execFwd f s
  | .invResend seat seq => Sys2Proof.Machine.execInvResend seat seq s
  | .invOrphan seat seq => Sys2Proof.Machine.execInvOrphan seat seq s
  | .domainDownNotice part => Sys2Proof.Machine.execDomainDownNotice part s
  | .dirLate line idx => Sys2Proof.Machine.execDirLate line idx s
  | .serviceLate side node seq => Sys2Proof.Machine.execServiceLate side node seq s
  | .resendTimeout side node seq => Sys2Proof.Machine.execResendTimeout side node seq s
  | .homeWaitTimeout node seq => Sys2Proof.Machine.execHomeWaitTimeout node seq s
  | .homeUsable plane => Sys2Proof.Machine.execHomeUsable plane s
  | .apronLoad ch m => Sys2Proof.Machine.execApronLoad ch m s
  | .apronStore ch m => Sys2Proof.Machine.execApronStore ch m s
  | .apronAtomic ch m => Sys2Proof.Machine.execApronAtomic ch m s
  | .apronFence ch m => Sys2Proof.Machine.execApronFence ch m s
  | .invRange ch m => Sys2Proof.Machine.execInvRange ch m s
  | .slotPost ch m => Sys2Proof.Machine.execSlotPost ch m s
  | .collPost ch m => Sys2Proof.Machine.execCollPost ch m s
  | .tallyRead ch m => Sys2Proof.Machine.execTallyRead ch m s
  | .tallyWaitTimeout idx => Sys2Proof.Machine.execTallyWaitTimeout idx s
  | .kstart ch m => Sys2Proof.Machine.execKstart ch m s
  | .apronRmem ch m => Sys2Proof.Machine.execApronRmem ch m s
  | .lmemRsp ch m => Sys2Proof.Machine.execLmemRsp ch m s
  | .apronRetry ch => Sys2Proof.Machine.execApronRetry ch s
  | .apronReplayTimeout ch => Sys2Proof.Machine.execApronReplayTimeout ch s
  | .apronRetrain ch ok => Sys2Proof.Machine.execApronRetrain ch ok s
  | .apronRstN => Sys2Proof.Machine.execApronRstN s
  | .xlatInvRange n => Sys2Proof.Machine.execXlatInvRange n s
  | .xlatInvContext n => Sys2Proof.Machine.execXlatInvContext n s
  | .xlatInvAll n => Sys2Proof.Machine.execXlatInvAll n s
  | .invSlotComplete n => Sys2Proof.Machine.execInvSlotComplete n s
  | .intCauseWrite v => Sys2Proof.Machine.execIntCauseWrite v s
  | .homeMapWrite k v => Sys2Proof.Machine.execHomeMapWrite k v s
  | .vcWeightWrite v => Sys2Proof.Machine.execVcWeightWrite v s
  | .tallyWrite t v => Sys2Proof.Machine.execTallyWrite t v s
  | .groupTableWrite g word v => Sys2Proof.Machine.execGroupTableWrite g word v s
  | .stagehandReset n => Sys2Proof.Machine.execStagehandReset n s
  | .bpReset p => Sys2Proof.Machine.execBpReset p s
  | .belugReset => Sys2Proof.Machine.execBelugReset s
  | .belugStartWaitEnd => Sys2Proof.Machine.execBelugStartWaitEnd s
  | .stagehandDescriptor n => Sys2Proof.Machine.execStagehandDescriptor n s
  | .principalToken p => Sys2Proof.Machine.execPrincipalToken p s
  | .cueLaunch group cueSeq input => Sys2Proof.Machine.execCueLaunch group cueSeq input s
  | .curtainRelease group cueSeq => Sys2Proof.Machine.execCurtainRelease group cueSeq s
  | .contrib f residueBad => Sys2Proof.Machine.execContrib f residueBad s
  | .result f => Sys2Proof.Machine.execResult f s
  | .mcast f => Sys2Proof.Machine.execMcast f s
  | .abort side f => Sys2Proof.Machine.execAbort side f s
  | .remap side f => Sys2Proof.Machine.execRemap side f s
  | .report f => Sys2Proof.Machine.execReport f s
  | .collResend group cueSeq stripe => Sys2Proof.Machine.execCollResend group cueSeq stripe s
  | .collMemberTimeout group cueSeq => Sys2Proof.Machine.execCollMemberTimeout group cueSeq s
  | .holdExpiry group cueSeq step => Sys2Proof.Machine.execHoldExpiry group cueSeq step s
  | .resultKeepExpiry group cueSeq stripe => Sys2Proof.Machine.execResultKeepExpiry group cueSeq stripe s
  | .mirrorWrite f => Sys2Proof.Machine.execMirrorWrite f s
  | .merge f => Sys2Proof.Machine.execMerge f s
  | .finish group cueSeq chunk => Sys2Proof.Machine.execFinish group cueSeq chunk s
  | .chorusWord core fault => Sys2Proof.Machine.execChorusWord core fault s
  | .clusterSelfTest cluster pass => Sys2Proof.Machine.execClusterSelfTest cluster pass s
  | .alloc f => Sys2Proof.Machine.execAlloc f s
  | .handOn f => Sys2Proof.Machine.execHandOn f s
  | .free f => Sys2Proof.Machine.execFree f s
  | .freeCacheRefill w pool => Sys2Proof.Machine.execFreeCacheRefill w pool s
  | .decay => Sys2Proof.Machine.execDecay s
  | .moveStart => Sys2Proof.Machine.execMoveStart s
  | .moveComplete page => Sys2Proof.Machine.execMoveComplete page s
  | .sweepStep part hw => Sys2Proof.Machine.execSweepStep part hw s
  | .scrubDone idx => Sys2Proof.Machine.execScrubDone idx s
  | .patrolScrub block found => Sys2Proof.Machine.execPatrolScrub block found s
  | .sramScrub die part found => Sys2Proof.Machine.execSramScrub die part found s
  | .keyPush r f => Sys2Proof.Machine.execKeyPush r f s
  | .keyRevoke f => Sys2Proof.Machine.execKeyRevoke f s
  | .partitionClear f => Sys2Proof.Machine.execPartitionClear f s
  | .keyPushRepeat idx => Sys2Proof.Machine.execKeyPushRepeat idx s
  | .keyUseAfter side ctx => Sys2Proof.Machine.execKeyUseAfter side ctx s
  | .previousKeyErase side ctx => Sys2Proof.Machine.execPreviousKeyErase side ctx s
  | .strikeSettle part => Sys2Proof.Machine.execStrikeSettle part s
  | .debugUnlock token => Sys2Proof.Machine.execDebugUnlock token s
  | .powerSample real => Sys2Proof.Machine.execPowerSample real s
  | .sprintAccount => Sys2Proof.Machine.execSprintAccount s
  | .capMissed => Sys2Proof.Machine.execCapMissed s
  | .floorEnd => Sys2Proof.Machine.execFloorEnd s
  | .tjSample tj => Sys2Proof.Machine.execTjSample tj s
  | .thermalTrip => Sys2Proof.Machine.execThermalTrip s
  | .pwrShedN => Sys2Proof.Machine.execPwrShedN s
  | .pwrShedRelease => Sys2Proof.Machine.execPwrShedRelease s
  | .heartbeatLost => Sys2Proof.Machine.execHeartbeatLost s
  | .coolantStale => Sys2Proof.Machine.execCoolantStale s
  | .brownOut => Sys2Proof.Machine.execBrownOut s
  | .railFault rail => Sys2Proof.Machine.execRailFault rail s
  | .avsRetry acked => Sys2Proof.Machine.execAvsRetry acked s
  | .resetN level strap => Sys2Proof.Machine.execResetN level strap s
  | .romPhase loaderOk => Sys2Proof.Machine.execRomPhase loaderOk s
  | .loaderPhase chk => Sys2Proof.Machine.execLoaderPhase chk s
  | .yalnyStart storeOk => Sys2Proof.Machine.execYalnyStart storeOk s
  | .stallsTrained ok => Sys2Proof.Machine.execStallsTrained ok s
  | .galleryTrained found trained => Sys2Proof.Machine.execGalleryTrained found trained s
  | .promptBookRestored own mirror => Sys2Proof.Machine.execPromptBookRestored own mirror s
  | .originateAllowed => Sys2Proof.Machine.execOriginateAllowed s
  | .watchdogExpiry => Sys2Proof.Machine.execWatchdogExpiry s
  | .prompterRestart chk => Sys2Proof.Machine.execPrompterRestart chk s
  | .bowDeadline => Sys2Proof.Machine.execBowDeadline s
  | .relayOfferTimer => Sys2Proof.Machine.execRelayOfferTimer s
  | .relaySkip => Sys2Proof.Machine.execRelaySkip s
  | .relayWindowTimeout => Sys2Proof.Machine.execRelayWindowTimeout s
  | .relayOffer f => Sys2Proof.Machine.execRelayOffer f s
  | .relayData f => Sys2Proof.Machine.execRelayData f s
  | .relayAck f => Sys2Proof.Machine.execRelayAck f s
  | .relayHave f => Sys2Proof.Machine.execRelayHave f s
  | .relayRefuse f => Sys2Proof.Machine.execRelayRefuse f s
  | .sessionOpen handshake => Sys2Proof.Machine.execSessionOpen handshake s
  | .hello k seq body => Sys2Proof.Machine.execHello k seq body s
  | .command k seq body => Sys2Proof.Machine.execCommand k seq body s
  | .heartbeat k => Sys2Proof.Machine.execHeartbeat k s
  | .powerSet k seq body => Sys2Proof.Machine.execPowerSet k seq body s
  | .subscribe k seq body => Sys2Proof.Machine.execSubscribe k seq body s
  | .telemetrySnapshot k => Sys2Proof.Machine.execTelemetrySnapshot k s
  | .resultUnreadTimeout k => Sys2Proof.Machine.execResultUnreadTimeout k s
  | .spdm k msg => Sys2Proof.Machine.execSpdm k msg s
  | .anchorSet k seq cert => Sys2Proof.Machine.execAnchorSet k seq cert s
  | .coolantIn v => Sys2Proof.Machine.execCoolantIn v s
  | .apronAck ch => Sys2Proof.Machine.execApronAck ch s
  | .apronCrcError ch word ctl => Sys2Proof.Machine.execApronCrcError ch word ctl s
  | .apronReservedType ch m => Sys2Proof.Machine.execApronReservedType ch m s
  | .standinDeskewed r lanes => Sys2Proof.Machine.execStandinDeskewed r lanes s
  | .cxlLinkUp rate width => Sys2Proof.Machine.execCxlLinkUp rate width s
  | .cxlMailboxCommand op input => Sys2Proof.Machine.execCxlMailboxCommand op input s
  | .sessionClose k => Sys2Proof.Machine.execSessionClose k s
  | .nymcoUnknownType k typ seq => Sys2Proof.Machine.execNymcoUnknownType k typ seq s
  | .estimatorUpdate inp => Sys2Proof.Machine.execEstimatorUpdate inp s
  | .scriptStaged ok => Sys2Proof.Machine.execScriptStaged ok s
  | .restoreFromMirror f => Sys2Proof.Machine.execRestoreFromMirror f s
  | .tableReload key => Sys2Proof.Machine.execTableReload key s

end Sys2Proof.Machine
end

