-- ==== Sys2Proof/WellFormed.lean ====
section
/-! DEFINITION. Which commands are well formed: their byte strings have the lengths their messages have on the wire. -/

namespace Sys2Proof

/-- A flit's payload is 224 bytes (R77). -/
def Flit.wf (f : Flit) : Bool := f.payload.length == 224
/-- Bytes 16 to 63 of an apron header, and whole data words, at most two (R505, R506). -/
def ApronMsg.wf (m : ApronMsg) : Bool := m.tail.length == 48 && (m.data.length == 0 || m.data.length == 64 || m.data.length == 128)

/-- Well-formedness of a command. -/
def Instr.wf : Instr → Bool
  | .flitArrival _ raw => raw.length == 256
  | .offerFrame _ frame => frame.length == 64
  | .linkCtl _ f | .alignDone _ f _ | .dirRequest f | .load _ f _ | .store _ f _ | .atomic _ f _ | .fence f | .rmem _ f _
  | .bulk _ f _ | .bulkMsg _ f | .pmsg _ f | .data _ f | .done _ f | .inv f | .invAck f | .fwd f | .contrib f _ | .result f
  | .mcast f | .abort _ f | .remap _ f | .report f | .mirrorWrite f | .merge f | .alloc f | .handOn f | .free f
  | .keyPush _ f | .keyRevoke f | .partitionClear f | .relayOffer f | .relayData f | .relayAck f | .relayHave f
  | .relayRefuse f | .restoreFromMirror f => f.wf
  | .apronLoad _ m | .apronStore _ m | .apronAtomic _ m | .apronFence _ m | .invRange _ m | .slotPost _ m | .collPost _ m
  | .tallyRead _ m | .kstart _ m | .apronRmem _ m | .lmemRsp _ m | .apronReservedType _ m => m.wf
  | .apronCrcError _ word _ => word.length == 64
  | .cxlMemWrite _ d => d.length == 64
  | .detect _ _ | .clock _ _ | .names _ | .shift _ | .tapRequest _ _ _ _ _ | .tuneDone _ | .tuneTimeout _
  | .rehearsalTimeout _ | .shortProbe _ _ _ | .clockLoss _ | .standinTimeout _ | .refclkLoss _ _ | .refclkHoldoverEnd _
  | .refclkReturn _ _ | .flitPlace _ _ | .flitTransmit _ | .reseqSkip _ _ _ | .pathRetire _ _ | .flitAged _
  | .resyncReq _ | .resyncRepeat _ | .standinReq _ | .cueStampTimer _ | .parentTimeout _ | .rootClaim | .portRetry _ => true
  | .align _ o => o.order.length == 8 && o.skew.length == 9
  | .dressRehearsal _ a b => a.laneErrs.length == 8 && b.laneErrs.length == 8
  | .runningMonitor _ a => a.laneErrs.length == 8
  | .phaseRecentre _ st => st.length == 8
  | .paceUpdate (.die _) rs => rs.length == 16
  | .paceUpdate .belug rs => rs.length == 1
  | .ident _ | .linkStatus _ | .seatingLoad _ _ | .routeStage _ _ | .routeCommit _ | .routeDrainEnd | .castSet _ _
  | .cueSheetAdd _ | .cueArm _ | .curtainSet _ | .understudySwap _ | .promptBookRead _ _ | .entranceRead _ _
  | .chorusLoad _ _ | .chorusCheck _ _ | .poolCarveCreate _ | .poolCarveRelease _ | .poolCarveWindow _
  | .poolCarveClearWindow _ | .tierPolicySettings _ | .tierPolicyClass _ | .wardrobeCarveCreate _
  | .wardrobeCarveRelease _ | .wardrobeCarveReclaim _ | .partitionSet _ | .keyInstallJob _ | .keyInstallPool _
  | .keyRotate _ | .strike _ | .powerCap _ | .ghostSet _ | .paceRead _ | .runLengthRead _ | .countersRead _ _
  | .peepholeSet _ | .resetPrompter _ | .resetPortRehearse _ | .resetPortDisable _ | .resetPortEnable _ | .resetCluster _
  | .resetCore _ | .resetPartition _ | .resetWholeChip _ | .scriptStage _ _ | .scriptSwitch _ | .scriptBow _
  | .licenceApply _ | .attestFetch _ _ | .unknownCommand _ | .callboardHwAnswer _ | .commandTimeout _ _ => true
  | .registerWrite _ | .eventCauseWrite _ | .msixVectorUnmask _ | .mirrorRefresh | .functionLevelReset | .perstN _
  | .cxlLinkDown | .cxlMemRead _ _ | .invResend _ _ | .invOrphan _ _ | .domainDownNotice _ | .dirLate _ _
  | .serviceLate _ _ _ | .resendTimeout _ _ _ | .homeWaitTimeout _ _ | .homeUsable _ | .tallyWaitTimeout _
  | .apronRetry _ | .apronReplayTimeout _ | .apronRetrain _ _ | .apronRstN | .xlatInvRange _ | .xlatInvContext _
  | .xlatInvAll _ | .invSlotComplete _ | .intCauseWrite _ | .homeMapWrite _ _ | .vcWeightWrite _ | .tallyWrite _ _
  | .groupTableWrite _ _ _ | .stagehandReset _ | .bpReset _ | .belugReset | .belugStartWaitEnd | .stagehandDescriptor _
  | .principalToken _ | .cueLaunch _ _ _ | .curtainRelease _ _ | .collResend _ _ _ | .collMemberTimeout _ _
  | .holdExpiry _ _ _ | .resultKeepExpiry _ _ _ | .finish _ _ _ | .chorusWord _ _ | .clusterSelfTest _ _
  | .freeCacheRefill _ _ | .decay | .moveStart | .moveComplete _ | .sweepStep _ _ | .scrubDone _ | .patrolScrub _ _
  | .sramScrub _ _ _ | .keyPushRepeat _ | .keyUseAfter _ _ | .previousKeyErase _ _ | .strikeSettle _ | .debugUnlock _ => true
  | .powerSample _ | .sprintAccount | .capMissed | .floorEnd | .tjSample _ | .thermalTrip | .pwrShedN | .pwrShedRelease
  | .heartbeatLost | .coolantStale | .brownOut | .railFault _ | .avsRetry _ | .resetN _ _ | .romPhase _ | .loaderPhase _
  | .yalnyStart _ | .stallsTrained _ | .galleryTrained _ _ | .promptBookRestored _ _ | .originateAllowed
  | .watchdogExpiry | .prompterRestart _ | .bowDeadline | .relayOfferTimer | .relaySkip | .relayWindowTimeout
  | .sessionOpen _ | .hello _ _ _ | .command _ _ _ | .heartbeat _ | .powerSet _ _ _ | .subscribe _ _ _
  | .telemetrySnapshot _ | .resultUnreadTimeout _ | .spdm _ _ | .anchorSet _ _ _ | .coolantIn _ | .apronAck _
  | .standinDeskewed _ _ | .cxlLinkUp _ _ | .cxlMailboxCommand _ _ | .sessionClose _ | .nymcoUnknownType _ _ _
  | .estimatorUpdate _ | .scriptStaged _ | .tableReload _ => true

end Sys2Proof
end

