-- ==== Sys2Proof/Safety.lean ====
section
/-! DEFINITION. What counts as a safe state (a queue whose commands are well formed, a pool memory in canonical form), and the terms
the statements are written in: a command waiting in a callboard slot, and how it ends. -/

namespace Sys2Proof

open Sys2Proof.Machine

/-- Every waiting command is well formed. -/
def queueWf (s : State) : Bool := s.pending.all Instr.wf

/-- A step that does not stop. -/
def goesOn (s : State) : Prop := ∃ t, step s = .next t

/-- Slot `n` holds command `code` with payload `p`, handed over and not yet accepted, and Yalny accepts commands (R551). -/
abbrev posted (s : State) (n : Fin 8) (code : Nat) (p : Bytes) : Prop :=
  waitsIn s n.val = true ∧ accepting s = true ∧ (getSlot s n.val).code.toNat = code ∧ (getSlot s n.val).len.toNat = p.length ∧
    slotPayload s n.val = p

/-- Bytes `a` to `a + n - 1` of a payload are zero (R12). -/
abbrev zeroAt (p : Bytes) (a n : Nat) : Prop := ∀ i < n, p.getD (a + i) 0 = 0

/-- The command in slot `n` with payload `p` as it runs, with what its host buffer holds and whether a write of it lands. -/
abbrev slotCall (n : Fin 8) (p : Bytes) (host : HostRead := .ok []) (landed : Bool := true) : Call :=
  { payload := p, who := .slot n.val, host := host, landed := landed }

/-- Slot `n`'s command is accepted (R551). -/
def taken (s : State) (n : Fin 8) : State := acceptSlot s n.val

/-- The command of slot `n` ends with status OK and a result (R551). -/
def endsOk (s : State) (n : Fin 8) (result : Bytes := []) : State := completeSlot s n.val { status := St.ok, result := result }

/-- As `endsOk`, after the data has been written to the host buffer referenced at payload byte `off` (R548, R549). -/
def endsBulk (s : State) (n : Fin 8) (p : Bytes) (off : Nat) (result data : Bytes) : State :=
  completeSlot (emit s (.hostWrite (BitVec.ofNat 64 (hostRef p off).addr) data)) n.val
    { status := St.ok, result := result, bulk := some (off, data) }

/-- A request has been taken up by the flow it belongs to (R190 to R194). -/
def arrived (s : State) (d : Side) (f : Flit) : State := (arriveFlow s d f).1

/-- A request that the pool home takes up, of a tenant neither struck nor down, that R230 to R236 admit to carve `c`. -/
abbrev poolMeets (s : State) (f : Flit) (fresh : Bool) (c : Carve) : Prop :=
  lostStruck s f = false ∧ (arriveFlow s .itv f).2 = some fresh ∧ struckRequest (arrived s .itv f) f = false ∧
    (f.kind = Kind.bulk ∨ domainHit (arrived s .itv f) f = false) ∧ poolAdmit (arrived s .itv f).itv f = (St.ok, c)

/-- What the directory has passed to the pool home: the request has left the home's queue. -/
def fromQueue (s : State) (f : Flit) : State := modDir s (fun d => { d with home := d.home.erase f })

/-- A request delivered to Belug on port `p` and taken up by its flow, of a node that is not struck. -/
abbrev seatGets (s : State) (f : Flit) (t p : Nat) (rest : List (Flit × Nat × Nat)) (fresh : Bool) : Prop :=
  takeFirst (fun (x : Flit × Nat × Nat) => x.1 == f) s.blg.inbox = some ((f, t, p), rest) ∧
    (arriveFlow { s with blg.inbox := rest } .blg f).2 = some fresh ∧
    (fresh = true ∨ inService (arrived { s with blg.inbox := rest } .blg f) .blg f = false) ∧
    (arrived { s with blg.inbox := rest } .blg f).blg.struck = none

/-- A well-formed message of type `t` on a channel that is UP (R505, R506). -/
abbrev apronGets (s : State) (ch : Fin 24) (m : ApronMsg) (t : Nat) : Prop :=
  m.typ.toNat = t ∧ (getCh s ch.val).up = true ∧ msgOk m = true

/-- A LOAD, STORE, ATOMIC or RMEM of a channel whose words are in, in progress with its number; the operation, and its translation
(R508, R214). -/
def apronOpened (s : State) (ch : Fin 24) (m : ApronMsg) : State × Nat :=
  openOp (takeWords s ch.val m) (32 + ch.val) (if m.typ = 1 then 0 else 1) m.ctx.toNat [m.addr.toNat]
def apronAOp (s : State) (ch : Fin 24) (m : ApronMsg) : AOp := { id := (apronOpened s ch m).2, ch := ch.val, m := m }
def apronXlated (s : State) (ch : Fin 24) (m : ApronMsg) : State × Option XRes :=
  translate (apronOpened s ch m).1 m.ctx.toNat
    { engine := 32 + ch.val, op := xopOf m, va := m.addr.toNat, for_ := .apron (apronAOp s ch m) }

/-- A message of type `t` whose access stays in its line and whose translation, at hand, is `phys`. -/
abbrev apronMeets (s : State) (ch : Fin 24) (m : ApronMsg) (t : Nat) (phys : Word) (wire : BitVec 16) (nc : Bool) : Prop :=
  apronGets s ch m t ∧ m.addr.toNat % 128 + sizeBytes m.size.toNat ≤ 128 ∧ (apronXlated s ch m).2 = some (.ok phys wire nc)

/-- An operation of Belug that nothing holds back: in progress, of no struck tenant, behind no fence and no store of its line
(R509, R269, R612). -/
abbrev mayRun (s : State) (op : AOp) : Prop :=
  isOpen s op.id = true ∧ wireStruck s op.wire = false ∧ fenceHolds s op = false ∧ storeAhead s op = false

/-- What one word of core `i` reads (R416). -/
def coreEnv (s : State) (i : Fin 72) : CoreEnv :=
  { core := coreAt s i.val, buf := entryBuf s (coreAt s i.val),
    obj := ((kget s.itv.coll.kernels (coreAt s i.val).slot).map (·.obj)).getD [],
    desc := (((getCast s (coreAt s i.val).group).bind (findEntry · (coreAt s i.val).seq)).map (·.desc)).getD {},
    cue := s.itv.cue.count.toNat, pace := diePace (s.itv.core.dies.get (if i.val < 36 then 0 else 1)), free := s.free }

end Sys2Proof
end

