-- ==== Sys2Proof/Certificates/Slice0/Obligations.lean ====
section
/-! DEFINITION. The statements for the provers: what the commands, the reset and a step of the block do, from the numbered rules of the manual. -/

open Sys2Proof Sys2Proof.Machine

/-- ident, link-status, pace-read, run-length-read and counters-read end with OK and their result. Each of these commands, posted with arguments its rule allows, is accepted and ends with status OK and the result computed from the state; nothing but the slot, the interrupt it raises, what it writes to the host's buffer and, with CLEAR, the set of counters changes. -/
def Obligations.ReadCommandsAnswer : Prop :=
  (∀ (s : State) (n : Fin 8),
     posted s n 0x0001 [] →
     exec (.ident n) s = .next (endsOk (taken s n) n (identResult s.itv))) ∧
  (∀ (s : State) (n : Fin 8) (p : Bytes),
     posted s n 0x0002 p →
     p.length = 8 →
     1 ≤ byteAt p 1 →
     byteAt p 1 ≤ 15 →
     byteAt p 0 + byteAt p 1 ≤ 72 →
     zeroAt p 2 6 →
     exec (.linkStatus n) s = .next (endsOk (taken s n) n
       (linkHead s ++ (List.range (byteAt p 1)).flatMap (fun i => portRecord s (byteAt p 0 + i))))) ∧
  (∀ (s : State) (n : Fin 8),
     posted s n 0x0403 [] →
     exec (.paceRead n) s = .next (endsOk (taken s n) n (paceResult s.itv))) ∧
  (∀ (s : State) (n : Fin 8),
     posted s n 0x0404 [] →
     exec (.runLengthRead n) s = .next (endsOk (taken s n) n (runLengthResult s.itv))) ∧
  (∀ (s : State) (n : Fin 8) (p : Bytes),
     posted s n 0x0405 p →
     p.length = 24 →
     byteAt p 0 ≤ 7 →
     byteAt p 1 ≤ 1 →
     zeroAt p 2 6 →
     hostRefCheck p 8 1 = none →
     (countersData s.itv (byteAt p 0)).length ≤ (hostRef p 8).len →
     s.itv.cb.busMaster = true →
     exec (.countersRead n true) s = .next
       (endsBulk (if byteAt p 1 = 1 then clearCounters (taken s n) (byteAt p 0) else taken s n) n p 8
         (leBytes 4 ((countersData s.itv (byteAt p 0)).length / 8) ++ zeros 4 ++ leBytes 8 s.itv.cue.count.toNat)
         (countersData s.itv (byteAt p 0))))

/-- seating-load, route-stage, route-commit and the end of a drain: what each leaves. A chart that R736 passes, for this chip, newer than the one loaded and met by no drain, comes into force and is stored; READY ports are judged against it. A table set that R162 passes is staged. route-commit of an undrained set starts the drain of the leaving ports and ends with DRAINING; of a drained set it makes the staged set active and ends with OK. A commit's drain ends once nothing has been sent for MAX_FLIGHT and no flit placed on a leaving port is left. -/
def Obligations.RouteCommandsStageCommitDrain : Prop :=
  (∀ (s : State) (n : Fin 8) (p d : Bytes),
     posted s n 0x0003 p →
     p.length = 24 →
     hostRefCheck p 0 0 = none →
     zeroAt p 20 4 →
     s.itv.cb.busMaster = true →
     chartRefused (natAt p 16 4) (pad (hostRef p 0).len d) = none →
     (parseChart (pad (hostRef p 0).len d)).serial = s.itv.fuse.serial →
     (match s.itv.routing.chart with
       | some c => decide (natAt p 16 4 ≤ c.version)
       | none => false) = false →
     s.itv.routing.drains = [] →
     exec (.seatingLoad n (.ok d)) s = .next (
       let c := parseChart (pad (hostRef p 0).len d)
       let x := rejudgeAll (modStore (applyChart (taken s n) c) (fun x => { x with chart := some c }))
       completeSlot (noteState (taken s n) (rootOnChart x.1)) n.val
         (seatingReply x.2.1 x.2.2))) ∧
  (∀ (s : State) (n : Fin 8) (p d : Bytes),
     posted s n 0x0004 p →
     p.length = 16 →
     hostRefCheck p 0 0 = none →
     (hostRef p 0).len = 10752 →
     s.itv.cb.busMaster = true →
     tablesRefused s.itv.routing.portClass (pad 10752 d) = none →
     s.itv.routing.drains = [] →
     exec (.routeStage n (.ok d)) s = .next (endsOk
       { taken s n with itv.routing.staged := parseTables (pad 10752 d), itv.routing.stagedNew := true, itv.routing.drained := false } n)) ∧
  (∀ (s : State) (n : Fin 8),
     posted s n 0x0005 [] →
     s.itv.routing.stagedNew = true →
     s.itv.routing.drains = [] →
     s.itv.routing.drained = false →
     exec (.routeCommit n) s = .next (completeSlot
       { taken s n with itv.routing.drains := [{ why := .commit, ports := allLeaving s.itv.routing, start := s.now, lastSent := s.now }] }
       n.val { status := St.draining })) ∧
  (∀ (s : State) (n : Fin 8),
     posted s n 0x0005 [] →
     s.itv.routing.stagedNew = true →
     s.itv.routing.drains = [] →
     s.itv.routing.drained = true →
     exec (.routeCommit n) s = .next (endsOk
       { taken s n with itv.routing.active := s.itv.routing.staged, itv.routing.stagedNew := false, itv.routing.drained := false,
                        itv.routing.everActive := true } n)) ∧
  (∀ (s : State) (d : Drain),
     s.itv.routing.drains = [d] →
     d.why = .commit →
     passed s d.lastSent s.itv.routing.maxFlight = true →
     leavingRemain s = false →
     exec .routeDrainEnd s = .next { s with itv.routing.drains := [], itv.routing.drained := true })

/-- cast-set, cue-sheet-add, cue-arm, curtain-set and understudy-swap write the cast list they name and nothing else. With arguments their rules allow, a held CHORUS licence and a partition neither struck nor down: cast-set with N 0 removes the cast list, else it makes one of the ranks, planes, hold time and expert tables given; cue-sheet-add appends the descriptor under the sequence asked for; cue-arm arms the entries named; curtain-set sets the lead; understudy-swap replaces one rank's node. Each ends with OK. -/
def Obligations.CastListsAndCueSheetsAreKept : Prop :=
  (∀ (s : State) (n : Fin 8) (p : Bytes),
     posted s n 0x0101 p →
     p.length = 32 →
     holdsChorus s.itv = true →
     natAt p 0 2 ≤ 4095 →
     natAt p 2 2 = 0 →
     zeroAt p 7 1 →
     zeroAt p 14 2 →
     (∀ k, getCast s (natAt p 0 2) = some k → outstanding k = false ∧ s.itv.sec.struck.getLsbD k.part = false ∧ s.itv.dir.down.getLsbD k.part = false) →
     exec (.castSet n (.ok [])) s = .next (endsOk
       (dropRuns { taken s n with itv.coll.casts := kdel s.itv.coll.casts (natAt p 0 2) } (natAt p 0 2)) n)) ∧
  (∀ (s : State) (n : Fin 8) (p d : Bytes) (ts : List ExpertTable),
     posted s n 0x0101 p →
     p.length = 32 →
     holdsChorus s.itv = true →
     natAt p 0 2 ≤ 4095 →
     1 ≤ natAt p 2 2 →
     natAt p 2 2 ≤ 16384 →
     BitVec.ofNat 24 (natAt p 4 3) ≠ 0 →
     BitVec.ofNat 24 (natAt p 4 3) &&& ~~~ ((s.itv.routing.chart.map (·.planes)).getD (BitVec.ofNat 24 (natAt p 4 3))) = 0 →
     zeroAt p 7 1 →
     10 ≤ natAt p 8 4 →
     natAt p 8 4 ≤ 1000000 →
     byteAt p 12 ≤ 16 →
     partExists s.itv (byteAt p 13) = true →
     zeroAt p 14 2 →
     hostRefCheck p 16 0 = none →
     s.itv.cb.busMaster = true →
     (if byteAt p 12 = 0 then 2 * natAt p 2 2 else (2 * natAt p 2 2 + 63) / 64 * 64) ≤ (hostRef p 16).len →
     ((List.range (natAt p 2 2)).map (fun i => BitVec.ofNat 16 (natAt (pad (hostRef p 16).len d) (2 * i) 2))).eraseDups.length = natAt p 2 2 →
     ((List.range (natAt p 2 2)).map (fun i => BitVec.ofNat 16 (natAt (pad (hostRef p 16).len d) (2 * i) 2))).all (memberSeat s.itv (byteAt p 13)) = true →
     expertTables (natAt p 2 2) (pad (hostRef p 16).len d) (hostRef p 16).len (byteAt p 12) ((2 * natAt p 2 2 + 63) / 64 * 64) = some ts →
     s.itv.sec.struck.getLsbD (byteAt p 13) = false →
     s.itv.dir.down.getLsbD (byteAt p 13) = false →
     ((getCast s (natAt p 0 2)).map outstanding).getD false = false →
     exec (.castSet n (.ok d)) s = .next (endsOk (dropRuns { taken s n with itv.coll.casts := kset s.itv.coll.casts (natAt p 0 2) (
             { nodes := (List.range (natAt p 2 2)).map (fun i => BitVec.ofNat 16 (natAt (pad (hostRef p 16).len d) (2 * i) 2)),
               planes := BitVec.ofNat 24 (natAt p 4 3), live := BitVec.ofNat 24 (natAt p 4 3), hold := natAt p 8 4 * 1000, tables := ts,
               part := byteAt p 13, lead := ((getCast s (natAt p 0 2)).map (·.lead)).getD 256 } : Cast) } (natAt p 0 2)) n)) ∧
  (∀ (s : State) (n : Fin 8) (p : Bytes) (k : Cast),
     posted s n 0x0102 p →
     p.length = 40 →
     1 ≤ byteAt p 8 →
     byteAt p 8 ≤ 0x0B →
     holdsChorus s.itv = true →
     (byteAt p 8 != COp.kernel || holdsKernel s.itv) = true →
     natAt p 0 2 ≤ 4095 →
     getCast s (natAt p 0 2) = some k →
     (k.nextSeq.map (· != natAt p 2 2)).getD false = false →
     zeroAt p 4 4 →
     (∀ x ∈ descChecks s k (slotCall n p), x.1 = false) →
     s.itv.sec.struck.getLsbD k.part = false →
     s.itv.dir.down.getLsbD k.part = false →
     (k.sheet.filter (fun e => !e.ended)).length < 16 →
     exec (.cueSheetAdd n) s = .next (endsOk
       (pruneSheet (modCast (cueSheetAddCmd.dropEnded (taken s n) (natAt p 0 2) (natAt p 2 2)) (natAt p 0 2) (fun k' =>
         { k' with sheet := k'.sheet ++ [{ seq := natAt p 2 2, ext := if k.nextSeq.isNone then natAt p 2 2 else k.lastExt + 1,
                                           desc := parseDesc (slice p 8 32), digest := descDigest (slice p 8 32) }],
                   nextSeq := some ((natAt p 2 2 + 1) % 65536),
                   lastExt := if k.nextSeq.isNone then natAt p 2 2 else k.lastExt + 1 })) (natAt p 0 2)) n)) ∧
  (∀ (s : State) (n : Fin 8) (p : Bytes) (k : Cast),
     posted s n 0x0103 p →
     p.length = 8 →
     holdsChorus s.itv = true →
     natAt p 0 2 ≤ 4095 →
     getCast s (natAt p 0 2) = some k →
     (natAt p 4 2 + 65536 - natAt p 2 2) % 65536 ≤ 15 →
     (∀ i ≤ (natAt p 4 2 + 65536 - natAt p 2 2) % 65536, k.sheet.any (fun e => e.seq == (natAt p 2 2 + i) % 65536 && !e.ended) = true) →
     zeroAt p 6 2 →
     s.itv.sec.struck.getLsbD k.part = false →
     s.itv.dir.down.getLsbD k.part = false →
     exec (.cueArm n) s = .next (endsOk
       (((List.range ((natAt p 4 2 + 65536 - natAt p 2 2) % 65536 + 1)).map (fun i => (natAt p 2 2 + i) % 65536)).foldl
         (fun s q => armEntry s (natAt p 0 2) q) (taken s n)) n)) ∧
  (∀ (s : State) (n : Fin 8) (p : Bytes) (k : Cast),
     posted s n 0x0104 p →
     p.length = 8 →
     holdsChorus s.itv = true →
     natAt p 0 2 ≤ 4095 →
     getCast s (natAt p 0 2) = some k →
     64 ≤ natAt p 2 2 →
     zeroAt p 4 4 →
     s.itv.sec.struck.getLsbD k.part = false →
     s.itv.dir.down.getLsbD k.part = false →
     exec (.curtainSet n) s = .next (endsOk
       (modCast (taken s n) (natAt p 0 2) (fun k => { k with lead := natAt p 2 2 })) n)) ∧
  (∀ (s : State) (n : Fin 8) (p : Bytes) (k : Cast),
     posted s n 0x0105 p →
     p.length = 8 →
     holdsChorus s.itv = true →
     natAt p 0 2 ≤ 4095 →
     getCast s (natAt p 0 2) = some k →
     natAt p 2 2 < k.nodes.length →
     memberSeat s.itv k.part (BitVec.ofNat 16 (natAt p 4 2)) = true →
     k.nodes.contains (BitVec.ofNat 16 (natAt p 4 2)) = false →
     zeroAt p 6 2 →
     s.itv.sec.struck.getLsbD k.part = false →
     s.itv.dir.down.getLsbD k.part = false →
     outstanding k = false →
     exec (.understudySwap n) s = .next (endsOk
       (modCast (taken s n) (natAt p 0 2) (fun k => { k with nodes := k.nodes.set (natAt p 2 2) (BitVec.ofNat 16 (natAt p 4 2)) })) n))

/-- prompt-book-read, entrance-read, chorus-load and chorus-check: what they return and what a load places. prompt-book-read writes the wanted records of the own or the mirror book to the host's buffer and returns their number; entrance-read does so with the entrance records. chorus-check returns the checker's verdict; chorus-load of an admitted object places it in the slot named under a generation one higher and returns its handle with the verdict. -/
def Obligations.BookAndKernelCommandsAnswer : Prop :=
  (∀ (s : State) (n : Fin 8) (p : Bytes),
     posted s n 0x0106 p →
     p.length = 32 →
     holdsPool s.itv = true →
     natAt p 0 2 ≤ 4095 →
     1 ≤ natAt p 8 4 →
     natAt p 8 4 ≤ 2097152 →
     byteAt p 12 ≤ 1 →
     zeroAt p 13 3 →
     hostRefCheck p 16 1 = none →
     32 * natAt p 8 4 ≤ (hostRef p 16).len →
     s.itv.cb.busMaster = true →
     s.itv.boot.bookDone = true →
     exec (.promptBookRead n true) s = .next (
       let rs := bookWanted (if byteAt p 12 = 1 then s.itv.coll.mirror else s.itv.coll.book) (natAt p 0 2) (natAt p 2 6) (natAt p 8 4)
       endsBulk (taken s n) n p 16 (leBytes 4 rs.length) rs.flatten)) ∧
  (∀ (s : State) (n : Fin 8) (p : Bytes),
     posted s n 0x0107 p →
     p.length = 32 →
     holdsChorus s.itv = true →
     (natAt p 0 2 ≤ 4095 ∨ natAt p 0 2 = 0xFFFF) →
     byteAt p 4 ≤ 1 →
     zeroAt p 5 11 →
     hostRefCheck p 16 1 = none →
     2097152 ≤ (hostRef p 16).len →
     s.itv.cb.busMaster = true →
     exec (.entranceRead n true) s = .next (
       let rs := entrancesWanted s.itv.coll.entrances (natAt p 0 2) (if byteAt p 4 = 1 then none else some (natAt p 2 2))
       endsBulk (taken s n) n p 16 (leBytes 4 rs.length) rs.flatten)) ∧
  (∀ (s : State) (n : Fin 8) (p d : Bytes),
     posted s n 0x0108 p →
     p.length = 32 →
     holdsKernel s.itv = true →
     byteAt p 0 ≤ 63 →
     zeroAt p 1 15 →
     hostRefCheck p 16 0 = none →
     (hostRef p 16).len ≤ 721024 →
     s.itv.cb.busMaster = true →
     (checkObject (pad (hostRef p 16).len d)).reason = 0 →
     kernelNamed s (byteAt p 0) = false →
     s.itv.coll.resetting = 0 →
     wordsLoaded s (byteAt p 0) + objWords (pad (hostRef p 16).len d) ≤ 65536 →
     exec (.chorusLoad n (.ok d)) s = .next (
       let obj := pad (hostRef p 16).len d
       let gen := kgetD s.itv.coll.gens (byteAt p 0) 0 + 1
       let x := verdictResult
         { taken s n with itv.coll.gens := kset s.itv.coll.gens (byteAt p 0) gen,
                          itv.coll.kernels := kset s.itv.coll.kernels (byteAt p 0) { obj := obj, gen := gen } }
         obj (checkObject obj) ((gen * 65536 + byteAt p 0 + 1) % 2 ^ 32)
       endsOk x.1 n x.2)) ∧
  (∀ (s : State) (n : Fin 8) (p d : Bytes),
     posted s n 0x0109 p →
     p.length = 32 →
     zeroAt p 0 16 →
     hostRefCheck p 16 0 = none →
     (hostRef p 16).len ≤ 721024 →
     s.itv.cb.busMaster = true →
     exec (.chorusCheck n (.ok d)) s = .next (
       let obj := pad (hostRef p 16).len d
       let x := verdictResult (taken s n) obj (checkObject obj) 0
       completeSlot x.1 n.val
         { status := if (checkObject obj).reason = 0 then St.ok else St.denied, detail := (checkObject obj).reason, result := x.2 }))

/-- pool-carve in its four actions: the carve, the pages and the window they leave. With POOL held and arguments R576 allows: create lists the carve under its number and places its pages; release takes the carve and its pages out and starts the scrub of its range; window names the carve the CXL window shows; clear-window names none. Each ends with OK. -/
def Obligations.PoolCarveCommandsWriteOneCarve : Prop :=
  (∀ (s : State) (n : Fin 8) (p : Bytes),
     posted s n 0x0201 p →
     p.length = 32 →
     byteAt p 1 = 0 →
     holdsPool s.itv = true →
     kget s.itv.pool.carves (byteAt p 0) = none →
     partExists s.itv (byteAt p 2) = true →
     zeroAt p 3 1 →
     (s.itv.sec.parts = 0 → natAt p 4 2 = 0 ∧ natAt p 6 2 = 0) →
     byteAt p 8 ≤ 7 →
     byteAt p 9 ≤ 2 →
     zeroAt p 10 6 →
     natAt p 16 8 % 65536 = 0 →
     natAt p 24 8 % 65536 = 0 →
     1 ≤ natAt p 24 8 →
     natAt p 16 8 + natAt p 24 8 ≤ poolSize s.itv →
     s.itv.pool.carves.any (fun x => overlaps (natAt p 16 8) (natAt p 24 8) x.2.base x.2.len) = false →
     s.itv.sec.struck.getLsbD (byteAt p 2) = false →
     s.itv.dir.down.getLsbD (byteAt p 2) = false →
     scrubBusy s.itv (byteAt p 9) = false →
     scrubbing s.itv (natAt p 16 8) (natAt p 24 8) = false →
     (byteAt p 9 = 1 → pinnedStalls s.itv + natAt p 24 8 / 65536 ≤ stallsFrames) →
     exec (.poolCarveCreate n) s = .next (
       let k : Carve := { base := natAt p 16 8, len := natAt p 24 8, part := byteAt p 2, ctxValue := BitVec.ofNat 16 (natAt p 4 2),
                          ctxMask := BitVec.ofNat 16 (natAt p 6 2), rights := BitVec.ofNat 3 (byteAt p 8), cls := classOf (byteAt p 9) }
       let v := { (taken s n).itv with pool.carves := kset s.itv.pool.carves (byteAt p 0) k }
       endsOk { taken s n with itv := placePages v (byteAt p 0) (natAt p 16 8) (natAt p 24 8) (classOf (byteAt p 9)) } n)) ∧
  (∀ (s : State) (n : Fin 8) (p : Bytes) (k : Carve),
     posted s n 0x0201 p →
     p.length = 32 →
     byteAt p 1 = 1 →
     holdsPool s.itv = true →
     kget s.itv.pool.carves (byteAt p 0) = some k →
     k.ward = false →
     zeroAt p 3 1 →
     zeroAt p 10 6 →
     s.itv.sec.struck.getLsbD k.part = false →
     s.itv.dir.down.getLsbD k.part = false →
     exec (.poolCarveRelease n) s = .next (endsOk { taken s n with itv := releaseCarve (taken s n).itv (byteAt p 0) } n)) ∧
  (∀ (s : State) (n : Fin 8) (p : Bytes) (k : Carve),
     posted s n 0x0201 p →
     p.length = 32 →
     byteAt p 1 = 2 →
     holdsPool s.itv = true →
     kget s.itv.pool.carves (byteAt p 0) = some k →
     k.len ≤ windowBytes →
     zeroAt p 2 30 →
     exec (.poolCarveWindow n) s = .next (endsOk { taken s n with itv.pool.window := some (byteAt p 0) } n)) ∧
  (∀ (s : State) (n : Fin 8) (p : Bytes),
     posted s n 0x0201 p →
     p.length = 32 →
     byteAt p 1 = 3 →
     holdsPool s.itv = true →
     zeroAt p 2 30 →
     exec (.poolCarveClearWindow n) s = .next (endsOk { taken s n with itv.pool.window := none } n))

/-- tier-policy and wardrobe-carve: the settings, the class, the wardrobe they leave. tier-policy's settings are written as given, its class action changes the class of one carve; both end with OK, or with DEGRADED and DETAIL 1 while the gallery is off. wardrobe-carve makes the partition's wardrobe at the lowest free base under the highest free carve number and returns both; releases it with its carve when no buffer is owned; or reclaims the buffers of one owner and returns their number. -/
def Obligations.TierAndWardrobeCommandsWriteTheirTables : Prop :=
  (∀ (s : State) (n : Fin 8) (p : Bytes),
     posted s n 0x0202 p →
     p.length = 16 →
     byteAt p 0 = 0 →
     holdsPool s.itv = true →
     byteAt p 3 ≤ 1 →
     1 ≤ natAt p 4 2 →
     natAt p 4 2 ≤ 1000 →
     natAt p 8 2 < natAt p 6 2 →
     1 ≤ byteAt p 10 →
     byteAt p 10 ≤ 32 →
     zeroAt p 11 1 →
     16 ≤ natAt p 12 4 →
     natAt p 12 4 ≤ 16384 →
     exec (.tierPolicySettings n) s = .next (completeSlot
       { taken s n with itv.pool.enable := byteAt p 3 == 1, itv.pool.decayMs := natAt p 4 2, itv.pool.promote := natAt p 6 2,
                        itv.pool.demote := natAt p 8 2, itv.pool.share := byteAt p 10, itv.pool.sweepRate := natAt p 12 4 }
       n.val (tierReply s.itv))) ∧
  (∀ (s : State) (n : Fin 8) (p : Bytes) (k : Carve),
     posted s n 0x0202 p →
     p.length = 16 →
     byteAt p 0 = 1 →
     holdsPool s.itv = true →
     kget s.itv.pool.carves (byteAt p 1) = some k →
     k.ward = false →
     byteAt p 2 ≤ 2 →
     zeroAt p 11 1 →
     (byteAt p 2 = 1 → k.cls ≠ .stalls → pinnedStalls s.itv + k.len / 65536 ≤ stallsFrames) →
     exec (.tierPolicyClass n) s = .next (completeSlot
       { taken s n with itv := setClass (taken s n).itv (byteAt p 1) k (classOf (byteAt p 2)) } n.val (tierReply s.itv))) ∧
  (∀ (s : State) (n : Fin 8) (p : Bytes) (base carve : Nat),
     posted s n 0x0203 p →
     p.length = 48 →
     byteAt p 1 = 0 →
     holdsPool s.itv = true →
     partExists s.itv (byteAt p 0) = true →
     byteAt p 8 ≤ 7 →
     zeroAt p 9 7 →
     s.itv.sec.struck.getLsbD (byteAt p 0) = false →
     s.itv.dir.down.getLsbD (byteAt p 0) = false →
     s.itv.pool.stallsScrubbed = true →
     kget s.itv.wards (byteAt p 0) = none →
     wardBase s.itv (wardLen ((List.range 8).map (fun k => natAt p (16 + 4 * k) 4))) = some base →
     wardCarve s.itv = some carve →
     wardFull s.itv (byteAt p 0) ((List.range 8).map (fun k => natAt p (16 + 4 * k) 4)) = false →
     stallsFull s.itv (wardLen ((List.range 8).map (fun k => natAt p (16 + 4 * k) 4)) / 65536) = false →
     exec (.wardrobeCarveCreate n) s = .next (endsOk
       { taken s n with itv := wardCreate (taken s n).itv (byteAt p 0) carve base
                                 ((List.range 8).map (fun k => natAt p (16 + 4 * k) 4)) (BitVec.ofNat 16 (natAt p 4 2))
                                 (BitVec.ofNat 16 (natAt p 6 2)) (BitVec.ofNat 3 (byteAt p 8)) } n (wardResult base carve))) ∧
  (∀ (s : State) (n : Fin 8) (p : Bytes) (w : Wardrobe),
     posted s n 0x0203 p →
     p.length = 48 →
     byteAt p 1 = 1 →
     holdsPool s.itv = true →
     partExists s.itv (byteAt p 0) = true →
     kget s.itv.wards (byteAt p 0) = some w →
     w.owners = [] →
     zeroAt p 9 7 →
     s.itv.sec.struck.getLsbD (byteAt p 0) = false →
     s.itv.dir.down.getLsbD (byteAt p 0) = false →
     exec (.wardrobeCarveRelease n) s = .next (endsOk
       { taken s n with itv := releaseCarve { (taken s n).itv with wards := kdel s.itv.wards (byteAt p 0) } w.carve } n)) ∧
  (∀ (s : State) (n : Fin 8) (p : Bytes) (w : Wardrobe),
     posted s n 0x0203 p →
     p.length = 48 →
     byteAt p 1 = 2 →
     holdsPool s.itv = true →
     partExists s.itv (byteAt p 0) = true →
     kget s.itv.wards (byteAt p 0) = some w →
     zeroAt p 9 7 →
     s.itv.sec.struck.getLsbD (byteAt p 0) = false →
     s.itv.dir.down.getLsbD (byteAt p 0) = false →
     exec (.wardrobeCarveReclaim n) s = .next (
       let x := wardReclaim (taken s n) (byteAt p 0) (fun o => o.1 == BitVec.ofNat 16 (natAt p 2 2))
       endsOk x.1 n (leBytes 4 x.2)))

/-- partition-set, key-install, key-rotate and strike: the layout, pins, keys and pushes they leave. With arguments their rules allow: partition-set stores the layout and returns its digest. key-install of a job blob pins and installs it and pushes it to the seats; the command completes at once where no push leaves, and runs on till the first pushes have left. key-install of a pool blob makes pool key slot 0 current; key-rotate puts the new key into the other slot. strike runs on with the keys gone, the collectives and requests of the partition ended; a repeat ends with OK. -/
def Obligations.PartitionAndKeyCommandsTakeTheirBlobs : Prop :=
  (∀ (s : State) (n : Fin 8) (p : Bytes),
     posted s n 0x0301 p →
     p.length = 80 →
     byteAt p 0 ≤ 16 →
     zeroAt p 1 7 →
     (∀ i < 72, byteAt p (8 + i) = 0xFF ∨ byteAt p (8 + i) < byteAt p 0) →
     s.itv.sec.strikes = [] →
     (∀ q < 16, partLoses s.itv.sec.parts (byteAt p 0) s.itv.sec.seatPart ((List.range 72).map (fun i => byteAt p (8 + i))) q = true → partHolds s.itv q = false) →
     exec (.partitionSet n) s = .next (endsOk
       { taken s n with itv.sec.parts := byteAt p 0, itv.sec.seatPart := (List.range 72).map (fun i => byteAt p (8 + i)),
                        itv.sec.layoutDigest := pad 48 (Config.sha384 (pad 80 p)) } n (pad 48 (Config.sha384 (pad 80 p))))) ∧
  (∀ (s : State) (n : Fin 8) (p : Bytes),
     posted s n 0x0302 p →
     17 ≤ p.length →
     p.length ≤ 4032 →
     byteAt p 1 = 0 →
     holdsChorus s.itv = true →
     (∀ x ∈ blobChecks s (slotCall n p) 0, x.1 = false) →
     s.itv.sec.struck.getLsbD (byteAt p 0) = false →
     s.itv.dir.down.getLsbD (byteAt p 0) = false →
     s.itv.sec.jobKeys.length < 256 →
     jobFirst (jobAccepted (taken s n) (byteAt p 0) (slice p 16 (natAt p 8 2))) (byteAt p 0) (slice p 16 (natAt p 8 2)) = [] →
     exec (.keyInstallJob n) s = .next (endsOk
       (jobPushed (jobAccepted (taken s n) (byteAt p 0) (slice p 16 (natAt p 8 2))) (byteAt p 0) (slice p 16 (natAt p 8 2))) n)) ∧
  (∀ (s : State) (n : Fin 8) (p : Bytes) (f : Flit) (fs : List Flit),
     posted s n 0x0302 p →
     17 ≤ p.length →
     p.length ≤ 4032 →
     byteAt p 1 = 0 →
     holdsChorus s.itv = true →
     (∀ x ∈ blobChecks s (slotCall n p) 0, x.1 = false) →
     s.itv.sec.struck.getLsbD (byteAt p 0) = false →
     s.itv.dir.down.getLsbD (byteAt p 0) = false →
     s.itv.sec.jobKeys.length < 256 →
     jobFirst (jobAccepted (taken s n) (byteAt p 0) (slice p 16 (natAt p 8 2))) (byteAt p 0) (slice p 16 (natAt p 8 2)) = f :: fs →
     exec (.keyInstallJob n) s = .next (
       let t := jobPushed (jobAccepted (taken s n) (byteAt p 0) (slice p 16 (natAt p 8 2))) (byteAt p 0) (slice p 16 (natAt p 8 2))
       { t with itv.sec.installing := t.itv.sec.installing ++ [(n.val, f :: fs)] })) ∧
  (∀ (s : State) (n : Fin 8) (p : Bytes),
     posted s n 0x0302 p →
     17 ≤ p.length →
     p.length ≤ 4032 →
     byteAt p 1 = 1 →
     holdsPool s.itv = true →
     (∀ x ∈ blobChecks s (slotCall n p) 1, x.1 = false) →
     s.itv.sec.struck.getLsbD (byteAt p 0) = false →
     s.itv.dir.down.getLsbD (byteAt p 0) = false →
     hasPoolKey s.itv (byteAt p 0) = false →
     exec (.keyInstallPool n) s = .next (
       let b := slice p 16 (natAt p 8 2)
       let t := acceptBlob (taken s n) b 1
       endsOk { t with itv.sec.poolKeys := kset t.itv.sec.poolKeys (byteAt p 0)
                         { key0 := ownKeyIn t b, cur := false, window := bitOf (byteAt b 7) 0 } } n)) ∧
  (∀ (s : State) (n : Fin 8) (p : Bytes),
     posted s n 0x0303 p →
     17 ≤ p.length →
     p.length ≤ 4032 →
     holdsPool s.itv = true →
     (∀ x ∈ blobChecks s (slotCall n p) 1, x.1 = false) →
     s.itv.sec.struck.getLsbD (byteAt p 0) = false →
     s.itv.dir.down.getLsbD (byteAt p 0) = false →
     s.itv.pool.sweeps.any (fun x => x.part == byteAt p 0) = false →
     hasPoolKey s.itv (byteAt p 0) = true →
     exec (.keyRotate n) s = .next (
       let b := slice p 16 (natAt p 8 2)
       let t := acceptBlob (taken s n) b 1
       endsOk (rotateKey t (byteAt p 0) (ownKeyIn t b) (bitOf (byteAt b 7) 0)) n)) ∧
  (∀ (s : State) (n : Fin 8) (p : Bytes),
     posted s n 0x0304 p →
     p.length = 8 →
     partExists s.itv (byteAt p 0) = true →
     zeroAt p 1 7 →
     s.itv.sec.struck.getLsbD (byteAt p 0) = false →
     exec (.strike n) s = .next (strikePart (taken s n) (byteAt p 0) (some n.val) none)) ∧
  (∀ (s : State) (n : Fin 8) (p : Bytes),
     posted s n 0x0304 p →
     p.length = 8 →
     partExists s.itv (byteAt p 0) = true →
     zeroAt p 1 7 →
     s.itv.sec.struck.getLsbD (byteAt p 0) = true →
     exec (.strike n) s = .next (endsOk (taken s n) n))

/-- power-cap, ghost-set and peephole-set: the settings and results they leave. power-cap from 350 to 1,200 W replaces the cap and returns the newest power record. ghost-set replaces FLOOR and the slews and ends with OK, or with DEGRADED and DETAIL 1 where FLOOR is above the cap in force. peephole-set gives the settings, seeds and reset counts to the one port named, or to all 72. -/
def Obligations.PowerAndPeepholeCommandsTakeEffect : Prop :=
  (∀ (s : State) (n : Fin 8) (p : Bytes),
     posted s n 0x0401 p →
     p.length = 8 →
     350 ≤ natAt p 0 2 →
     natAt p 0 2 ≤ 1200 →
     zeroAt p 2 6 →
     exec (.powerCap n) s = .next (endsOk (setCap (taken s n) (natAt p 0 2)) n (newestRecord (setCap (taken s n) (natAt p 0 2))))) ∧
  (∀ (s : State) (n : Fin 8) (p : Bytes),
     posted s n 0x0402 p →
     p.length = 8 →
     natAt p 0 2 ≤ 700 →
     1 ≤ natAt p 2 2 ∧ natAt p 2 2 ≤ 500 →
     1 ≤ natAt p 4 2 ∧ natAt p 4 2 ≤ 500 →
     zeroAt p 6 2 →
     natAt p 0 2 ≤ (setGhost (taken s n) (natAt p 0 2) (natAt p 2 2) (natAt p 4 2)).itv.pwr.cap →
     exec (.ghostSet n) s = .next (
       let t := setGhost (taken s n) (natAt p 0 2) (natAt p 2 2) (natAt p 4 2)
       endsOk t n (newestRecord t))) ∧
  (∀ (s : State) (n : Fin 8) (p : Bytes),
     posted s n 0x0402 p →
     p.length = 8 →
     natAt p 0 2 ≤ 700 →
     1 ≤ natAt p 2 2 ∧ natAt p 2 2 ≤ 500 →
     1 ≤ natAt p 4 2 ∧ natAt p 4 2 ≤ 500 →
     zeroAt p 6 2 →
     (setGhost (taken s n) (natAt p 0 2) (natAt p 2 2) (natAt p 4 2)).itv.pwr.cap < natAt p 0 2 →
     exec (.ghostSet n) s = .next (
       let t := setGhost (taken s n) (natAt p 0 2) (natAt p 2 2) (natAt p 4 2)
       completeSlot t n.val { status := St.degraded, detail := 1, result := newestRecord t })) ∧
  (∀ (s : State) (n : Fin 8) (p : Bytes),
     posted s n 0x0406 p →
     p.length = 8 →
     byteAt p 0 ≤ 71 →
     byteAt p 1 ≤ 3 →
     (byteAt p 3 = 0 ∨ (4 ≤ byteAt p 3 ∧ byteAt p 3 ≤ 24)) →
     byteAt p 4 ≤ 1 →
     zeroAt p 5 3 →
     exec (.peepholeSet n) s = .next (endsOk
       (modItvPort (taken s n) (byteAt p 0) (fun q => { q with peep := peepOf (byteAt p 0) (byteAt p 1) (byteAt p 2) (byteAt p 3) (byteAt p 4) })) n)) ∧
  (∀ (s : State) (n : Fin 8) (p : Bytes),
     posted s n 0x0406 p →
     p.length = 8 →
     byteAt p 0 = 255 →
     byteAt p 1 ≤ 3 →
     (byteAt p 3 = 0 ∨ (4 ≤ byteAt p 3 ∧ byteAt p 3 ≤ 24)) →
     byteAt p 4 ≤ 1 →
     zeroAt p 5 3 →
     exec (.peepholeSet n) s = .next (endsOk
       ((List.range 72).foldl (fun t k => modItvPort t k (fun q => { q with peep := peepOf k (byteAt p 1) (byteAt p 2) (byteAt p 3) (byteAt p 4) })) (taken s n)) n))

/-- reset-partial at each of its levels: what it leaves. The prompter reset runs on with every other slot ended; a READY port starts its drain and another goes to DARK at once; ACTION 2 enables a disabled port and changes nothing on an enabled one; a cluster reset runs on with a REMAP of its own plane for each group served; the core reset and the partition reset act and end with OK; the whole-chip reset is due after 1 ms, ended with OK. -/
def Obligations.ResetPartialActsAtItsLevel : Prop :=
  (∀ (s : State) (n : Fin 8) (p : Bytes),
     posted s n 0x0501 p →
     p.length = 8 →
     byteAt p 0 = 0 →
     byteAt p 1 = 0 →
     byteAt p 2 = 0 →
     zeroAt p 3 5 →
     exec (.resetPrompter n) s = .next (prompterReset (taken s n) (some n.val))) ∧
  (∀ (s : State) (n : Fin 8) (p : Bytes) (q : Fin 72),
     posted s n 0x0501 p →
     p.length = 8 →
     byteAt p 0 = 1 →
     byteAt p 1 = q.val →
     byteAt p 2 = 0 →
     zeroAt p 3 5 →
     (itvPort s q.val).enabled = true →
     (itvPort s q.val).st = .ready →
     closing s.itv q.val = false →
     exec (.resetPortRehearse n) s = .next
       { taken s n with itv.routing.drains := s.itv.routing.drains ++
           [{ why := .rehearse, ports := setBit 0 q.val true, start := s.now, lastSent := s.now, slot := some n.val }] }) ∧
  (∀ (s : State) (n : Fin 8) (p : Bytes) (q : Fin 72),
     posted s n 0x0501 p →
     p.length = 8 →
     byteAt p 0 = 1 →
     byteAt p 1 = q.val →
     byteAt p 2 = 0 →
     zeroAt p 3 5 →
     (itvPort s q.val).enabled = true →
     (itvPort s q.val).st ≠ .ready →
     closing s.itv q.val = false →
     exec (.resetPortRehearse n) s = .next (endsOk
       (endDrain (taken s n) { why := .rehearse, ports := setBit 0 q.val true, start := s.now, lastSent := s.now }) n)) ∧
  (∀ (s : State) (n : Fin 8) (p : Bytes) (q : Fin 72),
     posted s n 0x0501 p →
     p.length = 8 →
     byteAt p 0 = 1 →
     byteAt p 1 = q.val →
     byteAt p 2 = 1 →
     zeroAt p 3 5 →
     (itvPort s q.val).st = .ready →
     closing s.itv q.val = false →
     exec (.resetPortDisable n) s = .next
       { taken s n with itv.routing.drains := s.itv.routing.drains ++
           [{ why := .disable, ports := setBit 0 q.val true, start := s.now, lastSent := s.now, slot := some n.val }] }) ∧
  (∀ (s : State) (n : Fin 8) (p : Bytes) (q : Fin 72),
     posted s n 0x0501 p →
     p.length = 8 →
     byteAt p 0 = 1 →
     byteAt p 1 = q.val →
     byteAt p 2 = 1 →
     zeroAt p 3 5 →
     (itvPort s q.val).st ≠ .ready →
     closing s.itv q.val = false →
     exec (.resetPortDisable n) s = .next (endsOk
       (endDrain (taken s n) { why := .disable, ports := setBit 0 q.val true, start := s.now, lastSent := s.now }) n)) ∧
  (∀ (s : State) (n : Fin 8) (p : Bytes) (q : Fin 72),
     posted s n 0x0501 p →
     p.length = 8 →
     byteAt p 0 = 1 →
     byteAt p 1 = q.val →
     byteAt p 2 = 2 →
     zeroAt p 3 5 →
     (itvPort s q.val).enabled = false →
     exec (.resetPortEnable n) s = .next (endsOk
       (modPort (taken s n) (.itv q) (fun x => { x with enabled := true, reason := .none, waitMs := 0 })) n)) ∧
  (∀ (s : State) (n : Fin 8) (p : Bytes) (q : Fin 72),
     posted s n 0x0501 p →
     p.length = 8 →
     byteAt p 0 = 1 →
     byteAt p 1 = q.val →
     byteAt p 2 = 2 →
     zeroAt p 3 5 →
     (itvPort s q.val).enabled = true →
     exec (.resetPortEnable n) s = .next (endsOk (taken s n) n)) ∧
  (∀ (s : State) (n : Fin 8) (p : Bytes),
     posted s n 0x0501 p →
     p.length = 8 →
     byteAt p 0 = 2 →
     byteAt p 1 < 18 →
     byteAt p 2 = 0 →
     zeroAt p 3 5 →
     s.itv.coll.resetting.getLsbD (byteAt p 1) = false →
     exec (.resetCluster n) s = .next (
       let k := byteAt p 1
       let t := { taken s n with itv.coll.resetting := setBit s.itv.coll.resetting k true,
                                 itv.coll.resetBy := kset s.itv.coll.resetBy k (some n.val, none) }
       (servedBy (taken s n) k).foldl (fun t g => remapOwn t g 0xFFFF) t)) ∧
  (∀ (s : State) (n : Fin 8) (p : Bytes),
     posted s n 0x0501 p →
     p.length = 8 →
     byteAt p 0 = 3 →
     byteAt p 1 < 2 →
     byteAt p 2 = 0 →
     zeroAt p 3 5 →
     exec (.resetCore n) s = .next (endsOk (coreReset (taken s n) (byteAt p 1)) n)) ∧
  (∀ (s : State) (n : Fin 8) (p : Bytes),
     posted s n 0x0501 p →
     p.length = 8 →
     byteAt p 0 = 4 →
     byteAt p 1 < 16 →
     byteAt p 2 = 0 →
     zeroAt p 3 5 →
     partExists s.itv (byteAt p 1) = true →
     s.itv.sec.strikes.any (fun x => x.part == byteAt p 1) = false →
     exec (.resetPartition n) s = .next (endsOk (partitionReset (taken s n) (byteAt p 1)) n)) ∧
  (∀ (s : State) (n : Fin 8) (p : Bytes),
     posted s n 0x0501 p →
     p.length = 8 →
     byteAt p 0 = 5 →
     byteAt p 1 = 0 →
     byteAt p 2 = 0 →
     zeroAt p 3 5 →
     exec (.resetWholeChip n) s = .next (endsOk { taken s n with itv.boot.level5At := some (s.now + 1000000) } n))

/-- script-stage, script-switch, script-bow, licence-apply and attest-fetch: what each leaves. An image that R706 passes is written to the slot named, which runs on; script-switch of a staged image arms its trial and restarts the prompters after OK; of a good image it restarts them; script-bow makes the trial script the active one and raises the rollback floor; a licence that R615 passes is kept and its feature held; attest-fetch writes the report to the host's buffer and returns its length. -/
def Obligations.FirmwareLicenceAndAttestationCommandsTakeEffect : Prop :=
  (∀ (s : State) (n : Fin 8) (p d : Bytes),
     posted s n 0x0601 p →
     p.length = 24 →
     byteAt p 0 ≤ 1 →
     byteAt p 0 ≠ s.itv.boot.slot →
     byteAt p 1 = 0 →
     zeroAt p 2 2 →
     hostRefCheck p 8 0 = none →
     s.itv.cb.busMaster = true →
     imageRefused s.itv (pad (hostRef p 8).len d) 0 = none →
     s.itv.boot.bowPending = false →
     s.itv.relay.sending = none →
     s.itv.relay.receiving = false →
     s.itv.relay.staging = none →
     exec (.scriptStage n (.ok d)) s = .next (beginStage (taken s n) (byteAt p 0) (parseImg (pad (hostRef p 8).len d)) false (some (.slot n.val)))) ∧
  (∀ (s : State) (n : Fin 8) (p : Bytes),
     posted s n 0x0602 p →
     p.length = 8 →
     byteAt p 0 ≤ 1 →
     zeroAt p 1 7 →
     s.itv.flash.trialSlot = none →
     (getImg s.itv.flash (byteAt p 0)).st = .staged →
     (getImg s.itv.flash (byteAt p 0)).configOldest ≤ s.itv.flash.store.format →
     exec (.scriptSwitch n) s = .next (prompterReset (endsOk (setTrial (taken s n) (byteAt p 0)) n) none)) ∧
  (∀ (s : State) (n : Fin 8) (p : Bytes),
     posted s n 0x0602 p →
     p.length = 8 →
     byteAt p 0 ≤ 1 →
     zeroAt p 1 7 →
     (getImg s.itv.flash (byteAt p 0)).st = .active →
     exec (.scriptSwitch n) s = .next (prompterReset (endsOk (taken s n) n) none)) ∧
  (∀ (s : State) (n : Fin 8) (t : Nat),
     posted s n 0x0603 [] →
     s.itv.flash.trialSlot = some t →
     s.itv.boot.bowPending = true →
     s.itv.boot.watchdogStopped = none →
     exec (.scriptBow n) s = .next (endsOk (takeBow (taken s n) t) n)) ∧
  (∀ (s : State) (n : Fin 8) (p : Bytes),
     posted s n 0x0701 p →
     p.length = 152 →
     natAt p 0 2 = 136 →
     zeroAt p 2 14 →
     natAt p 16 4 = 0x4E43494C →
     natAt p 20 2 = 1 →
     1 ≤ byteAt p 22 ∧ byteAt p 22 ≤ 3 →
     zeroAt p 23 1 →
     zeroAt p 36 4 →
     zeroAt p 48 8 →
     Config.ecdsaVerify Config.licenceKey ((slice p 16 136).take 40) (slice (slice p 16 136) 40 96) = true →
     natAt (slice p 16 136) 8 8 = s.itv.fuse.serial.toNat →
     kget s.itv.flash.licences (byteAt p 22) = none →
     exec (.licenceApply n) s = .next (
       let b := slice p 16 136
       let t := { taken s n with itv.flash.licences := kset s.itv.flash.licences (byteAt p 22) (natAt b 16 4, b) }
       let t := { t with itv.boot.licences := featuresOf t.itv }
       endsOk t n (leBytes 1 (heldLicences t.itv).toNat))) ∧
  (∀ (s : State) (n : Fin 8) (p : Bytes),
     posted s n 0x0702 p →
     p.length = 48 →
     hostRefCheck p 32 1 = none →
     s.itv.cb.busMaster = true →
     (attestReport (taken s n).itv (p.take 32) (freeDigest (taken s n)).2).length ≤ (hostRef p 32).len →
     exec (.attestFetch n true) s = .next (
       let x := freeDigest (taken s n)
       let r := attestReport (taken s n).itv (p.take 32) x.2
       endsBulk x.1 n p 32 (leBytes 4 r.length) r))

/-- The callboard's own answers: an unknown CODE, the answer where no script accepts commands, a bound that has passed. A CODE outside the catalogue ends with BADARG and DETAIL 0xFFFF; while MODE reads SWITCHING or before Yalny starts a handed-over command ends with BUSY, and in greenroom a command that greenroom does not accept with DENIED, SEQ_ECHO being SEQ[31:0]; a command still running at its bound ends with TIMEOUT and APPLIED. -/
def Obligations.CallboardHardwareAnswersWithoutYalny : Prop :=
  (∀ (s : State) (n : Fin 8),
     waitsIn s n.val = true →
     accepting s = true →
     rowOf (getSlot s n.val).code.toNat = none →
     exec (.unknownCommand n) s = .next (completeSlot (taken s n) n.val { status := St.badarg, detail := 0xFFFF })) ∧
  (∀ (s : State) (n : Fin 8),
     waitsIn s n.val = true →
     (s.itv.boot.mode = .switching ∨ (s.itv.boot.mode = .starting ∧ s.itv.boot.yalny = false)) →
     exec (.callboardHwAnswer n) s = .next
       (completeSlot (modSlot s n.val (fun x => { x with seqEcho := x.seq.setWidth 32 })) n.val { status := St.busy })) ∧
  (∀ (s : State) (n : Fin 8),
     waitsIn s n.val = true →
     s.itv.boot.mode = .greenroom →
     greenAllowed s n.val = false →
     exec (.callboardHwAnswer n) s = .next
       (completeSlot (modSlot s n.val (fun x => { x with seqEcho := x.seq.setWidth 32 })) n.val { status := St.denied })) ∧
  (∀ (s : State) (n : Fin 8) (applied : Bool) (t : Nat) (row : CmdRow),
     (getSlot s n.val).running = some t →
     rowOf (getSlot s n.val).code.toNat = some row →
     t + row.bound * 1000000 ≤ s.now →
     exec (.commandTimeout n applied) s = .next
       (completeSlot s n.val { status := St.timeout, detail := if applied then 0x8000 else 0 }))

/-- BAR0 writes, the interrupt block, the mirror, PERST_N and the CXL link: the state each leaves. A write of EVENT_CAUSE clears the bits written as one and releases ITV_ALERT_N with the last; EVENT_MASK, an MSI-X address and a slot's SEQ take what is written; a write to a slot whose OWN is 1 is counted and ignored; unmasking a vector sends what is pending; a mirror refresh adds 2 to MIRROR_SEQ; a Function Level Reset and PERST_N low clear bus mastering, the HDM commit, MSI-X and the mask; the link going down changes nothing else. -/
def Obligations.InterruptMirrorAndCxlRowsTakeEffect : Prop :=
  (∀ (s : State) (v : Word),
     (s.itv.cb.eventCause &&& ~~~ (v.setWidth 8) ≠ 0 ∨ s.itv.cb.eventCause = 0) →
     exec (.eventCauseWrite v) s = .next { s with itv.cb.eventCause := s.itv.cb.eventCause &&& ~~~ (v.setWidth 8) }) ∧
  (∀ (s : State) (v : Word),
     s.itv.cb.eventCause &&& ~~~ (v.setWidth 8) = 0 →
     s.itv.cb.eventCause ≠ 0 →
     exec (.eventCauseWrite v) s = .next (emit { s with itv.cb.eventCause := 0 } (.alert .itv false))) ∧
  (∀ (s : State) (v : Fin 16),
     s.itv.cb.pba.getLsbD v.val = true →
     s.itv.cb.cxlUp = true →
     s.itv.cb.busMaster = true →
     exec (.msixVectorUnmask v) s = .next (emit
       { modMsix s v.val (fun e => { e with masked := false }) with itv.cb.pba := setBit s.itv.cb.pba v.val false } (.msix v.val))) ∧
  (∀ (s : State) (v : Fin 16),
     s.itv.cb.pba.getLsbD v.val = false →
     exec (.msixVectorUnmask v) s = .next (modMsix s v.val (fun e => { e with masked := false }))) ∧
  (∀ (s : State),
     s.itv.boot.yalny = true →
     exec .mirrorRefresh s = .next { s with itv.cb.mirror := { mirrorOf s.itv with seq := s.itv.cb.mirror.seq + 2 } }) ∧
  (∀ (s : State),
     exec .functionLevelReset s = .next
       { s with itv.cb.busMaster := false, itv.cb.hdmCommitted := false,
                itv.cb.msix := Vector.replicate 16 {}, itv.cb.pba := 0, itv.cb.eventMask := 0 }) ∧
  (∀ (s : State),
     exec (.perstN true) s = .next { s with itv.cb.perst := true } ∧
     exec (.perstN false) s = .next
       { s with itv.cb.perst := false, itv.cb.busMaster := false, itv.cb.hdmCommitted := false,
                itv.cb.msix := Vector.replicate 16 {}, itv.cb.pba := 0, itv.cb.eventMask := 0 }) ∧
  (∀ (s : State),
     exec .cxlLinkDown s = .next { s with itv.cb.cxlUp := false, itv.cb.cxlRate := 0, itv.cb.cxlWidth := 0 }) ∧
  (∀ (s : State) (rate width : Nat),
     s.itv.cb.pba = 0 →
     exec (.cxlLinkUp rate width) s = .next { s with itv.cb.cxlUp := true, itv.cb.cxlRate := rate, itv.cb.cxlWidth := width }) ∧
  (∀ (s : State) (op : Nat) (input : Bytes),
     exec (.cxlMailboxCommand op input) s = .next (emit s (.mailbox (Config.mailboxAnswer op input)))) ∧
  (∀ (s : State) (v : Word),
     exec (.registerWrite (.bar0 0x1C08 v)) s = .next { s with itv.cb.eventMask := v.setWidth 8 }) ∧
  (∀ (s : State) (e : Fin 16) (v : Word),
     exec (.registerWrite (.bar0 (0x1000 + 16 * e.val) v)) s = .next (modMsix s e.val (fun x => { x with addr := v }))) ∧
  (∀ (s : State) (n : Fin 8) (v : Word),
     (getSlot s n.val).own = false →
     exec (.registerWrite (.bar0 (0x4008 + 0x1000 * n.val) v)) s = .next (modSlot s n.val (fun x => { x with seq := v }))) ∧
  (∀ (s : State) (n : Fin 8) (off : Nat) (v : Word),
     off < 0x1000 →
     (getSlot s n.val).own = true →
     exec (.registerWrite (.bar0 (0x4000 + 0x1000 * n.val + off) v)) s = .next { s with itv.cb.cbIgnored := satAdd s.itv.cb.cbIgnored 1 }) ∧
  (∀ (s : State) (bm commit : Bool),
     exec (.registerWrite (.pcie bm commit)) s = .next { s with itv.cb.busMaster := bm, itv.cb.hdmCommitted := commit })

/-- CXL.mem reads and writes of the window carve: data, unmapped accesses and missing keys. A read of an open, mapped window with permission gives the block's content; a write of it stores 64 bytes in the pool. A read of an unmapped offset gives zeros and a write of one is counted; without the permission a read is poisoned and a write counted. -/
def Obligations.CxlWindowAccessesReadAndWriteThePool : Prop :=
  (∀ (s : State) (o : Nat) (k : Carve) (a : Nat) (d : Bytes),
     windowOpen s = true →
     windowAt s.itv (o / 64 * 64) = some (k, a) →
     windowOk s.itv k = true →
     blockRead (touch s a 64).itv k.part (a / 64) = .ok d →
     exec (.cxlMemRead o .ok) s = .next (emit (touch s a 64) (.cxlData d false))) ∧
  (∀ (s : State) (o : Nat) (hw : HomeHw),
     windowOpen s = true →
     windowAt s.itv (o / 64 * 64) = none →
     exec (.cxlMemRead o hw) s = .next (emit s (.cxlData (zeros 64) false))) ∧
  (∀ (s : State) (o : Nat) (hw : HomeHw) (k : Carve) (a : Nat),
     windowOpen s = true →
     windowAt s.itv (o / 64 * 64) = some (k, a) →
     windowOk s.itv k = false →
     exec (.cxlMemRead o hw) s = .next (emit s (.cxlData (zeros 64) true))) ∧
  (∀ (s : State) (o : Nat) (k : Carve) (a : Nat),
     windowOpen s = true →
     windowAt s.itv (o / 64 * 64) = some (k, a) →
     windowOk s.itv k = true →
     exec (.cxlMemRead o .uncorrectable) s = .next (emit
       { poisonBlock (touch s a 64) (a / 64) with itv.cb.media := (touch s a 64).itv.cb.media ++ [o / 64 * 64] } (.cxlData (zeros 64) true))) ∧
  (∀ (s : State) (o : Nat) (d : Bytes) (k : Carve) (a : Nat) (v : Itvos) (old : Bytes),
     windowOpen s = true →
     windowAt s.itv (o / 64 * 64) = some (k, a) →
     windowOk s.itv k = true →
     poolWrite (touch s a 64).itv k.part a (pad 64 d) (fullMask 64) = (v, .ok old) →
     exec (.cxlMemWrite o d) s = .next { touch s a 64 with itv := v }) ∧
  (∀ (s : State) (o : Nat) (d : Bytes),
     windowOpen s = true →
     windowAt s.itv (o / 64 * 64) = none →
     exec (.cxlMemWrite o d) s = .next (bumpPool s .cxlUnmapped)) ∧
  (∀ (s : State) (o : Nat) (d : Bytes) (k : Carve) (a : Nat),
     windowOpen s = true →
     windowAt s.itv (o / 64 * 64) = some (k, a) →
     windowOk s.itv k = false →
     exec (.cxlMemWrite o d) s = .next (bumpPool s .cxlNokey))

/-- Belug's configuration writes and resets: the state each leaves. INT_CAUSE clears the bits written as one; a HOME_MAP word gives its eight entries; VC_WEIGHT is taken when the seven weights are non-zero and sum to 64 and refused and counted otherwise; a TALLY takes COUNT; a group word changes the table and LIVE of its group; BP re-rehearses; the chip reset and APRON_RST_N leave everything but fuses and the reference inputs at reset; the wait of 250 ms ends with the waiting sends born anew. -/
def Obligations.BelugRegistersTakeWrites : Prop :=
  (∀ (s : State) (v : Word),
     (s.blg.cause &&& s.blg.mask = 0 ∨ s.blg.cause &&& ~~~(v.setWidth 8) &&& s.blg.mask ≠ 0) →
     exec (.intCauseWrite v) s = .next { s with blg.cause := s.blg.cause &&& ~~~(v.setWidth 8) }) ∧
  (∀ (s : State) (v : Word),
     s.blg.cause &&& s.blg.mask ≠ 0 →
     s.blg.cause &&& ~~~(v.setWidth 8) &&& s.blg.mask = 0 →
     exec (.intCauseWrite v) s = .next (emit { s with blg.cause := s.blg.cause &&& ~~~(v.setWidth 8) } (.alert .blg false))) ∧
  (∀ (s : State) (k : Fin 3) (v : Word),
     exec (.homeMapWrite k v) s = .next
       { s with blg.homeWritten := true,
                blg.homeMap := (List.range 24).map (fun i =>
                  if i / 8 = k.val then v.toNat / 2 ^ (8 * (i % 8)) % 32 else s.blg.homeMap.getD i 0) }) ∧
  (∀ (s : State) (v : Word),
     (vcWeights v).sum = 64 →
     0 ∉ vcWeights v →
     exec (.vcWeightWrite v) s = .next { s with blg.vcWeight := v.setWidth 56 }) ∧
  (∀ (s : State) (v : Word),
     (vcWeights v).sum ≠ 64 ∨ 0 ∈ vcWeights v →
     exec (.vcWeightWrite v) s = .next (bumpBC s .cfgRefused)) ∧
  (∀ (s : State) (t : Fin 4096) (v : Word),
     exec (.tallyWrite t v) s = .next (tallyWaits { s with blg.tallies := kset s.blg.tallies t.val (BitVec.ofNat 64 (v.toNat % 2 ^ 32)) } t.val)) ∧
  (∀ (s : State) (g : Fin 256) (w : Fin 4) (v : Word),
     exec (.groupTableWrite g w v) s = .next (
       let t := { s with blg.groupMem := memWrite s.blg.groupMem (0x3000 + 0x20 * g.val + 8 * w.val) (leBytes 8 v.toNat) }
       { t with blg.live := kset s.blg.live (groupNumber t.blg g.val) (groupPlanes t.blg g.val) })) ∧
  (∀ (s : State) (p : Fin 24),
     exec (.bpReset p) s = .next (modPort (moveTo s (.blg p) .dark .none) (.blg p) (fun q => { q with waitMs := 0, redo := none }))) ∧
  (∀ (s : State),
     s.blg.cause &&& s.blg.mask = 0 →
     exec .belugReset s = .next
       { s with blg := { fuse := s.blg.fuse, resetAt := s.now, lostA := s.blg.lostA, lostB := s.blg.lostB,
                         useB := (s.blg.lostA && !s.blg.lostB), bothLost := s.blg.bothLost } }) ∧
  (∀ (s : State),
     s.blg.cause &&& s.blg.mask ≠ 0 →
     exec .belugReset s = .next (emit
       { s with blg := { fuse := s.blg.fuse, resetAt := s.now, lostA := s.blg.lostA, lostB := s.blg.lostB,
                         useB := (s.blg.lostA && !s.blg.lostB), bothLost := s.blg.bothLost } } (.alert .blg false))) ∧
  (∀ (s : State),
     exec .apronRstN s = exec .belugReset s ∧ exec .belugReset s = .next (noteAlert s { s with blg := resetBelug s.blg s.now }) ∧
       exec .apronRstN s = .next (noteAlert s { s with blg := resetBelug s.blg s.now })) ∧
  (∀ (s : State) (n : Fin 32),
     exec (.stagehandReset n) s = .next (settle (
       let t := modHand s n.val (fun h => { h with resetting := true, current := none })
       let t := (List.range 16).foldl (fun s k => resetSlot s n.val k St.timeout) t
       modHand t n.val (fun h => { h with resetting := h.slots.any (·.own) })))) ∧
  (∀ (s : State),
     s.blg.startWait = true →
     s.blg.resetAt + 250000000 ≤ s.now →
     exec .belugStartWaitEnd s = .next (sendWaiting
       { s with blg.startWait := false,
                blg.outflows := s.blg.outflows.map (fun e =>
                  (e.1, { e.2 with outst := e.2.outst.map (fun o => if o.waiting then { o with born := s.now } else o) })) })) ∧
  (∀ (s : State) (ch : Fin 24) (tag : BitVec 16) (a : Nat) (v : Word),
     (getCh s ch.val).up = true →
     a % 8 = 0 →
     a < 0x10000 →
     tag.toNat < 4096 →
     a ≠ 0x128 →
     exec (.registerWrite (.cfg ch tag a v)) s = .next (
       let m : ApronMsg := { typ := 0x0B, tag := tag, addr := BitVec.ofNat 64 a, tail := leBytes 8 v.toNat ++ zeros 40 }
       settle (respond (cfgWrite (takeWords s ch.val m) a v) ch.val m St.ok 0 [])))

/-- DARK to SHIFT: what each state of a rehearsal leaves. An enabled port whose wait has passed leaves DARK or DOWN for DETECT with fresh link state. DETECT keeps the sensed lanes and goes to CLOCK, or DOWN with FACING where nothing is sensed. CLOCK goes to ALIGN, or fails with no clock source. ALIGN accepts straight or fully reversed order, or fails with LANE_ORDER. An offer frame counts identical copies and is accepted at the eighth; a bad one starts the count again. NAMES passes a match of the chart and holds a port without a chart, or that does not match. SHIFT goes to TUNE. -/
def Obligations.RehearsalGoesThroughItsStates : Prop :=
  (∀ (s : State) (r : PortRef),
     (getPort s r).st = .dark ∨ (getPort s r).st = .down →
     (getPort s r).enabled = true →
     mayRehearse s r = true →
     refDead s (refSide r) = false →
     (getPort s r).since + (getPort s r).waitMs * 1000000 ≤ s.now →
     exec (.portRetry r) s = .next (setSt (modPort s r beginRehearsal) r .detect (getPort s r).reason)) ∧
  (∀ (s : State) (r : PortRef) (short : BitVec 9),
     (getPort s r).st = .detect →
     exec (.detect r ⟨short, 0, false⟩) s = .next
       (failTo (modPort s r (fun p => countLanes { p with shorted := short } short)) r .down .facing)) ∧
  (∀ (s : State) (r : PortRef) (o : DetectObs),
     (getPort s r).st = .detect →
     (o.term ≠ 0 ∨ o.signal = true) →
     exec (.detect r o) s = .next (
       let bad := o.short ||| ~~~ o.term
       setSt (modPort s r (fun p => countLanes { p with shorted := o.short, txUse := ~~~ (bad.extractLsb' 0 8),
                                                        clkTx := if bad.getLsbD 8 then 3 else 0 } bad))
         r .clock (if o.short != 0 then .short else if bad != 0 then .opened else .none))) ∧
  (∀ (s : State) (r : PortRef),
     (getPort s r).st = .clock →
     (getPort s r).clkTx ≠ 3 →
     exec (.clock r ⟨true, true, true, true⟩) s = .next (
       let t := modPort s r (fun p => countLanes { p with clkRx := 0, clkTx := 0 } 0)
       setSt t r .align (getPort s r).reason)) ∧
  (∀ (s : State) (r : PortRef) (tx : Bool),
     (getPort s r).st = .clock →
     exec (.clock r ⟨false, false, false, tx⟩) s = .next (
       let c := if tx && (getPort s r).clkTx != 3 then 0 else standinOf (getPort s r).txUse
       failTo (modPort s r (fun p => countLanes { p with clkRx := 3, clkTx := c } 0x100)) r .down .clockLane)) ∧
  (∀ (s : State) (r : PortRef) (o : AlignObs),
     (getPort s r).st = .align →
     ((seenLanes o.order).all (fun x => x.2 == x.1) || (seenLanes o.order).all (fun x => x.2 == 7 - x.1)) = true →
     exec (.align r o) s = .next (
       let seen := seenLanes o.order
       let use : BitVec 8 := seen.foldl (fun m x => setBit m x.2 true) 0
       let lost : BitVec 9 := (~~~ use).setWidth 9
       let t := modPort s r (fun p => countLanes
         { p with rxUse := use &&& ~~~ p.rxOut, inverted := o.inverted,
                  reversed := (!seen.all (fun x => x.2 == x.1) && seen.all (fun x => x.2 == 7 - x.1)),
                  skew := o.skew, heard := [], copies := 0, ackSent := false, ackSeen := false } lost)
       sendOffer (setSt t r .offer (if use != 0xFF then .opened else (getPort s r).reason)) r)) ∧
  (∀ (s : State) (r : PortRef) (o : AlignObs),
     (getPort s r).st = .align →
     (seenLanes o.order).all (fun x => x.2 == x.1) = false →
     (seenLanes o.order).all (fun x => x.2 == 7 - x.1) = false →
     exec (.align r o) s = .next (failTo s r .dark .laneOrder)) ∧
  (∀ (s : State) (r : PortRef) (b : Bytes),
     b.length = 64 →
     (getPort s r).st = .offer ∨ (getPort s r).st = .names ∨ (getPort s r).st = .held →
     offerGood b = true →
     (b ≠ (getPort s r).heard ∨ (getPort s r).copies + 1 ≠ 8) →
     exec (.offerFrame r b) s = .next (modPort s r (fun p =>
       { p with heard := b, copies := if b = (getPort s r).heard then (getPort s r).copies + 1 else 1 }))) ∧
  (∀ (s : State) (r : PortRef) (b : Bytes),
     b.length = 64 →
     (getPort s r).st = .offer ∨ (getPort s r).st = .names ∨ (getPort s r).st = .held →
     offerGood b = true →
     b = (getPort s r).heard →
     (getPort s r).copies = 7 →
     exec (.offerFrame r b) s = .next (acceptOffer (modPort s r (fun p => { p with heard := b, copies := 8 })) r (parseOffer b))) ∧
  (∀ (s : State) (r : PortRef) (b : Bytes),
     b.length = 64 →
     (getPort s r).st = .offer ∨ (getPort s r).st = .names ∨ (getPort s r).st = .held →
     offerGood b = false →
     exec (.offerFrame r b) s = .next (modPort s r (fun p => { p with heard := [], copies := 0 }))) ∧
  (∀ (s : State) (i : Fin 72) (o : Offer),
     (getPort s (.itv i)).partner = some o →
     (getPort s (.itv i)).st = .names →
     (getPort s (.itv i)).verdict = 0 →
     itvMatches s.itv i.val o = true →
     exec (.names (.itv i)) s = .next (passNames (namesHook s i.val o) (.itv i))) ∧
  (∀ (s : State) (i : Fin 72) (o : Offer),
     (getPort s (.itv i)).partner = some o →
     (getPort s (.itv i)).st = .names →
     (getPort s (.itv i)).verdict = 0 →
     itvMatches s.itv i.val o = false →
     exec (.names (.itv i)) s = .next (holdPort s (.itv i) (if s.itv.routing.chart.isNone then .noChart else .miswired))) ∧
  (∀ (s : State) (i : Fin 24) (o : Offer),
     (getPort s (.blg i)).partner = some o →
     (getPort s (.blg i)).st = .names →
     (getPort s (.blg i)).verdict = 0 →
     blgMatches i.val o = true →
     s.blg.planes = none →
     exec (.names (.blg i)) s = .next (passNames { s with blg := adopt s.blg o } (.blg i))) ∧
  (∀ (s : State) (r : PortRef),
     (getPort s r).st = .shift →
     exec (.shift r) s = .next (setSt s r .tune (getPort s r).reason))

/-- A frame that is not 64 bytes and a flit that is not 256 bytes on the wire are no commands the block can be given. The spec gives the frame 64 bytes and the flit 256; an arrival of another length is not one of the block's commands, and the model stops on it by name: the model's own convention (log 59). -/
def Obligations.IllFormedArrivalsFault : Prop :=
  (∀ (s : State) (r : PortRef) (b : Bytes),
     b.length ≠ 64 →
     exec (.offerFrame r b) s = .fault .illFormed) ∧
  (∀ (s : State) (r : PortRef) (raw : Bytes),
     raw.length ≠ 256 →
     exec (.flitArrival r raw) s = .fault .illFormed)

/-- TUNE, DRESS, the monitors and the loss of the clock: what each leaves. Each tap moves one step within its range and is answered; tuning ends at TUNE_DONE or after 20 ms. A dress rehearsal that passes both ways brings the port to READY; one that fails with no lane to blame takes the next lower rate, and DOWN with DRESS at the lowest. The monitor re-rehearses from ALIGN at the present rate without the worst lane, or at the next rate. The other rows: a state's timeout, the phase steps, the short probe, the loss of the clock lane and its stand-in. -/
def Obligations.TuningDressAndServiceOfAPort : Prop :=
  (∀ (s : State) (r : PortRef) (l : Fin 9) (pre mid post : BitVec 2),
     (getPort s r).st = .tune →
     exec (.tapRequest r l pre mid post) s = .next (
       let t := (getPort s r).taps.getD l.val (4, 8)
       let a := tapStep t.1 16 4 pre
       let c := tapStep t.2 24 8 post
       emit (modPort s r (fun p => { p with taps := p.taps.set l.val (a.1, c.1) })) (.tapAnswer r l.val a.2 0 c.2))) ∧
  (∀ (v lim start : Nat) (req : BitVec 2),
     v ≤ lim →
     start ≤ lim →
     (tapStep v lim start req).1 ≤ lim) ∧
  (∀ (s : State) (r : PortRef),
     (getPort s r).st = .tune →
     exec (.tuneDone r) s = .next (setSt s r .dress (getPort s r).reason)) ∧
  (∀ (s : State) (r : PortRef),
     (getPort s r).st = .tune →
     (getPort s r).since + 20000000 ≤ s.now →
     exec (.tuneTimeout r) s = .next (setSt s r .dress (getPort s r).reason)) ∧
  (∀ (s : State) (r : PortRef) (own other : DressObs),
     (getPort s r).st = .dress →
     dressPass (getPort s r).dressLog2 own = true →
     dressPass (getPort s r).dressLog2 other = true →
     exec (.dressRehearsal r own other) s = .next (enterReady s r)) ∧
  (∀ (s : State) (r : PortRef) (own other : DressObs) (k : Nat),
     (getPort s r).st = .dress →
     dressPass (getPort s r).dressLog2 own = false →
     fallbackLane ((getPort s r).modeRx.getD 11) own = none →
     dressPass (getPort s r).dressLog2 other = true →
     nextRate (getPort s r) (ownOffer s r) = some k →
     exec (.dressRehearsal r own other) s = .next (refit s r k)) ∧
  (∀ (s : State) (r : PortRef) (own other : DressObs),
     (getPort s r).st = .dress →
     dressPass (getPort s r).dressLog2 own = false →
     fallbackLane ((getPort s r).modeRx.getD 11) own = none →
     dressPass (getPort s r).dressLog2 other = true →
     nextRate (getPort s r) (ownOffer s r) = none →
     exec (.dressRehearsal r own other) s = .next (failTo s r .down .dress)) ∧
  (∀ (s : State) (r : PortRef) (t : Nat),
     stateTimeout (getPort s r) = some t →
     (getPort s r).since + t ≤ s.now →
     exec (.rehearsalTimeout r) s = .next (failTo s r .dark (getPort s r).reason)) ∧
  (∀ (s : State) (r : PortRef) (o : DressObs) (l : Nat),
     (getPort s r).st = .ready →
     64 < o.crcFails →
     fallbackLane ((getPort s r).modeRx.getD 11) o = some l →
     exec (.runningMonitor r o) s = .next
       (modPort (realign (laneRetired s r) r (currentRate (getPort s r))) r (fun p =>
         { p with rxUse := setBit p.rxUse l false, rxOut := setBit p.rxOut l true }))) ∧
  (∀ (s : State) (r : PortRef) (o : DressObs) (k : Nat),
     (getPort s r).st = .ready →
     64 < o.crcFails →
     fallbackLane ((getPort s r).modeRx.getD 11) o = none →
     nextRate (getPort s r) (ownOffer s r) = some k →
     exec (.runningMonitor r o) s = .next (realign s r k)) ∧
  (∀ (s : State) (r : PortRef) (xs : List Int),
     (getPort s r).st = .ready →
     exec (.phaseRecentre r xs) s = .next
       (modPort s r (fun p => { p with phase := (List.range 8).map (fun i => p.phase.getD i 0 + xs.getD i 0) }))) ∧
  (∀ (s : State) (r : PortRef) (l : Fin 9),
     (getPort s r).shorted.getLsbD l.val = true →
     exec (.shortProbe r l false) s = .next (modPort s r (fun p => { p with shorted := setBit p.shorted l.val false }))) ∧
  (∀ (s : State) (r : PortRef),
     (getPort s r).st = .ready →
     (getPort s r).clockLost = false →
     (getPort (bumpPort s r .clockDiscard 1) r) = getPort s r →
     (getPort s r).standin = false →
     exec (.clockLoss r) s = .next (modPort (bumpPort s r .clockDiscard 1) r (fun p => countLanes
       { p with clockLost := true, lostAt := s.now, excluded := true, ctlDue := p.ctlDue ++ [2] } 0x100))) ∧
  (∀ (s : State) (r : PortRef),
     (getPort s r).st = .ready →
     (getPort s r).clockLost = false →
     (getPort s r).standin = true →
     exec (.clockLoss r) s = .next (leaveReady (bumpPort s r .clockDiscard 1) r .dark .clockLane)) ∧
  (∀ (s : State) (r : PortRef),
     (getPort s r).st = .ready →
     (getPort s r).clockLost = true →
     (getPort s r).lostAt + 100000 ≤ s.now →
     exec (.standinTimeout r) s = .next (leaveReady s r .dark .clockLane))

/-- The loss and return of a reference input at Belug and Itvos. At Belug the loss of the input in use moves the PLLs to the other input; the loss of both begins holdover, kept running on the input in use. 100 µs later every enabled port goes DOWN with REFCLK. The return of an input ends holdover, and the ports that went DOWN for it begin again with no wait. At Itvos a loss is counted too, and CLOCK status follows. -/
def Obligations.ReferenceClocksSwitchAndHoldOver : Prop :=
  (∀ (s : State),
     s.blg.lostA = false →
     s.blg.lostB = false →
     s.blg.useB = false →
     exec (.refclkLoss .blg false) s = .next { s with blg.lostA := true, blg.lostB := false, blg.useB := true, blg.bothLost := none }) ∧
  (∀ (s : State),
     s.blg.lostA = true →
     s.blg.lostB = false →
     s.blg.bothLost = none →
     exec (.refclkLoss .blg true) s = .next { s with blg.lostA := true, blg.lostB := true, blg.bothLost := some s.now }) ∧
  (∀ (s : State),
     s.itv.boot.lostA = false →
     s.itv.boot.lostB = false →
     exec (.refclkLoss .itv false) s = .next (
       let t := { s with itv.boot.lostA := true, itv.boot.lostB := false, itv.boot.useB := true, itv.boot.bothLost := none }
       noteState s (bump t (coreIdx 0 19) 1))) ∧
  (∀ (s : State) (d : Side) (t : Nat),
     (getRef s d).2.2.2 = some t →
     t + 100000 ≤ s.now →
     exec (.refclkHoldoverEnd d) s = .next
       ((sideRefs d).foldl (fun t r => if (getPort t r).enabled then moveTo t r .down .refclk else t) s)) ∧
  (∀ (s : State),
     s.blg.bothLost = none →
     exec (.refclkReturn .blg false) s = .next { s with blg.lostA := false, blg.bothLost := none }) ∧
  (∀ (s : State) (t : Nat),
     s.blg.bothLost = some t →
     exec (.refclkReturn .blg false) s = .next (
       blgRefs.foldl (fun t r =>
         let p := getPort t r
         if p.st = .down ∧ p.reason = .refclk then modPort (setSt t r .dark .none) r (fun p => { p with waitMs := 0 }) else t)
         { s with blg.lostA := false, blg.useB := false, blg.bothLost := none }))

/-- What the arrival of a flit at a READY port leaves. A flit that FEC or CRC refuses is counted and a resync is asked for. One that passes is counted by what FEC corrected, gives its credits, and by its kind waits as LINK_CTL, is counted malformed, or takes a landing slot of its VC while CRED leaves one; a malformed flit's slot is owed back. -/
def Obligations.FlitArrivalsAreCorrectedCheckedAndLand : Prop :=
  (∀ (s : State) (r : PortRef) (raw : Bytes),
     raw.length = 256 →
     (getPort s r).st = .ready →
     (getPort s r).clockLost = false →
     flitReceive (bypassOn (getPort s r)) raw = none →
     exec (.flitArrival r raw) s = .next (
       let t := bumpPort (bumpPort s r .uncorrectable 1) r .resync 1
       modPort t r (fun p => { p with resyncOut := true, resyncAt := s.now, ctlDue := p.ctlDue ++ [1] }))) ∧
  (∀ (s : State) (r : PortRef) (raw bytes : Bytes) (fixed three : Nat),
     raw.length = 256 →
     (getPort s r).st = .ready →
     (getPort s r).clockLost = false →
     flitReceive (bypassOn (getPort s r)) raw = some (bytes, fixed, three) →
     exec (.flitArrival r raw) s = .next
       (arrivePassed (bumpPort (bumpPort s r .fecBytes fixed) r .fec3 three) r (parseFlit bytes).1 (parseFlit bytes).2)) ∧
  (∀ (s : State) (r : PortRef) (f : Flit),
     f.kind = Kind.linkCtl →
     f.e2e = 0 ∧ f.crv = 0 ∧ f.crn = 0 →
     arrivePassed s r f 0 = modPort s r (fun p => { p with ctlIn := p.ctlIn ++ [f] })) ∧
  (∀ (s : State) (r : PortRef) (f : Flit) (mbz : Nat),
     f.kind ≠ Kind.linkCtl →
     vcOf f.kind = none →
     arrivePassed s r f mbz = bumpPort (modPort s r (fun p =>
       { p with retGot := lmod p.retGot f.crv.toNat (fun n => (n + f.crn.toNat) % 65536) })) r .malformed 1) ∧
  (∀ (s : State) (n : Fin 24) (f : Flit),
     (blgPort s n.val).landing.countP (fun l => l.flit.vc == f.vc) < (getPort s (.blg n)).cred →
     f.cm = false →
     land s (.blg n) f = bumpPort (modPort s (.blg n) (fun p => { p with landing := p.landing ++ [{ flit := f, at_ := s.now }] })) (.blg n) .flitsIn 1) ∧
  (∀ (s : State) (r : PortRef) (f : Flit),
     (getPort s r).cred = 0 →
     land s r f = realign (bumpPort s r .overrun 1) r (currentRate (getPort (bumpPort s r .overrun 1) r)))

/-- Placement, transmission, resequencing, pace and age: what each leaves. A flit for a unit of Belug leaves its landing slot, owed back, and opens there; Service traffic for a switch goes on the port of its plane. A due LINK_CTL leaves first, then VC0, and with nothing to send a LINK_CTL of CODE 0. A missing ISN is skipped after 256 beats at pace 1,450. More than 16 drops in a second retire a path. The pace of a die is its lowest reading. A flit older than its limit is dropped, counted, and its slot owed. -/
def Obligations.FlitsArePlacedSentAndAged : Prop :=
  (∀ (s : State) (p : Fin 24) (i : Nat) (fate : CoreFate) (l : Landed),
     (s.blg.ports.get p).landing[i]? = some l →
     l.flit.dk = false →
     exec (.flitPlace (.port (.blg p) i) fate) s = .next
       (openBelug (modPort s (.blg p) (fun q => oweP { q with landing := q.landing.eraseIdx i } l.flit.vc)) l.flit p.val)) ∧
  (∀ (s : State) (p : Fin 72) (i : Nat) (fate : CoreFate) (l : Landed) (t : State),
     (s.itv.ports.get p).landing[i]? = some l →
     placeOne s p.val l fate = some (t, none) →
     exec (.flitPlace (.port (.itv p) i) fate) s = .next (modPort (atomReturned t l.flit) (.itv p) (fun q => { q with landing := q.landing.eraseIdx i }))) ∧
  (∀ (s : State) (r : PortRef) (c : Nat) (cs : List Nat),
     (getPort s r).st = .ready →
     (getPort s r).standin = false →
     (getPort s r).ctlDue = c :: cs →
     exec (.flitTransmit r) s = .next (sendLinkCtl (modPort s r (fun p => { p with ctlDue := cs })) r c)) ∧
  (∀ (s : State) (n : Fin 72) (e : QEntry) (rest : List QEntry),
     (getPort s (.itv n)).st = .ready →
     (getPort s (.itv n)).standin = false →
     (getPort s (.itv n)).ctlDue = [] →
     vc0Ready (.itv n) (getPort s (.itv n)) = true →
     takeFirst (fun e => e.released && e.flit.vc == 0) (getPort s (.itv n)).outq = some (e, rest) →
     exec (.flitTransmit (.itv n)) s = .next (sendItv s n e rest)) ∧
  (∀ (s : State) (r : PortRef),
     (getPort s r).st = .ready →
     (getPort s r).standin = false →
     (getPort s r).ctlDue = [] →
     (getPort s r).outq = [] →
     exec (.flitTransmit r) s = .next (sendLinkCtl (modPort s r (fun p => { p with arb := List.replicate 8 0 })) r 0)) ∧
  (∀ (s : State) (inp : Nat) (o : Fin 72) (v : Fin 8) (t : Nat),
     (getStream s (streamKey inp o.val v.val)).holeAt = some t →
     8 * 256 * 1450 ≤ 7 * (s.now - t) * diePace (s.itv.core.dies.get (if o.val < 36 then 0 else 1)) →
     exec (.reseqSkip inp o v) s = .next (
       let st := getStream s (streamKey inp o.val v.val)
       settleStream (setStream (bump s (coreIdx (dieOf o.val) 0) 1) (streamKey inp o.val v.val) { st with rel := (st.rel + 1) % 4096 })
         inp o.val v.val)) ∧
  (∀ (s : State) (d : Fin 2) (k : Fin 8),
     16 < (s.itv.core.dies.get d).drops.countP (fun x => x.1 == k.val && decide (s.now < x.2 + 1000000000)) →
     exec (.pathRetire d k) s = .next (noteState s (raiseEvent
       (modDie s d.val (fun x => { x with retired := setBit x.retired k.val true })) Ev.port))) ∧
  (∀ (s : State) (r : Nat) (rs : List Nat),
     exec (.paceUpdate .belug (r :: rs)) s = .next { s with blg.pace := r % 65536 }) ∧
  (∀ (s : State) (d : Fin 2) (rs : List Nat),
     paceLow s.itv = false →
     paceLow (modDie s d.val (fun x => { x with monitors := rs, pace := rs.min?.getD 0 })).itv = true →
     exec (.paceUpdate (.die d) rs) s = .next (noteState s (bump
       (modDie s d.val (fun x => { x with monitors := rs, pace := rs.min?.getD 0 })) (coreIdx 0 11) 1))) ∧
  (∀ (s : State) (d : Fin 2) (rs : List Nat),
     paceLow (modDie s d.val (fun x => { x with monitors := rs, pace := rs.min?.getD 0 })).itv = false →
     exec (.paceUpdate (.die d) rs) s = .next (noteState s
       (modDie s d.val (fun x => { x with monitors := rs, pace := rs.min?.getD 0 })))) ∧
  (∀ (s : State) (p : Fin 72) (i : Nat) (l : Landed),
     (s.itv.ports.get p).landing[i]? = some l →
     l.at_ + ageLimit s.itv ≤ s.now →
     exec (.flitAged (.landing (.itv p) i)) s = .next (bump
       (modPort s (.itv p) (fun q => oweP { q with landing := q.landing.eraseIdx i } l.flit.vc)) DelCtr.aged.idx 1)) ∧
  (∀ (s : State) (i : Nat) (f : Flit) (t k : Nat),
     s.blg.inbox[i]? = some (f, t, k) →
     t + 50000 ≤ s.now →
     exec (.flitAged (.inbox i)) s = .next (bumpB { s with blg.inbox := s.blg.inbox.eraseIdx i } 11 1))

/-- LINK_CTL, resync, the stand-in, ALIGN_DONE, and the cue's parent and root: what each leaves. LINK_CTL leaves the queue of arrivals; on Belug its counts restore the credits and its stamps feed the cue. RESYNC_REQ makes a LINK_CTL due; an unanswered resync is asked again after 64 beats. STANDIN_REQ moves the clock to lane 7 or 0, or sends the port to DARK with neither. The receiver's deskew and ALIGN_DONE set the modes and restart the counts. A LINK_CTL is due every 8,192 beats. A parent silent for 100 µs is lost; the charted root takes its role after 20 µs. -/
def Obligations.LinkControlAndTheTimeTree : Prop :=
  (∀ (s : State) (n : Fin 24) (f : Flit),
     (getPort s (.blg n)).st = .ready →
     (getPort s (.blg n)).clockLost = false →
     byteAt f.payload 0 = 0 →
     exec (.linkCtl (.blg n) f) s = .next (cueArrival
       (modPort (modPort s (.blg n) (fun p => { p with ctlIn := p.ctlIn.erase f })) (.blg n) (fun p =>
         { (List.range 8).foldl (resyncVc f) p with resyncOut := false })) (.blg n) f)) ∧
  (∀ (s : State) (r : PortRef) (f : Flit),
     (getPort s r).st ≠ .ready →
     exec (.linkCtl r f) s = .next (modPort s r (fun p => { p with ctlIn := p.ctlIn.erase f }))) ∧
  (∀ (s : State) (r : PortRef),
     (getPort s r).st = .ready →
     exec (.resyncReq r) s = .next (modPort s r (fun p => { p with ctlDue := p.ctlDue ++ [0] }))) ∧
  (∀ (s : State) (r : PortRef),
     (getPort s r).st = .ready →
     (getPort s r).resyncOut = true →
     8 * 64 ≤ 7 * (s.now - (getPort s r).resyncAt) →
     exec (.resyncRepeat r) s = .next (modPort s r (fun p => { p with ctlDue := p.ctlDue ++ [1], resyncAt := s.now }))) ∧
  (∀ (s : State) (r : PortRef),
     (getPort s r).st = .ready →
     standinOf (getPort s r).txUse ≠ 3 →
     exec (.standinReq r) s = .next (emit (modPort s r (fun p => { p with standin := true, clkTx := standinOf (getPort s r).txUse }))
       (.standin r (standinOf (getPort s r).txUse)))) ∧
  (∀ (s : State) (r : PortRef),
     (getPort s r).st = .ready →
     standinOf (getPort s r).txUse = 3 →
     exec (.standinReq r) s = .next (leaveReady s r .dark .clockLane)) ∧
  (∀ (s : State) (r : PortRef) (lanes : BitVec 8) (m : Nat),
     (getPort s r).st = .ready →
     (getPort s r).clockLost = true →
     modeAt (currentRate (getPort s r)) (usableLanes lanes (getPort s r).rxUse (standinOf (getPort s r).rxUse)) (getPort s r).minMode = some m →
     exec (.standinDeskewed r lanes) s = .next (modPort s r (fun p =>
       { p with clockLost := false, excluded := false, clkRx := standinOf (getPort s r).rxUse, rxUse := lanes &&& p.rxUse,
                modeRx := some m, ctlDue := p.ctlDue ++ [3] }))) ∧
  (∀ (s : State) (r : PortRef) (f : Flit) (lanes : BitVec 8) (m : Nat),
     (getPort s r).st = .ready →
     (getPort s r).standin = true →
     modeAt (currentRate (getPort s r)) (usableLanes lanes (getPort s r).txUse (getPort s r).clkTx) (getPort s r).minMode = some m →
     exec (.alignDone r f lanes) s = .next (modPort (modPort s r (fun p => { p with ctlIn := p.ctlIn.erase f })) r (fun p =>
       { p with standin := false, txUse := lanes &&& p.txUse, modeTx := some m, txCount := List.replicate 8 0,
                retGot := (List.range 8).map (fun v => lget p.peerCred v - countAt f 48 v) }))) ∧
  (∀ (s : State) (r : PortRef) (f : Flit) (lanes : BitVec 8),
     (getPort s r).st = .ready →
     (getPort s r).standin = true →
     modeAt (currentRate (getPort s r)) (usableLanes lanes (getPort s r).txUse (getPort s r).clkTx) (getPort s r).minMode = none →
     exec (.alignDone r f lanes) s = .next (failTo (modPort s r (fun p => { p with ctlIn := p.ctlIn.erase f })) r .down .minMode)) ∧
  (∀ (s : State) (r : PortRef),
     (getPort s r).st = .ready →
     8 * 8192 ≤ 7 * (s.now - (getPort s r).ctlAt) →
     exec (.cueStampTimer r) s = .next (modPort s r (fun p => { p with ctlDue := p.ctlDue ++ [0] }))) ∧
  (∀ (s : State) (d : Side) (i : Nat),
     (getCue s d).parent = some i →
     (match d with
         | .itv => itvPort s i
         | .blg => blgPort s i).echoAt + 100000 ≤ s.now →
     exec (.parentTimeout d) s = .next (loseParent s d)) ∧
  (∀ (s : State) (t : Nat),
     s.itv.cue.firstReady = some t →
     chartedRoot s.itv = true →
     s.itv.cue.root = false →
     t + 20000 ≤ s.now →
     s.itv.ports.toList.any (fun p => p.st == .ready && p.peerLocked && p.peerLevel.isSome) = false →
     exec .rootClaim s = .next (setCueState
       { s with itv.cue.root := true, itv.cue.level := some 0, itv.cue.heldLevel := some 0, itv.cue.parent := none,
                itv.cue.slew := 0, itv.cue.hold := 0 } .itv .locked))

/-- LOAD, STORE, ATOMIC, RMEM and BULK at the pool home: what is read, written and answered. A request admitted to a carve reads or writes exactly the bytes it names. A LOAD, new or a duplicate, is answered with the bytes read. A new STORE, BULK or RMEM writes and is answered OK; a duplicate writes nothing and is answered anew. A new ATOMIC answers the old value, writes what R263 gives but for a CAS that does not match, and joins the ring; a duplicate is answered from the ring. -/
def Obligations.PoolHomePerformsRequestsOnce : Prop :=
  (∀ (s : State) (f : Flit) (fresh : Bool) (c : Carve) (d : Bytes),
     f.kind = Kind.load →
     f ∈ s.itv.dir.home →
     poolMeets (fromQueue s f) f fresh c →
     doorwayOf (arrived (fromQueue s f) .itv f).itv f.offset = none →
     poolRead (touch (arrived (fromQueue s f) .itv f) f.offset (accessLen f)).itv c.part f.offset (accessLen f) = .ok d →
     exec (.load .itv f .ok) s = .next (itvSend (touch (arrived (fromQueue s f) .itv f) f.offset (accessLen f)) (dataFor f St.ok d))) ∧
  (∀ (s : State) (f : Flit) (c : Carve) (x : Bytes),
     f.kind = Kind.store →
     f ∈ s.itv.dir.home →
     poolMeets (fromQueue s f) f true c →
     doorwayOf (arrived (fromQueue s f) .itv f).itv f.offset = none →
     (poolWrite (touch (arrived (fromQueue s f) .itv f) (storeBytes f).1 (storeBytes f).2.1.length).itv c.part (storeBytes f).1
       (storeBytes f).2.1 (storeBytes f).2.2).2 = .ok x →
     exec (.store .itv f .ok) s = .next (
       let u := touch (arrived (fromQueue s f) .itv f) (storeBytes f).1 (storeBytes f).2.1.length
       itvSend { u with itv := (poolWrite u.itv c.part (storeBytes f).1 (storeBytes f).2.1 (storeBytes f).2.2).1 } (doneFor f St.ok))) ∧
  (∀ (s : State) (f : Flit) (c : Carve),
     f.kind = Kind.store →
     f ∈ s.itv.dir.home →
     poolMeets (fromQueue s f) f false c →
     doorwayOf (arrived (fromQueue s f) .itv f).itv f.offset = none →
     exec (.store .itv f .ok) s = .next (itvSend (arrived (fromQueue s f) .itv f)
       (doneFor f (if (curKey (poolKeysOf (arrived (fromQueue s f) .itv f).itv c.part)).isNone then St.nokey else St.ok)))) ∧
  (∀ (s : State) (f : Flit) (c : Carve) (d x : Bytes),
     f.kind = Kind.atomic →
     f ∈ s.itv.dir.home →
     poolMeets (fromQueue s f) f true c →
     doorwayOf (arrived (fromQueue s f) .itv f).itv f.offset = none →
     atomicOk f.aop (accessLen f) f.offset = true →
     poolRead (touch (arrived (fromQueue s f) .itv f) f.offset (accessLen f)).itv c.part f.offset (accessLen f) = .ok d →
     (f.aop ≠ 0x02 ∨ leNat d = f.opB % 2 ^ (8 * accessLen f)) →
     (poolWrite (touch (arrived (fromQueue s f) .itv f) f.offset (accessLen f)).itv c.part f.offset
       (leBytes (accessLen f) (atomicNew f.aop (accessLen f) (leNat d) (f.opA % 2 ^ (8 * accessLen f)) (f.opB % 2 ^ (8 * accessLen f))))
       (fullMask (accessLen f))).2 = .ok x →
     exec (.atomic .itv f .ok) s = .next (
       let u := touch (arrived (fromQueue s f) .itv f) f.offset (accessLen f)
       let new := atomicNew f.aop (accessLen f) (leNat d) (f.opA % 2 ^ (8 * accessLen f)) (f.opB % 2 ^ (8 * accessLen f))
       let v := (poolWrite u.itv c.part f.offset (leBytes (accessLen f) new) (fullMask (accessLen f))).1
       itvSend (keepAtomic { u with itv := v } .itv f (pad 16 d) St.ok) (oldFor f St.ok (pad 16 d)))) ∧
  (∀ (s : State) (f : Flit) (c : Carve) (d : Bytes),
     f.kind = Kind.atomic →
     f ∈ s.itv.dir.home →
     poolMeets (fromQueue s f) f true c →
     doorwayOf (arrived (fromQueue s f) .itv f).itv f.offset = none →
     atomicOk f.aop (accessLen f) f.offset = true →
     poolRead (touch (arrived (fromQueue s f) .itv f) f.offset (accessLen f)).itv c.part f.offset (accessLen f) = .ok d →
     f.aop = 0x02 →
     leNat d ≠ f.opB % 2 ^ (8 * accessLen f) →
     exec (.atomic .itv f .ok) s = .next (
       let u := touch (arrived (fromQueue s f) .itv f) f.offset (accessLen f)
       itvSend (keepAtomic u .itv f (pad 16 d) St.ok) (oldFor f St.ok (pad 16 d)))) ∧
  (∀ (s : State) (f : Flit) (c : Carve) (d x : Bytes),
     f.kind = Kind.rmem →
     f ∈ s.itv.dir.home →
     poolMeets (fromQueue s f) f true c →
     doorwayOf (arrived (fromQueue s f) .itv f).itv f.offset = none →
     rmemOk f = true →
     poolRead (touch (arrived (fromQueue s f) .itv f) f.offset (accessLen f)).itv c.part f.offset (accessLen f) = .ok d →
     (poolWrite (touch (arrived (fromQueue s f) .itv f) f.offset (accessLen f)).itv c.part f.offset (rmemNew f d) (fullMask (accessLen f))).2 = .ok x →
     exec (.rmem .itv f .ok) s = .next (
       let u := touch (arrived (fromQueue s f) .itv f) f.offset (accessLen f)
       itvSend { u with itv := (poolWrite u.itv c.part f.offset (rmemNew f d) (fullMask (accessLen f))).1 } (doneFor f St.ok))) ∧
  (∀ (s : State) (f : Flit) (c : Carve) (x : Bytes),
     f.kind = Kind.bulk →
     f ∈ s.itv.core.inbox →
     poolMeets (takeInbox s .itv f) f true c →
     doorwayOf (arrived (takeInbox s .itv f) .itv f).itv f.offset = none →
     (poolWrite (touch (arrived (takeInbox s .itv f) .itv f) (storeBytes f).1 (storeBytes f).2.1.length).itv c.part (storeBytes f).1
       (storeBytes f).2.1 (storeBytes f).2.2).2 = .ok x →
     exec (.bulk .itv f .ok) s = .next (
       let u := touch (arrived (takeInbox s .itv f) .itv f) (storeBytes f).1 (storeBytes f).2.1.length
       itvSend { u with itv := (poolWrite u.itv c.part (storeBytes f).1 (storeBytes f).2.1 (storeBytes f).2.2).1 } (doneFor f St.ok))) ∧
  (∀ (s : State) (f : Flit) (fresh : Bool),
     f.kind = Kind.bulkMsg →
     f ∈ s.itv.core.inbox →
     (arriveFlow (takeInbox s .itv f) .itv f).2 = some fresh →
     (arrived (takeInbox s .itv f) .itv f).itv.sec.struck = 0 →
     exec (.bulkMsg .itv f) s = .next (itvSend (arrived (takeInbox s .itv f) .itv f) (doneFor f St.badarg))) ∧
  (∀ (s : State) (f : Flit) (fresh : Bool),
     f.kind = Kind.pmsg →
     f ∈ s.itv.core.inbox →
     (arriveFlow (takeInbox s .itv f) .itv f).2 = some fresh →
     (arrived (takeInbox s .itv f) .itv f).itv.sec.struck = 0 →
     exec (.pmsg .itv f) s = .next (itvSend (arrived (takeInbox s .itv f) .itv f) (doneFor f St.badarg)))

/-- ALLOC, HAND_ON, FREE and the refill of a free cache: the buffers and answers they leave. A doorway request of a wardrobe does its act once, joins the ring of its sender and answers the result word: ALLOC gives a buffer of the pool its size names to its caller, or says EMPTY; HAND_ON gives a buffer its owner holds to another seat and context; FREE returns it; a buffer that is another's is counted and left. A refill turns a pool's free cache. -/
def Obligations.WardrobeDoorwaysAllocateHandOnAndFree : Prop :=
  (∀ (s : State) (f : Flit) (c : Carve) (k : Nat) (w : Wardrobe) (p i : Nat),
     f.kind = Kind.atomic →
     f ∈ s.itv.dir.home →
     doorwayOf s.itv f.offset = some k →
     kget s.itv.wards k = some w →
     doorAt w f = some .alloc →
     poolMeets (fromQueue s f) f true c →
     doorwayOf (arrived (fromQueue s f) .itv f).itv f.offset = some k →
     kget (arrived (fromQueue s f) .itv f).itv.wards k = some w →
     f.opA % 2 ^ 64 / 2 ^ 32 = 0 →
     1 ≤ f.opA % 2 ^ 32 ∧ f.opA % 2 ^ 32 ≤ 4194304 →
     (wardAlloc (touch (arrived (fromQueue s f) .itv f) f.offset (accessLen f)) k (f.opA % 2 ^ 32) (f.src, f.ctx)).2 = some (p, i) →
     exec (.alloc f) s = .next (
       let t := (wardAlloc (touch (arrived (fromQueue s f) .itv f) f.offset (accessLen f)) k (f.opA % 2 ^ 32) (f.src, f.ctx)).1
       let r := doorWord 0 p (bufOffset w p i)
       itvSend (keepAtomic t .itv f r St.ok) (oldFor f St.ok r))) ∧
  (∀ (s : State) (f : Flit) (c : Carve) (k : Nat) (w : Wardrobe),
     f.kind = Kind.atomic →
     f ∈ s.itv.dir.home →
     doorwayOf s.itv f.offset = some k →
     kget s.itv.wards k = some w →
     doorAt w f = some .alloc →
     poolMeets (fromQueue s f) f true c →
     doorwayOf (arrived (fromQueue s f) .itv f).itv f.offset = some k →
     kget (arrived (fromQueue s f) .itv f).itv.wards k = some w →
     f.opA % 2 ^ 64 / 2 ^ 32 = 0 →
     1 ≤ f.opA % 2 ^ 32 ∧ f.opA % 2 ^ 32 ≤ 4194304 →
     (wardAlloc (touch (arrived (fromQueue s f) .itv f) f.offset (accessLen f)) k (f.opA % 2 ^ 32) (f.src, f.ctx)).2 = none →
     exec (.alloc f) s = .next (
       let t := (wardAlloc (touch (arrived (fromQueue s f) .itv f) f.offset (accessLen f)) k (f.opA % 2 ^ 32) (f.src, f.ctx)).1
       let r := doorWord 1 (poolFor (f.opA % 2 ^ 32)) 0
       itvSend (keepAtomic t .itv f r St.ok) (oldFor f St.ok r))) ∧
  (∀ (s : State) (f : Flit) (c : Carve) (k : Nat) (w : Wardrobe) (p i : Nat),
     f.kind = Kind.atomic →
     f ∈ s.itv.dir.home →
     doorwayOf s.itv f.offset = some k →
     kget s.itv.wards k = some w →
     doorAt w f = some .handOn →
     poolMeets (fromQueue s f) f true c →
     doorwayOf (arrived (fromQueue s f) .itv f).itv f.offset = some k →
     kget (arrived (fromQueue s f) .itv f).itv.wards k = some w →
     f.opA % 2 ^ 64 / 2 ^ 48 = 0 ∧ f.opA / 2 ^ 96 = 0 →
     ownerSeat (touch (arrived (fromQueue s f) .itv f) f.offset (accessLen f)).itv (BitVec.ofNat 16 (f.opA / 2 ^ 64)) = true →
     (touch (arrived (fromQueue s f) .itv f) f.offset (accessLen f)).itv.sec.parts = 0 →
     doorBuffer w f = some (p, i, true) →
     exec (.handOn f) s = .next (
       let u := touch (arrived (fromQueue s f) .itv f) f.offset (accessLen f)
       let t := { u with itv.wards := kset u.itv.wards k
                           { w with owners := kset w.owners (ownKey p i) (BitVec.ofNat 16 (f.opA / 2 ^ 64), BitVec.ofNat 16 (f.opA / 2 ^ 80)) } }
       let r := doorWord 0 p (bufOffset w p i)
       itvSend (keepAtomic t .itv f r St.ok) (oldFor f St.ok r))) ∧
  (∀ (s : State) (f : Flit) (c : Carve) (k : Nat) (w : Wardrobe) (p i : Nat),
     f.kind = Kind.atomic →
     f ∈ s.itv.dir.home →
     doorwayOf s.itv f.offset = some k →
     kget s.itv.wards k = some w →
     doorAt w f = some .free →
     poolMeets (fromQueue s f) f true c →
     doorwayOf (arrived (fromQueue s f) .itv f).itv f.offset = some k →
     kget (arrived (fromQueue s f) .itv f).itv.wards k = some w →
     f.opA % 2 ^ 64 / 2 ^ 48 = 0 →
     doorBuffer w f = some (p, i, true) →
     exec (.free f) s = .next (
       let t := wardFree (touch (arrived (fromQueue s f) .itv f) f.offset (accessLen f)) k p i
       let r := doorWord 0 p (bufOffset w p i)
       itvSend (keepAtomic t .itv f r St.ok) (oldFor f St.ok r))) ∧
  (∀ (s : State) (f : Flit) (c : Carve) (k : Nat) (w : Wardrobe) (p i : Nat),
     f.kind = Kind.atomic →
     f ∈ s.itv.dir.home →
     doorwayOf s.itv f.offset = some k →
     kget s.itv.wards k = some w →
     doorAt w f = some .free →
     poolMeets (fromQueue s f) f true c →
     doorwayOf (arrived (fromQueue s f) .itv f).itv f.offset = some k →
     kget (arrived (fromQueue s f) .itv f).itv.wards k = some w →
     f.opA % 2 ^ 64 / 2 ^ 48 = 0 →
     doorBuffer w f = some (p, i, false) →
     exec (.free f) s = .next (
       let t := bumpWard (touch (arrived (fromQueue s f) .itv f) f.offset (accessLen f)) k p 2
       let r := doorWord 2 p (bufOffset w p i)
       itvSend (keepAtomic t .itv f r St.ok) (oldFor f St.ok r))) ∧
  (∀ (s : State) (w : Fin 17) (p : Fin 8) (x : Wardrobe),
     kget s.itv.wards w.val = some x →
     exec (.freeCacheRefill w p) s = .next { s with itv.wards := kset s.itv.wards w.val (cacheTurn x p.val) })

/-- The directory's table: what a request makes of a line's entry, and which goes on. A full LOAD of a line in INVALID or SHARED adds its seat to the sharers and passes; a LOAD of a line that another seat owns is forwarded to the owner and not passed; a STORE leaves the sharers that did not write, to be invalidated, and passes; a CLAIM of an unowned line makes its seat the owner and is answered; a line whose domain is down answers DOMAIN_DOWN; a line in RECALL holds the request. -/
def Obligations.DirectoryFollowsItsTable : Prop :=
  (∀ (s : State) (f : Flit) (t : Nat),
     domainHit s f = false →
     ((dirEntry s (flitLine f)).getD {}).st = .shared →
     f.kind = Kind.load →
     f.sizeCode = 4 →
     (dirEntry s (flitLine f)).isSome = true ∨ (waysOf s (flitLine f)).length < 256 →
     dirAct s f t = (putEntry s (flitLine f) { ((dirEntry s (flitLine f)).getD {}) with
       sharers := setBit ((dirEntry s (flitLine f)).getD {}).sharers (nodeSeat f.src) true }, true)) ∧
  (∀ (s : State) (f : Flit) (t : Nat) (e : DirEntry) (o : Nat),
     domainHit s f = false →
     dirEntry s (flitLine f) = some e →
     e.st = .owned →
     e.owner = some o →
     f.kind = Kind.load →
     f.sizeCode = 4 →
     o ≠ nodeSeat f.src →
     dirAct s f t = (sendFwd (putEntry s (flitLine f) { e with sharers := setBit e.sharers (nodeSeat f.src) true }) f o, false)) ∧
  (∀ (s : State) (f : Flit) (t : Nat),
     domainHit s f = false →
     ((dirEntry s (flitLine f)).getD {}).st = .shared →
     f.kind = Kind.store →
     dirAct s f t = (
       let e := (dirEntry s (flitLine f)).getD {}
       let S := nodeSeat f.src
       (putEntry (openGroup s S (flitLine f) ((onesOf e.sharers).filter (fun x => x != S))) (flitLine f)
         { e with sharers := if e.sharers.getLsbD S then BitVec.ofNat 72 (2 ^ S) else 0 }, true))) ∧
  (∀ (s : State) (f : Flit) (t : Nat),
     domainHit s f = false →
     ((dirEntry s (flitLine f)).getD {}).st = .shared →
     ((dirEntry s (flitLine f)).getD {}).owner = none →
     isClaim f = true →
     claimStatus s f = St.ok →
     (dirEntry s (flitLine f)).isSome = true ∨ (waysOf s (flitLine f)).length < 256 →
     dirAct s f t = (answer (putEntry s (flitLine f) { ((dirEntry s (flitLine f)).getD {}) with
       st := .owned, owner := some (nodeSeat f.src), sharers := setBit ((dirEntry s (flitLine f)).getD {}).sharers (nodeSeat f.src) false }) f St.ok, false)) ∧
  (∀ (s : State) (f : Flit) (t : Nat),
     domainHit s f = true →
     dirAct s f t = (answer s f St.domainDown, false)) ∧
  (∀ (s : State) (f : Flit) (t : Nat) (e : DirEntry),
     domainHit s f = false →
     dirEntry s (flitLine f) = some e →
     e.st = .recall →
     f.kind ≠ Kind.store →
     dirAct s f t = (holdIn s (flitLine f) e f t, false))

/-- DIR_REQUEST, FENCE, INV_ACK, INV_RESEND, INV_ORPHAN, DIR_LATE, DOMAIN_DOWN_NOTICE: what each leaves. A request delivered here for the pool meets the directory and, where that passes it, joins the home's queue. A FENCE is answered OK where its seat's groups are closed, and waits for them otherwise. INV_ACK closes its INV; another is counted. An INV unanswered is sent again to RETRY_MAX, then its seat is dropped as sharer, or is dead as owner. A request held 200 µs is dropped and counted. A domain goes down once. -/
def Obligations.DirectoryRowsActOnRequestsFencesAndInvs : Prop :=
  (∀ (s : State) (f : Flit),
     landedAt s f = none →
     toOwnPool s.itv f = true →
     (f.kind = Kind.load ∨ f.kind = Kind.store ∨ f.kind = Kind.atomic ∨ f.kind = Kind.rmem) →
     f ∈ s.itv.core.inbox →
     poolTracked (takeInbox s .itv f).itv f = true →
     answeredOf (takeInbox s .itv f) f = none →
     carriedHere (takeInbox s .itv f) f = false →
     (dirAct (takeInbox s .itv f) f s.now).2 = true →
     exec (.dirRequest f) s = .next (passOn (tryWays (dirAct (takeInbox s .itv f) f s.now).1 (flitLine f)) f)) ∧
  (∀ (s : State) (f : Flit),
     landedAt s f = none →
     toOwnPool s.itv f = true →
     (f.kind = Kind.load ∨ f.kind = Kind.store ∨ f.kind = Kind.atomic ∨ f.kind = Kind.rmem) →
     f ∈ s.itv.core.inbox →
     poolTracked (takeInbox s .itv f).itv f = false →
     domainHit (takeInbox s .itv f) f = false →
     exec (.dirRequest f) s = .next (passOn (takeInbox s .itv f) f)) ∧
  (∀ (s : State) (f : Flit) (fresh : Bool),
     f.kind = Kind.fence →
     f ∈ s.itv.core.inbox →
     s.itv.sec.struck = 0 →
     (arriveFlow (takeInbox s .itv f) .itv f).2 = some fresh →
     domainHit (bumpCoh (arrived (takeInbox s .itv f) .itv f) .fences) f = false →
     (bumpCoh (arrived (takeInbox s .itv f) .itv f) .fences).itv.dir.groups.filter (fun g => g.seat == nodeSeat f.src) = [] →
     exec (.fence f) s = .next (itvSend (bumpCoh (arrived (takeInbox s .itv f) .itv f) .fences) (doneFor f St.ok))) ∧
  (∀ (s : State) (f : Flit) (fresh : Bool) (g : InvGroup) (gs : List InvGroup),
     f.kind = Kind.fence →
     f ∈ s.itv.core.inbox →
     s.itv.sec.struck = 0 →
     (arriveFlow (takeInbox s .itv f) .itv f).2 = some fresh →
     domainHit (bumpCoh (arrived (takeInbox s .itv f) .itv f) .fences) f = false →
     (bumpCoh (arrived (takeInbox s .itv f) .itv f) .fences).itv.dir.groups.filter (fun g => g.seat == nodeSeat f.src) = g :: gs →
     exec (.fence f) s = .next (modDir (bumpCoh (arrived (takeInbox s .itv f) .itv f) .fences) (fun d =>
       { d with fences := d.fences.filter (fun x => !sameReq x.1 f) ++ [(f, (g :: gs).map (·.id))] }))) ∧
  (∀ (s : State) (f : Flit) (v : InvOut),
     f.kind = Kind.invAck →
     f ∈ s.itv.core.inbox →
     s.itv.dir.invs.find? (fun v => v.seat == nodeSeat f.src && v.seq == f.seq.toNat && lineNo v.line == f.offset / 128) = some v →
     exec (.invAck f) s = .next (closeInv (takeInbox s .itv f) v)) ∧
  (∀ (s : State) (f : Flit),
     f.kind = Kind.invAck →
     f ∈ s.itv.core.inbox →
     s.itv.dir.invs.find? (fun v => v.seat == nodeSeat f.src && v.seq == f.seq.toNat && lineNo v.line == f.offset / 128) = none →
     exec (.invAck f) s = .next (bumpCoh (takeInbox s .itv f) .dupAck)) ∧
  (∀ (s : State) (seat : Fin 72) (q : Nat) (v : InvOut),
     findInv s seat q = some v →
     v.lastSend + itvE2E s.itv ≤ s.now →
     v.sends ≤ itvRetryMax s.itv →
     exec (.invResend seat q) s = .next (
       let t := modDir s (fun d => { d with invs := d.invs.map (fun x =>
         if x.seat == v.seat && x.seq == v.seq then { x with sends := x.sends + 1, lastSend := s.now } else x) })
       itvSend t { dst := seatNode s.itv v.seat, src := poolNode s.itv, kind := Kind.inv, seq := BitVec.ofNat 20 v.seq,
                   payload := payloadOf [(0, leBytes 6 (lineNo v.line * 128))] })) ∧
  (∀ (s : State) (seat : Fin 72) (q : Nat) (v : InvOut) (e : DirEntry),
     findInv s seat q = some v →
     v.lastSend + itvE2E s.itv ≤ s.now →
     itvRetryMax s.itv < v.sends →
     v.toOwner = false →
     dirEntry s v.line = some e →
     exec (.invOrphan seat q) s = .next (closeInv (bumpCoh (putEntry s v.line { e with sharers := setBit e.sharers v.seat false }) .invOrphan) v)) ∧
  (∀ (s : State) (seat : Fin 72) (q : Nat) (v : InvOut),
     findInv s seat q = some v →
     v.lastSend + itvE2E s.itv ≤ s.now →
     itvRetryMax s.itv < v.sends →
     v.toOwner = true →
     s.itv.dir.down.getLsbD (partOfSeat s v.seat) = false →
     exec (.invOrphan seat q) s = .next (sendNotices (domainDown s (partOfSeat s v.seat)) (partOfSeat s v.seat))) ∧
  (∀ (s : State) (line i : Nat) (e : DirEntry) (f : Flit) (t : Nat),
     dirEntry s line = some e →
     e.held[i]? = some (f, t) →
     t + 200000 ≤ s.now →
     exec (.dirLate line i) s = .next (bumpCoh (modDir s (fun d =>
       { d with entries := kset d.entries line { e with held := e.held.eraseIdx i } })) .dirLate)) ∧
  (∀ (s : State) (p : Fin 16),
     s.itv.dir.down.getLsbD p.val = false →
     exec (.domainDownNotice p) s = .next (
       let x := takeHeld (bumpCoh (modDir s (fun d => { d with down := setBit d.down p.val true })) .domainEvents) p.val
       noteState s (raiseEvent (x.2.foldl (fun s f => answer s f St.domainDown) (freePart x.1 p.val)) Ev.domain))) ∧
  (∀ (s : State) (p : Fin 16),
     s.itv.dir.down.getLsbD p.val = true →
     exec (.domainDownNotice p) s = .next s)

/-- Requests to a seat's memory: what goes to the accelerator. A request delivered to Belug, taken up by its flow and admitted, is in service and goes to the accelerator's memory: a LOAD as a read, a STORE as a write of the bytes its mask names, an ATOMIC as an atomic, an RMEM as a read of its line, which it then holds, a BULK and a BULK_MSG as a write. A PMSG goes to the accelerator on its channel and is answered OK at once. -/
def Obligations.SeatHomePerformsRequests : Prop :=
  (∀ (s : State) (f : Flit) (t p : Nat) (rest : List (Flit × Nat × Nat)) (fresh : Bool) (hw : HomeHw),
     f.kind = Kind.load →
     seatGets s f t p rest fresh →
     seatAdmit (arrived { s with blg.inbox := rest } .blg f).blg f = St.ok →
     lineBusy (beginServing (arrived { s with blg.inbox := rest } .blg f) .blg f) f = false →
     exec (.load .blg f hw) s = .next (settle
       (lmemRead (beginServing (arrived { s with blg.inbox := rest } .blg f) .blg f) f.offset f.sizeCode (.serve f p 0)))) ∧
  (∀ (s : State) (f : Flit) (t p : Nat) (rest : List (Flit × Nat × Nat)) (hw : HomeHw),
     f.kind = Kind.store →
     seatGets s f t p rest true →
     seatAdmit (arrived { s with blg.inbox := rest } .blg f).blg f = St.ok →
     lineBusy (beginServing (arrived { s with blg.inbox := rest } .blg f) .blg f) f = false →
     exec (.store .blg f hw) s = .next (settle
       (lmemWriteLine (beginServing (arrived { s with blg.inbox := rest } .blg f) .blg f) (f.offset / 128)
         (zeros (f.offset % 128) ++ (storeBytes f).2.1) ((storeBytes f).2.2 * 2 ^ (f.offset % 128)) (.serve f p 0)))) ∧
  (∀ (s : State) (f : Flit) (t p : Nat) (rest : List (Flit × Nat × Nat)) (hw : HomeHw),
     f.kind = Kind.atomic →
     seatGets s f t p rest true →
     f.aop ≠ aopClaim →
     seatAdmit (arrived { s with blg.inbox := rest } .blg f).blg f = St.ok →
     lineBusy (beginServing (arrived { s with blg.inbox := rest } .blg f) .blg f) f = false →
     exec (.atomic .blg f hw) s = .next (settle
       (lmemAtomic (beginServing (arrived { s with blg.inbox := rest } .blg f) .blg f) f.offset (BitVec.ofNat 8 f.aop)
         (BitVec.ofNat 8 f.sizeCode) 2 f.opA f.opB (.serve f p 0)))) ∧
  (∀ (s : State) (f : Flit) (t p : Nat) (rest : List (Flit × Nat × Nat)),
     f.kind = Kind.rmem →
     seatGets s f t p rest true →
     seatAdmit (arrived { s with blg.inbox := rest } .blg f).blg f = St.ok →
     lineBusy (beginServing (arrived { s with blg.inbox := rest } .blg f) .blg f) f = false →
     exec (.rmem .blg f .ok) s = .next (settle (
       let u := beginServing (arrived { s with blg.inbox := rest } .blg f) .blg f
       lmemReadLine { u with blg.rmemBusy := u.blg.rmemBusy ++ [f.offset / 128] } f.offset (.rmemRead f p)))) ∧
  (∀ (s : State) (f : Flit) (t p : Nat) (rest : List (Flit × Nat × Nat)) (hw : HomeHw),
     f.kind = Kind.bulk →
     seatGets s f t p rest true →
     seatAdmit (arrived { s with blg.inbox := rest } .blg f).blg f = St.ok →
     lineBusy (beginServing (arrived { s with blg.inbox := rest } .blg f) .blg f) f = false →
     exec (.bulk .blg f hw) s = .next (settle
       (lmemWrite (beginServing (arrived { s with blg.inbox := rest } .blg f) .blg f) f.offset (slice f.payload 16 f.len) (.serve f p 0)))) ∧
  (∀ (s : State) (f : Flit) (t p : Nat) (rest : List (Flit × Nat × Nat)),
     f.kind = Kind.bulkMsg →
     seatGets s f t p rest true →
     rdvAdmit (arrived { s with blg.inbox := rest } .blg f).blg f = some St.ok →
     exec (.bulkMsg .blg f) s = .next (settle (
       let u := arrived { s with blg.inbox := rest } .blg f
       lmemWrite (beginServing u .blg f) (rdvBase u.blg (rdvOf f) + msgOffset f) (slice f.payload 16 f.len) (.serve f p 0)))) ∧
  (∀ (s : State) (f : Flit) (t p : Nat) (rest : List (Flit × Nat × Nat)) (fresh : Bool),
     f.kind = Kind.bulkMsg →
     seatGets s f t p rest fresh →
     rdvAdmit (arrived { s with blg.inbox := rest } .blg f).blg f = none →
     exec (.bulkMsg .blg f) s = .next (settle (unmark (bumpBC (arrived { s with blg.inbox := rest } .blg f) .rdvUnarmed) .blg f))) ∧
  (∀ (s : State) (f : Flit) (t p : Nat) (rest : List (Flit × Nat × Nat)) (fresh : Bool),
     f.kind = Kind.pmsg →
     seatGets s f t p rest fresh →
     1 ≤ f.len ∧ f.len ≤ 64 →
     exec (.pmsg .blg f) s = .next (settle (
       let u := arrived { s with blg.inbox := rest } .blg f
       blgSend (if fresh then pmsgIn u f else u) p (doneFor f St.ok))))

/-- DATA, DONE and the timeouts at the source of a request. A reply whose request is outstanding takes it out of its flow and what it was for completes with the reply's status; one whose request is not outstanding is counted DUP_REPLY and has no other effect. A request not answered in E2E_TIMEOUT is sent again up to RETRY_MAX times and then completes TIMEOUT. One that never found its port ends TIMEOUT, and when a port becomes usable every waiting request tries again. A reply held 200 us is not sent. -/
def Obligations.RepliesAndTimeoutsEndRequests : Prop :=
  (∀ (s : State) (d : Side) (f : Flit) (o : Outst),
     findOutst s d (f.src.toNat + 65536 * b2n f.sk) f.seq.toNat = some o →
     o.waiting = false →
     o.sealed_ = false →
     acceptReply s d f = (
       let k := f.src.toNat + 65536 * b2n f.sk
       (drainQueue (modOut (dropOutst s d k o.seq) d k (fun fl => windowAfter s.now fl f.cm)) d k 4096, some o))) ∧
  (∀ (s : State) (f : Flit) (o : Outst),
     f.kind = Kind.data →
     f ∈ s.itv.core.inbox →
     (acceptReply (takeInbox s .itv f) .itv f).2 = some o →
     exec (.data .itv f) s = .next (itvComplete (acceptReply (takeInbox s .itv f) .itv f).1 o.purpose f.status (some f))) ∧
  (∀ (s : State) (f : Flit) (o : Outst),
     f.kind = Kind.data →
     s.blg.inbox.any (fun x => x.1 == f) = true →
     (acceptReply (takeInbox s .blg f) .blg f).2 = some o →
     exec (.data .blg f) s = .next (settle (blgComplete (acceptReply (takeInbox s .blg f) .blg f).1 o f.status (some f)))) ∧
  (∀ (s : State) (f : Flit) (o : Outst),
     f.kind = Kind.done →
     f ∈ s.itv.core.inbox →
     (acceptReply (takeInbox s .itv f) .itv f).2 = some o →
     exec (.done .itv f) s = .next (itvComplete (acceptReply (takeInbox s .itv f) .itv f).1 o.purpose f.status (some f))) ∧
  (∀ (s : State) (f : Flit) (o : Outst),
     f.kind = Kind.done →
     s.blg.inbox.any (fun x => x.1 == f) = true →
     (acceptReply (takeInbox s .blg f) .blg f).2 = some o →
     exec (.done .blg f) s = .next (settle (blgComplete (acceptReply (takeInbox s .blg f) .blg f).1 o f.status (some f)))) ∧
  (∀ (s : State) (f : Flit),
     f.kind = Kind.done →
     f ∈ s.itv.core.inbox →
     findOutst (takeInbox s .itv f) .itv (f.src.toNat + 65536 * b2n f.sk) f.seq.toNat = none →
     exec (.done .itv f) s = .next (bumpDel (takeInbox s .itv f) .dupReply)) ∧
  (∀ (s : State) (node : BitVec 16) (seq : BitVec 20) (o : Outst),
     findOutst s .itv node.toNat seq.toNat = some o →
     o.waiting = false →
     o.lastSend + itvE2E s.itv ≤ s.now →
     o.sends ≤ itvRetryMax s.itv →
     exec (.resendTimeout .itv node seq) s = .next (sendOut (bumpDel s .resend) .itv node.toNat o 0)) ∧
  (∀ (s : State) (node : BitVec 16) (seq : BitVec 20) (o : Outst),
     findOutst s .itv node.toNat seq.toNat = some o →
     o.waiting = false →
     o.lastSend + itvE2E s.itv ≤ s.now →
     itvRetryMax s.itv < o.sends →
     exec (.resendTimeout .itv node seq) s = .next (
       itvComplete (drainQueue (bumpDel (dropOutst s .itv node.toNat seq.toNat) .timeout) .itv node.toNat 4096) o.purpose St.timeout none)) ∧
  (∀ (s : State) (node : BitVec 16) (seq : BitVec 20) (o : Outst),
     findOutst s .blg node.toNat seq.toNat = some o →
     o.waiting = false →
     o.lastSend + blgE2E s.blg ≤ s.now →
     s.blg.retryMax.toNat < o.sends →
     exec (.resendTimeout .blg node seq) s = .next (settle (blgComplete
       (drainQueue (bumpBC (dropOutst s .blg node.toNat seq.toNat) .timeout) .blg node.toNat 4096) o St.timeout none))) ∧
  (∀ (s : State) (node : BitVec 16) (seq : BitVec 20) (o : Outst),
     findOutst s .blg node.toNat seq.toNat = some o →
     o.waiting = true →
     s.blg.startWait = false →
     o.born + (s.blg.retryMax.toNat + 1) * blgE2E s.blg ≤ s.now →
     exec (.homeWaitTimeout node seq) s = .next (settle (blgComplete
       (drainQueue (bumpBC (dropOutst s .blg node.toNat seq.toNat) .timeout) .blg node.toNat 4096) o St.timeout none))) ∧
  (∀ (s : State) (node : BitVec 16) (seq : BitVec 20) (l : Landed) (rest : List Landed),
     takeFirst (fun (l : Landed) => l.own && lateReply s node seq l.flit l.at_) s.itv.core.internal = some (l, rest) →
     exec (.serviceLate .itv node seq) s = .next (bumpDel { s with itv.core.internal := rest } .serviceLate)) ∧
  (∀ (s : State) (node : BitVec 16) (seq : BitVec 20),
     (kgetD s.blg.inflows node.toNat {}).serving.any (fun x => x.1 == seq.toNat && decide (x.2 + 200001 ≤ s.now)) = true →
     exec (.serviceLate .blg node seq) s = .next (setInflows s .blg (kset s.blg.inflows node.toNat {
       kgetD s.blg.inflows node.toNat {} with
       serving := (kgetD s.blg.inflows node.toNat {}).serving.filter (fun x => x.1 != seq.toNat) }))) ∧
  (∀ (s : State) (plane : Fin 24),
     (s.blg.ports.get plane).st = .ready →
     (s.blg.ports.get plane).excluded = false →
     exec (.homeUsable plane) s = .next (s.blg.outflows.foldl (fun s e =>
       (e.2.outst.filter (·.waiting)).foldl (fun s o => trySend s .blg e.1 o.seq) s) s))

/-- INV and FWD at a seat. An INV drops every far-cache copy of its line and spoils its fills. Where the seat owns the line it is published and the INV answered when that is done; else INV_ACK goes at once with its SEQ and OFFSET. A FWD is answered with DATA straight to the reader where the line is whole, waits where the line is being filled, and is else counted FWD_STALE. -/
def Obligations.InvsAndFwdsMeetTheCachesOfASeat : Prop :=
  (∀ (s : State) (f : Flit),
     f.kind = Kind.inv →
     s.blg.inbox.any (fun x => x.1 == f) = true →
     kget (takeInbox s .blg f).blg.oc (f.offset / 128) = none →
     exec (.inv f) s = .next (settle (
       let u := takeInbox s .blg f
       invAck (spoilFills { u with blg.far := u.blg.far.filter (fun e => e.1 % 2 ^ 41 != f.offset / 128) }
         (fun k => k % 2 ^ 41 == f.offset / 128)) f))) ∧
  (∀ (s : State) (f : Flit) (e : OcLine),
     f.kind = Kind.inv →
     s.blg.inbox.any (fun x => x.1 == f) = true →
     kget (takeInbox s .blg f).blg.oc (f.offset / 128) = some e →
     e.st = .owned →
     exec (.inv f) s = .next (settle (
       let u := takeInbox s .blg f
       publish (modOc (spoilFills { u with blg.far := u.blg.far.filter (fun e => e.1 % 2 ^ 41 != f.offset / 128) }
         (fun k => k % 2 ^ 41 == f.offset / 128)) (f.offset / 128) (fun e => { e with invs := e.invs ++ [f] })) (f.offset / 128)))) ∧
  (∀ (s : State) (f : Flit) (e : OcLine),
     f.kind = Kind.fwd →
     s.blg.inbox.any (fun x => x.1 == f) = true →
     kget (takeInbox s .blg f).blg.oc (f.offset / 128) = some e →
     e.filled = true →
     exec (.fwd f) s = .next (settle (fwdData (takeInbox s .blg f) f e.node e.data))) ∧
  (∀ (s : State) (f : Flit) (e : OcLine),
     f.kind = Kind.fwd →
     s.blg.inbox.any (fun x => x.1 == f) = true →
     kget (takeInbox s .blg f).blg.oc (f.offset / 128) = some e →
     e.filled = false →
     (e.st = .claiming ∨ e.fillOut = true) →
     exec (.fwd f) s = .next (settle (modOc (takeInbox s .blg f) (f.offset / 128) (fun e => { e with fwds := e.fwds ++ [f] })))) ∧
  (∀ (s : State) (f : Flit) (e : OcLine),
     f.kind = Kind.fwd →
     s.blg.inbox.any (fun x => x.1 == f) = true →
     kget (takeInbox s .blg f).blg.oc (f.offset / 128) = some e →
     e.filled = false →
     e.st ≠ .claiming →
     e.fillOut = false →
     exec (.fwd f) s = .next (settle (bumpBC (takeInbox s .blg f) .fwdStale)))

/-- LOAD, STORE, ATOMIC and RMEM of the apron. A well-formed operation whose access stays in one line and whose translation is at hand is performed: in the seat's own memory where the page is the seat's, else remotely. A load of a line the far cache holds is answered from it; an uncached one, a cached miss and a house atomic send a request; a store to an owned line is merged in it and answered OK; an atomic on an owned and filled line is performed in it. -/
def Obligations.ApronOperationsAreTranslatedAndPerformed : Prop :=
  (∀ (s : State) (ch : Fin 24) (m : ApronMsg) (phys : Word) (wire : BitVec 16) (nc : Bool) (u : State) (op : AOp),
     apronMeets s ch m 1 phys wire nc →
     u = (apronXlated s ch m).1 →
     op = { apronAOp s ch m with phys := phys, wire := wire, nocache := nc } →
     mayRun u op →
     opNode op = u.blg.node →
     exec (.apronLoad ch m) s = .next (settle (lmemRead u (opOff op) m.size.toNat (.apronLocal op)))) ∧
  (∀ (s : State) (ch : Fin 24) (m : ApronMsg) (phys : Word) (wire : BitVec 16) (u : State) (op : AOp) (c : FarLine),
     apronMeets s ch m 1 phys wire false →
     u = (apronXlated s ch m).1 →
     op = { apronAOp s ch m with phys := phys, wire := wire, nocache := false } →
     mayRun u op →
     opNode op ≠ u.blg.node →
     ocOf u op = none →
     kget u.blg.far (opLineId op) = some c →
     exec (.apronLoad ch m) s = .next (settle (endApron u op St.ok 0 (slice c.data (opPos op) (opSize op))))) ∧
  (∀ (s : State) (ch : Fin 24) (m : ApronMsg) (phys : Word) (wire : BitVec 16) (u : State) (op : AOp),
     apronMeets s ch m 1 phys wire true →
     u = (apronXlated s ch m).1 →
     op = { apronAOp s ch m with phys := phys, wire := wire, nocache := true } →
     mayRun u op →
     opNode op ≠ u.blg.node →
     ocOf u op = none →
     exec (.apronLoad ch m) s = .next (settle (sendLoad u (opNode op) op.wire (opOff op) m.size.toNat (.apron op)))) ∧
  (∀ (s : State) (ch : Fin 24) (m : ApronMsg) (phys : Word) (wire : BitVec 16) (u : State) (op : AOp),
     apronMeets s ch m 1 phys wire false →
     u = (apronXlated s ch m).1 →
     op = { apronAOp s ch m with phys := phys, wire := wire, nocache := false } →
     mayRun u op →
     opNode op ≠ u.blg.node →
     ocOf u op = none →
     kget u.blg.far (opLineId op) = none →
     fillSpoilt u (opLineId op) = false →
     fillOut u (opLineId op) = false →
     exec (.apronLoad ch m) s = .next (settle (sendLoad { u with blg.fillWait := u.blg.fillWait ++ [(opLineId op, op)] }
       (opNode op) op.wire (opLine op * 128) 4 (.fill (opLineId op))))) ∧
  (∀ (s : State) (ch : Fin 24) (m : ApronMsg) (phys : Word) (wire : BitVec 16) (nc : Bool) (u : State) (op : AOp),
     apronMeets s ch m 2 phys wire nc →
     u = (apronXlated s ch m).1 →
     op = { apronAOp s ch m with phys := phys, wire := wire, nocache := nc } →
     mayRun u op →
     opNode op = u.blg.node →
     exec (.apronStore ch m) s = .next (settle (lmemWriteLine u (opLine op) (opBytes op) (opMask op) (.apronLocal op)))) ∧
  (∀ (s : State) (ch : Fin 24) (m : ApronMsg) (phys : Word) (wire : BitVec 16) (u : State) (op : AOp) (e : OcLine),
     apronMeets s ch m 2 phys wire false →
     u = (apronXlated s ch m).1 →
     op = { apronAOp s ch m with phys := phys, wire := wire, nocache := false } →
     mayRun u op →
     opNode op ≠ u.blg.node →
     kget u.blg.oc (opLine op) = some e →
     e.node = opNode op →
     e.st ≠ .publishing →
     exec (.apronStore ch m) s = .next (settle
       (endApron (mergeOc (useOc u (opLine op)) (opLine op) (opBytes op) (opMask op)) op St.ok 0 []))) ∧
  (∀ (s : State) (ch : Fin 24) (m : ApronMsg) (phys : Word) (wire : BitVec 16) (nc : Bool) (u : State) (op : AOp),
     apronMeets s ch m 3 phys wire nc →
     u = (apronXlated s ch m).1 →
     op = { apronAOp s ch m with phys := phys, wire := wire, nocache := nc } →
     mayRun u op →
     opNode op = u.blg.node →
     atomicOk m.opt.toNat (opSize op) (opOff op) = true →
     exec (.apronAtomic ch m) s = .next (settle
       (lmemAtomic u (opOff op) m.opt m.size m.b7 (opA op) (opB op) (.apronLocal op)))) ∧
  (∀ (s : State) (ch : Fin 24) (m : ApronMsg) (phys : Word) (wire : BitVec 16) (nc : Bool) (u : State) (op : AOp) (e : OcLine),
     apronMeets s ch m 3 phys wire nc →
     u = (apronXlated s ch m).1 →
     op = { apronAOp s ch m with phys := phys, wire := wire, nocache := nc } →
     mayRun u op →
     opNode op ≠ u.blg.node →
     m.opt.toNat ≠ aopClaim →
     opScope op ≠ 2 →
     atomicOk m.opt.toNat (opSize op) (opOff op) = true →
     kget u.blg.oc (opLine op) = some e →
     e.node = opNode op →
     e.st = .owned →
     ocCovers e op = true →
     exec (.apronAtomic ch m) s = .next (settle (atomicOc u op e))) ∧
  (∀ (s : State) (ch : Fin 24) (m : ApronMsg) (phys : Word) (wire : BitVec 16) (nc : Bool) (u : State) (op : AOp),
     apronMeets s ch m 3 phys wire nc →
     u = (apronXlated s ch m).1 →
     op = { apronAOp s ch m with phys := phys, wire := wire, nocache := nc } →
     mayRun u op →
     opNode op ≠ u.blg.node →
     m.opt.toNat ≠ aopClaim →
     opScope op = 2 →
     ocOf u op = none →
     exec (.apronAtomic ch m) s = .next (settle
       (sendAtomic u (opNode op) op.wire (opOff op) m.size.toNat m.opt.toNat (opA op) (opB op) (.apron op)))) ∧
  (∀ (s : State) (ch : Fin 24) (m : ApronMsg) (phys : Word) (wire : BitVec 16) (nc : Bool) (u : State) (op : AOp),
     apronMeets s ch m 13 phys wire nc →
     u = (apronXlated s ch m).1 →
     op = { apronAOp s ch m with phys := phys, wire := wire, nocache := nc } →
     mayRun u op →
     opNode op = u.blg.node →
     rmemPlainOk m.b7.toNat m.opt.toNat = true →
     u.blg.rmemBusy.contains (opLine op) = false →
     exec (.apronRmem ch m) s = .next (settle
       (lmemReadLine { u with blg.rmemBusy := u.blg.rmemBusy ++ [opLine op] } (opOff op) (.ownRmemRead op)))) ∧
  (∀ (s : State) (ch : Fin 24) (m : ApronMsg) (phys : Word) (wire : BitVec 16) (nc : Bool) (u : State) (op : AOp),
     apronMeets s ch m 13 phys wire nc →
     u = (apronXlated s ch m).1 →
     op = { apronAOp s ch m with phys := phys, wire := wire, nocache := nc } →
     mayRun u op →
     opNode op ≠ u.blg.node →
     ocOf u op = none →
     exec (.apronRmem ch m) s = .next (settle (blgRequest u (opNode op) op.wire Kind.rmem (opOff op)
       (payloadOf [(0, reqHead (opOff op) 4 0 0 0 m.b7.toNat m.opt.toNat), (16, m.data.take 128)]) (.apron op)))) ∧
  (∀ (s : State) (ch : Fin 24) (m : ApronMsg) (r : LReq) (rest : List LReq),
     m.typ = 0x18 →
     (getCh s ch.val).up = true →
     takeFirst (fun (r : LReq) => r.tag == m.tag.toNat && r.ch == ch.val) (takeWords s ch.val m).blg.lmem = some (r, rest) →
     exec (.lmemRsp ch m) s = .next (settle
       (lmemDone { takeWords s ch.val m with blg.lmem := rest } r.why (lmemStatus m) (pad 128 m.data))))

/-- FENCE, KSTART, INV_RANGE, SLOT_POST, COLL_POST and TALLY_READ of the apron. A FENCE begins with the release and the acquire of its kind, a KSTART is a house acquire. INV_RANGE drops the range page by page. A SLOT_POST of a well-formed descriptor hands its slot to the stagehand and is answered OK; COLL_POST of a new collective of the seat's group joins the collectives in progress. A TALLY_READ is answered with its word at once or where it waits once the count is met, and TIMEOUT after 10 ms. A message of a reserved type or with a reserved field is answered BADARG. -/
def Obligations.ApronFencesPostsAndTalliesTakeEffect : Prop :=
  (∀ (s : State) (ch : Fin 24) (m : ApronMsg),
     apronGets s ch m 4 →
     exec (.apronFence ch m) s = .next (settle (beginFence (takeWords s ch.val m) ch.val m.tag.toNat (m.opt.toNat / 4)
       (m.opt.toNat % 4 != 1) (m.opt.toNat % 4 != 0)))) ∧
  (∀ (s : State) (ch : Fin 24) (m : ApronMsg),
     apronGets s ch m 9 →
     exec (.kstart ch m) s = .next (settle (beginFence (takeWords s ch.val m) ch.val m.tag.toNat 2 false true))) ∧
  (∀ (s : State) (f : FenceRun),
     f.phase = 3 →
     earlierOpen s f 0 = false →
     (invsHere s.blg).any f.invs.contains = false →
     advance s f = rspDone { s with blg.fences := s.blg.fences.filter (fun x => x.id != f.id) } f.ch f.tag f.status 0) ∧
  (∀ (s : State) (f : FenceRun),
     f.phase = 0 →
     f.scope = 2 →
     earlierOpen s f 1 = false →
     advance s f = (modFence s f.id (fun x => { x with phase := 1, lines := s.blg.oc.map (fun e => e.2.id) })).blg.oc.foldl
       (fun s e => publish s e.1) (modFence s f.id (fun x => { x with phase := 1, lines := s.blg.oc.map (fun e => e.2.id) }))) ∧
  (∀ (s : State) (f : FenceRun),
     f.phase = 1 →
     f.lines.any (fun id => (findOc s id).isSome) = false →
     advance s f = sendFences s f) ∧
  (∀ (s : State) (ch : Fin 24) (m : ApronMsg),
     apronGets s ch m 5 →
     exec (.invRange ch m) s = .next (settle (
       let x := openOp (takeWords s ch.val m) (32 + ch.val) 3 m.ctx.toNat [m.addr.toNat]
       let op : AOp := { id := x.2, ch := ch.val, m := m }
       rangeFrom x.1 op m.addr.toNat (rangeFuel op)))) ∧
  (∀ (s : State) (op : AOp) (va : Nat) (phys : Word) (wire : BitVec 16) (nc : Bool),
     rangePage s op va (.ok phys wire nc) = (
       let stop := min (op.m.addr.toNat + op.m.field 16 8) ((va / 65536 + 1) * 65536)
       (dropRange s (physNode phys) (physOff phys) (stop - va), stop))) ∧
  (∀ (s : State) (ch : Fin 24) (m : ApronMsg),
     apronGets s ch m 6 →
     (getHand (takeWords s ch.val m) m.opt.toNat).resetting = false →
     (getSH (takeWords s ch.val m) m.opt.toNat m.size.toNat).own = false →
     descOk (m.data.take 64) = true →
     exec (.slotPost ch m) s = .next (respond (modSH (takeWords s ch.val m) m.opt.toNat m.size.toNat (fun _ =>
       { own := true, desc := m.data.take 64, msg := slice m.data 64 64, total := pieceCount (m.data.take 64) })) ch.val m St.ok 0 [])) ∧
  (∀ (s : State) (ch : Fin 24) (m : ApronMsg) (i : Nat) (d : CtxDesc),
     apronGets s ch m 7 →
     groupEntry (takeWords s ch.val m).blg (postGroup m) = some i →
     bitOf (m.field 47 1) 1 = false →
     descWell (m.data.take 32) = true →
     regionsMeet (memberJob (postGroup m) (entryField (takeWords s ch.val m).blg i 4 2 % 32768) (parseDesc (m.data.take 32)))
       (entryField (takeWords s ch.val m).blg i 2 2 % 16384) (m.field 16 8) (m.field 24 8) = false →
     findColl (takeWords s ch.val m) (postGroup m) (postSeq m) = none →
     descOf (takeWords s ch.val m) m.ctx.toNat = some d →
     wireStruck (takeWords s ch.val m) d.wire = false →
     exec (.collPost ch m) s = .next (settle (
       let x := openOp (takeWords s ch.val m) (32 + ch.val) 9 m.ctx.toNat []
       postColl (closeOp x.1 x.2) ch.val m i d.wire))) ∧
  (∀ (s : State) (ch : Fin 24) (m : ApronMsg),
     apronGets s ch m 8 →
     (m.opt = 0 ∨ tallyMet (tallyWord (takeWords s ch.val m).blg (m.field 16 2)) (BitVec.ofNat 32 (m.field 20 4)) = true) →
     exec (.tallyRead ch m) s = .next (respond (takeWords s ch.val m) ch.val m St.ok 0
       (leBytes 8 (tallyWord (takeWords s ch.val m).blg (m.field 16 2)).toNat))) ∧
  (∀ (s : State) (ch : Fin 24) (m : ApronMsg),
     apronGets s ch m 8 →
     m.opt ≠ 0 →
     tallyMet (tallyWord (takeWords s ch.val m).blg (m.field 16 2)) (BitVec.ofNat 32 (m.field 20 4)) = false →
     (takeWords s ch.val m).blg.waits.length < 256 →
     exec (.tallyRead ch m) s = .next (
       let u := takeWords s ch.val m
       { u with
         blg.waits := u.blg.waits ++ [{ ch := ch.val, tag := m.tag.toNat, tally := m.field 16 2,
                                        target := BitVec.ofNat 32 (m.field 20 4), since := u.now }] })) ∧
  (∀ (s : State) (i : Nat) (w : TallyWait),
     s.blg.waits[i]? = some w →
     w.since + 10000000 ≤ s.now →
     exec (.tallyWaitTimeout i) s = .next (rspData { s with blg.waits := s.blg.waits.eraseIdx i } w.ch w.tag St.timeout 0
       (leBytes 8 (tallyWord s.blg w.tally).toNat))) ∧
  (∀ (s : State) (ch : Fin 24) (m : ApronMsg),
     msgOk m = false →
     m.typ.toNat ≠ 0x18 →
     (getCh s ch.val).up = true →
     exec (.apronReservedType ch m) s = .next (respond (takeWords s ch.val m) ch.val m St.badarg 0 []))

/-- Acknowledgement, replay and retraining of the apron's channels, and the VC0 bucket. An ACK releases the oldest held word. A RETRY replays every held word; the eighth in a row without an ACK retrains the channel. 64 word times without an ACK replay too. A retrain that succeeds replays and clears the count of failures; the third failure in a row takes the channel DOWN. A word that fails its CRC is counted and answered RETRY once. The VC0 bucket gains its tokens. -/
def Obligations.ApronWordsAreHeldAcknowledgedAndReplayed : Prop :=
  (∀ (s : State) (ch : Fin 24),
     exec (.apronAck ch) s = .next (modCh s ch.val (fun c => if c.held.isEmpty then c
       else pushWords { c with held := c.held.drop 1, retries := 0, lastAck := s.now } []))) ∧
  (∀ (s : State) (ch : Fin 24),
     (getCh s ch.val).up = true →
     (getCh s ch.val).retraining = false →
     (getCh s ch.val).retries < 7 →
     exec (.apronRetry ch) s = .next (replay (modCh s ch.val (fun c => { c with retries := c.retries + 1 })) ch.val)) ∧
  (∀ (s : State) (ch : Fin 24),
     (getCh s ch.val).up = true →
     (getCh s ch.val).retraining = false →
     7 ≤ (getCh s ch.val).retries →
     exec (.apronRetry ch) s = .next (modCh (modCh s ch.val (fun c => { c with retries := c.retries + 1 })) ch.val
       (fun c => { c with retraining := true }))) ∧
  (∀ (s : State) (ch : Fin 24),
     (getCh s ch.val).up = true →
     (getCh s ch.val).retraining = false →
     (getCh s ch.val).held.isEmpty = false →
     (getCh s ch.val).lastAck + 16 ≤ s.now →
     exec (.apronReplayTimeout ch) s = .next (replay s ch.val)) ∧
  (∀ (s : State) (ch : Fin 24),
     (getCh s ch.val).up = true →
     (getCh s ch.val).retraining = true →
     exec (.apronRetrain ch true) s = .next (replay (modCh (raiseIrq (bumpB s (408 + ch.val) 1) Irq.apron) ch.val
       (fun c => { c with retraining := false, retries := 0, fails := 0 })) ch.val)) ∧
  (∀ (s : State) (ch : Fin 24),
     (getCh s ch.val).up = true →
     (getCh s ch.val).retraining = true →
     (getCh s ch.val).fails < 2 →
     exec (.apronRetrain ch false) s = .next (modCh (raiseIrq (bumpB s (408 + ch.val) 1) Irq.apron) ch.val
       (fun c => { c with fails := c.fails + 1 }))) ∧
  (∀ (s : State) (ch : Fin 24),
     (getCh s ch.val).up = true →
     (getCh s ch.val).retraining = true →
     2 ≤ (getCh s ch.val).fails →
     exec (.apronRetrain ch false) s = .next (channelDown (raiseIrq (bumpB s (408 + ch.val) 1) Irq.apron) ch.val)) ∧
  (∀ (s : State) (ch : Fin 24) (word : Bytes) (ctl : BitVec 24),
     (getCh s ch.val).up = true →
     wordBad word ctl = true →
     exec (.apronCrcError ch word ctl) s = .next (
       if (getCh s ch.val).discarding then bumpB s (384 + ch.val) 1
       else emit (modCh (bumpB s (384 + ch.val) 1) ch.val (fun c => { c with discarding := true })) (.ak ch.val 12))) ∧
  (∀ (s : State) (p : Fin 24),
     exec (.principalToken p) s = .next (setPort s (.blg p) { s.blg.ports.get p with
       tokens := (bucket s (s.blg.ports.get p) 4).1, tokenAt := (bucket s (s.blg.ports.get p) 4).2 }))

/-- Invalidation slots and stagehands of Belug. A slot handed over removes what its type selects and remembers the operations that may have used an entry removed; it completes, with its interrupt where asked, when none of them is in progress. A slot whose arguments are refused removes nothing. A stagehand not being reset cuts a piece of a posted PMSG first, else of its next posted slot. -/
def Obligations.TranslationsAreInvalidatedAndStagehandsCut : Prop :=
  (∀ (s : State) (n : Fin 4) (q : Sel),
     (s.blg.invSlots.get n).own = true →
     (s.blg.invSlots.get n).removed = false →
     (s.blg.invSlots.get n).typ.toNat = 0 →
     selOf s.blg (s.blg.invSlots.get n) = some q →
     exec (.xlatInvRange n) s = .next (modInvSlot (removeEntries s q) n
       (fun x => { x with removed := true, bad := false, ops := opsMet s q }))) ∧
  (∀ (s : State) (n : Fin 4) (q : Sel),
     (s.blg.invSlots.get n).own = true →
     (s.blg.invSlots.get n).removed = false →
     (s.blg.invSlots.get n).typ.toNat = 1 →
     selOf s.blg (s.blg.invSlots.get n) = some q →
     exec (.xlatInvContext n) s = .next (modInvSlot (removeEntries s q) n
       (fun x => { x with removed := true, bad := false, ops := opsMet s q }))) ∧
  (∀ (s : State) (n : Fin 4) (q : Sel),
     (s.blg.invSlots.get n).own = true →
     (s.blg.invSlots.get n).removed = false →
     (s.blg.invSlots.get n).typ.toNat = 2 →
     selOf s.blg (s.blg.invSlots.get n) = some q →
     exec (.xlatInvAll n) s = .next (modInvSlot (removeEntries s q) n
       (fun x => { x with removed := true, bad := false, ops := opsMet s q }))) ∧
  (∀ (s : State) (n : Fin 4),
     (s.blg.invSlots.get n).own = true →
     (s.blg.invSlots.get n).removed = false →
     (s.blg.invSlots.get n).typ.toNat = 0 →
     selOf s.blg (s.blg.invSlots.get n) = none →
     exec (.xlatInvRange n) s = .next (modInvSlot s n (fun x => { x with removed := true, bad := true }))) ∧
  (∀ (s : State) (n : Fin 4),
     (s.blg.invSlots.get n).own = true →
     (s.blg.invSlots.get n).removed = true →
     (s.blg.invSlots.get n).typ ≠ 3 →
     (s.blg.invSlots.get n).irq = false →
     (s.blg.invSlots.get n).ops.all (fun id => !isOpen s id) = true →
     exec (.invSlotComplete n) s = .next (modInvSlot s n (fun y => { y with
       own := false, removed := false, ops := [], bad := false,
       status := if (s.blg.invSlots.get n).bad then 0x02 else 0x00 }))) ∧
  (∀ (s : State) (n : Fin 32) (k : Nat),
     (getHand s n.val).resetting = false →
     pmsgReady (getHand s n.val) = some k →
     exec (.stagehandDescriptor n) s = .next (settle (cutPiece (modHand s n.val (fun h => { h with last := k })) n.val k))) ∧
  (∀ (s : State) (n : Fin 32) (k : Nat) (ks : List Nat),
     (getHand s n.val).resetting = false →
     pmsgReady (getHand s n.val) = none →
     s.blg.hands.toList.any (fun g => (pmsgReady g).isSome) = false →
     (getHand s n.val).current = none →
     readySlots (getHand s n.val) = k :: ks →
     exec (.stagehandDescriptor n) s = .next (settle (cutPiece (modHand s n.val (fun h =>
       { h with last := k, current := some k })) n.val k)))

/-- The member's side of a collective. At its launch count a collective takes its input and its stripes go. A stripe without its result goes again after T_R; a collective that nothing reaches for HOLD and two flight times ends TIMEOUT; a curtain ends OK at RELEASE_CUE. A result or multicast chunk of a collective in progress is taken, an ABORT is relayed once and ends it, and a REMAP is applied. -/
def Obligations.MembersLaunchResendAndComplete : Prop :=
  (∀ (s : State) (g : Nat) (q : BitVec 16) (input : Bytes) (m : MColl),
     findColl (judgeLate s) g q.toNat = some m →
     m.status = none →
     m.launched = false →
     m.late = some false →
     (judgeLate s).blg.cue.st ≠ .unset →
     m.launch.toNat ≤ (judgeLate s).blg.cue.count.toNat →
     m.desc.op ≠ COp.index →
     m.desc.op ≠ COp.dispatch →
     exec (.cueLaunch g q input) s = .next (
       let u := bumpB (modColl (judgeLate s) g q.toNat (fun m => { m with
         launched := true, input := input, lastSeen := (judgeLate s).now })) BCtr.moeDrop.idx 0
       pump ((onesOf (memberLive u g)).foldl (fun s p => memberLost s g p) u))) ∧
  (∀ (s : State) (g : Nat) (q : BitVec 16) (k : Nat) (m : MColl) (x : MStripe),
     findColl s g q.toNat = some m →
     m.stripes.find? (fun x => x.stripe == k) = some x →
     running m = true →
     x.sent = true →
     x.done = false →
     x.lastSend + memberTR m ≤ s.now →
     bpOpen s x.plane = true →
     exec (.collResend g q k) s = .next (sendStripe s m k x.plane)) ∧
  (∀ (s : State) (g : Nat) (q : BitVec 16) (m : MColl),
     findColl s g q.toNat = some m →
     running m = true →
     m.lastSeen + (m.hold + 2 * Config.seatMaxFlight) ≤ s.now →
     exec (.collMemberTimeout g q) s = .next (pump (endColl s g q.toNat St.timeout))) ∧
  (∀ (s : State) (g : Nat) (q : BitVec 16) (m : MColl) (c : Word),
     findColl s g q.toNat = some m →
     m.release = some c →
     m.status = none →
     c.toNat ≤ s.blg.cue.count.toNat →
     exec (.curtainRelease g q) s = .next (endColl (emit s (.curtain g q.toNat)) g q.toNat St.ok)) ∧
  (∀ (s : State) (f : Flit) (t p : Nat) (m : MColl),
     f.kind = Kind.result →
     isControl f = false →
     s.blg.inbox.find? (fun x => x.1 == f) = some (f, t, p) →
     forMember (takeInbox s .blg f) f = true →
     findColl (noteSeen (takeInbox s .blg f) f) (cHead f).group (cHead f).cueSeq = some m →
     running m = true →
     m.desc.op ≠ COp.curtain →
     exec (.result f) s = .next (settle (takeResult (noteSeen (takeInbox s .blg f) f) m Kind.result (cHead f) (elemBytes f) p))) ∧
  (∀ (s : State) (f : Flit) (t p : Nat) (m : MColl),
     f.kind = Kind.mcast →
     isControl f = false →
     s.blg.inbox.find? (fun x => x.1 == f) = some (f, t, p) →
     forMember (takeInbox s .blg f) f = true →
     findColl (noteSeen (takeInbox s .blg f) f) (cHead f).group (cHead f).cueSeq = some m →
     running m = true →
     m.desc.op ≠ COp.curtain →
     exec (.mcast f) s = .next (settle (takeResult (noteSeen (takeInbox s .blg f) f) m Kind.mcast (cHead f) (elemBytes f) p))) ∧
  (∀ (s : State) (m : MColl) (kind : BitVec 5) (h : CHead) (data : Bytes) (port : Nat) (x : MStripe),
     m.desc.op ≠ COp.dispatch →
     m.stripes.find? (fun x => !x.done && planeOf m.planes (memberLive s m.group) x.stripe == some port &&
       belongs m (jobOf m) x.stripe kind h.chunk h.valid &&
       !m.got.any (fun y => y.who == x.stripe && y.chunk == h.chunk && y.valid == h.valid)) = some x →
     stripeHeld { m with got := m.got ++ [{ who := x.stripe, chunk := h.chunk, valid := h.valid, data := data }] } (jobOf m) x.stripe
       (m.got ++ [{ who := x.stripe, chunk := h.chunk, valid := h.valid, data := data }]) = true →
     takeResult s m kind h data port = (
       let m' := { m with got := m.got ++ [{ who := x.stripe, chunk := h.chunk, valid := h.valid, data := data }] }
       stripeWhole (modColl s m.group m.seq (fun _ => m')) m' x.stripe)) ∧
  (∀ (s : State) (f : Flit) (t p : Nat) (m : MColl),
     f.kind = Kind.result →
     (cHead f).step = 0xFF →
     s.blg.inbox.find? (fun x => x.1 == f) = some (f, t, p) →
     forMember (takeInbox s .blg f) f = true →
     findColl (takeInbox s .blg f) (cHead f).group (cHead f).cueSeq = some m →
     m.status = none →
     exec (.abort .blg f) s = .next (settle (pump (endColl (ctlOthers (takeInbox s .blg f) m 0xFF p (elemBytes f))
       (cHead f).group (cHead f).cueSeq (abortStatus (ctlStatus f)))))) ∧
  (∀ (s : State) (f : Flit) (t p : Nat),
     f.kind = Kind.result →
     (cHead f).step = 0xFE →
     s.blg.inbox.find? (fun x => x.1 == f) = some (f, t, p) →
     forMember (takeInbox s .blg f) f = true →
     (memberLive (takeInbox s .blg f) (cHead f).group).getLsbD (ctlPlane f) = true →
     p ≠ ctlPlane f →
     exec (.remap .blg f) s = .next (settle (memberRemap (noteSeen (takeInbox s .blg f) f) (cHead f).group (ctlPlane f))))

/-- CONTRIB, REPORT, ABORT, REMAP and the timers at a reducer. A contribution of an armed entry whose digest matches is merged; one of an unknown group, of no sender of its tree, off LIVE or of no entry is counted and dropped. A REPORT joins the arrivals and is judged; an ABORT ends the entry here, a REMAP is passed on and applied. A step open for HOLD aborts with the lowest missing rank. A kept result leaves after HOLD, and a mirror record joins the mirror. -/
def Obligations.ReducersMergeAbortRemapAndKeep : Prop :=
  (∀ (s : State) (f : Flit) (bad : Bool) (c : Cast) (r : Nat) (e : CueEntry) (t : State),
     f.kind = Kind.contrib →
     isControl f = false →
     f ∈ s.itv.core.inbox →
     getCast (takeInbox s .itv f) (cHead f).group = some c →
     senderOf (takeInbox s .itv f) c f (stripeOf (cHead f).chunk) = some (.member r) →
     c.live.getLsbD (myPlane (takeInbox s .itv f)) = true →
     findEntry c (cHead f).cueSeq = some e →
     e.armed = true →
     findRun (takeInbox s .itv f) (cHead f).group (cHead f).cueSeq = none →
     (cHead f).digest = e.digest →
     ((findRun (modRun (ensureRun (takeInbox s .itv f) (cHead f).group (cHead f).cueSeq f.ctx) (cHead f).group (cHead f).cueSeq
       (fun x => if x.compared.contains r then x else { x with compared := x.compared ++ [r] })) (cHead f).group (cHead f).cueSeq).bind (·.mism)) = none →
     (cHead f).step < 0x48 →
     chunkOk (castJob c e.desc) (cHead f).chunk = true →
     mergeChunk (modRun (ensureRun (takeInbox s .itv f) (cHead f).group (cHead f).cueSeq f.ctx) (cHead f).group (cHead f).cueSeq
       (fun x => if x.compared.contains r then x else { x with compared := x.compared ++ [r] })) c e (cHead f).group (cHead f).cueSeq
       (.member r) f bad = some t →
     exec (.contrib f bad) s = .next t) ∧
  (∀ (s : State) (f : Flit) (bad : Bool),
     f.kind = Kind.contrib →
     isControl f = false →
     f ∈ s.itv.core.inbox →
     getCast (takeInbox s .itv f) (cHead f).group = none →
     exec (.contrib f bad) s = .next (bumpColl (takeInbox s .itv f) .notCast)) ∧
  (∀ (s : State) (f : Flit) (c : Cast) (e : CueEntry) (k : Nat) (ranks : List Nat),
     f.kind = Kind.contrib →
     (cHead f).step = 0xFD →
     f ∈ s.itv.core.inbox →
     getCast (takeInbox s .itv f) (cHead f).group = some c →
     senderOf (takeInbox s .itv f) c f 0 = some (.kid k ranks) →
     c.live.getLsbD (myPlane (takeInbox s .itv f)) = true →
     findEntry c (cHead f).cueSeq = some e →
     e.ended = false →
     exec (.report f) s = .next (
       let u := noteArrival (ensureRun (takeInbox s .itv f) (cHead f).group (cHead f).cueSeq f.ctx) (cHead f).group (cHead f).cueSeq 0 []
       let v := modRun u (cHead f).group (cHead f).cueSeq (fun r => { r with covered := kset r.covered k (ctlCompared f) })
       judgeMismatch (noteMismatch v (cHead f).group (cHead f).cueSeq (ctlRank f)) (cHead f).group (cHead f).cueSeq false)) ∧
  (∀ (s : State) (f : Flit) (c : Cast) (e : CueEntry) (w : Sender),
     f.kind = Kind.contrib →
     (cHead f).step = 0xFF →
     f ∈ s.itv.core.inbox →
     getCast (takeInbox s .itv f) (cHead f).group = some c →
     senderOf (takeInbox s .itv f) c f 0 = some w →
     c.live.getLsbD (myPlane (takeInbox s .itv f)) = true →
     findEntry c (cHead f).cueSeq = some e →
     e.ended = false →
     exec (.abort .itv f) s = .next (dropColl (takeInbox s .itv f) (cHead f).group (cHead f).cueSeq (ctlStatus f))) ∧
  (∀ (s : State) (f : Flit) (c : Cast) (w : Sender),
     f.kind = Kind.contrib →
     (cHead f).step = 0xFE →
     f ∈ s.itv.core.inbox →
     getCast (takeInbox s .itv f) (cHead f).group = some c →
     senderOf (takeInbox s .itv f) c f 0 = some w →
     c.live.getLsbD (myPlane (takeInbox s .itv f)) = true →
     c.live.getLsbD (ctlPlane f) = true →
     exec (.remap .itv f) s = .next (applyRemap (passRemap (takeInbox s .itv f) c (cHead f).group (cHead f).cueSeq (ctlPlane f) (ctlRank f) f.ctx)
       (cHead f).group (ctlPlane f))) ∧
  (∀ (s : State) (g : Nat) (q : BitVec 16) (t : Nat) (c : Cast) (run : Run) (e : CueEntry) (x : StepRun) (r : Nat) (rs : List Nat),
     getCast s g = some c →
     findRun s g q.toNat = some run →
     findEntry c q.toNat = some e →
     run.steps.find? (fun x => x.step == t && !x.ended) = some x →
     x.opened + c.hold ≤ s.now →
     run.mism = none →
     missingAt s c (castJob c e.desc) run t = r :: rs →
     exec (.holdExpiry g q t) s = .next (abortColl s g q.toNat Ctl.timeout r)) ∧
  (∀ (s : State) (g : Nat) (q : BitVec 16) (k : Nat) (c : Cast) (x : StripeRun) (t : Nat),
     getCast s g = some c →
     (findRun s g q.toNat).bind (findStripe · k) = some x →
     x.complete = some t →
     t + c.hold ≤ s.now →
     exec (.resultKeepExpiry g q k) s = .next (modStripe s g q.toNat k (fun x => { x with results := [] }))) ∧
  (∀ (s : State) (f : Flit),
     f.kind = Kind.svc →
     f.svc = Config.svcMirrorWrite.toNat →
     f ∈ s.itv.core.inbox →
     exec (.mirrorWrite f) s = .next (
       let u := takeInbox s .itv f
       { u with
         itv.coll.mirror := ringAdd u.itv.coll.mirror (markMirror (slice f.payload 16 32) true) })) ∧
  (∀ (s : State) (f : Flit),
     f.kind = Kind.svc →
     f.svc = Config.svcRestore.toNat →
     f ∈ s.itv.core.inbox →
     swPlane f.src ≠ myPlane (takeInbox s .itv f) →
     nextPlane (takeInbox s .itv f) = some (swPlane f.src) →
     ((onesOf (((takeInbox s .itv f).itv.routing.chart.map (·.planes)).getD 0)).reverse.find? (fun x => decide (x < myPlane (takeInbox s .itv f)))) = some (swPlane f.src) →
     exec (.restoreFromMirror f) s = .next (
       let u := takeInbox s .itv f
       (u.itv.coll.mirror ++ u.itv.coll.book).foldl (fun s r => itvSend s (svcRecord s Config.svcRestore (swPlane f.src) r)) u)) ∧
  (∀ (s : State) (own mirror : List Bytes),
     s.itv.boot.started = true →
     s.itv.boot.bookDone = false →
     (s.itv.boot.stallsTrained = true ∨ s.itv.boot.stallsFailed = true) →
     (nextPlane s).isSome = true →
     exec (.promptBookRestored (some own) (some mirror)) s = .next (
       checkReady { s with
         itv.boot.bookDone := true
         itv.coll.book := own.map (fun r => markMirror (pad 32 r) false) ++ s.itv.coll.book
         itv.coll.mirror := mirror.map (fun r => markMirror (pad 32 r) true) ++ s.itv.coll.mirror }))

/-- MERGE, FINISH, one word of an entry, and a cluster's self-test. An admitted chunk's MERGE starts on a free core, in ARRIVAL mode the oldest first and in ORDERED mode the lowest rank first once all are here; FINISH starts when every rank is merged. A word that passes its checks is one step of the core; a failed check is a fault of its cluster. A self-test that passes returns the cluster to service. -/
def Obligations.ChorusEntriesRunMergeAndFinish : Prop :=
  (∀ (s : State) (f : Flit) (b : StateBuf) (r : Nat) (c : Cast) (e : CueEntry),
     s.itv.coll.bufs.find? (fun b => b.waiting.any (fun w => w.2.1 == f)) = some b →
     b.waiting.find? (fun w => w.2.1 == f) = some (r, f, none) →
     b.waiting.head?.map (·.2.1) = some f →
     getCast s b.group = some c →
     findEntry c b.seq = some e →
     objOrdered (kernelObj s e.desc) = false →
     coreFree s b.core = true →
     ((findRun s b.group b.seq).map (fun r => !r.aborted)).getD false = true →
     exec (.merge f) s = .next (startEntry
       (modBuf s b.group b.seq b.chunk (fun b => { b with waiting := b.waiting.filter (fun x => x.2.1 != f) })) b c e false r (cHead f).valid
       (elemBytes f ++ slice f.payload 0 16 ++ headerBytes f ++ zeros 32))) ∧
  (∀ (s : State) (g : Nat) (q : BitVec 16) (ch : Nat) (b : StateBuf) (c : Cast) (e : CueEntry),
     s.itv.coll.bufs.find? (isBuf g q.toNat ch) = some b →
     getCast s g = some c →
     findEntry c q.toNat = some e →
     coreFree s b.core = true →
     b.waiting.isEmpty = true →
     b.merged.length = c.nodes.length →
     b.finished = none →
     exec (.finish g q ch) s = .next (startEntry s b c e true 0x3FFF (chunkValid (castJob c e.desc) ch) (zeros 256))) ∧
  (∀ (s : State) (b : StateBuf) (c : Cast) (e : CueEntry) (fin : Bool) (rank valid : Nat) (f0 : Bytes),
     startEntry s b c e fin rank valid f0 = modCore s b.core (fun _ =>
       { active := true, finish := fin, group := b.group, seq := b.seq, chunk := b.chunk, rank := rank, slot := kernelSlot e.desc,
         pc := if fin then objFinish (kernelObj s e.desc) else objMerge (kernelObj s e.desc),
         sregs := [b.chunk, rank, valid, c.nodes.length, e.desc.count, e.desc.aux, b.chunk / 1024, e.desc.flags.toNat].map (BitVec.ofNat 64) ++
           List.replicate 24 0,
         fregs := f0 :: List.replicate 15 (zeros 256) })) ∧
  (∀ (s : State) (i : Fin 72) (e : CoreEnv),
     (coreAt s i.val).active = true →
     (coreAt s i.val).dead = false →
     e = coreEnv s i →
     wordOk e = true →
     (stepWord e).2.2 = false →
     exec (.chorusWord i false) s = .next (
       let u := modCore { s with free := s.free + 1024 } i.val (fun _ => (stepWord e).1)
       modBuf u (coreAt s i.val).group (coreAt s i.val).seq (coreAt s i.val).chunk (fun _ => (stepWord e).2.1))) ∧
  (∀ (s : State) (i : Fin 72),
     (coreAt s i.val).active = true →
     exec (.chorusWord i true) s = .next (clusterFault (modCore s i.val (fun k => { k with active := false, dead := false }))
       (coreAt s i.val).group i.val .chorusFault)) ∧
  (∀ (s : State) (k : Fin 18),
     s.itv.coll.resetting.getLsbD k.val = true →
     exec (.clusterSelfTest k true) s = .next (finishKept { s with
         itv.coll.resetting := setBit s.itv.coll.resetting k.val false
         itv.coll.resetBy := kdel s.itv.coll.resetBy k.val
         itv.coll.retired := setBit s.itv.coll.retired k.val false }
       (kgetD s.itv.coll.resetBy k.val (none, none)).1 (kgetD s.itv.coll.resetBy k.val (none, none)).2 { status := St.ok }))

/-- DECAY, MOVE_START, MOVE_COMPLETE, SWEEP_STEP, SCRUB_DONE and PATROL_SCRUB. After DECAY_MS every ACCESS halves. A misplaced page's move reserves a frame and sets MOVING; a promotion without a free frame follows the demotion of a cold page or is counted blocked. A completed move is one write of the tier map. A sweep's step re-keys one block, and its end erases the old slot. A scrub that is done leaves its range ZERO. A patrol's corrected block is counted by tier, a lost one poisoned. -/
def Obligations.TheMoverTheSweepsAndTheScrubsRun : Prop :=
  (∀ (s : State),
     s.itv.pool.decayAt + s.itv.pool.decayMs * 1000000 ≤ s.now →
     exec .decay s = .next { s with
         itv.pool.tier := s.itv.pool.tier.map (fun e => (e.1, { e.2 with access := e.2.access / 2 }))
         itv.pool.decayAt := s.now }) ∧
  (∀ (s : State),
     s.now < s.itv.pool.decayAt + s.itv.pool.decayMs * 1000000 →
     exec .decay s = .next s) ∧
  (∀ (s : State) (p f : Nat) (e : TierEntry),
     s.itv.pool.enable = true →
     s.itv.pool.moves.length < 16 →
     s.itv.pool.galleryOff = 0 →
     misplaced s.itv = some (p, e) →
     e.gallery = false →
     freeFrame s.itv true = some f →
     exec .moveStart s = .next { s with
         itv.pool.tier := kset s.itv.pool.tier p { e with moving := true }
         itv.pool.moves := s.itv.pool.moves ++ [{ page := p, toGallery := true, frame := f, next := none }] }) ∧
  (∀ (s : State) (p f : Nat) (q : List Nat) (e : TierEntry),
     s.itv.pool.enable = true →
     s.itv.pool.moves.length < 16 →
     s.itv.pool.galleryOff = 0 →
     misplaced s.itv = none →
     s.itv.pool.queue = p :: q →
     kget s.itv.pool.tier p = some e →
     e.gallery = true →
     e.moving = false →
     e.pin = false →
     sweptNow s.itv p = false →
     freeFrame s.itv false = some f →
     exec .moveStart s = .next { s with
         itv.pool.queue := q
         itv.pool.tier := kset s.itv.pool.tier p { e with moving := true }
         itv.pool.moves := s.itv.pool.moves ++ [{ page := p, toGallery := false, frame := f, next := none }] }) ∧
  (∀ (s : State) (page : Nat) (m : Move) (rest : List Move) (e : TierEntry),
     takeFirst (fun (m : Move) => m.page == page) s.itv.pool.moves = some (m, rest) →
     kget s.itv.pool.tier page = some e →
     m.next = none →
     exec (.moveComplete page) s = .next (bumpPool { s with
         itv.pool.moves := rest
         itv.pool.tier := kset s.itv.pool.tier page { e with moving := false, gallery := m.toGallery, frame := m.frame } } .moves)) ∧
  (∀ (s : State) (part : Fin 16) (x : Sweep) (p : Nat) (rest : List Nat),
     s.itv.pool.sweeps.find? (fun x => x.part == part.val) = some x →
     (sweepNext s.itv x).left = p :: rest →
     (sweepNext s.itv x).block + 1 < 1024 →
     (kget s.itv.pool.tier p).any (·.moving) = false →
     (kget s.itv.pool.blocks (p * 1024 + (sweepNext s.itv x).block)).any (·.poison) = false →
     exec (.sweepStep part .ok) s = .next (
       let y := sweepNext s.itv x
       let v := rekey s.itv part.val (p * 1024 + y.block)
       { s with
         itv := { v with pool.sweeps := v.pool.sweeps.map (fun z => if z.part == part.val then { y with block := y.block + 1 } else z) } })) ∧
  (∀ (s : State) (part : Fin 16) (x : Sweep) (hw : HomeHw),
     s.itv.pool.sweeps.find? (fun x => x.part == part.val) = some x →
     (sweepNext s.itv x).left = [] →
     exec (.sweepStep part hw) s = .next { s with
         itv.pool.sweeps := s.itv.pool.sweeps.filter (fun x => x.part != part.val)
         itv.sec.poolKeys := kset s.itv.sec.poolKeys part.val (if (poolKeysOf s.itv part.val).cur
           then { poolKeysOf s.itv part.val with key0 := none } else { poolKeysOf s.itv part.val with key1 := none }) }) ∧
  (∀ (s : State) (i : Nat) (x : Scrub),
     s.itv.pool.scrubs[i]? = some x →
     x.tier = none →
     exec (.scrubDone i) s = .next (
       let v := { s.itv with pool.scrubs := s.itv.pool.scrubs.eraseIdx i }
       { s with itv := zeroPages v x.lo x.hi })) ∧
  (∀ (s : State) (i : Nat) (x : Scrub),
     s.itv.pool.scrubs[i]? = some x →
     x.tier = some false →
     exec (.scrubDone i) s = .next (checkReady { s with
         itv.pool.scrubs := s.itv.pool.scrubs.eraseIdx i
         itv.pool.stallsScrubbed := true })) ∧
  (∀ (s : State) (b : Nat) (again : Bool),
     exec (.patrolScrub b (.corrected again)) s = .next (bumpPool s
       (if (kget s.itv.pool.tier (b / 1024)).any (·.gallery) then .ceGallery else .ceStalls))) ∧
  (∀ (s : State) (b : Nat),
     exec (.patrolScrub b .lost) s = .next (poisonBlock s b))

/-- SRAM_SCRUB and TABLE_RELOAD. A corrected word is counted SRAM_CE, and one corrected again records a row repair in flash. An uncorrectable word is counted SRAM_UE and what it held is lost: a flow's state drops that seat's requests for (RETRY_MAX + 2) E2E_TIMEOUT, a wardrobe cache line poisons both its blocks, a table entry is unusable until it is reloaded, a directory entry is a dead owner's or sends INV to every seat of its partition. -/
def Obligations.SramErrorsDoWhatTheirBudgetSays : Prop :=
  (∀ (s : State) (d : Fin 2) (part : SramPart),
     exec (.sramScrub d part .good) s = .next s) ∧
  (∀ (s : State) (d : Fin 2) (part : SramPart) (again : Bool),
     exec (.sramScrub d part (.corrected again)) s = .next (
       let u := bump s (coreIdx d.val 12) 1
       if again then { u with itv.flash.rowRepairs := lmod u.itv.flash.rowRepairs d.val (· + 1) } else u)) ∧
  (∀ (s : State) (d : Fin 2) (seat : Fin 72),
     exec (.sramScrub d (.flowState seat) .lost) s = .next (
       let u := bump s (coreIdx d.val 13) 1
       { bumpDel u .flowLost with
         itv.inflows := kset u.itv.inflows seat.val { lostUntil := some (u.now + (itvRetryMax u.itv + 2) * itvE2E u.itv) } })) ∧
  (∀ (s : State) (d : Fin 2) (off : Nat),
     exec (.sramScrub d (.wardrobeCache off) .lost) s = .next
       (poisonBlock (poisonBlock (bump s (coreIdx d.val 13) 1) (off / 128 * 2)) (off / 128 * 2 + 1))) ∧
  (∀ (s : State) (d : Fin 2) (key : Nat),
     exec (.sramScrub d (.routing key) .lost) s = .next (
       let u := bump (bump s (coreIdx d.val 13) 1) (coreIdx d.val 15) 1
       { u with itv.lostTables := (key :: (bump s (coreIdx d.val 13) 1).itv.lostTables).eraseDups })) ∧
  (∀ (s : State) (key : Nat),
     exec (.tableReload key) s = .next { s with itv.lostTables := s.itv.lostTables.filter (· != key) }) ∧
  (∀ (s : State) (d : Fin 2) (key : Nat) (e : DirEntry) (part : Nat),
     dirEntry (bump s (coreIdx d.val 13) 1) key = some e →
     partOfLine (bumpCoh (bump s (coreIdx d.val 13) 1) .dirUe) key = some part →
     e.owner = none →
     e.st ≠ .recall →
     exec (.sramScrub d (.directory key) .lost) s = .next (
       let u := bumpCoh (bump s (coreIdx d.val 13) 1) .dirUe
       openGroup (modDir u (fun d => { d with entries := kdel d.entries key })) 128 key
         ((List.range 72).filter (fun i => partOfSeat u i == part))))

/-- KEY_PUSH, KEY_REVOKE, PARTITION_CLEAR at Belug; repeats, USE_AFTER, the end of a strike, the debug port. A push with a newer EPOCH whose entry opens installs its key. KEY_REVOKE strikes Belug: the partition's keys, unsent pieces and caches go; PARTITION_CLEAR ends that once. A push not acknowledged in E2E_TIMEOUT goes again, up to RETRY_MAX times. At USE_AFTER a key is in force, and after (RETRY_MAX + 2) E2E_TIMEOUT its predecessor is erased. A strike ends two flight times after the last drop with scrubs of its carves begun. A good debug token erases every key. -/
def Obligations.KeysGoInForceAndAreErased : Prop :=
  (∀ (s : State) (r : Fin 24) (f : Flit) (t : Nat) (key : BitVec 256),
     s.blg.inbox.find? (fun x => x.1 == f) = some (f, t, r.val) →
     f.kind = Kind.svc ∧ f.svc = 0x0301 →
     (takeInbox s .blg f).blg.struck ≠ some (byteAt f.payload 2) →
     natAt (slice f.payload 16 96) 16 8 = ((blgPort (takeInbox s .blg f) r.val).partner.map (·.serial.toNat)).getD 0 →
     kget (takeInbox s .blg f).blg.keyEpochs (blobJob (slice f.payload 16 96)) = none →
     blobHeadOk (slice f.payload 16 96) 0 false = true →
     blobPart (slice f.payload 16 96) = byteAt f.payload 2 →
     natAt (slice f.payload 112 48) 0 8 = (takeInbox s .blg f).blg.fuse.serial.toNat →
     openEntry (takeInbox s .blg f).blg.fuse.serial (slice f.payload 16 96) (slice f.payload 112 48) = some key →
     (takeInbox s .blg f).blg.keys.length < 64 →
     exec (.keyPush r f) s = .next (settle (
       let b := slice f.payload 16 96
       let u := installKey (takeInbox s .blg f) .blg (blobJob b) (byteAt f.payload 2) key (blobEpoch b) (blobUseAfter b)
       { u with blg.keyEpochs := kset u.blg.keyEpochs (blobJob b) (blobEpoch b) }))) ∧
  (∀ (s : State) (f : Flit) (x : Flit × Nat × Nat),
     f.kind = Kind.svc ∧ f.svc = 0x0302 →
     s.blg.inbox.find? (fun x => x.1 == f) = some x →
     (takeInbox s .blg f).blg.struck = none →
     exec (.keyRevoke f) s = .next (settle (
       let u := takeInbox s .blg f
       let part := byteAt f.payload 2
       dropCaches ((List.range 32).foldl (fun s n => (List.range 16).foldl (fun s k => strikeSlot s part n k) s)
         (erasePartKeys { u with blg.struck := some part, blg.cleared := false } .blg part)) St.struck))) ∧
  (∀ (s : State) (f : Flit) (x : Flit × Nat × Nat),
     f.kind = Kind.svc ∧ f.svc = 0x0302 →
     s.blg.inbox.find? (fun x => x.1 == f) = some x →
     (takeInbox s .blg f).blg.struck.isSome = true →
     exec (.keyRevoke f) s = .next (settle (takeInbox s .blg f))) ∧
  (∀ (s : State) (f : Flit) (x : Flit × Nat × Nat),
     f.kind = Kind.svc ∧ f.svc = 0x0303 →
     s.blg.inbox.find? (fun x => x.1 == f) = some x →
     (takeInbox s .blg f).blg.cleared = false →
     exec (.partitionClear f) s = .next (settle (
       let g := takeCoherent (takeInbox s .blg f)
       { dropCaches (g.2.foldl (fun s o => oneDone s o St.domainDown none) g.1) St.domainDown with
         blg.struck := none
         blg.cleared := true }))) ∧
  (∀ (s : State) (i : Nat) (x : Push),
     s.itv.sec.pushes[i]? = some x →
     x.lastSend + itvE2E s.itv ≤ s.now →
     x.sends ≤ itvRetryMax s.itv →
     exec (.keyPushRepeat i) s = .next (sendSeat
       { s with itv.sec.pushes := s.itv.sec.pushes.set i { x with sends := x.sends + 1, lastSend := s.now } } x.port x.flit)) ∧
  (∀ (s : State) (i : Nat) (x : Push),
     s.itv.sec.pushes[i]? = some x →
     x.lastSend + itvE2E s.itv ≤ s.now →
     itvRetryMax s.itv < x.sends →
     exec (.keyPushRepeat i) s = .next { s with itv.sec.pushes := s.itv.sec.pushes.eraseIdx i }) ∧
  (∀ (s : State) (d : Side) (ctx : BitVec 16) (k : JobKey),
     kget (keysOf s d) ctx.toNat = some k →
     k.useAfter ≤ cueCount s d →
     exec (.keyUseAfter d ctx) s = .next (setKeys s d (kset (keysOf s d) ctx.toNat { k with inForce := true, strictSince := true }))) ∧
  (∀ (s : State) (d : Side) (ctx : BitVec 16) (k : JobKey),
     kget (keysOf s d) ctx.toNat = some k →
     k.inForce = true →
     k.useAfter + (sideRetry s d + 2) * sideE2E s d ≤ cueCount s d →
     exec (.previousKeyErase d ctx) s = .next (setKeys s d (kset (keysOf s d) ctx.toNat { k with prev := none, prevBase := [], prevRx := [] }))) ∧
  (∀ (s : State) (p : Fin 16) (x : StrikeRun),
     s.itv.sec.strikes.find? (fun x => x.part == p.val) = some x →
     x.lastDrop + 2 * s.itv.routing.maxFlight ≤ s.now →
     exec (.strikeSettle p) s = .next (finishKept { s with
         itv.sec.strikes := s.itv.sec.strikes.filter (fun x => x.part != p.val)
         itv.flash.pins := kdel s.itv.flash.pins p.val
         itv.pool.scrubs := s.itv.pool.scrubs ++ (s.itv.pool.carves.filter (fun k => k.2.part == p.val)).map (fun k =>
           ({ lo := k.2.base / 65536, hi := (k.2.base + k.2.len) / 65536 } : Scrub)) } x.slot x.sess { status := St.ok })) ∧
  (∀ (s : State) (token : Bytes),
     Config.debugTokenGood s.itv.fuse.serial token = true →
     exec (.debugUnlock token) s = .next { s with
         itv.sec.jobKeys := []
         itv.sec.poolKeys := []
         itv.sec.blobs := []
         itv.pool.sweeps := []
         itv.sec.pushes := s.itv.sec.pushes.filter (fun x => x.flit.svc != 0x0301)
         itv.boot.debugUnlocked := true })

/-- POWER_SAMPLE, SPRINT_ACCOUNT, CAP_MISSED, FLOOR_END, HEARTBEAT_LOST and the coolant. A sample adds the ghost light of R655 to the real load, keeps the newest 100 and, held in reset, does nothing. In floor state no ghost light runs. SPRINT_LEFT falls 1 s for a second above 900 W and else rises 0.1 s, within 0 and 2 s. A cap missed 5 ms after acceptance is recorded; the end of the shed leaves floor state. Ten seconds without a heartbeat are recorded and fill STATE. -/
def Obligations.SamplesGovernPowerAndGhostLight : Prop :=
  (∀ (s : State) (real : Nat),
     s.itv.boot.held = false →
     ∃ t, exec (.powerSample real) s = .next t ∧ t.itv.pwr.ghostT = (ghostStep s.itv.pwr (real * 100)).1 ∧
       t.itv.pwr.ghostG = (ghostStep s.itv.pwr (real * 100)).2 ∧
       t.itv.pwr.samples = ((ghostStep s.itv.pwr (real * 100)).1 / 100 :: s.itv.pwr.samples).take 100) ∧
  (∀ (s : State) (real : Nat),
     s.itv.boot.held = true →
     exec (.powerSample real) s = .next s) ∧
  (∀ (p : Power) (r : Nat),
     floorActive p = true →
     ghostStep p r = (r, 0)) ∧
  (∀ (p : Power) (r : Nat),
     floorActive p = false →
     p.beatMissing = false →
     ghostStep p r = (
       let e := min p.floor (min p.cap 900) * 100
       let t := max r (min (min 900 p.cap * 100) (max (p.ghostT - p.downSlew) (min e (p.ghostT + p.upSlew))))
       (t, t - r))) ∧
  (∀ (s : State),
     s.itv.pwr.sprinting = false →
     exec .sprintAccount s = .next { s with
         itv.pwr.sprint := if drawOf s.itv.pwr > 900 then s.itv.pwr.sprint - 10 else min (s.itv.pwr.sprint + 1) 20 }) ∧
  (∀ (s u : State),
     u = { s with itv.pwr.sprint := if drawOf s.itv.pwr > 900 then s.itv.pwr.sprint - 10 else min (s.itv.pwr.sprint + 1) 20 } →
     s.itv.pwr.sprinting = true →
     sprintAllowed u = false →
     exec .sprintAccount s = .next (
       putRecord { u with itv.pwr.sprinting := false, itv.pwr.sprintEndAt := some u.now } (powerRecord u 1 0 none))) ∧
  (∀ (s : State),
     s.itv.pwr.capJudge = true →
     s.itv.pwr.capAt + 5000000 ≤ s.now →
     s.itv.pwr.cap < drawOf s.itv.pwr →
     exec .capMissed s = .next (
       let u := { s with itv.pwr.capJudge := false }
       putRecord { u with itv.pwr.overKind := 8 } (powerRecord u 8 (mJ (s.itv.pwr.overshoot.getD 0)) none))) ∧
  (∀ (s : State),
     s.itv.pwr.capJudge = true →
     s.itv.pwr.capAt + 5000000 ≤ s.now →
     drawOf s.itv.pwr ≤ s.itv.pwr.cap →
     exec .capMissed s = .next { s with itv.pwr.capJudge := false }) ∧
  (∀ (s : State) (t : Nat),
     s.itv.pwr.shedUntil = some t →
     t ≤ s.now →
     exec .floorEnd s = .next (applySet (refloor s (endRecord { s with itv.pwr.shedUntil := none } 2 s.itv.pwr.capAt)))) ∧
  (∀ (s u : State),
     floorActive s.itv.pwr = true →
     floorActive u.itv.pwr = false →
     refloor s u = applyStored { u with
       itv.pwr.chorusPaused := false
       itv.pwr.floorEndAt := some u.now }) ∧
  (∀ (s u : State),
     floorActive u.itv.pwr = true →
     refloor s u = { u with
       itv.pwr.chorusPaused := true
       itv.pwr.throttle := true
       itv.pwr.ghostG := 0
       itv.pwr.floorEndAt := none }) ∧
  (∀ (s : State),
     s.itv.pwr.beatMissing = false →
     s.itv.boot.yalny = true →
     s.itv.pwr.beatAt + 10000000000 ≤ s.now →
     exec .heartbeatLost s = .next (
       let u := { s with itv.pwr.beatMissing := true, itv.pwr.lostBeatAt := s.now }
       noteState s (putRecord u (powerRecord u 5 0 none)))) ∧
  (∀ (s : State) (v : Nat),
     s.itv.pwr.sprinting = false →
     exec (.coolantIn v) s = .next { s with
         itv.pwr.coolant := v
         itv.pwr.coolantAt := some s.now }) ∧
  (∀ (s : State),
     s.itv.pwr.sprinting = true →
     sprintAllowed s = false →
     exec .coolantStale s = .next (putRecord { s with itv.pwr.sprinting := false, itv.pwr.sprintEndAt := some s.now } (powerRecord s 1 0 none)))

/-- TJ_SAMPLE, THERMAL_TRIP, PWR_SHED_N, brown-out, rails and the regulator. At 105.0 C floor state begins with its record and chorus pauses; at 120.0 C and on THERMAL_TRIP the pin is asserted and the chip held in whole-chip reset. PWR_SHED_N starts floor state, and its release writes the record with the time held. A brown-out resets the chip, a rail fault too, and after a trip the chip stays in reset. An unacknowledged AVSBus write is sent again with the throttle on. -/
def Obligations.ThermalLimitsPinsAndRailsAct : Prop :=
  (∀ (s : State) (tj : Nat),
     s.itv.boot.held = false →
     1050 ≤ tj ∧ tj < 1200 →
     (s.itv.pwr.therm = .normal ∨ s.itv.pwr.therm = .hot) →
     exec (.tjSample tj) s = .next (
       let u := { s with itv.pwr.tj := tj }
       let v := { u with itv.pwr.therm := .floor, itv.pwr.coolSince := none, itv.pwr.floorSince := u.now }
       sprintCheck (refloor u (putRecord v (powerRecord v 4 0 none))))) ∧
  (∀ (s : State) (tj : Nat),
     s.itv.boot.held = false →
     1000 ≤ tj ∧ tj < 1050 →
     s.itv.pwr.therm = .normal →
     exec (.tjSample tj) s = .next (sprintCheck { s with
         itv.pwr.tj := tj
         itv.pwr.therm := .hot
         itv.pwr.coolSince := none })) ∧
  (∀ (s : State) (tj : Nat),
     s.itv.boot.held = false →
     tj < 1000 →
     s.itv.pwr.therm = .normal →
     exec (.tjSample tj) s = .next { s with itv.pwr.tj := tj }) ∧
  (∀ (s : State) (tj : Nat),
     s.itv.boot.held = false →
     1200 ≤ tj →
     exec (.tjSample tj) s = .next (tripOp { s with itv.pwr.tj := tj })) ∧
  (∀ (s : State),
     exec .thermalTrip s = .next (wholeReset (emit { s with itv.pwr.tripPin := true } .thermTrip) true)) ∧
  (∀ (s : State),
     s.itv.pwr.pinSince = none →
     exec .pwrShedN s = .next { s with
         itv.pwr.pinSince := some s.now
         itv.pwr.pinRec := powerRecord s 3 0 none
         itv.pwr.chorusPaused := true
         itv.pwr.throttle := true
         itv.pwr.ghostG := 0
         itv.pwr.floorEndAt := none }) ∧
  (∀ (s : State),
     s.itv.pwr.pinSince.isSome = true →
     exec .pwrShedN s = .next s) ∧
  (∀ (s : State) (t : Nat),
     s.itv.pwr.pinSince = some t →
     exec .pwrShedRelease s = .next (applySet (refloor s (putRecord { s with itv.pwr.pinSince := none }
       (putAt s.itv.pwr.pinRec 20 (leBytes 4 ((s.now - t) / 1000 - 1000))))))) ∧
  (∀ (s : State),
     exec .brownOut s = .next (wholeReset { s with itv.pwr.tripPin := false } false)) ∧
  (∀ (s : State) (r : Rail),
     exec (.railFault r) s = .next (wholeReset s s.itv.pwr.tripPin)) ∧
  (∀ (s : State),
     exec (.avsRetry true) s = .next { s with itv.pwr.avsWait := false }) ∧
  (∀ (s : State),
     exec (.avsRetry false) s = .next (raiseEvent (emit { s with
         itv.pwr.avsWait := true
         itv.pwr.throttle := true } (.avs (s.itv.pwr.vdd / 1000))) Ev.power)) ∧
  (∀ (s : State) (e : EstInputs),
     s.itv.boot.yalny = true →
     s.itv.mgmt.estAt + 3600000000000 ≤ s.now →
     exec (.estimatorUpdate e) s = .next (
       let f := s.itv.flash
       let high := f.highHours + b2n e.vddHigh
       let wear := f.wearHours + (if e.vddHigh then 4 else 1)
       let hist := f.history ++ [[e.paceDrift, e.serdesTrend, e.correctedPerDay, f.rowRepairs.sum, high]]
       let out := if f.hours + 1 < 168 then (0, 0, 0) else Config.lifeProjection hist wear
       { s with
         itv.flash.hours := f.hours + 1
         itv.flash.wearHours := wear
         itv.flash.highHours := high
         itv.flash.history := hist
         itv.mgmt.estAt := s.now
         itv.mgmt.lifeDate := out.1
         itv.mgmt.lifeLow := out.2.1
         itv.mgmt.lifeHigh := out.2.2 }))

/-- RESET_N, the ROM, the loader, Yalny, the stalls and the gallery. RESET_N low holds the chip in whole-chip reset; released, unless a trip holds it, start-up begins with the strap sampled. The ROM goes on to the loader, or to greenroom by the strap or where the loader does not verify; the loader starts the slot of R704 or enters greenroom. Yalny starts on what is stored. The scrubs of stalls and gallery begin, and READY is entered when all is settled. Requests may originate 200 ms after release. -/
def Obligations.StartUpGoesFromResetToReady : Prop :=
  (∀ (s : State) (strap : Bool),
     exec (.resetN false strap) s = .next (wholeReset s true)) ∧
  (∀ (s : State) (strap : Bool),
     s.itv.boot.held = true →
     s.itv.pwr.tripPin = false →
     exec (.resetN true strap) s = .next { s with
         itv.boot.held := false
         itv.boot.releasedAt := s.now
         itv.boot.strapLow := strap }) ∧
  (∀ (s : State) (strap : Bool),
     s.itv.pwr.tripPin = true →
     exec (.resetN true strap) s = .next s) ∧
  (∀ (s : State),
     s.itv.boot.held = false →
     s.itv.boot.romDone = false →
     s.itv.boot.mode = .starting →
     (s.itv.boot.lostA = false ∨ s.itv.boot.lostB = false) →
     s.itv.boot.strapLow = false →
     exec (.romPhase true) s = .next { s with itv.boot.romDone := true }) ∧
  (∀ (s : State) (ok : Bool),
     s.itv.boot.held = false →
     s.itv.boot.romDone = false →
     s.itv.boot.mode = .starting →
     (s.itv.boot.lostA = false ∨ s.itv.boot.lostB = false) →
     (s.itv.boot.strapLow = true ∨ ok = false) →
     exec (.romPhase ok) s = .next (enterGreenroom { s with itv.boot.romDone := true })) ∧
  (∀ (s : State) (chk : SlotCheck) (f : Flash) (k : Nat),
     s.itv.boot.held = false →
     s.itv.boot.romDone = true →
     s.itv.boot.loaderDone = false →
     s.itv.boot.mode = .starting →
     chooseSlot s.itv.flash chk = (f, some k, false) →
     exec (.loaderPhase chk) s = .next { s with
         itv.boot.slot := k
         itv.flash := convertStore f k
         itv.boot.loaderDone := true }) ∧
  (∀ (s : State) (chk : SlotCheck) (f : Flash),
     s.itv.boot.held = false →
     s.itv.boot.romDone = true →
     s.itv.boot.loaderDone = false →
     s.itv.boot.mode = .starting →
     chooseSlot s.itv.flash chk = (f, none, false) →
     exec (.loaderPhase chk) s = .next (enterGreenroom { s with itv.flash := f })) ∧
  (∀ (f : Flash) (chk : SlotCheck),
     f.trialSlot = none →
     slotPasses f chk f.activeSlot = true →
     chooseSlot f chk = (f, some f.activeSlot, false)) ∧
  (∀ (f : Flash) (chk : SlotCheck) (t : Nat),
     f.trialSlot = some t →
     f.trialArmed = true →
     slotPasses { f with trialArmed := false } chk t = true →
     chooseSlot f chk = ({ f with trialArmed := false }, some t, false)) ∧
  (∀ (s : State),
     s.itv.boot.held = false →
     s.itv.boot.loaderDone = true →
     s.itv.boot.started = false →
     s.itv.boot.mode = .starting →
     exec (.yalnyStart true) s = .next (
       let u := applyPower (applyLicences (loadStoredChart s))
       noteState s (noteTrial { u with
         itv.boot.started := true
         itv.boot.yalny := true
         itv.pwr.beatAt := u.now
         itv.boot.clusterMap := (placeClusters u.itv).1
         itv.coll.retired := (placeClusters u.itv).2
         itv.wards := if holdsChorus u.itv then kset u.itv.wards 16 (newWardrobe 0 0 reducerCounts) else u.itv.wards }))) ∧
  (∀ (s : State),
     s.itv.boot.started = true →
     s.itv.boot.stallsTrained = false →
     s.itv.boot.stallsFailed = false →
     exec (.stallsTrained true) s = .next { s with
         itv.boot.stallsTrained := true
         itv.pool.scrubs := s.itv.pool.scrubs ++ [{ lo := 0, hi := stallsFrames, tier := some false }] }) ∧
  (∀ (s : State),
     s.itv.boot.started = true →
     s.itv.boot.stallsTrained = false →
     s.itv.boot.stallsFailed = false →
     exec (.stallsTrained false) s = .next (checkReady (raiseEvent { s with itv.boot.stallsFailed := true } Ev.memory))) ∧
  (∀ (s : State) (p : Population),
     s.itv.boot.started = true →
     s.itv.boot.galleryDone = false →
     supported p = true →
     exec (.galleryTrained (some p) true) s = .next (checkReady (noteState s { s with
         itv.boot.galleryDone := true
         itv.pool.found := some p
         itv.pool.galleryGiB := 8 * p.perChannel * p.gib
         itv.pool.scrubs := s.itv.pool.scrubs ++ [{ lo := 0, hi := 8 * p.perChannel * p.gib * 16384, tier := some true }] }))) ∧
  (∀ (s : State),
     s.itv.boot.mode = .starting →
     s.itv.boot.yalny = true →
     (s.itv.boot.stallsTrained = true ∧ s.itv.pool.stallsScrubbed = true ∨ s.itv.boot.stallsFailed = true) →
     s.itv.boot.galleryDone = true →
     s.itv.boot.bookDone = true →
     checkReady s = noteState s { s with itv.boot.mode := .ready }) ∧
  (∀ (s : State),
     s.itv.boot.held = false →
     s.itv.boot.releasedAt + 200000000 ≤ s.now →
     exec .originateAllowed s = .next { s with itv.boot.originate := true }) ∧
  (∀ (s : State),
     s.now < s.itv.boot.releasedAt + 200000000 →
     exec .originateAllowed s = .next s)

/-- WATCHDOG_EXPIRY, PROMPTER_RESTART and BOW_DEADLINE. A watchdog expiry is a prompter reset. After it the loader chooses a slot and Yalny accepts commands again, a trial script with BOW_PENDING; the command that asked for the restart ends OK. 120 s without a bow Yalny stops serving the watchdog. -/
def Obligations.PromptersRestartAndTrialsEnd : Prop :=
  (∀ (s : State),
     s.itv.boot.yalny = true →
     exec .watchdogExpiry s = .next (prompterReset s none)) ∧
  (∀ (s : State) (chk : SlotCheck) (f : Flash) (k : Nat),
     s.itv.boot.restarting = true →
     s.itv.boot.restartSlot = none →
     chooseSlot s.itv.flash chk = (f, some k, false) →
     s.itv.boot.mode ≠ .greenroom →
     exec (.prompterRestart chk) s = .next (
       let u := noteTrial { s with
         itv.boot.restarting := false
         itv.boot.slot := k
         itv.flash := convertStore f k
         itv.boot.loaderDone := true
         itv.boot.yalny := true
         itv.boot.mode := .starting
         itv.pwr.beatAt := s.now }
       let v := noteState s (checkReady u)
       match v.itv.boot.restartSlot with
       | some n => finishKept { v with itv.boot.restartSlot := none } (some n) none { status := St.ok }
       | none => { v with itv.boot.restartSlot := none })) ∧
  (∀ (s : State) (keep : Option Nat),
     (prompterReset s keep).itv.boot.restarting = true ∧ (prompterReset s keep).itv.boot.mode = .switching ∧
       (prompterReset s keep).itv.boot.yalny = false) ∧
  (∀ (s : State),
     s.itv.boot.bowPending = true →
     s.itv.boot.watchdogStopped = none →
     s.itv.boot.bowAt + 120000000000 ≤ s.now →
     exec .bowDeadline s = .next { s with itv.boot.watchdogStopped := some s.now })

/-- OFFER, DATA, ACK, HAVE, REFUSE, the relay's timers and the staged script. A sender offers again every 10 s, sends a window again after E2E_TIMEOUT and, 10 min without an ACK or HAVE, raises FIRMWARE and takes the next switch. An ACK of the successor brings the next window or the end. A receiver answers HAVE for an image it holds, REFUSE while it is busy, else it begins and answers ACK; DATA in order joins what it has. A staged script's slot is STAGED once the flash write is read back. -/
def Obligations.TheScriptRelayPassesImagesOn : Prop :=
  (∀ (s : State) (img : Img) (w : BitVec 16),
     s.itv.relay.sending = some img →
     relayNext s.itv s.itv.relay.hop = some w →
     s.itv.relay.flowing = false →
     s.itv.relay.offerAt + 10000000000 ≤ s.now →
     exec .relayOfferTimer s = .next (
       let u := itvSend s (serviceFlit s w (relayPayload 0x0401 img.version img.body.length [(16, pad 48 img.digest)]))
       { u with itv.relay.offerAt := u.now })) ∧
  (∀ (s : State) (img : Img),
     s.itv.relay.sending = some img →
     s.itv.relay.answerAt + 600000000000 ≤ s.now →
     exec .relaySkip s = .next (
       let u := raiseEvent { s with
         itv.relay.hop := s.itv.relay.hop + 1
         itv.relay.acked := 0
         itv.relay.flowing := false
         itv.relay.answerAt := s.now } Ev.firmware
       match relayNext u.itv u.itv.relay.hop with
       | some w => sendOfferTo u img w
       | none => endRelay u)) ∧
  (∀ (s : State) (img : Img) (w : BitVec 16),
     s.itv.relay.sending = some img →
     relayNext s.itv s.itv.relay.hop = some w →
     s.itv.relay.flowing = true →
     s.itv.relay.windowAt + itvE2E s.itv ≤ s.now →
     exec .relayWindowTimeout s = .next (sendWindow s img w s.itv.relay.acked)) ∧
  (∀ (s : State) (f : Flit) (img : Img) (w : BitVec 16),
     f ∈ s.itv.core.inbox →
     fromSuccessor (takeInbox s .itv f) f = some (img, w) →
     natAt f.payload 8 4 < img.body.length →
     exec (.relayAck f) s = .next (sendWindow { takeInbox s .itv f with itv.relay.answerAt := (takeInbox s .itv f).now } img w (natAt f.payload 8 4))) ∧
  (∀ (s : State) (f : Flit) (img : Img) (w : BitVec 16),
     f ∈ s.itv.core.inbox →
     fromSuccessor (takeInbox s .itv f) f = some (img, w) →
     img.body.length ≤ natAt f.payload 8 4 →
     exec (.relayAck f) s = .next (endRelay { takeInbox s .itv f with itv.relay.answerAt := (takeInbox s .itv f).now })) ∧
  (∀ (s : State) (f : Flit) (img : Img) (w : BitVec 16),
     f ∈ s.itv.core.inbox →
     fromSuccessor (takeInbox s .itv f) f = some (img, w) →
     slice f.payload 16 48 = pad 48 img.digest →
     exec (.relayHave f) s = .next (endRelay (takeInbox s .itv f))) ∧
  (∀ (s : State) (f : Flit),
     f ∈ s.itv.core.inbox →
     exec (.relayRefuse f) s = .next (takeInbox s .itv f)) ∧
  (∀ (s : State) (f : Flit),
     f ∈ s.itv.core.inbox →
     holdsDigest (takeInbox s .itv f).itv (slice f.payload 16 48) = none →
     (takeInbox s .itv f).itv.relay.receiving = false →
     (takeInbox s .itv f).itv.relay.sending = none →
     (takeInbox s .itv f).itv.relay.staging = none →
     (takeInbox s .itv f).itv.boot.bowPending = false →
     exec (.relayOffer f) s = .next (answerRelay { takeInbox s .itv f with
         itv.relay.receiving := true
         itv.relay.got := []
         itv.relay.total := natAt f.payload 8 4
         itv.relay.version := natAt f.payload 4 4
         itv.relay.digest := slice f.payload 16 48
         itv.relay.from_ := f.src } f 0x0403 0 [])) ∧
  (∀ (s : State) (f : Flit),
     f ∈ s.itv.core.inbox →
     holdsDigest (takeInbox s .itv f).itv (slice f.payload 16 48) = none →
     (takeInbox s .itv f).itv.relay.receiving = false →
     (takeInbox s .itv f).itv.boot.bowPending = true ∨ (takeInbox s .itv f).itv.relay.sending.isSome = true ∨
       (takeInbox s .itv f).itv.relay.staging.isSome = true →
     exec (.relayOffer f) s = .next (answerRelay (takeInbox s .itv f) f 0x0405 0 [])) ∧
  (∀ (s : State) (f : Flit),
     f ∈ s.itv.core.inbox →
     s.itv.relay.receiving = true →
     s.itv.relay.from_ = f.src →
     natAt f.payload 8 4 = s.itv.relay.got.length →
     s.itv.relay.got.length + 192 < s.itv.relay.total →
     (s.itv.relay.got ++ slice f.payload 16 192).length % 786432 ≠ 0 →
     (s.itv.relay.got ++ slice f.payload 16 192).length < s.itv.relay.total →
     exec (.relayData f) s = .next { takeInbox s .itv f with
         itv.relay.got := s.itv.relay.got ++ slice f.payload 16 192 }) ∧
  (∀ (s : State) (slot : Nat) (img : Img),
     s.itv.relay.staging = some (slot, img) →
     slot < 2 →
     s.itv.relay.byRelay = false →
     exec (.scriptStaged true) s = .next (finishKept { s with
         itv.relay.staging := none
         itv.relay.stageSlot := none
         itv.relay.stageSess := none
         itv.relay.byRelay := false
         itv.flash := modImg s.itv.flash slot (fun _ => { img with st := .staged }) } s.itv.relay.stageSlot s.itv.relay.stageSess { status := St.ok })) ∧
  (∀ (s : State) (slot : Nat) (img : Img),
     s.itv.relay.staging = some (slot, img) →
     exec (.scriptStaged false) s = .next (finishKept (drawFree { s with
         itv.relay.staging := none
         itv.relay.stageSlot := none
         itv.relay.stageSess := none
         itv.relay.byRelay := false }) s.itv.relay.stageSlot s.itv.relay.stageSess { status := (freeVal s).toNat % 256 }))

/-- Sessions of the management plane and their messages. A connection whose handshake passes opens a session, a fifth is closed. The first HELLO claims the role and is acknowledged. A COMMAND runs as from a slot and its RESULT answers it; POWER_SET of the rack manager stores and sets its valid groups; SUBSCRIBE replaces the subscription, and each PERIOD a snapshot goes. A session with a RESULT unread 10 s closes, an ANCHOR_SET closes all, and an unknown TYPE is answered BADARG. -/
def Obligations.SessionsCarryCommandsAndSettings : Prop :=
  (∀ (s : State),
     mgmtServed s = true →
     s.itv.mgmt.sessions.length < 4 →
     (s.itv.flash.anchor.isSome = true ∨ inGreen s = true) →
     exec (.sessionOpen true) s = .next { s with
         itv.mgmt.nextSession := s.itv.mgmt.nextSession + 1
         itv.mgmt.sessions := kset s.itv.mgmt.sessions s.itv.mgmt.nextSession {} }) ∧
  (∀ (s : State) (ok : Bool),
     mgmtServed s = true →
     4 ≤ s.itv.mgmt.sessions.length →
     exec (.sessionOpen ok) s = .next (emit { s with itv.mgmt.nextSession := s.itv.mgmt.nextSession + 1 } (.closed s.itv.mgmt.nextSession))) ∧
  (∀ (s : State) (k : Nat),
     exec (.sessionClose k) s = .next { s with itv.mgmt.sessions := kdel s.itv.mgmt.sessions k }) ∧
  (∀ (s : State) (k : Nat) (seq : Word) (body : Bytes) (x : Session),
     getSess s k = some x →
     x.hello = false →
     byteAt body 0 ≤ 1 →
     firstSet body 1 7 = none →
     (byteAt body 0 = 0 ∨ s.itv.mgmt.sessions.any (fun y => y.2.rack) = false) →
     exec (.hello k seq body) s = .next (sendNymco (modSess s k (fun x => { x with hello := true, rack := byteAt body 0 == 1 })) k 0x02
       (identResult (modSess s k (fun x => { x with hello := true, rack := byteAt body 0 == 1 })).itv))) ∧
  (∀ (s : State) (k : Nat) (seq : Word) (body : Bytes) (x : Session),
     getSess s k = some x →
     x.hello = false →
     byteAt body 0 = 1 →
     firstSet body 1 7 = none →
     s.itv.mgmt.sessions.any (fun y => y.2.rack) = true →
     exec (.hello k seq body) s = .next (closeSession s k)) ∧
  (∀ (s : State) (k : Nat) (seq : Word) (body : Bytes) (x : Session) (f : Cmd) (row : CmdRow),
     getSess s k = some x →
     x.hello = true →
     8 + natAt body 4 4 ≤ body.length →
     natAt body 2 2 = 0 →
     mgmtCmd (natAt body 0 2) (slice body 8 (natAt body 4 4)) = some f →
     rowOf (natAt body 0 2) = some row →
     inGreen s = false →
     mgmtServed s = true →
     x.cmds.length < 8 →
     exec (.command k seq body) s = .next (runCmd (modSess s k (fun x => { x with cmds := x.cmds ++ [(natAt body 0 2, seq)] }))
       { payload := clipLen (natAt body 0 2) (slice body 8 (natAt body 4 4)) (body.drop (8 + natAt body 4 4)), who := .sess k seq,
         host := .ok (body.drop (8 + natAt body 4 4)) } (natAt body 4 4) row f)) ∧
  (∀ (s : State) (k : Nat) (seq : Word) (body : Bytes) (x : Session),
     getSess s k = some x →
     x.hello = true →
     8 + natAt body 4 4 ≤ body.length →
     natAt body 2 2 = 0 →
     mgmtCmd (natAt body 0 2) (slice body 8 (natAt body 4 4)) = none →
     exec (.command k seq body) s = .next (sessReply s k seq { status := St.denied })) ∧
  (∀ (s : State) (k : Nat) (x : Session),
     getSess s k = some x →
     x.hello = true →
     x.rack = true →
     s.itv.pwr.beatMissing = false →
     exec (.heartbeat k) s = .next { s with
         itv.pwr.beatAt := s.now
         itv.pwr.beatMissing := false }) ∧
  (∀ (s : State) (k : Nat) (seq : Word) (body : Bytes) (x : Session) (v c : Option Nat),
     getSess s k = some x →
     x.hello = true →
     x.rack = true →
     inGreen s = false →
     powerSetBad body = none →
     powerSetParts body = (v, c, none) →
     (v.isSome = true ∨ c.isSome = true) →
     exec (.powerSet k seq body) s = .next (
       let u := setLevels (modStore s (fun st => { st with vset := v.or st.vset, cap := c.or st.cap, ghost := st.ghost })) v c
       sessReply u k seq { status := St.ok, detail := 0, result := newestRecord u })) ∧
  (∀ (s : State) (k : Nat) (seq : Word) (body : Bytes) (x : Session),
     getSess s k = some x →
     x.hello = true →
     x.rack = false →
     exec (.powerSet k seq body) s = .next (sessReply s k seq { status := St.denied })) ∧
  (∀ (s : State) (k : Nat) (seq : Word) (body : Bytes) (x : Session),
     getSess s k = some x →
     x.hello = true →
     inGreen s = false →
     subscribeBad body = none →
     exec (.subscribe k seq body) s = .next (sessReply (modSess s k (fun x =>
         { x with streams := BitVec.ofNat 8 (byteAt body 0), sets := BitVec.ofNat 8 (byteAt body 1), period := natAt body 4 4, snapAt := s.now })) k seq
       { status := St.ok })) ∧
  (∀ (s : State) (k : Nat) (x : Session),
     getSess s k = some x →
     x.streams.getLsbD 4 = true →
     x.snapAt + x.period * 1000000 ≤ s.now →
     exec (.telemetrySnapshot k) s = .next (
       let sets := (List.range 8).filter (fun i => x.sets.getLsbD i)
       sendNymco (modSess s k (fun x => { x with snapAt := s.now })) k 0x31
         (leBytes 1 4 ++ zeros 3 ++ leBytes 4 sets.length ++ sets.flatMap (snapshotOf s.itv)))) ∧
  (∀ (s : State) (k : Nat) (t : Nat),
     (getSess s k).bind (·.unread) = some t →
     t + 10000000000 ≤ s.now →
     exec (.resultUnreadTimeout k) s = .next (closeSession s k)) ∧
  (∀ (s : State) (msg : Bytes),
     mgmtServed s = true →
     exec (.spdm none msg) s = .next (emit (spdmReply s msg).1 (.spdm (spdmReply s msg).2))) ∧
  (∀ (s : State) (k : Nat) (msg : Bytes) (x : Session),
     getSess s k = some x →
     x.hello = true →
     exec (.spdm (some k) msg) s = .next (sendNymco (spdmReply s msg).1 k 0x40 (spdmReply s msg).2)) ∧
  (∀ (s : State) (k : Nat) (seq : Word) (cert : Bytes) (x : Session),
     getSess s k = some x →
     x.hello = true →
     (inGreen s = false ∨ s.itv.flash.anchor = none) →
     Config.isAnchorCert cert = true →
     exec (.anchorSet k seq cert) s = .next (closeAll { sessReply s k seq { status := St.ok } with itv.flash.anchor := some cert })) ∧
  (∀ (s : State) (k typ : Nat) (seq : Word) (x : Session),
     getSess s k = some x →
     x.hello = true →
     exec (.nymcoUnknownType k typ seq) s = .next (sessReply s k seq
         { status := St.badarg, detail := if [0x01, 0x10, 0x20, 0x21, 0x30, 0x40, 0x50].contains typ then 2 else 0 }))

/-- A step runs the command at the front of the queue with the queue's rest. For every command c and state s, a step of s with c at the front of its queue is exec of c on s with the queue's rest (R36: one at a time, in the order of acceptance; the queue is the model's own). -/
def Obligations.AStepRunsTheCommandAtTheFront : Prop :=
  ∀ (s : State) (c : Instr) (cs : List Instr),
    step { s with pending := c :: cs } = exec c { s with pending := cs }

/-- On an empty queue a step is a tick of the block's clock (the model's choice, log 1). On an empty queue the block idles: it answers the next state, the local time is one nanosecond later, and the queue stays empty. That a step on an empty queue is a tick of 1 ns is the model's choice (log 1). -/
def Obligations.OnAnEmptyQueueOneNanosecondPasses : Prop :=
  ∀ (s : State),
    s.pending = [] →
    ∃ t, step s = .next t ∧ t.now = s.now + 1 ∧ t.pending = [] ∧ t.itv.fuse = s.itv.fuse ∧ t.blg.fuse = s.blg.fuse

/-- Every step keeps both chips' fuses, never sets the clock back, and takes one command from the queue's front. For every state and every step that answers a next state: the fuses of Itvos and of Belug are what they were (no command, no reset at any level and no script changes the fused maps, serials or fitted ports); the local time is what it was, or on an empty queue one nanosecond later; and the queue is what it was without its front. No command writes its own successor into the queue. -/
def Obligations.EveryStepKeepsTheFusesTheClockAndTheQueue : Prop :=
  ∀ (s t : State),
    step s = .next t →
    t.itv.fuse = s.itv.fuse ∧ t.blg.fuse = s.blg.fuse ∧ t.pending = s.pending.tail ∧
      t.now = s.now + (if s.pending = [] then 1 else 0)

/-- The state right after reset. Right after reset: every port is DARK, with C(-1) = 4 and C(+1) = 8 on each lane and a wait of 100 ms; the cue counters are 0 and UNSET without a level; Belug's registers stand at their reset values of R524; Itvos's mode reads STARTING with no event pending; the pool memory lists no byte and is in canonical form; the queue is empty. -/
def Obligations.ResetLeavesWhatTheManualGives : Prop :=
  (∀ p : Fin 72, (State.reset.itv.ports.get p).st = .dark ∧ (State.reset.itv.ports.get p).taps = List.replicate 9 (4, 8) ∧
      (State.reset.itv.ports.get p).retryMs = 100) ∧
    (∀ p : Fin 24, (State.reset.blg.ports.get p).st = .dark ∧ (State.reset.blg.ports.get p).taps = List.replicate 9 (4, 8) ∧
      (State.reset.blg.ports.get p).retryMs = 100) ∧
    State.reset.itv.cue.count = 0 ∧ State.reset.itv.cue.st = .unset ∧ State.reset.itv.cue.level = none ∧
    State.reset.blg.cue.count = 0 ∧ State.reset.blg.cue.st = .unset ∧ State.reset.blg.cue.level = none ∧
    State.reset.blg.node = 0xFFFF ∧ State.reset.blg.cause = 0 ∧ State.reset.blg.mask = 0 ∧ State.reset.blg.intChannel = 0 ∧
    State.reset.blg.pmsgChannel = 0 ∧ State.reset.blg.vreq = 720 ∧ State.reset.blg.pace = 0 ∧
    State.reset.blg.homeMap = List.range 24 ∧ State.reset.blg.vcWeight = 0x040C0A0A040E0A ∧ State.reset.blg.e2e = 1000 ∧
    State.reset.blg.retryMax = 3 ∧ State.reset.itv.boot.mode = .starting ∧ State.reset.itv.cb.eventCause = 0 ∧
    State.reset.itv.pool.mem = [] ∧ Memory.wf State.reset.itv.pool.mem = true ∧ queueWf State.reset = true

/-- Byte memory: its canonical form, a read after a write, and that a write leaves every other byte. Every write of bytes and every clearing keeps the canonical form (addresses strictly rising, no listed byte equal to 0, which an unlisted address reads as: the model's choice, log 7); the bytes written read back; every byte outside those written reads as before; the bytes cleared read 0 and every other byte as before. -/
def Obligations.PoolMemoryReadsBackWhatIsWritten : Prop :=
  ∀ (m : Mem) (a n : Nat) (d : Bytes),
    Memory.wf m = true →
    Memory.wf (memWrite m a d) = true ∧ Memory.wf (memZero m a n) = true ∧ memRead (memWrite m a d) a d.length = d ∧
      (∀ x, x < a ∨ a + d.length ≤ x → memGet (memWrite m a d) x = memGet m x) ∧
      (∀ x, a ≤ x ∧ x < a + n → memGet (memZero m a n) x = 0) ∧
      (∀ x, x < a ∨ a + n ≤ x → memGet (memZero m a n) x = memGet m x)

/-- The hop CRC-32 of a flit: its polynomial, its reflections, what it covers and where it stands. The CRC-32 of bytes is the one of a shift register that takes each byte's bits from bit 0 up (reflected input), begins at 0xFFFF_FFFF and divides by 0x04C1_1DB7, its content reflected (reflected output) and XORed with 0xFFFF_FFFF. The flit as sent carries, after bytes 0 to 239, the CRC-32 of those bytes, little-endian, in bytes 240 to 243. -/
def Obligations.TheHopCrcIsTheOneOfTheManual : Prop :=
  (∀ (bs : Bytes),
     crc32 bs = (bs.foldl (fun c b => (List.range 8).foldl (fun (c : BitVec 32) i =>
         if (c.msb ^^ b.getLsbD i) = true then (c <<< 1) ^^^ 0x04C11DB7#32 else c <<< 1) c) 0xFFFFFFFF#32).reverse ^^^ 0xFFFFFFFF#32) ∧
  (∀ (f : Flit),
     (flitWire f).take 240 = flitBody f ∧ slice (flitWire f) 240 4 = leBytes 4 (crc32 ((flitWire f).take 240)).toNat)

/-- What each end offers, and the features enabled on a link. Each end always offers ENC (bit 0) and PRINCIPAL (bit 2); Belug always offers CHORUS (bit 1), an Itvos exactly while it holds the CHORUS licence; FEC_BYPASS (bit 3) is offered only by an Itvos whose chart entry enables it for the port. When OFFER ends, a feature is enabled on the port's link only if this end and its partner both offer it. -/
def Obligations.AFeatureNeedsTheOfferOfBothEnds : Prop :=
  (∀ (s : State) (p : Fin 72) (q : Fin 24),
     (ownOffer s (.itv p)).features.getLsbD 0 = true ∧ (ownOffer s (.itv p)).features.getLsbD 2 = true ∧
       (ownOffer s (.blg q)).features.getLsbD 0 = true ∧ (ownOffer s (.blg q)).features.getLsbD 2 = true ∧
       (ownOffer s (.blg q)).features.getLsbD 1 = true ∧ (ownOffer s (.itv p)).features.getLsbD 1 = holdsChorus s.itv ∧
       (ownOffer s (.itv p)).features.getLsbD 3 = ((chartPort s.itv p.val).map (·.fecBypass)).getD false ∧
       (ownOffer s (.blg q)).features.getLsbD 3 = false) ∧
  (∀ (s : State) (r : PortRef) (o : Offer) (k : Nat),
     (getPort s r).st = .offer →
     (getPort s r).features = 0 →
     (getPort (modeChoice s r o) r).features.getLsbD k = true →
     (ownOffer s r).features.getLsbD k = true ∧ o.features.getLsbD k = true)

/-- script-bow, from either plane: the slots, ROLLBACK and the configuration stores. The bow makes TRIAL_SLOT the ACTIVE_SLOT, marks the old slot STAGED, clears TRIAL_SLOT, burns ROLLBACK up to the script's SVN where that is higher, and releases the old configuration store; from a callboard slot and from a management session alike. -/
def Obligations.TheBowMakesTheTrialScriptActive : Prop :=
  (∀ (s : State) (t : Nat),
     t < 2 →
     s.itv.flash.activeSlot < 2 →
     s.itv.flash.activeSlot ≠ t →
     let f := s.itv.flash
     let g := (takeBow s t).itv.flash
     g.activeSlot = t ∧ (getImg g t).st = .active ∧ (getImg g f.activeSlot).st = .staged ∧ g.trialSlot = none ∧
       g.rollback = (if f.rollback < (getImg f t).svn then (getImg f t).svn else f.rollback) ∧ g.other = none ∧ g.store = f.store) ∧
  (∀ (s : State) (n : Fin 8) (t : Nat),
     posted s n 0x0603 [] →
     s.itv.flash.trialSlot = some t →
     s.itv.boot.bowPending = true →
     s.itv.boot.watchdogStopped = none →
     exec (.scriptBow n) s = .next (endsOk (takeBow (taken s n) t) n)) ∧
  (∀ (s : State) (k : Nat) (seq : Word) (x : Session) (t : Nat),
     getSess s k = some x →
     x.hello = true →
     inGreen s = false →
     mgmtServed s = true →
     x.cmds.length < 8 →
     s.itv.flash.trialSlot = some t →
     s.itv.boot.bowPending = true →
     s.itv.boot.watchdogStopped = none →
     exec (.command k seq [3, 6, 0, 0, 0, 0, 0, 0]) s = .next
       (completeSess (takeBow (modSess s k (fun x => { x with cmds := x.cmds ++ [(0x0603, seq)] })) t) k seq { status := St.ok }))

/-- INT_CAUSE of Belug: INTR on a bit that goes from 0 to 1, its channel, and BELUG_ALERT_N. An enabled cause bit that goes from 0 to 1 sends one INTR on INT_CHANNEL with CAUSE in byte 16 (the first byte of the message's last 48), or, where INT_CHANNEL is DOWN, on the next UP channel; BELUG_ALERT_N is asserted if it was not, whichever channel is UP. A bit already set sends nothing; one cleared and set again sends again, since what is sent depends on the bit alone. -/
def Obligations.AnEnabledCauseSendsOneIntr : Prop :=
  (∀ (s : State) (i : Nat),
     s.blg.cause.getLsbD i = false →
     s.blg.mask.getLsbD i = true →
     raiseIrq s i = (
       let c := setBit s.blg.cause i true
       let u := sendApron { s with blg.cause := c } (upChannel { s with blg.cause := c } s.blg.intChannel.toNat) { typ := 0x38, tail := c :: zeros 47 }
       if alertLow s.blg then u else emit u (.alert .blg true))) ∧
  (∀ (s : State) (i : Nat),
     s.blg.cause.getLsbD i = true →
     raiseIrq s i = s) ∧
  (∀ (s : State) (n : Nat),
     n < 24 →
     (getCh s n).up = true →
     upChannel s n = n) ∧
  (∀ (s : State) (n j : Nat),
     j < 24 →
     (getCh s ((n + j) % 24)).up = true →
     (∀ i < j, (getCh s ((n + i) % 24)).up = false) →
     upChannel s n = (n + j) % 24)

/-- What acceptance and completion leave in a callboard slot, and that the other seven slots stand. Acceptance sets STATUS.CODE to PENDING (0xFF) and SEQ_ECHO to SEQ[31:0] and clears RESULT_LEN, and OWN stays 1. Completion writes the result from payload byte 0 on (bytes beyond it stand), RESULT_LEN, STATUS and DETAIL, and clears OWN; CMD, SEQ and SEQ_ECHO stand. Neither touches another slot. -/
def Obligations.ACommandSlotIsAcceptedAndCompleted : Prop :=
  (∀ (s : State) (n : Fin 8),
     (getSlot (taken s n) n.val).stCode = 0xFF ∧ (getSlot (taken s n) n.val).detail = 0 ∧ (getSlot (taken s n) n.val).resultLen = 0 ∧
       (getSlot (taken s n) n.val).seqEcho = (getSlot s n.val).seq.setWidth 32 ∧ (getSlot (taken s n) n.val).own = (getSlot s n.val).own ∧
       (getSlot (taken s n) n.val).code = (getSlot s n.val).code ∧ (getSlot (taken s n) n.val).payload = (getSlot s n.val).payload ∧
       (∀ m : Fin 8, m ≠ n → getSlot (taken s n) m.val = getSlot s m.val)) ∧
  (∀ (s : State) (n : Fin 8) (r : Reply),
     let x := getSlot s n.val
     let y := getSlot (completeSlot s n.val r) n.val
     y.own = false ∧ y.stCode = BitVec.ofNat 8 r.status ∧ y.detail = BitVec.ofNat 16 r.detail ∧
       y.resultLen = BitVec.ofNat 12 r.result.length ∧ y.payload = memWrite x.payload 0 r.result ∧ y.seqEcho = x.seqEcho ∧ y.seq = x.seq ∧
       y.code = x.code ∧ y.len = x.len ∧ (∀ m : Fin 8, m ≠ n → getSlot (completeSlot s n.val r) m.val = getSlot s m.val))
end

