-- ==== Sys2Proof/Laws/Commands.lean ====
section
/-! SUPPORT. What a command row does once its command is posted: accepted, run, ended. A prover cites `runs` and never unfolds `cmdRow`,
`runCmd` or `checked`. -/

namespace Sys2Proof.Machine

open Sys2Proof

/-! ## The checks of a command -/

@[simp] theorem checked_nil (s : State) (f : Unit → State × Option Reply) : checked s [] f = f () := rfl
@[simp] theorem checked_ok (s : State) (a b : Nat) (cs : List (Bool × Nat × Nat)) (f : Unit → State × Option Reply) :
    checked s ((false, a, b) :: cs) f = checked s cs f := rfl
@[simp] theorem checked_bad (s : State) (a b : Nat) (cs : List (Bool × Nat × Nat)) (f : Unit → State × Option Reply) :
    checked s ((true, a, b) :: cs) f = ends s a b := rfl

/-- Checks that all pass. -/
theorem checked_pass (s : State) (cs : List (Bool × Nat × Nat)) (f : Unit → State × Option Reply)
    (h : ∀ x ∈ cs, x.1 = false) : checked s cs f = f () := by
  induction cs with
  | nil => rfl
  | cons x cs ih =>
    obtain ⟨b, st, d⟩ := x
    have hb : b = false := h (b, st, d) (List.mem_cons_self ..)
    subst hb
    exact ih (fun y hy => h y (List.mem_cons_of_mem _ hy))

theorem pass_nil : ∀ x ∈ ([] : List (Bool × Nat × Nat)), x.1 = false := fun _ h => absurd h (List.not_mem_nil)
theorem pass_cons {x : Bool × Nat × Nat} {cs : List (Bool × Nat × Nat)} (hx : x.1 = false) (h : ∀ y ∈ cs, y.1 = false) :
    ∀ y ∈ x :: cs, y.1 = false := List.forall_mem_cons.2 ⟨hx, h⟩
theorem pass_append {as bs : List (Bool × Nat × Nat)} (ha : ∀ y ∈ as, y.1 = false) (hb : ∀ y ∈ bs, y.1 = false) :
    ∀ y ∈ as ++ bs, y.1 = false := List.forall_mem_append.2 ⟨ha, hb⟩

/-- A range of zeros passes its check. -/
theorem mbz_pass (c : Call) (a n : Nat) (h : zeroAt c.payload a n) : mbz c a n = (false, St.badarg, a) := by
  have hn : (List.range n).any (fun i => c.payload.getD (a + i) 0 != 0) = false := by
    rw [List.any_eq_false]
    intro i hi
    simp only [List.mem_range] at hi
    simpa using h i hi
  unfold mbz
  rw [hn]

theorem mbz_fst {n : Fin 8} {p : Bytes} {host : HostRead} {landed : Bool} {a k : Nat} (h : zeroAt p a k) :
    (mbz (slotCall n p host landed) a k).1 = false := by rw [mbz_pass (slotCall n p host landed) a k h]

/-- A payload that is zero after its action passes the check of the fields after CARVE (R576). -/
theorem carveRest_fst {n : Fin 8} {p : Bytes} {host : HostRead} {landed : Bool} (h : zeroAt p 2 30) :
    (carveRest (slotCall n p host landed)).1 = false := by
  have part : ∀ a k : Nat, 2 ≤ a → a + k ≤ 32 → (mbz (slotCall n p host landed) a k).1 = false := fun a k h1 h2 =>
    mbz_fst (fun i hi => by
      have := h (a + i - 2) (by omega)
      rwa [show 2 + (a + i - 2) = a + i by omega] at this)
  unfold carveRest
  simp [List.find?, part]

/-- A verdict is never empty (R575). -/
theorem verdict_full (s : State) (obj : Bytes) (v : Verdict) (h : Nat) : (verdictResult s obj v h).2.isEmpty = false := rfl

/-- A good reference of a slot's payload passes its check. -/
theorem refCheck_fst {n : Fin 8} {p : Bytes} {host : HostRead} {landed : Bool} {off dir : Nat} (h : hostRefCheck p off dir = none) :
    (refCheck (slotCall n p host landed) off dir).1 = false := by
  simp [refCheck, isMgmt, h]

/-- What a reachable host buffer holds. -/
theorem withHost_ok {s : State} {c : Call} {off : Nat} {f : Bytes → State × Option Reply} {d : Bytes} (hd : c.host = .ok d)
    (hr : hostReach s c = true) : withHost s c off f = f (pad (bufLen c off) d) := by
  simp [withHost, hd, hr]

/-- The group of a payload has this cast list. -/
theorem castNamed_some {s : State} {c : Call} {k : Cast} (hg : natAt c.payload 0 2 ≤ 4095)
    (hc : getCast s (natAt c.payload 0 2) = some k) : castNamed s c = some k :=
  (if_neg (Nat.not_lt.2 hg)).trans hc

/-! ## Acceptance -/

/-- Acceptance writes the slot alone. -/
theorem acceptSlot_eq (s : State) (n : Fin 8) : acceptSlot s n.val = { s with itv.cb.slots := (acceptSlot s n.val).itv.cb.slots } := by
  unfold acceptSlot modSlot
  rw [dif_pos n.isLt]

/-- The slots alone change when a command is accepted. -/
theorem exists_taken (s : State) (n : Fin 8) : ∃ v, taken s n = { s with itv.cb.slots := v } :=
  ⟨_, acceptSlot_eq s n⟩

/-! ## The run of a posted command -/

/-- A posted command that its row picks is accepted and run. -/
theorem cmdRow_run (s : State) (n : Fin 8) (code : Nat) (p : Bytes) (sel : Bytes → Bool) (green : Bool) (host : HostRead)
    (landed : Bool) (f : Cmd) (row : CmdRow) (h : posted s n code p) (hsel : sel p = true) (hrow : rowOf code = some row) :
    cmdRow s n code sel green host landed f = runCmd (taken s n) (slotCall n p host landed) p.length row f := by
  obtain ⟨hw, ha, hc, hl, hp⟩ := h
  unfold cmdRow
  simp [hw, ha, hc, hl, hp, hsel, hrow, taken, slotCall]

/-- A posted command whose run ends at once with `r`. -/
theorem runs (s : State) (n : Fin 8) (code : Nat) (p : Bytes) (sel : Bytes → Bool) (green : Bool) (host : HostRead) (landed : Bool)
    (f : Cmd) (row : CmdRow) (t : State) (r : Reply) (h : posted s n code p) (hsel : sel p = true)
    (hrow : rowOf code = some row) (hlen : row.minLen ≤ p.length ∧ p.length ≤ row.maxLen ∧ p.length ≤ 4032)
    (hc : row.code ≠ 0x0108 ∧ row.code ≠ 0x0109)
    (hf : f (taken s n) (slotCall n p host landed) = (t, some r)) :
    cmdRow s n code sel green host landed f = finish t (slotCall n p host landed) r := by
  rw [cmdRow_run s n code p sel green host landed f row h hsel hrow]
  unfold runCmd
  obtain ⟨h1, h2, h3⟩ := hlen
  have e1 : ¬ 4032 < p.length := by omega
  have e2 : ¬(p.length < row.minLen ∨ p.length > row.maxLen) := by omega
  simp [e1, e2, hf, codeResult, hc.1, hc.2]

/-- As `runs`, for a command whose reply is never empty (R575). -/
theorem runsFull (s : State) (n : Fin 8) (code : Nat) (p : Bytes) (sel : Bytes → Bool) (green : Bool) (host : HostRead)
    (landed : Bool) (f : Cmd) (row : CmdRow) (t : State) (r : Reply) (h : posted s n code p) (hsel : sel p = true)
    (hrow : rowOf code = some row) (hlen : row.minLen ≤ p.length ∧ p.length ≤ row.maxLen ∧ p.length ≤ 4032)
    (hr : r.result.isEmpty = false)
    (hf : f (taken s n) (slotCall n p host landed) = (t, some r)) :
    cmdRow s n code sel green host landed f = finish t (slotCall n p host landed) r := by
  rw [cmdRow_run s n code p sel green host landed f row h hsel hrow]
  unfold runCmd
  obtain ⟨h1, h2, h3⟩ := hlen
  have e1 : ¬ 4032 < p.length := by omega
  have e2 : ¬(p.length < row.minLen ∨ p.length > row.maxLen) := by omega
  simp [e1, e2, hf, codeResult, hr]

/-- A posted command that runs on. -/
theorem runsOn (s : State) (n : Fin 8) (code : Nat) (p : Bytes) (sel : Bytes → Bool) (green : Bool) (host : HostRead) (landed : Bool)
    (f : Cmd) (row : CmdRow) (t : State) (h : posted s n code p) (hsel : sel p = true)
    (hrow : rowOf code = some row) (hlen : row.minLen ≤ p.length ∧ p.length ≤ row.maxLen ∧ p.length ≤ 4032)
    (hf : f (taken s n) (slotCall n p host landed) = (t, none)) :
    cmdRow s n code sel green host landed f = t := by
  rw [cmdRow_run s n code p sel green host landed f row h hsel hrow]
  unfold runCmd
  obtain ⟨h1, h2, h3⟩ := hlen
  have e1 : ¬ 4032 < p.length := by omega
  have e2 : ¬(p.length < row.minLen ∨ p.length > row.maxLen) := by omega
  simp [e1, e2, hf, codeResult]

/-- A posted command that ends with OK, in the outcome's form. -/
theorem row_ok (s : State) (n : Fin 8) (code : Nat) (p : Bytes) (sel : Bytes → Bool) (green : Bool) (host : HostRead) (landed : Bool)
    (f : Cmd) (row : CmdRow) (t : State) (x : Bytes) (h : posted s n code p) (hsel : sel p = true)
    (hrow : rowOf code = some row) (hlen : row.minLen ≤ p.length ∧ p.length ≤ row.maxLen ∧ p.length ≤ 4032)
    (hc : row.code ≠ 0x0108 ∧ row.code ≠ 0x0109)
    (hf : f (taken s n) (slotCall n p host landed) = (t, some { status := St.ok, result := x })) :
    (Host.Outcome.next (cmdRow s n code sel green host landed f) : Res) = .next (endsOk t n x) :=
  congrArg _ (runs s n code p sel green host landed f row t _ h hsel hrow hlen hc hf)

/-- A posted command that ends with another status. -/
theorem row_ends (s : State) (n : Fin 8) (code : Nat) (p : Bytes) (sel : Bytes → Bool) (green : Bool) (host : HostRead)
    (landed : Bool) (f : Cmd) (row : CmdRow) (t : State) (st d : Nat) (x : Bytes) (h : posted s n code p) (hsel : sel p = true)
    (hrow : rowOf code = some row) (hlen : row.minLen ≤ p.length ∧ p.length ≤ row.maxLen ∧ p.length ≤ 4032)
    (hc : row.code ≠ 0x0108 ∧ row.code ≠ 0x0109)
    (hf : f (taken s n) (slotCall n p host landed) = (t, some { status := st, detail := d, result := x })) :
    (Host.Outcome.next (cmdRow s n code sel green host landed f) : Res) =
      .next (completeSlot t n.val { status := st, detail := d, result := x }) :=
  congrArg _ (runs s n code p sel green host landed f row t _ h hsel hrow hlen hc hf)

/-- A posted command that ends with a reply without data for the host's buffer. -/
theorem row_reply (s : State) (n : Fin 8) (code : Nat) (p : Bytes) (sel : Bytes → Bool) (green : Bool) (host : HostRead)
    (landed : Bool) (f : Cmd) (row : CmdRow) (t : State) (r : Reply) (h : posted s n code p) (hsel : sel p = true)
    (hrow : rowOf code = some row) (hlen : row.minLen ≤ p.length ∧ p.length ≤ row.maxLen ∧ p.length ≤ 4032)
    (hc : row.code ≠ 0x0108 ∧ row.code ≠ 0x0109) (hb : r.bulk = none)
    (hf : f (taken s n) (slotCall n p host landed) = (t, some r)) :
    (Host.Outcome.next (cmdRow s n code sel green host landed f) : Res) = .next (completeSlot t n.val r) := by
  refine congrArg _ ((runs s n code p sel green host landed f row t r h hsel hrow hlen hc hf).trans ?_)
  simp [finish, hb]

/-- A posted command that runs on, in the outcome's form. -/
theorem row_on (s : State) (n : Fin 8) (code : Nat) (p : Bytes) (sel : Bytes → Bool) (green : Bool) (host : HostRead)
    (landed : Bool) (f : Cmd) (row : CmdRow) (t : State) (h : posted s n code p) (hsel : sel p = true)
    (hrow : rowOf code = some row) (hlen : row.minLen ≤ p.length ∧ p.length ≤ row.maxLen ∧ p.length ≤ 4032)
    (hf : f (taken s n) (slotCall n p host landed) = (t, none)) :
    (Host.Outcome.next (cmdRow s n code sel green host landed f) : Res) = .next t :=
  congrArg _ (runsOn s n code p sel green host landed f row t h hsel hrow hlen hf)

/-- A posted chorus command, whose result is never empty. -/
theorem row_full (s : State) (n : Fin 8) (code : Nat) (p : Bytes) (sel : Bytes → Bool) (green : Bool) (host : HostRead)
    (landed : Bool) (f : Cmd) (row : CmdRow) (t : State) (st d : Nat) (x : Bytes) (hx : x.isEmpty = false) (h : posted s n code p)
    (hsel : sel p = true) (hrow : rowOf code = some row)
    (hlen : row.minLen ≤ p.length ∧ p.length ≤ row.maxLen ∧ p.length ≤ 4032)
    (hf : f (taken s n) (slotCall n p host landed) = (t, some { status := st, detail := d, result := x })) :
    (Host.Outcome.next (cmdRow s n code sel green host landed f) : Res) =
      .next (completeSlot t n.val { status := st, detail := d, result := x }) :=
  congrArg _ (runsFull s n code p sel green host landed f row t _ h hsel hrow hlen hx hf)

/-- A posted command whose data lands in the host's buffer. -/
theorem row_bulk (s : State) (n : Fin 8) (code : Nat) (p : Bytes) (sel : Bytes → Bool) (green : Bool) (host : HostRead)
    (f : Cmd) (row : CmdRow) (t : State) (off : Nat) (x b : Bytes) (h : posted s n code p) (hsel : sel p = true)
    (hrow : rowOf code = some row) (hlen : row.minLen ≤ p.length ∧ p.length ≤ row.maxLen ∧ p.length ≤ 4032)
    (hc : row.code ≠ 0x0108 ∧ row.code ≠ 0x0109) (hm : t.itv.cb.busMaster = true)
    (hf : f (taken s n) (slotCall n p host true) = (t, some { status := St.ok, result := x, bulk := some (off, b) })) :
    (Host.Outcome.next (cmdRow s n code sel green host true f) : Res) = .next (endsBulk t n p off x b) := by
  refine congrArg _ ((runs s n code p sel green host true f row t _ h hsel hrow hlen hc hf).trans ?_)
  simp [finish, hostReach, isMgmt, hm, endsBulk]

end Sys2Proof.Machine
end

