-- ==== Sys2Proof/Laws/Keep.lean ====
section
/-! SUPPORT. What no command changes: the block's clock, its queue and the fuses of both chips (R675, R695). One lemma `f_key` for
each operation `f` says that its result has the key of the state it began with; Laws/KeepA.lean and the files after it hold them. -/

namespace Sys2Proof.Machine

open Sys2Proof

/-- The part of a state that no command writes: the clock, the queue, and the fuses of Itvos and of Belug. -/
def State.key (s : State) : Nat × List Instr × Fuses × BFuses := (s.now, s.pending, s.itv.fuse, s.blg.fuse)

/-! ## Through if, pairs, options and folds, for any reading of a state -/

theorem ite_obs {α β : Type} (F : α → β) {c : Prop} [Decidable c] {a b : α} {k : β} (ha : F a = k) (hb : F b = k) :
    F (if c then a else b) = k := by split <;> assumption
theorem ite_fst_obs {α β γ : Type} (F : α → β) {c : Prop} [Decidable c] {a b : α × γ} {k : β} (ha : F a.1 = k) (hb : F b.1 = k) :
    F (if c then a else b).1 = k := by split <;> assumption
theorem mk_fst_obs {α β γ : Type} (F : α → β) {a : α} {b : γ} {k : β} (h : F a = k) : F (a, b).1 = k := h
theorem pair_obs {α β γ : Type} (F : α → β) {p : α × γ} {t : α} {a : γ} {k : β} (h : p = (t, a)) (hp : F p.1 = k) : F t = k := by
  subst h; exact hp
theorem foldl_obs {α β γ : Type} (F : α → β) (f : α → γ → α) (h : ∀ s x, F (f s x) = F s) (xs : List γ) (s : α) :
    F (xs.foldl f s) = F s := by
  induction xs generalizing s with
  | nil => rfl
  | cons x xs ih => rw [List.foldl_cons, ih, h]
theorem foldr_obs {α β γ : Type} (F : α → β) (f : γ → α → α) (h : ∀ x s, F (f x s) = F s) (xs : List γ) (s : α) :
    F (xs.foldr f s) = F s := by
  induction xs with
  | nil => rfl
  | cons x xs ih => rw [List.foldr_cons, h, ih]

/-! ## The same for the key -/

variable {k : Nat × List Instr × Fuses × BFuses}

theorem ite_key {c : Prop} [Decidable c] {a b : State} (ha : a.key = k) (hb : b.key = k) : (if c then a else b).key = k :=
  ite_obs State.key ha hb
theorem dite_key {c : Prop} [Decidable c] {a : c → State} {b : ¬c → State} (ha : ∀ h, (a h).key = k) (hb : ∀ h, (b h).key = k) :
    (dite c a b).key = k := by split <;> simp_all
theorem ite_fst_key {γ : Type} {c : Prop} [Decidable c] {a b : State × γ} (ha : a.1.key = k) (hb : b.1.key = k) :
    (if c then a else b).1.key = k := ite_fst_obs State.key ha hb
theorem mk_fst_key {γ : Type} {a : State} {b : γ} (h : a.key = k) : (a, b).1.key = k := h
theorem pair_key {γ : Type} {p : State × γ} {t : State} {a : γ} (h : p = (t, a)) (hp : p.1.key = k) : t.key = k :=
  pair_obs State.key h hp
theorem pair2_key {γ : Type} {p : γ × State} {t : State} {a : γ} (h : p = (a, t)) (hp : p.2.key = k) : t.key = k := by
  subst h; exact hp
theorem getD_key {x : Option State} {d : State} (hx : ∀ t, x = some t → t.key = k) (hd : d.key = k) : (x.getD d).key = k := by
  cases x <;> simp_all
theorem foldl_key {γ : Type} (f : State → γ → State) (h : ∀ s x, (f s x).key = s.key) (xs : List γ) (s : State) :
    (xs.foldl f s).key = s.key := foldl_obs State.key f h xs s
theorem foldr_key {γ : Type} (f : γ → State → State) (h : ∀ x s, (f x s).key = s.key) (xs : List γ) (s : State) :
    (xs.foldr f s).key = s.key := foldr_obs State.key f h xs s

/-- A state whose clock and queue are `b`'s and whose chips hold `b`'s fuses has `b`'s key. -/
theorem upd_key {b : State} {i : Itvos} {g : Belug} {o : List Out} {f : Nat}
    (h : i.fuse = b.itv.fuse) (h2 : g.fuse = b.blg.fuse) (hb : b.key = k) : (State.mk b.now i g o f b.pending).key = k := by
  subst hb; simp [State.key, h, h2]

end Sys2Proof.Machine
end

