-- ==== Sys2Proof/Laws/KeepA.lean ====
section
/-! SUPPORT. What every operation leaves alone (Laws/Keep.lean): the operations of Ops, RouteOps, Crypto, Flows, BelugBase, Xlat, Directory. -/

namespace Sys2Proof.Machine

open Sys2Proof

/-! ## Ops -/

theorem setCue_key (s : State) (d : Side) (c : Cue) : (setCue s d c).key = s.key := by
  unfold setCue
  split
  · exact upd_key rfl rfl rfl
  · exact upd_key rfl rfl rfl
theorem modCh_key (s : State) (n : Nat) (f : Channel → Channel) : (modCh s n f).key = s.key := by
  unfold modCh
  refine dite_key ?_ ?_
  · intro a1
    exact upd_key rfl rfl rfl
  · intro a2
    rfl
theorem emit_key (s : State) (o : Out) : (emit s o).key = s.key := by
  unfold emit
  exact upd_key rfl rfl rfl
theorem bumpB_key (s : State) (idx : Nat) (n : Nat) : (bumpB s idx n).key = s.key := by
  unfold bumpB
  exact ite_key rfl (upd_key rfl rfl rfl)
theorem bumpBC_key (s : State) (c : BCtr) : (bumpBC s c).key = s.key := by
  unfold bumpBC
  exact bumpB_key _ _ _
theorem sendApron_key (s : State) (n : Nat) (m : ApronMsg) : (sendApron s n m).key = s.key := by
  unfold sendApron
  refine ite_key ?_ ?_
  · extract_lets +onlyGivenNames z1
    have h2 : z1.key = s.key := by
      unfold z1
      exact modCh_key _ _ _
    clear_value z1
    refine (emit_key _ _).trans ?_
    with_reducible assumption
  · exact bumpBC_key _ _
theorem raiseIrq_key (s : State) (i : Nat) : (raiseIrq s i).key = s.key := by
  unfold raiseIrq
  refine ite_key ?_ ?_
  · rfl
  · extract_lets +onlyGivenNames z1 z2 z3
    clear_value z1
    have h4 : z3.key = s.key := by
      unfold z3
      exact upd_key rfl rfl rfl
    clear_value z3
    refine ite_key ?_ ?_
    · extract_lets +onlyGivenNames z5
      have h6 : z5.key = s.key := by
        unfold z5
        refine (sendApron_key _ _ _).trans ?_
        with_reducible assumption
      clear_value z5
      refine ite_key ?_ ?_
      · with_reducible assumption
      · refine (emit_key _ _).trans ?_
        with_reducible assumption
    · with_reducible assumption
theorem bump_key (s : State) (idx : Nat) (n : Nat) : (bump s idx n).key = s.key := by
  unfold bump
  exact ite_key rfl (upd_key rfl rfl rfl)
theorem bumpPool_key (s : State) (c : PoolCtr) : (bumpPool s c).key = s.key := by
  unfold bumpPool
  exact bump_key _ _ _
theorem rspData_key (s : State) (ch : Nat) (tag : Nat) (status : Nat) (reason : Nat) (data : Bytes) : (rspData s ch tag status reason data).key = s.key := by
  unfold rspData
  exact sendApron_key _ _ _
theorem setPort_key (s : State) (r : PortRef) (p : Port) : (setPort s r p).key = s.key := by
  unfold setPort
  split
  · exact upd_key rfl rfl rfl
  · exact upd_key rfl rfl rfl
theorem modPort_key (s : State) (r : PortRef) (f : Port → Port) : (modPort s r f).key = s.key := by
  unfold modPort
  exact setPort_key _ _ _
theorem modBlgPort_key (s : State) (n : Nat) (f : Port → Port) : (modBlgPort s n f).key = s.key := by
  unfold modBlgPort
  split
  · exact modPort_key _ _ _
  · rfl
theorem blgSend_key (s : State) (p : Nat) (f : Flit) : (blgSend s p f).key = s.key := by
  unfold blgSend
  exact modBlgPort_key _ _ _
theorem itvSend_key (s : State) (f : Flit) : (itvSend s f).key = s.key := by
  unfold itvSend
  exact upd_key rfl rfl rfl
theorem bumpDel_key (s : State) (c : DelCtr) : (bumpDel s c).key = s.key := by
  unfold bumpDel
  exact bump_key _ _ _
theorem raiseVector_key (s : State) (v : Nat) : (raiseVector s v).key = s.key := by
  unfold raiseVector
  split
  · rfl
  · exact ite_key (upd_key rfl rfl rfl) (ite_key (emit_key _ _) rfl)
theorem raiseEvent_key (s : State) (i : Nat) : (raiseEvent s i).key = s.key := by
  unfold raiseEvent
  refine ite_key ?_ ?_
  · rfl
  · extract_lets +onlyGivenNames z1
    have h2 : z1.key = s.key := by
      unfold z1
      exact ite_key (emit_key _ _) rfl
    clear_value z1
    extract_lets +onlyGivenNames z3 z4 z5
    clear_value z4
    have h6 : z5.key = s.key := by
      unfold z5
      refine upd_key rfl rfl ?_
      with_reducible assumption
    clear_value z5
    refine ite_key ?_ ?_
    · refine (raiseVector_key _ _).trans ?_
      with_reducible assumption
    · with_reducible assumption
theorem bumpColl_key (s : State) (c : CollCtr) : (bumpColl s c).key = s.key := by
  unfold bumpColl
  exact bump_key _ _ _
theorem itvMulticast_key (s : State) (f : Flit) (mc : List Nat) : (itvMulticast s f mc).key = s.key := by
  unfold itvMulticast
  exact upd_key rfl rfl rfl
theorem drawFree_key (s : State) : (drawFree s).key = s.key := by
  unfold drawFree
  exact upd_key rfl rfl rfl
theorem telemeter_key (s : State) (k : Nat) (rec_ : Bytes) : (telemeter s k rec_).key = s.key := by
  unfold telemeter
  refine (foldl_key _ ?_ _ _).trans ?_
  · intro a1 a2
    exact (drawFree_key _).trans (emit_key _ _)
  · rfl
theorem modItvPort_key (s : State) (n : Nat) (f : Port → Port) : (modItvPort s n f).key = s.key := by
  unfold modItvPort
  split
  · exact modPort_key _ _ _
  · rfl
theorem rspDone_key (s : State) (ch : Nat) (tag : Nat) (status : Nat) (reason : Nat) : (rspDone s ch tag status reason).key = s.key := by
  unfold rspDone
  exact sendApron_key _ _ _
theorem bumpCoh_key (s : State) (c : CohCtr) : (bumpCoh s c).key = s.key := by
  unfold bumpCoh
  exact bump_key _ _ _
theorem takeInbox_key (s : State) (d : Side) (f : Flit) : (takeInbox s d f).key = s.key := by
  unfold takeInbox
  split
  · exact upd_key rfl rfl rfl
  · split
    · exact upd_key rfl rfl rfl
    · rfl
theorem fromInbox_key (s : State) (d : Side) (f : Flit) (g : State → State) (hg : ∀ v0, (g v0).key = v0.key) : (fromInbox s d f g).key = s.key := by
  unfold fromInbox
  extract_lets +onlyGivenNames z1
  clear_value z1
  exact ite_key (Eq.trans (hg _) (takeInbox_key _ _ _)) rfl
theorem noteState_key (s0 : State) (s : State) : (noteState s0 s).key = s.key := by
  unfold noteState
  exact ite_key rfl (raiseEvent_key _ _)
theorem bumpPort_key (s : State) (r : PortRef) (c : PortCtr) (n : Nat) : (bumpPort s r c n).key = s.key := by
  unfold bumpPort
  split
  · exact bump_key _ _ _
  · exact bumpB_key _ _ _
theorem tick_key (s : State) : (tick s).key = (s.now + 1, s.key.2) := rfl

/-! ## RouteOps -/

theorem ringRecord_key (s : State) (port : Nat) (ready : Bool) : (ringRecord s port ready).key = s.key := by
  unfold ringRecord
  extract_lets +onlyGivenNames z1
  clear_value z1
  exact (telemeter_key _ _ _).trans (upd_key rfl rfl rfl)

/-! ## Crypto -/

theorem countE2E_key (s : State) (u1 : Side) : (countE2E s u1).key = s.key := by
  unfold countE2E
  split
  · exact bumpDel_key _ _
  · exact bumpBC_key _ _
theorem setKeys_key (s : State) (d : Side) (k : KMap JobKey) : (setKeys s d k).key = s.key := by
  unfold setKeys
  split
  · exact upd_key rfl rfl rfl
  · exact upd_key rfl rfl rfl
theorem strikeDrop_key (s : State) (part : Nat) : (strikeDrop s part).key = s.key := by
  unfold strikeDrop
  exact (bump_key _ _ _).trans (upd_key rfl rfl rfl)
theorem countGcm_key (s : State) (d : Side) (f : Flit) : (countGcm s d f).key = s.key := by
  unfold countGcm
  refine ite_key ?_ ?_
  · split
    · exact strikeDrop_key _ _
    · exact bumpBC_key _ _
  · split
    · exact bumpDel_key _ _
    · exact bumpBC_key _ _
theorem countPlain_key (s : State) (u1 : Side) : (countPlain s u1).key = s.key := by
  unfold countPlain
  split
  · exact bumpDel_key _ _
  · exact bumpBC_key _ _
theorem openFor_key (s : State) (d : Side) (f : Flit) : (openFor s d f).1.key = s.key := by
  unfold openFor
  refine ite_fst_key ?_ ?_
  · exact mk_fst_key (countE2E_key _ _)
  · refine ite_fst_key ?_ ?_
    · split
      · exact mk_fst_key (setKeys_key _ _ _)
      · exact mk_fst_key (countGcm_key _ _ _)
    · exact ite_fst_key (mk_fst_key (countPlain_key _ _)) (mk_fst_key rfl)
theorem openBelug_key (s : State) (f : Flit) (p : Nat) : (openBelug s f p).key = s.key := by
  unfold openBelug
  split
  · rename_i q1 q2 q3 q4
    exact upd_key rfl rfl (pair_key q4 (openFor_key _ _ _))
  · rename_i q5 q6 q7
    exact pair_key q7 (openFor_key _ _ _)
theorem openItvos_key (s : State) (f : Flit) : (openItvos s f).key = s.key := by
  unfold openItvos
  split
  · rename_i q1 q2 q3 q4
    exact upd_key rfl rfl (pair_key q4 (openFor_key _ _ _))
  · rename_i q5 q6 q7
    exact pair_key q7 (openFor_key _ _ _)

/-! ## Flows -/

theorem setOutflows_key (s : State) (d : Side) (m : KMap OutFlow) : (setOutflows s d m).key = s.key := by
  unfold setOutflows
  split
  · exact upd_key rfl rfl rfl
  · exact upd_key rfl rfl rfl
theorem modOut_key (s : State) (d : Side) (k : Nat) (g : OutFlow → OutFlow) : (modOut s d k g).key = s.key := by
  unfold modOut
  exact setOutflows_key _ _ _
theorem dropOutst_key (s : State) (d : Side) (k : Nat) (seq : Nat) : (dropOutst s d k seq).key = s.key := by
  unfold dropOutst
  exact modOut_key _ _ _ _
theorem setTurns_key (s : State) (d : Side) (m : KMap (Nat × Nat)) : (setTurns s d m).key = s.key := by
  unfold setTurns
  split
  · exact upd_key rfl rfl rfl
  · exact upd_key rfl rfl rfl
theorem flowEntry_key {s : State} {d : Side} {f : Flit} {t : State} (h : flowEntry s d f = some t) : t.key = s.key := by
  have hm : ∀ s : State, (setOutflows (match kget (turnsOf s d) (dstKey f) with
      | some t => setTurns s d (kset (turnsOf s d) (dstKey f) (t.1 + 1, t.2))
      | none => setTurns s d (kset (turnsOf s d) (dstKey f) (0, 0))) d
      (kset (outflowsOf (match kget (turnsOf s d) (dstKey f) with
      | some t => setTurns s d (kset (turnsOf s d) (dstKey f) (t.1 + 1, t.2))
      | none => setTurns s d (kset (turnsOf s d) (dstKey f) (0, 0))) d) (dstKey f) {})).key = s.key := by
    intro s
    rw [setOutflows_key]
    split <;> exact setTurns_key _ _ _
  unfold flowEntry at h
  dsimp only at h
  repeat' split at h
  all_goals first
    | (cases h; done)
    | (cases h; rfl)
    | (cases h; exact hm s)
    | (cases h; exact (hm _).trans rfl)
theorem numberOut_key (s : State) (d : Side) (q : Queued) : (numberOut s d q).1.key = s.key := by
  unfold numberOut
  extract_lets +onlyGivenNames z1 z2 z3 z4 z5 z6 z7
  clear_value z3 z4 z5
  have h8 : z7.key = s.key := by
    unfold z7
    exact setTurns_key _ _ _
  clear_value z7
  refine mk_fst_key ?_
  refine (setOutflows_key _ _ _).trans ?_
  with_reducible assumption
theorem modOutst_key (s : State) (d : Side) (k : Nat) (seq : Nat) (g : Outst → Outst) : (modOutst s d k seq g).key = s.key := by
  unfold modOutst
  exact modOut_key _ _ _ _
theorem sendOut_key (s : State) (d : Side) (k : Nat) (o : Outst) (port : Nat) : (sendOut s d k o port).key = s.key := by
  unfold sendOut
  extract_lets +onlyGivenNames z1 z2
  clear_value z1
  have h3 : z2.key = s.key := by
    unfold z2
    exact modOut_key _ _ _ _
  clear_value z2
  extract_lets +onlyGivenNames z4
  have h5 : z4.key = s.key := by
    unfold z4
    refine (modOutst_key _ _ _ _ _).trans ?_
    with_reducible assumption
  clear_value z4
  split
  · refine (itvSend_key _ _).trans ?_
    with_reducible assumption
  · refine (blgSend_key _ _ _).trans ?_
    refine ite_key ?_ ?_
    · refine upd_key rfl rfl ?_
      with_reducible assumption
    · with_reducible assumption
theorem trySend_key (s : State) (d : Side) (k : Nat) (seq : Nat) : (trySend s d k seq).key = s.key := by
  unfold trySend
  split
  · rfl
  · refine ite_key ?_ ?_
    · rfl
    · split
      · exact sendOut_key _ _ _ _ _
      · refine ite_key ?_ ?_
        · rfl
        · split
          · exact sendOut_key _ _ _ _ _
          · exact ite_key rfl ((bumpB_key _ _ _).trans (modOutst_key _ _ _ _ _))
theorem originate_key (s : State) (d : Side) (q : Queued) : (originate s d q).key = s.key := by
  unfold originate
  extract_lets +onlyGivenNames z1 z2
  clear_value z1 z2
  refine ite_key ?_ ?_
  · split
    · exact bumpDel_key _ _
    · exact upd_key rfl rfl rfl
  · split
    · exact (bumpBC_key _ _).trans (upd_key rfl rfl rfl)
    · rename_i q7 q8 q9
      extract_lets +onlyGivenNames z10
      clear_value z10
      refine ite_key ?_ ?_
      · split
        · rename_i q11 q12 q13 q14
          exact (trySend_key _ _ _ _).trans (pair_key q14 ((numberOut_key _ _ _).trans (flowEntry_key q9)))
      · exact (modOut_key _ _ _ _).trans (flowEntry_key q9)
theorem retryFlowWait_key (s : State) : (retryFlowWait s).key = s.key := by
  unfold retryFlowWait
  extract_lets +onlyGivenNames z1
  clear_value z1
  refine (foldl_key _ ?_ _ _).trans ?_
  · intro a2 a3
    split
    · exact upd_key rfl rfl rfl
    · rename_i q6 q7 q8
      exact (originate_key _ _ _).trans (flowEntry_key q8)
  · exact upd_key rfl rfl rfl
theorem setInflows_key (s : State) (d : Side) (m : KMap InFlow) : (setInflows s d m).key = s.key := by
  unfold setInflows
  split
  · exact upd_key rfl rfl rfl
  · exact upd_key rfl rfl rfl
theorem modIn_key (s : State) (d : Side) (f : Flit) (g : InFlow → InFlow) : (modIn s d f g).key = s.key := by
  unfold modIn
  exact setInflows_key _ _ _
theorem beginServing_key (s : State) (d : Side) (f : Flit) : (beginServing s d f).key = s.key := by
  unfold beginServing
  exact modIn_key _ _ _ _
theorem unmark_key (s : State) (d : Side) (f : Flit) : (unmark s d f).key = s.key := by
  unfold unmark
  exact modIn_key _ _ _ _
theorem endServing_key (s : State) (d : Side) (f : Flit) : (endServing s d f).key = s.key := by
  unfold endServing
  exact modIn_key _ _ _ _
theorem countFlow_key (s : State) (d : Side) (a : DelCtr) (b : BCtr) : (countFlow s d a b).key = s.key := by
  unfold countFlow
  split
  · exact bumpDel_key _ _
  · exact bumpBC_key _ _
theorem seqTaken_key (s : State) (d : Side) (f : Flit) (fl : InFlow) (u4 : Arrival) : (seqTaken s d f fl u4).1.key = s.key := by
  unfold seqTaken
  split
  · exact mk_fst_key (setInflows_key _ _ _)
  · exact mk_fst_key ((countFlow_key _ _ _ _).trans (setInflows_key _ _ _))
  · exact mk_fst_key ((countFlow_key _ _ _ _).trans (setInflows_key _ _ _))
theorem arriveKnown_key (s : State) (d : Side) (f : Flit) : (arriveKnown s d f).1.key = s.key := by
  unfold arriveKnown
  split
  · exact ite_fst_key (mk_fst_key rfl) (seqTaken_key _ _ _ _ _)
  · exact seqTaken_key _ _ _ _ _
theorem roomFor_key {s : State} {d : Side} {f : Flit} {t : State} (h : roomFor s d f = some t) : t.key = s.key := by
  unfold roomFor at h
  repeat' split at h
  all_goals first
    | (cases h; done)
    | (cases h; rfl)
theorem arriveFlow_key (s : State) (d : Side) (f : Flit) : (arriveFlow s d f).1.key = s.key := by
  unfold arriveFlow
  split
  · exact mk_fst_key (countFlow_key _ _ _ _)
  · rename_i q3 q4 q5
    exact (arriveKnown_key _ _ _).trans (roomFor_key q5)
theorem keepAtomic_key (s : State) (d : Side) (f : Flit) (old : Bytes) (status : Nat) : (keepAtomic s d f old status).key = s.key := by
  unfold keepAtomic
  exact modIn_key _ _ _ _
theorem drainQueue_key (s : State) (d : Side) (k n : Nat) : (drainQueue s d k n).key = s.key := by
  induction n generalizing s with
  | zero => rfl
  | succ n ih =>
    unfold drainQueue
    split
    · rfl
    · split
      · dsimp only
        rw [ih, trySend_key]
        exact (numberOut_key _ _ _).trans (modOut_key _ _ _ _)
      · rfl
theorem acceptReply_key (s : State) (d : Side) (f : Flit) : (acceptReply s d f).1.key = s.key := by
  unfold acceptReply
  extract_lets +onlyGivenNames z1
  clear_value z1
  split
  · exact mk_fst_key (countFlow_key _ _ _ _)
  · refine ite_fst_key ?_ ?_
    · exact mk_fst_key (countFlow_key _ _ _ _)
    · extract_lets +onlyGivenNames z7
      have h8 : z7.key = s.key := by
        unfold z7
        exact (modOut_key _ _ _ _).trans (dropOutst_key _ _ _ _)
      clear_value z7
      extract_lets +onlyGivenNames z9 z10
      clear_value z9
      have h11 : z10.key = s.key := by
        unfold z10
        refine ite_key ?_ ?_
        · refine (setTurns_key _ _ _).trans ?_
          with_reducible assumption
        · with_reducible assumption
      clear_value z10
      refine mk_fst_key ?_
      refine (drainQueue_key _ _ _ _).trans ?_
      with_reducible assumption
theorem sendWaiting_key (s : State) : (sendWaiting s).key = s.key := by
  unfold sendWaiting
  refine (foldl_key _ ?_ _ _).trans ?_
  · intro a1 a2
    refine (foldl_key _ ?_ _ _).trans ?_
    · intro a3 a4
      exact trySend_key _ _ _ _
    · rfl
  · rfl
theorem resendOrEnd_key (s : State) (d : Side) (k : Nat) (seq : Nat) : (resendOrEnd s d k seq).1.key = s.key := by
  unfold resendOrEnd
  split
  · exact mk_fst_key rfl
  · refine ite_fst_key ?_ ?_
    · exact mk_fst_key rfl
    · refine ite_fst_key ?_ ?_
      · refine mk_fst_key ?_
        exact (drainQueue_key _ _ _ _).trans ((countFlow_key _ _ _ _).trans (dropOutst_key _ _ _ _))
      · split
        · exact mk_fst_key ((sendOut_key _ _ _ _ _).trans (bumpDel_key _ _))
        · split
          · exact mk_fst_key ((sendOut_key _ _ _ _ _).trans (bumpB_key _ _ _))
          · exact mk_fst_key ((bumpB_key _ _ _).trans (modOutst_key _ _ _ _ _))
theorem waitOrEnd_key (s : State) (k : Nat) (seq : Nat) : (waitOrEnd s k seq).1.key = s.key := by
  unfold waitOrEnd
  split
  · exact mk_fst_key rfl
  · refine ite_fst_key ?_ ?_
    · exact mk_fst_key ((drainQueue_key _ _ _ _).trans ((bumpBC_key _ _).trans (dropOutst_key _ _ _ _)))
    · exact mk_fst_key rfl
theorem homeUsableOp_key (s : State) (plane : Fin 24) : (homeUsableOp s plane).key = s.key := by
  unfold homeUsableOp
  exact ite_key (sendWaiting_key _) rfl

/-! ## BelugBase -/

theorem tallyWaits_key (s : State) (t : Nat) : (tallyWaits s t).key = s.key := by
  unfold tallyWaits
  extract_lets +onlyGivenNames z1 z2
  clear_value z1 z2
  refine (foldl_key _ ?_ _ _).trans ?_
  · intro a3 a4
    exact rspData_key _ _ _ _ _ _
  · exact upd_key rfl rfl rfl
theorem tallyAddN_key (s : State) (t : Nat) (n : Nat) (status : Nat) : (tallyAddN s t n status).key = s.key := by
  unfold tallyAddN
  exact ite_key rfl ((tallyWaits_key _ _).trans (upd_key rfl rfl rfl))
theorem tallyAdd_key (s : State) (t : Nat) (status : Nat) : (tallyAdd s t status).key = s.key := by
  unfold tallyAdd
  exact tallyAddN_key _ _ _ _
theorem closeOp_key (s : State) (id : Nat) : (closeOp s id).key = s.key := by
  unfold closeOp
  exact upd_key rfl rfl rfl
theorem modHand_key (s : State) (n : Nat) (f : Stagehand → Stagehand) : (modHand s n f).key = s.key := by
  unfold modHand
  refine dite_key ?_ ?_
  · intro a1
    exact upd_key rfl rfl rfl
  · intro a2
    rfl
theorem modSH_key (s : State) (n : Nat) (slot : Nat) (f : SHSlot → SHSlot) : (modSH s n slot f).key = s.key := by
  unfold modSH
  exact modHand_key _ _ _
theorem slotDone_key (s : State) (n : Nat) (slot : Nat) : (slotDone s n slot).key = s.key := by
  unfold slotDone
  extract_lets +onlyGivenNames z1
  clear_value z1
  refine ite_key ?_ ?_
  · extract_lets +onlyGivenNames z2
    have h3 : z2.key = s.key := by
      unfold z2
      exact modSH_key _ _ _ _
    clear_value z2
    extract_lets +onlyGivenNames z4
    have h5 : z4.key = s.key := by
      unfold z4
      refine (modHand_key _ _ _).trans ?_
      with_reducible assumption
    clear_value z4
    refine ite_key ?_ ?_
    · refine (raiseIrq_key _ _).trans ?_
      with_reducible assumption
    · with_reducible assumption
  · rfl
theorem pieceEnd_key (s : State) (n : Nat) (slot : Nat) (id : Nat) (status : Nat) : (pieceEnd s n slot id status).key = s.key := by
  unfold pieceEnd
  split
  · rfl
  · extract_lets +onlyGivenNames z6
    have h7 : z6.key = s.key := by
      unfold z6
      exact closeOp_key _ _
    clear_value z6
    extract_lets +onlyGivenNames z8
    have h9 : z8.key = s.key := by
      unfold z8
      refine (modSH_key _ _ _ _).trans ?_
      with_reducible assumption
    clear_value z8
    refine (slotDone_key _ _ _).trans ?_
    refine (tallyAdd_key _ _ _).trans ?_
    with_reducible assumption
theorem lmemSend_key (s : State) (m : ApronMsg) (off : Nat) (why : LFor) : (lmemSend s m off why).key = s.key := by
  unfold lmemSend
  extract_lets +onlyGivenNames z1 z2
  clear_value z1 z2
  exact (sendApron_key _ _ _).trans (upd_key rfl rfl rfl)
theorem lmemWriteLine_key (s : State) (line : Nat) (data : Bytes) (mask : Nat) (why : LFor) : (lmemWriteLine s line data mask why).key = s.key := by
  unfold lmemWriteLine
  exact lmemSend_key _ _ _ _
theorem lmemWrite_key (s : State) (off : Nat) (data : Bytes) (why : LFor) : (lmemWrite s off data why).key = s.key := by
  unfold lmemWrite
  extract_lets +onlyGivenNames z1
  clear_value z1
  refine ite_key ?_ ?_
  · rfl
  · refine (foldl_key _ ?_ _ _).trans ?_
    · intro a2 a3
      extract_lets +onlyGivenNames z4 z5 z6
      clear_value z4 z5 z6
      exact lmemWriteLine_key _ _ _ _ _
    · rfl
theorem modPiece_key (s : State) (n : Nat) (slot : Nat) (id : Nat) (f : Piece → Piece) : (modPiece s n slot id f).key = s.key := by
  unfold modPiece
  exact modSH_key _ _ _ _
theorem lmemRead_key (s : State) (off : Nat) (code : Nat) (why : LFor) : (lmemRead s off code why).key = s.key := by
  unfold lmemRead
  exact lmemSend_key _ _ _ _
theorem respond_key (s : State) (ch : Nat) (m : ApronMsg) (status : Nat) (reason : Nat) (data : Bytes) : (respond s ch m status reason data).key = s.key := by
  unfold respond
  exact ite_key (rspData_key _ _ _ _ _ _) (rspDone_key _ _ _ _ _)
theorem endApron_key (s : State) (op : AOp) (status : Nat) (reason : Nat) (data : Bytes) : (endApron s op status reason data).key = s.key := by
  unfold endApron
  exact ite_key ((closeOp_key _ _).trans (respond_key _ _ _ _ _ _)) rfl
theorem lmemAtomic_key (s : State) (off : Nat) (aop : Byte) (size : Byte) (scope : Byte) (a : Nat) (b : Nat) (why : LFor) : (lmemAtomic s off aop size scope a b why).key = s.key := by
  unfold lmemAtomic
  exact lmemSend_key _ _ _ _
theorem lmemReadLine_key (s : State) (off : Nat) (why : LFor) : (lmemReadLine s off why).key = s.key := by
  unfold lmemReadLine
  exact lmemRead_key _ _ _ _
theorem blgRequest_key (s : State) (node : BitVec 16) (ctx : BitVec 16) (kind : BitVec 5) (off : Nat) (payload : Bytes) (p : Purpose) : (blgRequest s node ctx kind off payload p).key = s.key := by
  unfold blgRequest
  exact originate_key _ _ _
theorem takeWords_key (s : State) (ch : Nat) (m : ApronMsg) : (takeWords s ch m).key = s.key := by
  unfold takeWords
  extract_lets +onlyGivenNames z1 z2
  clear_value z1
  have h3 : z2.key = s.key := by
    unfold z2
    exact modCh_key _ _ _
  clear_value z2
  refine (foldl_key _ ?_ _ _).trans ?_
  · intro a4 a5
    exact emit_key _ _
  · with_reducible assumption
theorem onApron_key (s : State) (ch : Fin 24) (m : ApronMsg) (t : Nat) (f : State → State) (hf : ∀ v0, (f v0).key = v0.key) : (onApron s ch m t f).key = s.key := by
  unfold onApron
  refine ite_key ?_ ?_
  · extract_lets +onlyGivenNames z1
    have h2 : z1.key = s.key := by
      unfold z1
      exact takeWords_key _ _ _
    clear_value z1
    refine ite_key ?_ ?_
    · refine Eq.trans (hf _) ?_
      with_reducible assumption
    · refine (respond_key _ _ _ _ _ _).trans ?_
      with_reducible assumption
  · rfl
theorem openOp_key (s : State) (engine : Nat) (kind : Nat) (ctx : Nat) (vas : List Nat) : (openOp s engine kind ctx vas).1.key = s.key := by
  unfold openOp
  extract_lets +onlyGivenNames z1
  clear_value z1
  exact mk_fst_key (upd_key rfl rfl rfl)
theorem apronReservedTypeOp_key (s : State) (ch : Fin 24) (m : ApronMsg) : (apronReservedTypeOp s ch m).key = s.key := by
  unfold apronReservedTypeOp
  exact ite_key rfl ((respond_key _ _ _ _ _ _).trans (takeWords_key _ _ _))

/-! ## Xlat -/

theorem xlatFault_key (s : State) (ctx : Nat) (x : XWait) (r : XReason) (level : Nat) (entry : Word) : (xlatFault s ctx x r level entry).key = s.key := by
  unfold xlatFault
  extract_lets +onlyGivenNames z1
  have h2 : z1.key = s.key := by
    unfold z1
    exact bumpBC_key _ _
  clear_value z1
  extract_lets +onlyGivenNames z3 z4 z5 z6 z7
  clear_value z3 z4 z6
  have h8 : z7.key = s.key := by
    unfold z7
    refine ite_key ?_ ?_
    · refine upd_key rfl rfl ?_
      with_reducible assumption
    · refine (lmemWrite_key _ _ _ _).trans ?_
      refine upd_key rfl rfl ?_
      with_reducible assumption
  clear_value z7
  refine (raiseIrq_key _ _).trans ?_
  with_reducible assumption
theorem modWalk_key (s : State) (id : Nat) (f : Walk → Walk) : (modWalk s id f).key = s.key := by
  unfold modWalk
  exact upd_key rfl rfl rfl
theorem readLevel_key (s : State) (w : Walk) (level : Nat) (table : Nat) (wire : BitVec 16) : (readLevel s w level table wire).key = s.key := by
  unfold readLevel
  exact (lmemRead_key _ _ _ _).trans (modWalk_key _ _ _)
theorem walkFrom_key (s : State) (w : Walk) (d : CtxDesc) : (walkFrom s w d).key = s.key := by
  unfold walkFrom
  split
  · exact readLevel_key _ _ _ _ _
  · exact readLevel_key _ _ _ _ _
theorem beginWalk_key (s : State) (w : Walk) : (beginWalk s w).key = s.key := by
  unfold beginWalk
  extract_lets +onlyGivenNames z1 z2
  have h3 : z2.key = s.key := by
    unfold z2
    exact upd_key rfl rfl rfl
  clear_value z2
  split
  · refine (walkFrom_key _ _ _).trans ?_
    with_reducible assumption
  · refine (lmemRead_key _ _ _ _).trans ?_
    with_reducible assumption
theorem startQueued_key (s : State) : (startQueued s).key = s.key := by
  unfold startQueued
  split
  · rfl
  · exact ite_key ((beginWalk_key _ _).trans (upd_key rfl rfl rfl)) rfl
theorem endWalk_key (s : State) (w : Walk) (res : XWait → XRes) : (endWalk s w res).1.key = s.key := by
  unfold endWalk
  exact mk_fst_key ((startQueued_key _).trans (upd_key rfl rfl rfl))
theorem descPut_key (s : State) (ctx : Nat) (d : CtxDesc) : (descPut s ctx d).key = s.key := by
  unfold descPut
  exact upd_key rfl rfl rfl
theorem walkDescriptor_key (s : State) (w : Walk) (ok : Bool) (d : Bytes) : (walkDescriptor s w ok d).1.key = s.key := by
  unfold walkDescriptor
  refine ite_fst_key ?_ ?_
  · exact endWalk_key _ _ _
  · extract_lets +onlyGivenNames z1 z2
    clear_value z1 z2
    refine ite_fst_key ?_ ?_
    · exact endWalk_key _ _ _
    · extract_lets +onlyGivenNames z3 z4
      clear_value z3
      have h5 : z4.key = s.key := by
        unfold z4
        exact ite_key rfl (descPut_key _ _ _)
      clear_value z4
      refine ite_fst_key ?_ ?_
      · refine (endWalk_key _ _ _).trans ?_
        with_reducible assumption
      · refine mk_fst_key ?_
        refine (walkFrom_key _ _ _).trans ?_
        with_reducible assumption
theorem l1Put_key (s : State) (eng : Nat) (e : XEntry) : (l1Put s eng e).key = s.key := by
  unfold l1Put
  exact upd_key rfl rfl rfl
theorem l2Put_key (s : State) (e : XEntry) : (l2Put s e).key = s.key := by
  unfold l2Put
  exact upd_key rfl rfl rfl
theorem walkPut_key (s : State) (e : WEntry) : (walkPut s e).key = s.key := by
  unfold walkPut
  exact upd_key rfl rfl rfl
theorem walkEntry_key (s : State) (w : Walk) (ok : Bool) (e : Word) : (walkEntry s w ok e).1.key = s.key := by
  unfold walkEntry
  refine ite_fst_key ?_ ?_
  · exact endWalk_key _ _ _
  · refine ite_fst_key ?_ ?_
    · exact endWalk_key _ _ _
    · refine ite_fst_key ?_ ?_
      · exact endWalk_key _ _ _
      · refine ite_fst_key ?_ ?_
        · extract_lets +onlyGivenNames z1 z2 z3
          clear_value z1 z2
          have h4 : z3.key = s.key := by
            unfold z3
            refine ite_key ?_ ?_
            · rfl
            · refine (foldl_key _ ?_ _ _).trans ?_
              · intro a5 a6
                exact l1Put_key _ _ _
              · exact l2Put_key _ _
          clear_value z3
          refine (endWalk_key _ _ _).trans ?_
          with_reducible assumption
        · extract_lets +onlyGivenNames z7
          have h8 : z7.key = s.key := by
            unfold z7
            exact ite_key rfl (walkPut_key _ _)
          clear_value z7
          refine mk_fst_key ?_
          refine (readLevel_key _ _ _ _ _).trans ?_
          with_reducible assumption
theorem walkAnswer_key (s : State) (id : Nat) (status : Nat) (data : Bytes) : (walkAnswer s id status data).1.key = s.key := by
  unfold walkAnswer
  split
  · exact mk_fst_key rfl
  · exact ite_fst_key (walkDescriptor_key _ _ _ _) (walkEntry_key _ _ _ _)
theorem newWalk_key (s : State) (ctx : Nat) (x : XWait) : (newWalk s ctx x).key = s.key := by
  unfold newWalk
  refine ite_key ?_ ?_
  · exact upd_key rfl rfl rfl
  · extract_lets +onlyGivenNames z1 z2 z3
    clear_value z1
    have h4 : z3.key = s.key := by
      unfold z3
      exact upd_key rfl rfl rfl
    refine ite_key ?_ ?_
    · refine (beginWalk_key _ _).trans ?_
      with_reducible assumption
    · exact upd_key rfl rfl rfl
theorem translate_key (s : State) (ctx : Nat) (x : XWait) : (translate s ctx x).1.key = s.key := by
  unfold translate
  refine ite_fst_key ?_ ?_
  · exact mk_fst_key rfl
  · refine ite_fst_key ?_ ?_
    · split
      · exact mk_fst_key rfl
      · exact ite_fst_key (mk_fst_key rfl) (mk_fst_key (newWalk_key _ _ _))
    · split
      · exact mk_fst_key rfl
      · split
        · exact mk_fst_key (l1Put_key _ _ _)
        · exact ite_fst_key (mk_fst_key rfl) (mk_fst_key (newWalk_key _ _ _))
theorem modInvSlot_key (s : State) (n : Fin 4) (f : InvSlot → InvSlot) : (modInvSlot s n f).key = s.key := by
  unfold modInvSlot
  exact upd_key rfl rfl rfl
theorem invSlotCompleteOp_key (s : State) (n : Fin 4) : (invSlotCompleteOp s n).key = s.key := by
  unfold invSlotCompleteOp
  extract_lets +onlyGivenNames z1 z2
  clear_value z1 z2
  refine ite_key ?_ ?_
  · extract_lets +onlyGivenNames z3
    have h4 : z3.key = s.key := by
      unfold z3
      exact modInvSlot_key _ _ _
    clear_value z3
    refine ite_key ?_ ?_
    · refine (raiseIrq_key _ _).trans ?_
      with_reducible assumption
    · with_reducible assumption
  · rfl
theorem removeEntries_key (s : State) (q : Sel) : (removeEntries s q).key = s.key := by
  unfold removeEntries
  exact upd_key rfl rfl rfl
theorem xlatInvOp_key (s : State) (n : Fin 4) (t : Nat) : (xlatInvOp s n t).key = s.key := by
  unfold xlatInvOp
  extract_lets +onlyGivenNames z1
  clear_value z1
  refine ite_key ?_ ?_
  · rfl
  · split
    · exact modInvSlot_key _ _ _
    · exact (modInvSlot_key _ _ _).trans (removeEntries_key _ _)

/-! ## Directory -/

theorem modDir_key (s : State) (g : Directory → Directory) : (modDir s g).key = s.key := by
  unfold modDir
  exact upd_key rfl rfl rfl
theorem sendInv_key (s : State) (key : Nat) (seat : Nat) (toOwner : Bool) (group : Option Nat) : (sendInv s key seat toOwner group).key = s.key := by
  unfold sendInv
  extract_lets +onlyGivenNames z1 z2
  clear_value z1
  have h3 : z2.key = s.key := by
    unfold z2
    exact modDir_key _ _
  clear_value z2
  refine (itvSend_key _ _).trans ?_
  with_reducible assumption
theorem openGroup_key (s : State) (by_ : Nat) (key : Nat) (targets : List Nat) : (openGroup s by_ key targets).key = s.key := by
  unfold openGroup
  split
  · rfl
  · extract_lets +onlyGivenNames z4 z5
    clear_value z4
    have h6 : z5.key = s.key := by
      unfold z5
      exact modDir_key _ _
    clear_value z5
    refine (foldl_key _ ?_ _ _).trans ?_
    · intro a7 a8
      exact sendInv_key _ _ _ _ _
    · with_reducible assumption
theorem answer_key (s : State) (f : Flit) (status : Nat) : (answer s f status).key = s.key := by
  unfold answer
  exact itvSend_key _ _
theorem putEntry_key (s : State) (key : Nat) (e : DirEntry) : (putEntry s key e).key = s.key := by
  unfold putEntry
  extract_lets +onlyGivenNames z1
  clear_value z1
  exact modDir_key _ _
theorem holdIn_key (s : State) (key : Nat) (e : DirEntry) (f : Flit) (t : Nat) : (holdIn s key e f t).key = s.key := by
  unfold holdIn
  exact putEntry_key _ _ _
theorem sendFwd_key (s : State) (f : Flit) (owner : Nat) : (sendFwd s f owner).key = s.key := by
  unfold sendFwd
  exact itvSend_key _ _
theorem recallFor_key (s : State) (key : Nat) (e : DirEntry) (owner : Nat) (f : Flit) (t : Nat) : (recallFor s key e owner f t).key = s.key := by
  unfold recallFor
  exact (sendInv_key _ _ _ _ _).trans (putEntry_key _ _ _)
theorem evict_key (s : State) (key : Nat) (e : DirEntry) : (evict s key e).key = s.key := by
  unfold evict
  extract_lets +onlyGivenNames z1
  have h2 : z1.key = s.key := by
    unfold z1
    exact (bumpCoh_key _ _).trans (putEntry_key _ _ _)
  clear_value z1
  extract_lets +onlyGivenNames z3
  have h4 : z3.key = s.key := by
    unfold z3
    refine (foldl_key _ ?_ _ _).trans ?_
    · intro a5 a6
      exact sendInv_key _ _ _ _ _
    · with_reducible assumption
  clear_value z3
  split
  · refine (sendInv_key _ _ _ _ _).trans ?_
    with_reducible assumption
  · with_reducible assumption
theorem haveWay_key (s : State) (key : Nat) (f : Flit) (t : Nat) : (haveWay s key f t).1.key = s.key := by
  unfold haveWay
  refine ite_fst_key ?_ ?_
  · exact mk_fst_key rfl
  · extract_lets +onlyGivenNames z1
    clear_value z1
    refine ite_fst_key ?_ ?_
    · exact mk_fst_key rfl
    · extract_lets +onlyGivenNames z2
      have h3 : z2.key = s.key := by
        unfold z2
        exact modDir_key _ _
      clear_value z2
      split
      · refine mk_fst_key ?_
        refine (evict_key _ _ _).trans ?_
        with_reducible assumption
      · refine mk_fst_key ?_
        with_reducible assumption
theorem combineOrPass_key (s : State) (f : Flit) : (combineOrPass s f).1.key = s.key := by
  unfold combineOrPass
  refine ite_fst_key ?_ ?_
  · exact mk_fst_key rfl
  · extract_lets +onlyGivenNames z1
    have h2 : z1.key = s.key := by
      unfold z1
      exact modDir_key _ _
    clear_value z1
    refine ite_fst_key ?_ ?_
    · refine mk_fst_key ?_
      with_reducible assumption
    · refine ite_fst_key ?_ ?_
      · refine mk_fst_key ?_
        refine (modDir_key _ _).trans ?_
        with_reducible assumption
      · refine ite_fst_key ?_ ?_
        · refine mk_fst_key ?_
          with_reducible assumption
        · refine mk_fst_key ?_
          refine (modDir_key _ _).trans ?_
          with_reducible assumption
theorem dirAct_key (s : State) (f : Flit) (t : Nat) : (dirAct s f t).1.key = s.key := by
  unfold dirAct
  extract_lets +onlyGivenNames z1 z2 z3 z4 z5 z6
  clear_value z1 z2 z3 z4 z5
  have h7 : ∀ b0 b1, (z6 b0 b1).key = b0.key := by
    unfold z6
    intro a8 a9
    exact openGroup_key _ _ _ _
  clear_value z6
  refine ite_fst_key ?_ ?_
  · exact mk_fst_key (answer_key _ _ _)
  · refine ite_fst_key ?_ ?_
    · refine ite_fst_key ?_ ?_
      · exact mk_fst_key ((putEntry_key _ _ _).trans (h7 _ _))
      · exact mk_fst_key (holdIn_key _ _ _ _ _)
    · split
      · refine ite_fst_key ?_ ?_
        · refine ite_fst_key ?_ ?_
          · exact mk_fst_key rfl
          · exact mk_fst_key ((sendFwd_key _ _ _).trans (ite_key (putEntry_key _ _ _) rfl))
        · refine ite_fst_key ?_ ?_
          · exact mk_fst_key (recallFor_key _ _ _ _ _ _)
          · refine ite_fst_key ?_ ?_
            · extract_lets +onlyGivenNames z15
              clear_value z15
              exact mk_fst_key ((answer_key _ _ _).trans (ite_key (putEntry_key _ _ _) rfl))
            · refine ite_fst_key ?_ ?_
              · exact mk_fst_key ((putEntry_key _ _ _).trans (h7 _ _))
              · exact mk_fst_key (recallFor_key _ _ _ _ _ _)
      · refine ite_fst_key ?_ ?_
        · refine ite_fst_key ?_ ?_
          · split
            · rename_i q19 q20 q21 q22
              refine ite_fst_key ?_ ?_
              · exact mk_fst_key ((putEntry_key _ _ _).trans (pair_key q22 (haveWay_key _ _ _ _)))
              · exact mk_fst_key (pair_key q22 (haveWay_key _ _ _ _))
          · exact mk_fst_key rfl
        · refine ite_fst_key ?_ ?_
          · extract_lets +onlyGivenNames z23
            clear_value z23
            refine ite_fst_key ?_ ?_
            · exact mk_fst_key (answer_key _ _ _)
            · split
              · rename_i q24 q25 q26 q27
                refine ite_fst_key ?_ ?_
                · refine mk_fst_key ?_
                  exact (answer_key _ _ _).trans ((putEntry_key _ _ _).trans (pair_key q27 (haveWay_key _ _ _ _)))
                · exact mk_fst_key (pair_key q27 (haveWay_key _ _ _ _))
          · refine ite_fst_key ?_ ?_
            · exact mk_fst_key ((putEntry_key _ _ _).trans (openGroup_key _ _ _ _))
            · extract_lets +onlyGivenNames z28
              have h29 : z28.key = s.key := by
                unfold z28
                exact (putEntry_key _ _ _).trans (openGroup_key _ _ _ _)
              clear_value z28
              refine ite_fst_key ?_ ?_
              · refine (combineOrPass_key _ _).trans ?_
                with_reducible assumption
              · refine mk_fst_key ?_
                with_reducible assumption
theorem passOn_key (s : State) (f : Flit) : (passOn s f).key = s.key := by
  unfold passOn
  exact ite_key (modDir_key _ _) (upd_key rfl rfl rfl)
theorem sendStores_key (s : State) (fs : List Flit) : (sendStores s fs).key = s.key := by
  unfold sendStores
  split
  · rfl
  · exact passOn_key _ _
  · refine ite_key ?_ ?_
    · refine (foldl_key _ ?_ _ _).trans ?_
      · intro a8 a9
        exact passOn_key _ _
      · rfl
    · extract_lets +onlyGivenNames z10
      clear_value z10
      split
      · extract_lets +onlyGivenNames z15
        have h16 : z15.key = s.key := by
          unfold z15
          exact modDir_key _ _
        clear_value z15
        refine (originate_key _ _ _).trans ?_
        with_reducible assumption
theorem releaseAll_key (s : State) (xs : List (Flit × Nat)) (b : List Flit) : (releaseAll s xs b).key = s.key := by
  induction xs generalizing s b with
  | nil => exact sendStores_key _ _
  | cons x xs ih =>
    obtain ⟨f, t⟩ := x
    unfold releaseAll
    split
    · rw [ih]
      exact dirAct_key _ _ _
    · rw [ih]
      split
      · rw [passOn_key]
        exact (dirAct_key _ _ _).trans (sendStores_key _ _)
      · exact (dirAct_key _ _ _).trans (sendStores_key _ _)
theorem wayFreed_key (s : State) (key : Nat) : (wayFreed s key).key = s.key := by
  unfold wayFreed
  extract_lets +onlyGivenNames z1
  clear_value z1
  exact (releaseAll_key _ _ _).trans (modDir_key _ _)
theorem nextCombined_key (s : State) (c : Combine) : (nextCombined s c).key = s.key := by
  unfold nextCombined
  split
  · exact modDir_key _ _
  · extract_lets +onlyGivenNames z7
    have h8 : z7.key = s.key := by
      unfold z7
      exact modDir_key _ _
    clear_value z7
    extract_lets +onlyGivenNames z9
    have h10 : z9.key = s.key := by
      unfold z9
      refine (bump_key _ _ _).trans ?_
      with_reducible assumption
    clear_value z9
    refine (originate_key _ _ _).trans ?_
    with_reducible assumption
theorem atomReturned_key (s : State) (f : Flit) : (atomReturned s f).key = s.key := by
  unfold atomReturned
  refine ite_key ?_ ?_
  · split
    · exact nextCombined_key _ _
    · rfl
  · rfl
theorem answerFences_key (s : State) : (answerFences s).key = s.key := by
  unfold answerFences
  extract_lets +onlyGivenNames z1
  clear_value z1
  refine (foldl_key _ ?_ _ _).trans ?_
  · intro a2 a3
    exact itvSend_key _ _
  · exact modDir_key _ _
theorem endRecall_key (s : State) (key : Nat) : (endRecall s key).key = s.key := by
  unfold endRecall
  split
  · rfl
  · refine ite_key ?_ ?_
    · rfl
    · extract_lets +onlyGivenNames z6 z7 z8
      clear_value z6 z7
      have h9 : z8.key = s.key := by
        unfold z8
        exact ite_key (modDir_key _ _) (putEntry_key _ _ _)
      clear_value z8
      extract_lets +onlyGivenNames z10
      have h11 : z10.key = s.key := by
        unfold z10
        refine (releaseAll_key _ _ _).trans ?_
        with_reducible assumption
      clear_value z10
      refine ite_key ?_ ?_
      · refine (wayFreed_key _ _).trans ?_
        with_reducible assumption
      · with_reducible assumption
theorem closeInv_key (s : State) (v : InvOut) : (closeInv s v).key = s.key := by
  unfold closeInv
  extract_lets +onlyGivenNames z1
  have h2 : z1.key = s.key := by
    unfold z1
    exact modDir_key _ _
  clear_value z1
  split
  · refine ite_key ?_ ?_
    · with_reducible assumption
    · refine (answerFences_key _).trans ?_
      refine (modDir_key _ _).trans ?_
      with_reducible assumption
  · refine ite_key ?_ ?_
    · with_reducible assumption
    · refine (endRecall_key _ _).trans ?_
      with_reducible assumption
theorem takeHeld_key (s : State) (part : Nat) : (takeHeld s part).1.key = s.key := by
  unfold takeHeld
  extract_lets +onlyGivenNames z1 z2
  clear_value z1 z2
  exact mk_fst_key (modDir_key _ _)
theorem freePart_key (s : State) (part : Nat) : (freePart s part).key = s.key := by
  unfold freePart
  extract_lets +onlyGivenNames z1
  clear_value z1
  exact modDir_key _ _
theorem domainDown_key (s0 : State) (part : Nat) : (domainDown s0 part).key = s0.key := by
  unfold domainDown
  refine ite_key ?_ ?_
  · rfl
  · extract_lets +onlyGivenNames z1
    have h2 : z1.key = s0.key := by
      unfold z1
      exact (bumpCoh_key _ _).trans (modDir_key _ _)
    clear_value z1
    split
    · rename_i q3 q4 q5 q6
      extract_lets +onlyGivenNames z7
      have h8 : z7.key = s0.key := by
        unfold z7
        refine (foldl_key _ ?_ _ _).trans ?_
        · intro a9 a10
          exact answer_key _ _ _
        · refine (freePart_key _ _).trans ?_
          refine pair_key q6 ?_
          refine (takeHeld_key _ _).trans ?_
          with_reducible assumption
      clear_value z7
      refine (noteState_key _ _).trans ?_
      refine (raiseEvent_key _ _).trans ?_
      with_reducible assumption
theorem sendNotices_key (s : State) (part : Nat) : (sendNotices s part).key = s.key := by
  unfold sendNotices
  split
  · rfl
  · refine (foldl_key _ ?_ _ _).trans ?_
    · intro a6 a7
      exact itvSend_key _ _
    · rfl
theorem recordAnswer_key (s : State) (f : Flit) (atom : Bool) (old : Bytes) (status : Nat) : (recordAnswer s f atom old status).key = s.key := by
  unfold recordAnswer
  extract_lets +onlyGivenNames z1
  clear_value z1
  exact modDir_key _ _
theorem mergedDone_key (s : State) (id : Nat) (status : Nat) : (mergedDone s id status).key = s.key := by
  unfold mergedDone
  split
  · rfl
  · extract_lets +onlyGivenNames z6
    have h7 : z6.key = s.key := by
      unfold z6
      exact modDir_key _ _
    clear_value z6
    refine (foldl_key _ ?_ _ _).trans ?_
    · intro a8 a9
      exact (itvSend_key _ _).trans (recordAnswer_key _ _ _ _ _)
    · with_reducible assumption
theorem combinedDone_key (s : State) (id : Nat) (status : Nat) (reply : Option Flit) : (combinedDone s id status reply).key = s.key := by
  unfold combinedDone
  split
  · rfl
  · extract_lets +onlyGivenNames z6 z7 z8
    clear_value z6 z7
    have h9 : z8.key = s.key := by
      unfold z8
      refine (foldl_key _ ?_ _ _).trans ?_
      · intro a10 a11
        extract_lets +onlyGivenNames z12
        clear_value z12
        exact (itvSend_key _ _).trans (recordAnswer_key _ _ _ _ _)
      · rfl
    clear_value z8
    refine (nextCombined_key _ _).trans ?_
    with_reducible assumption
theorem deadOwner_key (s : State) (seat : Nat) : (deadOwner s seat).key = s.key := by
  unfold deadOwner
  extract_lets +onlyGivenNames z1
  clear_value z1
  exact ite_key rfl ((sendNotices_key _ _).trans (domainDown_key _ _))

end Sys2Proof.Machine
end

