-- ==== Sys2Proof/Laws/KeepB.lean ====
section
/-! SUPPORT. What every operation leaves alone (Laws/Keep.lean): the operations of BelugMem, Stagehands, CueOps, WardOps, CollRed, CollMerge. -/

namespace Sys2Proof.Machine

open Sys2Proof

/-! ## BelugMem -/

theorem gate_key (s : State) (op : AOp) : (gate s op).key = s.key := by
  unfold gate
  exact upd_key rfl rfl rfl
theorem ownRmem_key (s : State) (op : AOp) : (ownRmem s op).key = s.key := by
  unfold ownRmem
  refine ite_key ?_ ?_
  · exact endApron_key _ _ _ _ _
  · exact ite_key (gate_key _ _) ((lmemReadLine_key _ _ _).trans (upd_key rfl rfl rfl))
theorem localOp_key (s : State) (op : AOp) : (localOp s op).key = s.key := by
  unfold localOp
  split
  · exact lmemRead_key _ _ _ _
  · exact lmemWriteLine_key _ _ _ _ _
  · exact ite_key (lmemAtomic_key _ _ _ _ _ _ _ _) (endApron_key _ _ _ _ _)
  · exact ownRmem_key _ _
theorem serveLoad_key (s : State) (op : AOp) (line : Bytes) : (serveLoad s op line).key = s.key := by
  unfold serveLoad
  exact endApron_key _ _ _ _ _
theorem modOc_key (s : State) (line : Nat) (f : OcLine → OcLine) : (modOc s line f).key = s.key := by
  unfold modOc
  split
  · exact upd_key rfl rfl rfl
  · rfl
theorem useOc_key (s : State) (line : Nat) : (useOc s line).key = s.key := by
  unfold useOc
  exact (modOc_key _ _ _).trans (upd_key rfl rfl rfl)
theorem sendLoad_key (s : State) (node : BitVec 16) (ctx : BitVec 16) (off : Nat) (code : Nat) (p : Purpose) : (sendLoad s node ctx off code p).key = s.key := by
  unfold sendLoad
  exact blgRequest_key _ _ _ _ _ _ _
theorem fillOc_key (s : State) (line : Nat) : (fillOc s line).key = s.key := by
  unfold fillOc
  split
  · exact ite_key rfl ((sendLoad_key _ _ _ _ _ _).trans (modOc_key _ _ _))
  · rfl
theorem loadOp_key (s : State) (op : AOp) : (loadOp s op).key = s.key := by
  unfold loadOp
  split
  · refine ite_key ?_ ?_
    · exact (serveLoad_key _ _ _).trans (useOc_key _ _)
    · exact (gate_key _ _).trans (ite_key (fillOc_key _ _) rfl)
  · refine ite_key ?_ ?_
    · exact sendLoad_key _ _ _ _ _ _
    · extract_lets +onlyGivenNames z6
      clear_value z6
      split
      · exact serveLoad_key _ _ _
      · refine ite_key ?_ ?_
        · exact gate_key _ _
        · extract_lets +onlyGivenNames z12 z13 z14
          clear_value z12
          have h15 : z14.key = s.key := by
            unfold z14
            exact upd_key rfl rfl rfl
          clear_value z14
          refine ite_key ?_ ?_
          · with_reducible assumption
          · refine (sendLoad_key _ _ _ _ _ _).trans ?_
            with_reducible assumption
theorem sendStore_key (s : State) (node : BitVec 16) (ctx : BitVec 16) (off : Nat) (code : Nat) (line : Bytes) (mask : Nat) (p : Purpose) : (sendStore s node ctx off code line mask p).key = s.key := by
  unfold sendStore
  exact blgRequest_key _ _ _ _ _ _ _
theorem publish_key (s : State) (line : Nat) : (publish s line).key = s.key := by
  unfold publish
  split
  · rfl
  · split
    · rfl
    · exact modOc_key _ _ _
    · exact (sendStore_key _ _ _ _ _ _ _ _).trans (modOc_key _ _ _)
theorem spoilFills_key (s : State) (p : Nat → Bool) : (spoilFills s p).key = s.key := by
  unfold spoilFills
  extract_lets +onlyGivenNames z1
  clear_value z1
  exact upd_key rfl rfl rfl
theorem farDrop_key (s : State) (key : Nat) : (farDrop s key).key = s.key := by
  unfold farDrop
  exact upd_key rfl rfl rfl
theorem sendAtomic_key (s : State) (node : BitVec 16) (ctx : BitVec 16) (off : Nat) (code : Nat) (aop : Nat) (a : Nat) (b : Nat) (p : Purpose) : (sendAtomic s node ctx off code aop a b p).key = s.key := by
  unfold sendAtomic
  exact blgRequest_key _ _ _ _ _ _ _
theorem claimLine_key {s : State} {op : AOp} {t : State} (h : claimLine s op = some t) : t.key = s.key := by
  unfold claimLine at h
  split at h
  · cases h
  · cases h
    rw [useOc_key, sendAtomic_key, spoilFills_key, farDrop_key]
    rfl
theorem makeRoom_key (s : State) : (makeRoom s).key = s.key := by
  unfold makeRoom
  split
  · exact publish_key _ _
  · rfl
theorem ownerEntry_key (s : State) (op : AOp) : (ownerEntry s op).1.key = s.key := by
  unfold ownerEntry
  split
  · refine ite_fst_key ?_ ?_
    · exact ite_fst_key (mk_fst_key (gate_key _ _)) (mk_fst_key rfl)
    · refine ite_fst_key ?_ ?_
      · exact mk_fst_key (gate_key _ _)
      · exact mk_fst_key ((gate_key _ _).trans ((publish_key _ _).trans (bumpBC_key _ _)))
  · split
    · rename_i q6 q7 q8
      exact mk_fst_key (claimLine_key q8)
    · exact mk_fst_key ((gate_key _ _).trans (makeRoom_key _))
theorem mergeOc_key (s : State) (line : Nat) (data : Bytes) (mask : Nat) : (mergeOc s line data mask).key = s.key := by
  unfold mergeOc
  exact modOc_key _ _ _
theorem storeOp_key (s : State) (op : AOp) : (storeOp s op).key = s.key := by
  unfold storeOp
  refine ite_key ?_ ?_
  · extract_lets +onlyGivenNames z1
    have h2 : z1.key = s.key := by
      unfold z1
      split
      · exact modOc_key _ _ _
      · rfl
    clear_value z1
    refine (sendStore_key _ _ _ _ _ _ _ _).trans ?_
    with_reducible assumption
  · split
    · rename_i q8 q9 q10
      exact pair_key q10 (ownerEntry_key _ _)
    · rename_i q11 q12 q13 q14
      refine (endApron_key _ _ _ _ _).trans ?_
      exact (mergeOc_key _ _ _ _).trans ((useOc_key _ _).trans (pair_key q14 (ownerEntry_key _ _)))
theorem afterPublish_key (s : State) (op : AOp) (send : State → State) (hsend : ∀ v0, (send v0).key = v0.key) : (afterPublish s op send).key = s.key := by
  unfold afterPublish
  split
  · exact (gate_key _ _).trans (publish_key _ _)
  · exact hsend _
theorem houseAtomic_key (s : State) (op : AOp) : (houseAtomic s op).key = s.key := by
  unfold houseAtomic
  refine (afterPublish_key _ _ _ ?_).trans ?_
  · intro a1
    exact sendAtomic_key _ _ _ _ _ _ _ _ _
  · rfl
theorem atomicOc_key (s : State) (op : AOp) (e : OcLine) : (atomicOc s op e).key = s.key := by
  unfold atomicOc
  extract_lets +onlyGivenNames z1 z2 z3 z4 z5
  clear_value z1 z2 z3 z4
  have h6 : z5.key = s.key := by
    unfold z5
    exact ite_key rfl (mergeOc_key _ _ _ _)
  clear_value z5
  refine (endApron_key _ _ _ _ _).trans ?_
  refine (useOc_key _ _).trans ?_
  with_reducible assumption
theorem narrowAtomic_key (s : State) (op : AOp) : (narrowAtomic s op).key = s.key := by
  unfold narrowAtomic
  split
  · rename_i q1 q2 q3
    exact pair_key q3 (ownerEntry_key _ _)
  · rename_i q4 q5 q6 q7
    refine ite_key ?_ ?_
    · exact (atomicOc_key _ _ _).trans (pair_key q7 (ownerEntry_key _ _))
    · refine (gate_key _ _).trans ?_
      refine ite_key ?_ ?_
      · exact (fillOc_key _ _).trans (pair_key q7 (ownerEntry_key _ _))
      · exact pair_key q7 (ownerEntry_key _ _)
theorem remoteRmem_key (s : State) (op : AOp) : (remoteRmem s op).key = s.key := by
  unfold remoteRmem
  refine (afterPublish_key _ _ _ ?_).trans ?_
  · intro a1
    exact blgRequest_key _ _ _ _ _ _ _
  · rfl
theorem remoteOp_key (s : State) (op : AOp) : (remoteOp s op).key = s.key := by
  unfold remoteOp
  split
  · exact loadOp_key _ _
  · exact storeOp_key _ _
  · refine ite_key ?_ ?_
    · exact endApron_key _ _ _ _ _
    · refine ite_key ?_ ?_
      · exact houseAtomic_key _ _
      · exact ite_key (narrowAtomic_key _ _) (endApron_key _ _ _ _ _)
  · exact remoteRmem_key _ _
theorem performApron_key (s : State) (op : AOp) : (performApron s op).key = s.key := by
  unfold performApron
  refine ite_key ?_ ?_
  · rfl
  · refine ite_key ?_ ?_
    · exact endApron_key _ _ _ _ _
    · exact ite_key (gate_key _ _) (ite_key (localOp_key _ _) (remoteOp_key _ _))
theorem farPut_key (s : State) (key : Nat) (data : Bytes) : (farPut s key data).key = s.key := by
  unfold farPut
  extract_lets +onlyGivenNames z1 z2
  have h3 : z2.key = s.key := by
    unfold z2
    exact ite_key ((drawFree_key _).trans (upd_key rfl rfl rfl)) rfl
  clear_value z2
  refine upd_key rfl rfl ?_
  with_reducible assumption
theorem apronDone_key (s : State) (op : AOp) (status : Nat) (reply : Option Flit) : (apronDone s op status reply).key = s.key := by
  unfold apronDone
  extract_lets +onlyGivenNames z1
  clear_value z1
  split
  · exact endApron_key _ _ _ _ _
  · exact endApron_key _ _ _ _ _
  · extract_lets +onlyGivenNames z8
    have h9 : z8.key = s.key := by
      unfold z8
      split
      · exact ite_key (farPut_key _ _ _) rfl
      · rfl
    clear_value z8
    refine (endApron_key _ _ _ _ _).trans ?_
    refine (spoilFills_key _ _).trans ?_
    with_reducible assumption
  · exact endApron_key _ _ _ _ _
theorem fillDone_key (s : State) (key : Nat) (status : Nat) (reply : Option Flit) (metInv : Bool) : (fillDone s key status reply metInv).key = s.key := by
  unfold fillDone
  extract_lets +onlyGivenNames z1 z2 z3
  clear_value z1
  have h4 : z3.key = s.key := by
    unfold z3
    exact upd_key rfl rfl rfl
  clear_value z3
  extract_lets +onlyGivenNames z5
  clear_value z5
  split
  · refine ite_key ?_ ?_
    · extract_lets +onlyGivenNames z8
      have h9 : z8.key = s.key := by
        unfold z8
        refine ite_key ?_ ?_
        · with_reducible assumption
        · refine (farPut_key _ _ _).trans ?_
          with_reducible assumption
      clear_value z8
      refine (foldl_key _ ?_ _ _).trans ?_
      · intro a10 a11
        exact serveLoad_key _ _ _
      · with_reducible assumption
    · refine (foldl_key _ ?_ _ _).trans ?_
      · intro a12 a13
        exact endApron_key _ _ _ _ _
      · with_reducible assumption
  · refine (foldl_key _ ?_ _ _).trans ?_
    · intro a15 a16
      exact endApron_key _ _ _ _ _
    · with_reducible assumption
theorem endGated_key (s : State) (p : AOp → Bool) (status : Nat) : (endGated s p status).key = s.key := by
  unfold endGated
  refine (foldl_key _ ?_ _ _).trans ?_
  · intro a1 a2
    exact endApron_key _ _ _ _ _
  · exact upd_key rfl rfl rfl
theorem freeOc_key (s : State) (line : Nat) : (freeOc s line).key = s.key := by
  unfold freeOc
  exact upd_key rfl rfl rfl
theorem lostLine_key (s : State) (line : Nat) (status : Nat) : (lostLine s line status).key = s.key := by
  unfold lostLine
  refine (raiseIrq_key _ _).trans ?_
  extract_lets +onlyGivenNames z1
  have h2 : z1.key = s.key := by
    unfold z1
    exact freeOc_key _ _
  clear_value z1
  refine upd_key rfl rfl ?_
  with_reducible assumption
theorem claimDone_key (s : State) (id : Nat) (status : Nat) : (claimDone s id status).key = s.key := by
  unfold claimDone
  split
  · rfl
  · refine ite_key ?_ ?_
    · extract_lets +onlyGivenNames z7
      have h8 : z7.key = s.key := by
        unfold z7
        exact (fillOc_key _ _).trans (modOc_key _ _ _)
      clear_value z7
      refine ite_key ?_ ?_
      · refine (publish_key _ _).trans ?_
        refine (modOc_key _ _ _).trans ?_
        with_reducible assumption
      · with_reducible assumption
    · exact (endGated_key _ _ _).trans (lostLine_key _ _ _)
theorem fwdData_key (s : State) (f : Flit) (node : BitVec 16) (line : Bytes) : (fwdData s f node line).key = s.key := by
  unfold fwdData
  extract_lets +onlyGivenNames z1 z2
  clear_value z1 z2
  exact blgSend_key _ _ _
theorem ocFillDone_key (s : State) (id : Nat) (status : Nat) (reply : Option Flit) : (ocFillDone s id status reply).key = s.key := by
  unfold ocFillDone
  split
  · refine ite_key ?_ ?_
    · extract_lets +onlyGivenNames z7 z8
      clear_value z7
      have h9 : z8.key = s.key := by
        unfold z8
        exact modOc_key _ _ _
      clear_value z8
      refine (foldl_key _ ?_ _ _).trans ?_
      · intro a10 a11
        exact fwdData_key _ _ _ _
      · with_reducible assumption
    · extract_lets +onlyGivenNames z12
      have h13 : z12.key = s.key := by
        unfold z12
        exact modOc_key _ _ _
      clear_value z12
      refine (endGated_key _ _ _).trans ?_
      refine (foldl_key _ ?_ _ _).trans ?_
      · intro a14 a15
        exact bumpBC_key _ _
      · with_reducible assumption
  · extract_lets +onlyGivenNames z21
    have h22 : z21.key = s.key := by
      unfold z21
      exact modOc_key _ _ _
    clear_value z21
    refine (endGated_key _ _ _).trans ?_
    refine (foldl_key _ ?_ _ _).trans ?_
    · intro a23 a24
      exact bumpBC_key _ _
    · with_reducible assumption
  · rfl
theorem invAck_key (s : State) (f : Flit) : (invAck s f).key = s.key := by
  unfold invAck
  exact blgSend_key _ _ _
theorem publishDone_key (s : State) (id : Nat) (status : Nat) : (publishDone s id status).key = s.key := by
  unfold publishDone
  split
  · rfl
  · extract_lets +onlyGivenNames z7
    have h8 : z7.key = s.key := by
      unfold z7
      exact freeOc_key _ _
    clear_value z7
    extract_lets +onlyGivenNames z9
    have h10 : z9.key = s.key := by
      unfold z9
      refine ite_key ?_ ?_
      · refine ite_key ?_ ?_
        · refine (farPut_key _ _ _).trans ?_
          with_reducible assumption
        · with_reducible assumption
      · exact lostLine_key _ _ _
    clear_value z9
    extract_lets +onlyGivenNames z11
    have h12 : z11.key = s.key := by
      unfold z11
      refine (foldl_key _ ?_ _ _).trans ?_
      · intro a13 a14
        exact ite_key (fwdData_key _ _ _ _) (bumpBC_key _ _)
      · with_reducible assumption
    clear_value z11
    refine (foldl_key _ ?_ _ _).trans ?_
    · intro a15 a16
      exact invAck_key _ _
    · with_reducible assumption
theorem apronXlat_key (s : State) (op : AOp) (x : XWait) (u3 : XRes) : (apronXlat s op x u3).key = s.key := by
  unfold apronXlat
  split
  · exact performApron_key _ _
  · exact ite_key ((endApron_key _ _ _ _ _).trans (xlatFault_key _ _ _ _ _ _)) rfl
theorem acceptApron_key (s : State) (ch : Nat) (m : ApronMsg) : (acceptApron s ch m).key = s.key := by
  unfold acceptApron
  extract_lets +onlyGivenNames z1
  clear_value z1
  refine ite_key ?_ ?_
  · exact respond_key _ _ _ _ _ _
  · split
    · rename_i q2 q3 q4 q5
      extract_lets +onlyGivenNames z6 z7
      clear_value z6 z7
      split
      · rename_i q8 q9 q10 q11
        refine (apronXlat_key _ _ _ _).trans ?_
        exact pair_key q11 ((translate_key _ _ _).trans (pair_key q5 (openOp_key _ _ _ _ _)))
      · rename_i q12 q13 q14
        exact pair_key q14 ((translate_key _ _ _).trans (pair_key q5 (openOp_key _ _ _ _ _)))
theorem markDirty_key (s : State) (plane : Nat) (ctx : BitVec 16) : (markDirty s plane ctx).key = s.key := by
  unfold markDirty
  exact upd_key rfl rfl rfl
theorem takeCoherent_key (s : State) : (takeCoherent s).1.key = s.key := by
  unfold takeCoherent
  extract_lets +onlyGivenNames z1 z2 z3 z4 z5 z6
  clear_value z1 z2 z3 z4
  have h7 : z6.key = s.key := by
    unfold z6
    exact upd_key rfl rfl rfl
  clear_value z6
  refine mk_fst_key ?_
  refine (foldl_key _ ?_ _ _).trans ?_
  · intro a8 a9
    exact drainQueue_key _ _ _ _
  · with_reducible assumption
theorem dropCaches_key (s : State) (status : Nat) : (dropCaches s status).key = s.key := by
  unfold dropCaches
  extract_lets +onlyGivenNames z1 z2 z3 z4
  clear_value z1 z2
  have h5 : z4.key = s.key := by
    unfold z4
    exact upd_key rfl rfl rfl
  clear_value z4
  extract_lets +onlyGivenNames z6
  have h7 : z6.key = s.key := by
    unfold z6
    refine (foldl_key _ ?_ _ _).trans ?_
    · intro a8 a9
      exact invAck_key _ _
    · with_reducible assumption
  clear_value z6
  refine (foldl_key _ ?_ _ _).trans ?_
  · intro a10 a11
    exact endApron_key _ _ _ _ _
  · with_reducible assumption
theorem domainCaches_key (s : State) : (domainCaches s).key = s.key := by
  unfold domainCaches
  refine (raiseIrq_key _ _).trans ?_
  extract_lets +onlyGivenNames z1
  have h2 : z1.key = s.key := by
    unfold z1
    exact dropCaches_key _ _
  clear_value z1
  refine upd_key rfl rfl ?_
  with_reducible assumption
theorem applyInv_key (s : State) (f : Flit) : (applyInv s f).key = s.key := by
  unfold applyInv
  extract_lets +onlyGivenNames z1 z2 z3
  clear_value z1
  have h4 : z3.key = s.key := by
    unfold z3
    exact upd_key rfl rfl rfl
  clear_value z3
  extract_lets +onlyGivenNames z5
  have h6 : z5.key = s.key := by
    unfold z5
    refine (spoilFills_key _ _).trans ?_
    with_reducible assumption
  clear_value z5
  split
  · refine (invAck_key _ _).trans ?_
    with_reducible assumption
  · split
    · refine (invAck_key _ _).trans ?_
      with_reducible assumption
    · refine (publish_key _ _).trans ?_
      refine (modOc_key _ _ _).trans ?_
      with_reducible assumption
    · refine (modOc_key _ _ _).trans ?_
      with_reducible assumption
theorem applyFwd_key (s : State) (f : Flit) : (applyFwd s f).key = s.key := by
  unfold applyFwd
  extract_lets +onlyGivenNames z1
  clear_value z1
  split
  · exact ite_key (fwdData_key _ _ _ _) (ite_key (modOc_key _ _ _) (bumpBC_key _ _))
  · split
    · exact fwdData_key _ _ _ _
    · exact bumpBC_key _ _

/-! ## Stagehands -/

theorem pmsgXlat_key (s : State) (n : Nat) (slot : Nat) (id : Nat) (w : XWait) (r : XRes) : (pmsgXlat s n slot id w r).key = s.key := by
  unfold pmsgXlat
  refine ite_key ?_ ?_
  · rfl
  · extract_lets +onlyGivenNames z1 z2
    clear_value z1 z2
    split
    · exact (pieceEnd_key _ _ _ _ _).trans (xlatFault_key _ _ _ _ _ _)
    · refine ite_key ?_ ?_
      · exact pieceEnd_key _ _ _ _ _
      · extract_lets +onlyGivenNames z11
        clear_value z11
        exact (originate_key _ _ _).trans (modPiece_key _ _ _ _ _)
theorem pieceReady_key (s : State) (n : Nat) (slot : Nat) (id : Nat) (destX : State → XWait → XRes → State) (hdestX : ∀ v0 v1 v2, (destX v0 v1 v2).key = v0.key) : (pieceReady s n slot id destX).key = s.key := by
  unfold pieceReady
  split
  · rfl
  · extract_lets +onlyGivenNames z6 z7
    clear_value z6 z7
    split
    · refine ite_key ?_ ?_
      · exact pieceEnd_key _ _ _ _ _
      · refine ite_key ?_ ?_
        · extract_lets +onlyGivenNames z12
          clear_value z12
          exact (originate_key _ _ _).trans (modPiece_key _ _ _ _ _)
        · extract_lets +onlyGivenNames z13
          clear_value z13
          split
          · rename_i q14 q15 q16 q17
            exact Eq.trans (hdestX _ _ _) (pair_key q17 (translate_key _ _ _))
          · rename_i q18 q19 q20
            exact pair_key q20 (translate_key _ _ _)
theorem destXlat_key (s : State) (n : Nat) (slot : Nat) (id : Nat) (w : XWait) (r : XRes) : (destXlat s n slot id w r).key = s.key := by
  unfold destXlat
  split
  · rfl
  · extract_lets +onlyGivenNames z6 z7
    clear_value z6 z7
    split
    · exact (pieceEnd_key _ _ _ _ _).trans (xlatFault_key _ _ _ _ _ _)
    · split
      · extract_lets +onlyGivenNames z20 z21
        clear_value z20
        have h22 : z21.key = s.key := by
          unfold z21
          exact modPiece_key _ _ _ _ _
        clear_value z21
        refine ite_key ?_ ?_
        · exact pieceEnd_key _ _ _ _ _
        · refine ite_key ?_ ?_
          · refine (lmemWrite_key _ _ _ _).trans ?_
            with_reducible assumption
          · refine (blgRequest_key _ _ _ _ _ _ _).trans ?_
            with_reducible assumption
theorem partDone_key (s : State) (n : Nat) (slot : Nat) (id : Nat) (part : Nat) (status : Nat) (line : Bytes) : (partDone s n slot id part status line).key = s.key := by
  unfold partDone
  split
  · rfl
  · split
    · rfl
    · extract_lets +onlyGivenNames z13
      have h14 : z13.key = s.key := by
        unfold z13
        exact modPiece_key _ _ _ _ _
      clear_value z13
      refine ite_key ?_ ?_
      · refine (pieceReady_key _ _ _ _ _ ?_).trans ?_
        · intro a15 a16 a17
          exact destXlat_key _ _ _ _ _ _
        · with_reducible assumption
      · with_reducible assumption
theorem pieceReply_key (s : State) (n : Nat) (slot : Nat) (id : Nat) (part : Nat) (status : Nat) (reply : Option Flit) : (pieceReply s n slot id part status reply).key = s.key := by
  unfold pieceReply
  split
  · rfl
  · exact ite_key (pieceEnd_key _ _ _ _ _) (partDone_key _ _ _ _ _ _ _)
theorem sourceXlat_key (s : State) (n : Nat) (slot : Nat) (id : Nat) (part : Nat) (w : XWait) (r : XRes) : (sourceXlat s n slot id part w r).key = s.key := by
  unfold sourceXlat
  refine ite_key ?_ ?_
  · rfl
  · extract_lets +onlyGivenNames z1
    clear_value z1
    split
    · exact (partDone_key _ _ _ _ _ _ _).trans (xlatFault_key _ _ _ _ _ _)
    · extract_lets +onlyGivenNames z10
      have h11 : z10.key = s.key := by
        unfold z10
        exact modPiece_key _ _ _ _ _
      clear_value z10
      refine ite_key ?_ ?_
      · exact partDone_key _ _ _ _ _ _ _
      · refine ite_key ?_ ?_
        · refine (lmemReadLine_key _ _ _).trans ?_
          with_reducible assumption
        · extract_lets +onlyGivenNames z12
          clear_value z12
          refine (blgRequest_key _ _ _ _ _ _ _).trans ?_
          with_reducible assumption
theorem readParts_key (s : State) (n slot id part : Nat) (ps : List (Nat × Nat × Nat)) :
    (readParts s n slot id part ps).key = s.key := by
  induction ps generalizing s part with
  | nil => rfl
  | cons p ps ih =>
    obtain ⟨va, a, b⟩ := p
    unfold readParts
    dsimp only
    rw [ih]
    split
    · rename_i h
      exact (sourceXlat_key _ _ _ _ _ _ _).trans (pair_key h (translate_key _ _ _))
    · rename_i h
      exact pair_key h (translate_key _ _ _)
theorem dropUnsent_key (s : State) (n : Nat) (slot : Nat) (id : Nat) : (dropUnsent s n slot id).key = s.key := by
  unfold dropUnsent
  extract_lets +onlyGivenNames z1 z2
  clear_value z1 z2
  exact upd_key rfl rfl rfl
theorem resetSlot_key (s : State) (n : Nat) (slot : Nat) (status : Nat) : (resetSlot s n slot status).key = s.key := by
  unfold resetSlot
  extract_lets +onlyGivenNames z1
  clear_value z1
  refine ite_key ?_ ?_
  · rfl
  · extract_lets +onlyGivenNames z2 z3
    clear_value z2
    have h4 : z3.key = s.key := by
      unfold z3
      refine (foldl_key _ ?_ _ _).trans ?_
      · intro a5 a6
        exact (pieceEnd_key _ _ _ _ _).trans (dropUnsent_key _ _ _ _)
      · exact modSH_key _ _ _ _
    clear_value z3
    refine (slotDone_key _ _ _).trans ?_
    refine (tallyAddN_key _ _ _ _).trans ?_
    with_reducible assumption
theorem stagehandResetOp_key (s : State) (n : Nat) : (stagehandResetOp s n).key = s.key := by
  unfold stagehandResetOp
  extract_lets +onlyGivenNames z1
  have h2 : z1.key = s.key := by
    unfold z1
    exact modHand_key _ _ _
  clear_value z1
  extract_lets +onlyGivenNames z3
  have h4 : z3.key = s.key := by
    unfold z3
    refine (foldl_key _ ?_ _ _).trans ?_
    · intro a5 a6
      exact resetSlot_key _ _ _ _
    · with_reducible assumption
  clear_value z3
  refine (modHand_key _ _ _).trans ?_
  with_reducible assumption
theorem slotPost_key (s : State) (ch : Nat) (m : ApronMsg) : (slotPost s ch m).key = s.key := by
  unfold slotPost
  extract_lets +onlyGivenNames z1 z2 z3
  clear_value z1 z2 z3
  refine ite_key ?_ ?_
  · exact respond_key _ _ _ _ _ _
  · exact ite_key (respond_key _ _ _ _ _ _) ((respond_key _ _ _ _ _ _).trans (modSH_key _ _ _ _))
theorem cutPiece_key (s : State) (n : Nat) (slot : Nat) : (cutPiece s n slot).key = s.key := by
  unfold cutPiece
  extract_lets +onlyGivenNames z1 z2 z3 z4 z5
  clear_value z1 z2 z3 z4 z5
  split
  · rename_i q6 q7 q8 q9
    extract_lets +onlyGivenNames z10 z11
    clear_value z10
    have h12 : z11.key = s.key := by
      unfold z11
      exact (modSH_key _ _ _ _).trans (pair_key q9 (openOp_key _ _ _ _ _))
    clear_value z11
    refine ite_key ?_ ?_
    · refine (pieceEnd_key _ _ _ _ _).trans ?_
      with_reducible assumption
    · refine ite_key ?_ ?_
      · extract_lets +onlyGivenNames z13
        clear_value z13
        split
        · rename_i q14 q15 q16 q17
          refine (pmsgXlat_key _ _ _ _ _ _).trans ?_
          refine pair_key q17 ?_
          refine (translate_key _ _ _).trans ?_
          with_reducible assumption
        · rename_i q18 q19 q20
          refine pair_key q20 ?_
          refine (translate_key _ _ _).trans ?_
          with_reducible assumption
      · refine (readParts_key _ _ _ _ _ _).trans ?_
        with_reducible assumption
theorem stagehandStep_key (s : State) (n : Nat) : (stagehandStep s n).key = s.key := by
  unfold stagehandStep
  extract_lets +onlyGivenNames z1
  clear_value z1
  refine ite_key ?_ ?_
  · rfl
  · split
    · exact (cutPiece_key _ _ _).trans (modHand_key _ _ _)
    · refine ite_key ?_ ?_
      · rfl
      · extract_lets +onlyGivenNames z7
        clear_value z7
        split
        · exact ite_key (cutPiece_key _ _ _) rfl
        · split
          · exact modHand_key _ _ _
          · exact (cutPiece_key _ _ _).trans (modHand_key _ _ _)

/-! ## CueOps -/

theorem setCueState_key (s : State) (d : Side) (st : CueState) : (setCueState s d st).key = s.key := by
  unfold setCueState
  extract_lets +onlyGivenNames z1
  clear_value z1
  refine ite_key ?_ ?_
  · rfl
  · extract_lets +onlyGivenNames z2
    have h3 : z2.key = s.key := by
      unfold z2
      exact setCue_key _ _ _
    clear_value z2
    split
    · refine (raiseIrq_key _ _).trans ?_
      with_reducible assumption
    · with_reducible assumption
theorem takeRoot_key (s : State) : (takeRoot s).key = s.key := by
  unfold takeRoot
  extract_lets +onlyGivenNames z1 z2 z3
  clear_value z2
  have h4 : z3.key = s.key := by
    unfold z3
    exact upd_key rfl rfl rfl
  clear_value z3
  refine (setCueState_key _ _ _).trans ?_
  with_reducible assumption
theorem reparent_key (s : State) (d : Side) : (reparent s d).key = s.key := by
  unfold reparent
  extract_lets +onlyGivenNames z1
  clear_value z1
  refine ite_key ?_ ?_
  · rfl
  · split
    · exact setCue_key _ _ _
    · exact setCue_key _ _ _
theorem loseParent_key (s : State) (d : Side) : (loseParent s d).key = s.key := by
  unfold loseParent
  extract_lets +onlyGivenNames z1
  clear_value z1
  refine ite_key ?_ ?_
  · rfl
  · extract_lets +onlyGivenNames z2
    have h3 : z2.key = s.key := by
      unfold z2
      exact ite_key (setCueState_key _ _ _) rfl
    clear_value z2
    refine (reparent_key _ _).trans ?_
    with_reducible assumption
theorem countCueJump_key (s : State) (u1 : Side) : (countCueJump s u1).key = s.key := by
  unfold countCueJump
  split
  · exact bump_key _ _ _
  · exact bumpBC_key _ _
theorem applyOffset_key (s : State) (d : Side) (offset : ℤ) (locked : Bool) : (applyOffset s d offset locked).key = s.key := by
  unfold applyOffset
  extract_lets +onlyGivenNames z1 z2 z3
  have h4 : z3.key = s.key := by
    unfold z3
    refine ite_key ?_ ?_
    · exact setCue_key _ _ _
    · refine ite_key ?_ ?_
      · exact (countCueJump_key _ _).trans (setCue_key _ _ _)
      · exact ite_key ((countCueJump_key _ _).trans (setCue_key _ _ _)) (setCue_key _ _ _)
  clear_value z3
  refine (setCueState_key _ _ _).trans ?_
  with_reducible assumption
theorem cueArrival_key (s : State) (r : PortRef) (f : Flit) : (cueArrival s r f).key = s.key := by
  unfold cueArrival
  extract_lets +onlyGivenNames z1 z2 z3 z4 z5 z6 z7 z8 z9 z10
  clear_value z1 z2 z3 z4 z5 z6 z7 z8 z9
  have h11 : z10.key = s.key := by
    unfold z10
    exact modPort_key _ _ _
  clear_value z10
  extract_lets +onlyGivenNames z12
  have h13 : z12.key = s.key := by
    unfold z12
    refine (reparent_key _ _).trans ?_
    with_reducible assumption
  clear_value z12
  extract_lets +onlyGivenNames z14
  clear_value z14
  refine ite_key ?_ ?_
  · extract_lets +onlyGivenNames z15
    clear_value z15
    split
    · with_reducible assumption
    · extract_lets +onlyGivenNames z23 z24 z25
      clear_value z23 z24
      have h26 : z25.key = s.key := by
        unfold z25
        refine (modPort_key _ _ _).trans ?_
        with_reducible assumption
      clear_value z25
      refine ite_key ?_ ?_
      · refine (applyOffset_key _ _ _ _).trans ?_
        with_reducible assumption
      · with_reducible assumption
  · with_reducible assumption

/-! ## WardOps -/

theorem bumpWard_key (s : State) (w : Nat) (k : Nat) (c : Nat) : (bumpWard s w k c).key = s.key := by
  unfold bumpWard
  exact ite_key (bump_key _ _ _) rfl
theorem wardFree_key (s : State) (w : Nat) (k : Nat) (i : Nat) : (wardFree s w k i).key = s.key := by
  unfold wardFree
  split
  · rfl
  · extract_lets +onlyGivenNames z6
    clear_value z6
    exact (bumpWard_key _ _ _ _).trans (upd_key rfl rfl rfl)
theorem wardReclaim_key (s : State) (w : Nat) (p : BitVec 16 × BitVec 16 → Bool) : (wardReclaim s w p).1.key = s.key := by
  unfold wardReclaim
  split
  · exact mk_fst_key rfl
  · extract_lets +onlyGivenNames z6
    clear_value z6
    refine mk_fst_key ?_
    refine (foldl_key _ ?_ _ _).trans ?_
    · intro a7 a8
      exact wardFree_key _ _ _ _
    · rfl
theorem wardAlloc_key (s : State) (w : Nat) (n : Nat) (owner : BitVec 16 × BitVec 16) : (wardAlloc s w n owner).1.key = s.key := by
  unfold wardAlloc
  extract_lets +onlyGivenNames z1
  clear_value z1
  split
  · exact mk_fst_key rfl
  · split
    · exact mk_fst_key (bumpWard_key _ _ _ _)
    · exact mk_fst_key ((bumpWard_key _ _ _ _).trans (upd_key rfl rfl rfl))

/-! ## CollRed -/

theorem sealNext_key (s : State) (f : Flit) : (sealNext s f).1.key = s.key := by
  unfold sealNext
  refine ite_fst_key ?_ ?_
  · exact mk_fst_key rfl
  · split
    · exact mk_fst_key rfl
    · rename_i q3 q4 q5
      extract_lets +onlyGivenNames z6 z7 z8 z9 z10
      clear_value z8 z9
      exact mk_fst_key ((modOut_key _ _ _ _).trans ((setTurns_key _ _ _).trans (flowEntry_key q5)))
theorem sendPorts_key (s : State) (f : Flit) (ports : List Nat) : (sendPorts s f ports).key = s.key := by
  unfold sendPorts
  refine ite_key ?_ ?_
  · rfl
  · split
    · rename_i q1 q2 q3 q4
      exact (itvMulticast_key _ _ _).trans (pair_key q4 (sealNext_key _ _))
theorem sendDown_key (s : State) (c : Cast) (kind : BitVec 5) (ctx : BitVec 16) (h : CHead) (data : Bytes) (to_ : Option Nat) : (sendDown s c kind ctx h data to_).key = s.key := by
  unfold sendDown
  split
  · exact sendPorts_key _ _ _
  · extract_lets +onlyGivenNames z4
    clear_value z4
    exact sendPorts_key _ _ _
theorem modCast_key (s : State) (g : Nat) (f : Cast → Cast) : (modCast s g f).key = s.key := by
  unfold modCast
  exact upd_key rfl rfl rfl
theorem freeState_key (s : State) (b : StateBuf) : (freeState s b).key = s.key := by
  unfold freeState
  refine (foldl_key _ ?_ _ _).trans ?_
  · intro a1 a2
    split
    · exact wardFree_key _ _ _ _
    · rfl
  · exact wardFree_key _ _ _ _
theorem dropStates_key (s : State) (p : StateBuf → Bool) : (dropStates s p).key = s.key := by
  unfold dropStates
  extract_lets +onlyGivenNames z1 z2
  clear_value z1
  have h3 : z2.key = s.key := by
    unfold z2
    refine (foldl_key _ ?_ _ _).trans ?_
    · intro a4 a5
      exact (freeState_key _ _).trans (ite_key (upd_key rfl rfl rfl) rfl)
    · rfl
  clear_value z2
  refine upd_key rfl rfl ?_
  with_reducible assumption
theorem freeStripe_key (s : State) (g : Nat) (q : Nat) (x : StripeRun) : (freeStripe s g q x).key = s.key := by
  unfold freeStripe
  refine (dropStates_key _ _).trans ?_
  refine (foldl_key _ ?_ _ _).trans ?_
  · intro a1 a2
    exact wardFree_key _ _ _ _
  · rfl
theorem modRun_key (s : State) (g : Nat) (q : Nat) (f : Run → Run) : (modRun s g q f).key = s.key := by
  unfold modRun
  exact upd_key rfl rfl rfl
theorem discardStripes_key (s : State) (g : Nat) (q : Nat) (p : StripeRun → Bool) : (discardStripes s g q p).key = s.key := by
  unfold discardStripes
  split
  · rfl
  · extract_lets +onlyGivenNames z6
    have h7 : z6.key = s.key := by
      unfold z6
      refine (foldl_key _ ?_ _ _).trans ?_
      · intro a8 a9
        exact freeStripe_key _ _ _ _
      · rfl
    clear_value z6
    refine (modRun_key _ _ _ _).trans ?_
    with_reducible assumption
theorem writeEntrance_key (s : State) (rec_ : Bytes) : (writeEntrance s rec_).key = s.key := by
  unfold writeEntrance
  exact (telemeter_key _ _ _).trans (upd_key rfl rfl rfl)
theorem endSteps_key (s : State) (g : Nat) (q : Nat) (status : Nat) (p : StepRun → Bool) : (endSteps s g q status p).key = s.key := by
  unfold endSteps
  split
  · split
    · rfl
    · extract_lets +onlyGivenNames z12 z13 z14
      clear_value z12 z13
      have h15 : z14.key = s.key := by
        unfold z14
        refine (foldl_key _ ?_ _ _).trans ?_
        · intro a16 a17
          exact writeEntrance_key _ _
        · rfl
      clear_value z14
      refine (modRun_key _ _ _ _).trans ?_
      with_reducible assumption
  · rfl
theorem endEntry_key (s : State) (g : Nat) (q : Nat) : (endEntry s g q).key = s.key := by
  unfold endEntry
  exact modCast_key _ _ _
theorem settleSteps_key (s : State) (g : Nat) (q : Nat) : (settleSteps s g q).key = s.key := by
  unfold settleSteps
  split
  · split
    · rfl
    · extract_lets +onlyGivenNames z12 z13 z14 z15 z16
      clear_value z12 z13 z14 z15
      have h17 : z16.key = s.key := by
        unfold z16
        exact endSteps_key _ _ _ _ _
      clear_value z16
      refine ite_key ?_ ?_
      · refine (endEntry_key _ _ _).trans ?_
        with_reducible assumption
      · with_reducible assumption
  · rfl
theorem applyRemap_key (s : State) (g : Nat) (p : Nat) : (applyRemap s g p).key = s.key := by
  unfold applyRemap
  split
  · rfl
  · refine ite_key ?_ ?_
    · rfl
    · extract_lets +onlyGivenNames z6
      have h7 : z6.key = s.key := by
        unfold z6
        exact (bumpColl_key _ _).trans (modCast_key _ _ _)
      clear_value z6
      extract_lets +onlyGivenNames z8
      clear_value z8
      refine ite_key ?_ ?_
      · extract_lets +onlyGivenNames z9
        have h10 : z9.key = s.key := by
          unfold z9
          refine (foldl_key _ ?_ _ _).trans ?_
          · intro a11 a12
            exact (discardStripes_key _ _ _ _).trans (endSteps_key _ _ _ _ _)
          · with_reducible assumption
        clear_value z9
        refine (modCast_key _ _ _).trans ?_
        refine upd_key rfl rfl ?_
        with_reducible assumption
      · extract_lets +onlyGivenNames z13
        clear_value z13
        refine (foldl_key _ ?_ _ _).trans ?_
        · intro a14 a15
          exact (settleSteps_key _ _ _).trans (discardStripes_key _ _ _ _)
        · with_reducible assumption
theorem passRemap_key (s : State) (c : Cast) (g : Nat) (q : Nat) (p : Nat) (rank : Nat) (ctx : BitVec 16) : (passRemap s c g q p rank ctx).key = s.key := by
  unfold passRemap
  extract_lets +onlyGivenNames z1 z2 z3
  clear_value z1 z2
  have h4 : z3.key = s.key := by
    unfold z3
    exact ite_key (sendDown_key _ _ _ _ _ _ _) rfl
  clear_value z3
  extract_lets +onlyGivenNames z5
  clear_value z5
  refine ite_key ?_ ?_
  · with_reducible assumption
  · refine (sendPorts_key _ _ _).trans ?_
    with_reducible assumption
theorem remapOwn_key (s : State) (g : Nat) (rank : Nat) : (remapOwn s g rank).key = s.key := by
  unfold remapOwn
  split
  · rfl
  · refine ite_key ?_ ?_
    · rfl
    · extract_lets +onlyGivenNames z6 z7 z8
      clear_value z6 z7
      have h9 : z8.key = s.key := by
        unfold z8
        exact ite_key rfl (sendDown_key _ _ _ _ _ _ _)
      clear_value z8
      refine (applyRemap_key _ _ _).trans ?_
      refine (passRemap_key _ _ _ _ _ _ _).trans ?_
      with_reducible assumption
theorem ensureRun_key (s : State) (g : Nat) (q : Nat) (ctx : BitVec 16) : (ensureRun s g q ctx).key = s.key := by
  unfold ensureRun
  exact ite_key rfl (upd_key rfl rfl rfl)
theorem writeBook_key (s : State) (rec_ : Bytes) : (writeBook s rec_).key = s.key := by
  unfold writeBook
  extract_lets +onlyGivenNames z1 z2 z3
  clear_value z2
  have h4 : z3.key = s.key := by
    unfold z3
    exact upd_key rfl rfl rfl
  clear_value z3
  split
  · refine (itvSend_key _ _).trans ?_
    with_reducible assumption
  · with_reducible assumption
theorem dropColl_key (s : State) (g : Nat) (q : Nat) (status : Nat) : (dropColl s g q status).key = s.key := by
  unfold dropColl
  extract_lets +onlyGivenNames z1
  have h2 : z1.key = s.key := by
    unfold z1
    exact ensureRun_key _ _ _ _
  clear_value z1
  extract_lets +onlyGivenNames z3
  have h4 : z3.key = s.key := by
    unfold z3
    refine (endSteps_key _ _ _ _ _).trans ?_
    with_reducible assumption
  clear_value z3
  refine (endEntry_key _ _ _).trans ?_
  refine (modRun_key _ _ _ _).trans ?_
  refine (discardStripes_key _ _ _ _).trans ?_
  with_reducible assumption
theorem abortColl_key (s : State) (g : Nat) (q : Nat) (code : Nat) (rank : Nat) : (abortColl s g q code rank).key = s.key := by
  unfold abortColl
  split
  · rfl
  · split
    · rfl
    · refine ite_key ?_ ?_
      · rfl
      · extract_lets +onlyGivenNames z11 z12
        clear_value z11
        have h13 : z12.key = s.key := by
          unfold z12
          exact bumpColl_key _ _
        clear_value z12
        extract_lets +onlyGivenNames z14
        have h15 : z14.key = s.key := by
          unfold z14
          refine (sendDown_key _ _ _ _ _ _ _).trans ?_
          with_reducible assumption
        clear_value z14
        extract_lets +onlyGivenNames z16 z17
        clear_value z16
        have h18 : z17.key = s.key := by
          unfold z17
          refine ite_key ?_ ?_
          · refine (writeBook_key _ _).trans ?_
            with_reducible assumption
          · with_reducible assumption
        clear_value z17
        refine (dropColl_key _ _ _ _).trans ?_
        with_reducible assumption
theorem sendUp_key (s : State) (c : Cast) (k : Nat) (ctx : BitVec 16) (h : CHead) (data : Bytes) : (sendUp s c k ctx h data).key = s.key := by
  unfold sendUp
  exact sendPorts_key _ _ _
theorem modStripe_key (s : State) (g : Nat) (q : Nat) (k : Nat) (f : StripeRun → StripeRun) : (modStripe s g q k f).key = s.key := by
  unfold modStripe
  exact modRun_key _ _ _ _
theorem clusterFault_key (s : State) (g : Nat) (core : Nat) (c : CollCtr) : (clusterFault s g core c).key = s.key := by
  unfold clusterFault
  extract_lets +onlyGivenNames z1
  have h2 : z1.key = s.key := by
    unfold z1
    exact bumpColl_key _ _
  clear_value z1
  extract_lets +onlyGivenNames z3 z4 z5 z6
  clear_value z3 z5
  have h7 : z6.key = s.key := by
    unfold z6
    refine ite_key ?_ ?_
    · with_reducible assumption
    · refine (raiseEvent_key _ _).trans ?_
      refine (bumpColl_key _ _).trans ?_
      refine upd_key rfl rfl ?_
      with_reducible assumption
  clear_value z6
  refine (foldl_key _ ?_ _ _).trans ?_
  · intro a8 a9
    exact remapOwn_key _ _ _
  · with_reducible assumption
theorem abortPart_key (s : State) (part : Nat) (code : Nat) (p : Cast → Bool) : (abortPart s part code p).key = s.key := by
  unfold abortPart
  refine (foldl_key _ ?_ _ _).trans ?_
  · intro a1 a2
    refine (foldl_key _ ?_ _ _).trans ?_
    · intro a3 a4
      exact abortColl_key _ _ _ _ _
    · rfl
  · rfl
theorem nokeyAbort_key (s : State) (f : Flit) : (nokeyAbort s f).key = s.key := by
  unfold nokeyAbort
  exact ite_key (abortPart_key _ _ _ _) rfl
theorem reducerPortLost_key (s : State) (port : Nat) : (reducerPortLost s port).key = s.key := by
  unfold reducerPortLost
  refine (foldl_key _ ?_ _ _).trans ?_
  · intro a1 a2
    split
    · rfl
    · refine ite_key ?_ ?_
      · rfl
      · extract_lets +onlyGivenNames z8 z9 z10
        clear_value z8 z9 z10
        split
        · exact remapOwn_key _ _ _
        · exact ite_key rfl (remapOwn_key _ _ _)
  · rfl

/-! ## CollMerge -/

theorem judgeMismatch_key (s : State) (g : Nat) (q : Nat) (holdOut : Bool) : (judgeMismatch s g q holdOut).key = s.key := by
  unfold judgeMismatch
  split
  · split
    · split
      · extract_lets +onlyGivenNames z17
        clear_value z17
        refine ite_key ?_ ?_
        · refine ite_key ?_ ?_
          · exact ite_key (abortColl_key _ _ _ _ _) rfl
          · exact ite_key (dropColl_key _ _ _ _) rfl
        · refine ite_key ?_ ?_
          · extract_lets +onlyGivenNames z18 z19
            clear_value z18
            have h20 : z19.key = s.key := by
              unfold z19
              exact ite_key ((modRun_key _ _ _ _).trans (sendUp_key _ _ _ _ _ _)) rfl
            clear_value z19
            refine ite_key ?_ ?_
            · refine (dropColl_key _ _ _ _).trans ?_
              with_reducible assumption
            · with_reducible assumption
          · exact ite_key (dropColl_key _ _ _ _) rfl
    · rfl
  · rfl
theorem noteMismatch_key (s : State) (g : Nat) (q : Nat) (low : Nat) : (noteMismatch s g q low).key = s.key := by
  unfold noteMismatch
  exact (modRun_key _ _ _ _).trans (discardStripes_key _ _ _ _)
theorem noteArrival_key (s : State) (g : Nat) (q : Nat) (t : Nat) (ranks : List Nat) : (noteArrival s g q t ranks).key = s.key := by
  unfold noteArrival
  extract_lets +onlyGivenNames z1 z2
  clear_value z1 z2
  exact modRun_key _ _ _ _
theorem ensureStripe_key (s : State) (g : Nat) (q : Nat) (k : Nat) : (ensureStripe s g q k).key = s.key := by
  unfold ensureStripe
  split
  · rfl
  · exact modRun_key _ _ _ _
theorem sendMaxima_key (s : State) (c : Cast) (e : CueEntry) (run : Run) (ps : List PartFlit) : (sendMaxima s c e run ps).key = s.key := by
  unfold sendMaxima
  refine (foldl_key _ ?_ _ _).trans ?_
  · intro a1 a2
    exact sendPorts_key _ _ _
  · rfl
theorem lsePhase_key (s : State) (c : Cast) (e : CueEntry) (run : Run) (x : StripeRun) : (lsePhase s c e run x).key = s.key := by
  unfold lsePhase
  extract_lets +onlyGivenNames z1 z2
  clear_value z1 z2
  split
  · extract_lets +onlyGivenNames z7 z8
    clear_value z7 z8
    refine ite_key ?_ ?_
    · rfl
    · extract_lets +onlyGivenNames z9
      clear_value z9
      refine ite_key ?_ ?_
      · extract_lets +onlyGivenNames z10
        have h11 : z10.key = s.key := by
          unfold z10
          exact modStripe_key _ _ _ _ _
        clear_value z10
        refine ite_key ?_ ?_
        · with_reducible assumption
        · refine (sendMaxima_key _ _ _ _ _).trans ?_
          with_reducible assumption
      · extract_lets +onlyGivenNames z12
        have h13 : z12.key = s.key := by
          unfold z12
          refine (foldl_key _ ?_ _ _).trans ?_
          · intro a14 a15
            exact sendUp_key _ _ _ _ _ _
          · rfl
        clear_value z12
        refine (modStripe_key _ _ _ _ _).trans ?_
        with_reducible assumption
theorem finishTop_key (s : State) (c : Cast) (e : CueEntry) (run : Run) (x : StripeRun) : (finishTop s c e run x).key = s.key := by
  unfold finishTop
  extract_lets +onlyGivenNames z1 z2 z3 z4 z5 z6
  clear_value z1 z2 z3 z4 z5
  have h7 : z6.key = s.key := by
    unfold z6
    refine (foldl_key _ ?_ _ _).trans ?_
    · intro a8 a9
      exact sendDown_key _ _ _ _ _ _ _
    · rfl
  clear_value z6
  extract_lets +onlyGivenNames z10 z11
  clear_value z10
  have h12 : z11.key = s.key := by
    unfold z11
    refine (writeBook_key _ _).trans ?_
    refine (bumpColl_key _ _).trans ?_
    with_reducible assumption
  clear_value z11
  extract_lets +onlyGivenNames z13
  have h14 : z13.key = s.key := by
    unfold z13
    refine (freeStripe_key _ _ _ _).trans ?_
    with_reducible assumption
  clear_value z13
  refine (modStripe_key _ _ _ _ _).trans ?_
  with_reducible assumption
theorem sendPartial_key (s : State) (c : Cast) (e : CueEntry) (run : Run) (x : StripeRun) : (sendPartial s c e run x).key = s.key := by
  unfold sendPartial
  extract_lets +onlyGivenNames z1
  have h2 : z1.key = s.key := by
    unfold z1
    refine (foldl_key _ ?_ _ _).trans ?_
    · intro a3 a4
      exact sendUp_key _ _ _ _ _ _
    · rfl
  clear_value z1
  extract_lets +onlyGivenNames z5
  have h6 : z5.key = s.key := by
    unfold z5
    refine (freeStripe_key _ _ _ _).trans ?_
    with_reducible assumption
  clear_value z5
  refine (modStripe_key _ _ _ _ _).trans ?_
  with_reducible assumption
theorem advanceStripe_key (s : State) (g : Nat) (q : Nat) (k : Nat) : (advanceStripe s g q k).key = s.key := by
  unfold advanceStripe
  split
  · split
    · refine ite_key ?_ ?_
      · rfl
      · extract_lets +onlyGivenNames z13
        have h14 : z13.key = s.key := by
          unfold z13
          exact ite_key (lsePhase_key _ _ _ _ _) rfl
        clear_value z13
        split
        · with_reducible assumption
        · refine ite_key ?_ ?_
          · refine (settleSteps_key _ _ _).trans ?_
            refine ite_key ?_ ?_
            · refine (finishTop_key _ _ _ _ _).trans ?_
              with_reducible assumption
            · refine (sendPartial_key _ _ _ _ _).trans ?_
              with_reducible assumption
          · refine (settleSteps_key _ _ _).trans ?_
            with_reducible assumption
    · rfl
  · rfl
theorem resendResult_key (s : State) (c : Cast) (run : Run) (x : StripeRun) (r : Nat) : (resendResult s c run x r).key = s.key := by
  unfold resendResult
  extract_lets +onlyGivenNames z1
  clear_value z1
  refine ite_key ?_ ?_
  · rfl
  · extract_lets +onlyGivenNames z2 z3
    clear_value z2
    have h4 : z3.key = s.key := by
      unfold z3
      refine (foldl_key _ ?_ _ _).trans ?_
      · intro a5 a6
        exact sendDown_key _ _ _ _ _ _ _
      · rfl
    clear_value z3
    refine (modStripe_key _ _ _ _ _).trans ?_
    with_reducible assumption
theorem admitKernel_key {s : State} {c : Cast} {d : Desc} {run : Run} {cores : List Nat} {ch r : Nat} {f : Flit} {t : State}
    (h : admitKernel s c d run cores ch r f = some t) : t.key = s.key := by
  have hw : ∀ (s : State) (w n : Nat) (o : BitVec 16 × BitVec 16) (a : State) (p : Option (Nat × Nat)),
      wardAlloc s w n o = (a, p) → a.key = s.key := fun s w n o a p e => pair_key e (wardAlloc_key _ _ _ _)
  unfold admitKernel at h
  dsimp only at h
  obtain ⟨a, ha, hb⟩ := Option.bind_eq_some_iff.mp h
  have hk : a.key = s.key := by
    repeat' split at ha
    all_goals first
      | (cases ha; done)
      | (cases ha; rfl)
      | (rename_i e; cases ha; exact upd_key rfl rfl (hw _ _ _ _ _ _ e))
  repeat' split at hb
  all_goals first
    | (cases hb; done)
    | (cases hb; exact upd_key rfl rfl hk)
    | (rename_i e; cases hb; exact upd_key rfl rfl ((hw _ _ _ _ _ _ e).trans hk))
theorem takeBuffer_key {s : State} {c : Cast} {j : CJob} {run : Run} {x : StripeRun} {ch r : Nat} {t : State}
    (h : takeBuffer s c j run x ch r = some t) : t.key = s.key := by
  unfold takeBuffer at h
  dsimp only at h
  repeat' split at h
  all_goals first
    | (cases h; done)
    | (cases h; rfl)
    | (rename_i e; cases h; exact (modStripe_key _ _ _ _ _).trans (pair_key e (wardAlloc_key _ _ _ _)))
theorem mergeChunk_key {s : State} {c : Cast} {e : CueEntry} {g q : Nat} {from_ : Sender} {f : Flit} {bad : Bool} {t : State}
    (h : mergeChunk s c e g q from_ f bad = some t) : t.key = s.key := by
  unfold mergeChunk at h
  dsimp only at h
  repeat' split at h
  all_goals first
    | (cases h; done)
    | (cases h
       simp only [ensureStripe_key, modStripe_key, sendPorts_key, advanceStripe_key, bumpColl_key, noteArrival_key, clusterFault_key, resendResult_key]
       done)
    | (cases h
       split <;>
         simp only [ensureStripe_key, modStripe_key, sendPorts_key, advanceStripe_key, bumpColl_key, noteArrival_key, clusterFault_key, resendResult_key]
       done)
    | (obtain ⟨a, ha, rfl⟩ := Option.map_eq_some_iff.mp h
       have hk : a.key = s.key := by
         repeat' split at ha
         all_goals first
           | (refine (admitKernel_key ha).trans ?_; simp only [noteArrival_key, ensureStripe_key]; done)
           | (refine (takeBuffer_key ha).trans ?_; simp only [noteArrival_key, ensureStripe_key]; done)
       first
         | (simp only [modStripe_key, advanceStripe_key, clusterFault_key, hk]; done)
         | (split <;> simp only [modStripe_key, advanceStripe_key, clusterFault_key, hk]))
theorem takeContrib_key {s : State} {f : Flit} {bad : Bool} {t : State} (h : takeContrib s f bad = some t) : t.key = s.key := by
  unfold takeContrib at h
  dsimp only at h
  repeat' split at h
  all_goals first
    | (cases h; done)
    | (cases h; simp only [bumpColl_key, judgeMismatch_key, noteMismatch_key, noteArrival_key, modRun_key, ensureRun_key]; done)
    | (refine (mergeChunk_key h).trans ?_; simp only [modRun_key, ensureRun_key]; done)

end Sys2Proof.Machine
end

