-- ==== Sys2Proof/Laws/KeepC.lean ====
section
/-! SUPPORT. What every operation leaves alone (Laws/Keep.lean): the operations of CollMemb, KeyOps, Hooks, PortOps, CmdOps, ResetOps, BelugSettle, PoolOps. -/

namespace Sys2Proof.Machine

open Sys2Proof

/-! ## CollMemb -/

theorem modColl_key (s : State) (g : Nat) (q : Nat) (f : MColl → MColl) : (modColl s g q f).key = s.key := by
  unfold modColl
  exact upd_key rfl rfl rfl
theorem noteSeen_key (s : State) (f : Flit) : (noteSeen s f).key = s.key := by
  unfold noteSeen
  exact modColl_key _ _ _ _
theorem completeColls_key (s : State) (g n : Nat) : (completeColls s g n).key = s.key := by
  induction n generalizing s with
  | zero => rfl
  | succ n ih =>
    unfold completeColls
    split
    · rfl
    · split
      · rfl
      · rw [ih, tallyAdd_key]; rfl
theorem endColl_key (s : State) (g : Nat) (q : Nat) (status : Nat) : (endColl s g q status).key = s.key := by
  unfold endColl
  extract_lets +onlyGivenNames z1
  have h2 : z1.key = s.key := by
    unfold z1
    exact modColl_key _ _ _ _
  clear_value z1
  refine (completeColls_key _ _ _).trans ?_
  with_reducible assumption
theorem releaseCurtain_key (s : State) (g : Nat) (q : Nat) : (releaseCurtain s g q).key = s.key := by
  unfold releaseCurtain
  exact (endColl_key _ _ _ _).trans (emit_key _ _)
theorem contribTo_key (s : State) (m : MColl) (p : Nat) (step : Nat) (chunk : Nat) (valid : Nat) (data : Bytes) : (contribTo s m p step chunk valid data).key = s.key := by
  unfold contribTo
  exact blgSend_key _ _ _
theorem sendStripe_key (s : State) (m : MColl) (k : Nat) (p : Nat) : (sendStripe s m k p).key = s.key := by
  unfold sendStripe
  extract_lets +onlyGivenNames z1 z2
  clear_value z1
  have h3 : z2.key = s.key := by
    unfold z2
    refine (foldl_key _ ?_ _ _).trans ?_
    · intro a4 a5
      exact contribTo_key _ _ _ _ _ _ _
    · rfl
  clear_value z2
  refine (modColl_key _ _ _ _).trans ?_
  with_reducible assumption
theorem endWhole_key (s : State) (g : Nat) (q : Nat) : (endWhole s g q).key = s.key := by
  unfold endWhole
  split
  · rfl
  · refine ite_key ?_ ?_
    · extract_lets +onlyGivenNames z6 z7 z8
      clear_value z6 z7
      have h9 : z8.key = s.key := by
        unfold z8
        exact ite_key (emit_key _ _) rfl
      clear_value z8
      refine (endColl_key _ _ _ _).trans ?_
      with_reducible assumption
    · rfl
theorem pumpOne_key (s : State) (g : Nat) (q : Nat) (k : Nat) : (pumpOne s g q k).key = s.key := by
  unfold pumpOne
  split
  · rfl
  · split
    · extract_lets +onlyGivenNames z12
      clear_value z12
      refine ite_key ?_ ?_
      · rfl
      · extract_lets +onlyGivenNames z13
        have h14 : z13.key = s.key := by
          unfold z13
          exact sendStripe_key _ _ _ _
        clear_value z13
        refine ite_key ?_ ?_
        · refine (endWhole_key _ _ _).trans ?_
          refine (modColl_key _ _ _ _).trans ?_
          with_reducible assumption
        · with_reducible assumption
    · rfl
theorem pump_key (s : State) : (pump s).key = s.key := by
  unfold pump
  extract_lets +onlyGivenNames z1
  clear_value z1
  refine (foldl_key _ ?_ _ _).trans ?_
  · intro a2 a3
    exact pumpOne_key _ _ _ _
  · rfl
theorem takeCurtain_key (s : State) (m : MColl) (data : Bytes) : (takeCurtain s m data).key = s.key := by
  unfold takeCurtain
  refine ite_key ?_ ?_
  · rfl
  · extract_lets +onlyGivenNames z1 z2
    clear_value z1
    have h3 : z2.key = s.key := by
      unfold z2
      exact modColl_key _ _ _ _
    clear_value z2
    refine ite_key ?_ ?_
    · refine (releaseCurtain_key _ _ _).trans ?_
      refine (bumpBC_key _ _).trans ?_
      with_reducible assumption
    · refine (pump_key _).trans ?_
      with_reducible assumption
theorem stripeWhole_key (s : State) (m : MColl) (k : Nat) : (stripeWhole s m k).key = s.key := by
  unfold stripeWhole
  extract_lets +onlyGivenNames z1 z2
  clear_value z1
  have h3 : z2.key = s.key := by
    unfold z2
    refine (foldl_key _ ?_ _ _).trans ?_
    · intro a4 a5
      exact emit_key _ _
    · rfl
  clear_value z2
  extract_lets +onlyGivenNames z6
  have h7 : z6.key = s.key := by
    unfold z6
    refine (modColl_key _ _ _ _).trans ?_
    with_reducible assumption
  clear_value z6
  refine (pump_key _).trans ?_
  refine (endWhole_key _ _ _).trans ?_
  with_reducible assumption
theorem takeResult_key (s : State) (m : MColl) (kind : BitVec 5) (h : CHead) (data : Bytes) (port : Nat) : (takeResult s m kind h data port).key = s.key := by
  unfold takeResult
  extract_lets +onlyGivenNames z1 z2
  clear_value z1 z2
  split
  · rfl
  · extract_lets +onlyGivenNames z8 z9 z10 z11 z12 z13
    clear_value z8 z9 z10 z11 z12
    have h14 : z13.key = s.key := by
      unfold z13
      exact modColl_key _ _ _ _
    clear_value z13
    refine ite_key ?_ ?_
    · refine (stripeWhole_key _ _ _).trans ?_
      with_reducible assumption
    · with_reducible assumption
theorem memberResult_key (s : State) (f : Flit) (port : Nat) : (memberResult s f port).key = s.key := by
  unfold memberResult
  extract_lets +onlyGivenNames z1
  clear_value z1
  refine ite_key ?_ ?_
  · rfl
  · extract_lets +onlyGivenNames z2
    have h3 : z2.key = s.key := by
      unfold z2
      exact noteSeen_key _ _
    clear_value z2
    split
    · with_reducible assumption
    · refine ite_key ?_ ?_
      · with_reducible assumption
      · refine ite_key ?_ ?_
        · refine (takeCurtain_key _ _ _).trans ?_
          with_reducible assumption
        · refine (takeResult_key _ _ _ _ _ _).trans ?_
          with_reducible assumption
theorem judgeLate_key (s : State) : (judgeLate s).key = s.key := by
  unfold judgeLate
  exact ite_key (upd_key rfl rfl rfl) rfl
theorem memberRemap_key (s : State) (g : Nat) (p : Nat) : (memberRemap s g p).key = s.key := by
  unfold memberRemap
  extract_lets +onlyGivenNames z1
  clear_value z1
  refine ite_key ?_ ?_
  · rfl
  · extract_lets +onlyGivenNames z2 z3 z4
    clear_value z2
    have h5 : z4.key = s.key := by
      unfold z4
      exact upd_key rfl rfl rfl
    clear_value z4
    extract_lets +onlyGivenNames z6
    clear_value z6
    refine ite_key ?_ ?_
    · refine (foldl_key _ ?_ _ _).trans ?_
      · intro a7 a8
        exact endColl_key _ _ _ _
      · with_reducible assumption
    · refine (pump_key _).trans ?_
      refine upd_key rfl rfl ?_
      with_reducible assumption
theorem ctlOthers_key (s : State) (m : MColl) (step : Nat) (but : Nat) (data : Bytes) : (ctlOthers s m step but data).key = s.key := by
  unfold ctlOthers
  refine (foldl_key _ ?_ _ _).trans ?_
  · intro a1 a2
    exact contribTo_key _ _ _ _ _ _ _
  · rfl
theorem memberLost_key (s : State) (g : Nat) (p : Nat) : (memberLost s g p).key = s.key := by
  unfold memberLost
  split
  · rfl
  · exact ite_key rfl (ite_key (memberRemap_key _ _ _) (ctlOthers_key _ _ _ _ _))
theorem belugPortLost_key (s : State) (p : Nat) : (belugPortLost s p).key = s.key := by
  unfold belugPortLost
  refine (foldl_key _ ?_ _ _).trans ?_
  · intro a1 a2
    exact memberLost_key _ _ _
  · rfl
theorem memberAbort_key (s : State) (f : Flit) (port : Nat) : (memberAbort s f port).key = s.key := by
  unfold memberAbort
  extract_lets +onlyGivenNames z1
  clear_value z1
  refine ite_key ?_ ?_
  · rfl
  · split
    · rfl
    · exact ite_key rfl ((pump_key _).trans ((endColl_key _ _ _ _).trans (ctlOthers_key _ _ _ _ _)))
theorem collMemberTimeoutOp_key (s : State) (g : Nat) (q : Nat) : (collMemberTimeoutOp s g q).key = s.key := by
  unfold collMemberTimeoutOp
  split
  · rfl
  · exact ite_key ((pump_key _).trans (endColl_key _ _ _ _)) rfl
theorem collResendOp_key (s : State) (g : Nat) (q : Nat) (k : Nat) : (collResendOp s g q k).key = s.key := by
  unfold collResendOp
  split
  · rfl
  · split
    · rfl
    · exact ite_key (sendStripe_key _ _ _ _) rfl
theorem cueLaunchOp_key (s : State) (g : Nat) (q : Nat) (input : Bytes) : (cueLaunchOp s g q input).key = s.key := by
  unfold cueLaunchOp
  extract_lets +onlyGivenNames z1
  have h2 : z1.key = s.key := by
    unfold z1
    exact judgeLate_key _
  clear_value z1
  split
  · with_reducible assumption
  · refine ite_key ?_ ?_
    · with_reducible assumption
    · refine ite_key ?_ ?_
      · refine (pump_key _).trans ?_
        refine (modColl_key _ _ _ _).trans ?_
        with_reducible assumption
      · extract_lets +onlyGivenNames z8 z9
        clear_value z8
        have h10 : z9.key = s.key := by
          unfold z9
          refine ite_key ?_ ?_
          · refine (bumpBC_key _ _).trans ?_
            with_reducible assumption
          · with_reducible assumption
        clear_value z9
        extract_lets +onlyGivenNames z11
        have h12 : z11.key = s.key := by
          unfold z11
          refine (modColl_key _ _ _ _).trans ?_
          with_reducible assumption
        clear_value z11
        refine ite_key ?_ ?_
        · refine (endColl_key _ _ _ _).trans ?_
          with_reducible assumption
        · extract_lets +onlyGivenNames z13 z14
          clear_value z13
          have h15 : z14.key = s.key := by
            unfold z14
            refine (bumpB_key _ _ _).trans ?_
            with_reducible assumption
          clear_value z14
          extract_lets +onlyGivenNames z16
          have h17 : z16.key = s.key := by
            unfold z16
            refine (foldl_key _ ?_ _ _).trans ?_
            · intro a18 a19
              exact memberLost_key _ _ _
            · with_reducible assumption
          clear_value z16
          refine (pump_key _).trans ?_
          with_reducible assumption
theorem memberRemapFlit_key (s : State) (f : Flit) (port : Nat) : (memberRemapFlit s f port).key = s.key := by
  unfold memberRemapFlit
  extract_lets +onlyGivenNames z1 z2
  clear_value z1 z2
  refine ite_key ?_ ?_
  · rfl
  · extract_lets +onlyGivenNames z3
    have h4 : z3.key = s.key := by
      unfold z3
      exact noteSeen_key _ _
    clear_value z3
    extract_lets +onlyGivenNames z5
    have h6 : z5.key = s.key := by
      unfold z5
      split
      · refine ite_key ?_ ?_
        · refine (ctlOthers_key _ _ _ _ _).trans ?_
          with_reducible assumption
        · with_reducible assumption
      · with_reducible assumption
    clear_value z5
    refine (memberRemap_key _ _ _).trans ?_
    with_reducible assumption
theorem curtainReleaseOp_key (s : State) (g : Nat) (q : Nat) : (curtainReleaseOp s g q).key = s.key := by
  unfold curtainReleaseOp
  split
  · rfl
  · split
    · exact ite_key (releaseCurtain_key _ _ _) rfl
    · rfl

/-! ## KeyOps -/

theorem sendSeat_key (s : State) (p : Nat) (f : Flit) : (sendSeat s p f).key = s.key := by
  unfold sendSeat
  exact ite_key (itvMulticast_key _ _ _) rfl
theorem beginPush_key (s : State) (p : Nat) (f : Flit) : (beginPush s p f).key = s.key := by
  unfold beginPush
  exact (sendSeat_key _ _ _).trans (upd_key rfl rfl rfl)
theorem pushAgain_key (s : State) (p : Nat) : (pushAgain s p).key = s.key := by
  unfold pushAgain
  extract_lets +onlyGivenNames z1
  clear_value z1
  refine ite_key ?_ ?_
  · rfl
  · refine (foldl_key _ ?_ _ _).trans ?_
    · intro a2 a3
      split
      · exact beginPush_key _ _ _
      · rfl
    · rfl
theorem installKey_key (s : State) (d : Side) (ctx : Nat) (part : Nat) (key : BitVec 256) (epoch : Nat) (useAfter : Nat) : (installKey s d ctx part key epoch useAfter).key = s.key := by
  unfold installKey
  extract_lets +onlyGivenNames z1 z2 z3
  clear_value z1 z2 z3
  exact setKeys_key _ _ _
theorem erasePartKeys_key (s : State) (d : Side) (part : Nat) : (erasePartKeys s d part).key = s.key := by
  unfold erasePartKeys
  exact setKeys_key _ _ _

/-! ## Hooks -/

theorem passControl_key (s : State) (p : Flit) : (passControl s p).key = s.key := by
  unfold passControl
  extract_lets +onlyGivenNames z1
  clear_value z1
  refine ite_key ?_ ?_
  · split
    · exact ite_key rfl (dropColl_key _ _ _ _)
    · rfl
  · exact ite_key (applyRemap_key _ _ _) rfl
theorem relayDown_key (s : State) (f : Flit) : (relayDown s f).key = s.key := by
  unfold relayDown
  split
  · rename_i q1 q2 q3
    exact pair_key q3 ((openFor_key _ _ _).trans (nokeyAbort_key _ _))
  · rename_i q4 q5 q6 q7
    split
    · exact (bumpColl_key _ _).trans (pair_key q7 ((openFor_key _ _ _).trans (nokeyAbort_key _ _)))
    · refine ite_key ?_ ?_
      · exact (bumpColl_key _ _).trans (pair_key q7 ((openFor_key _ _ _).trans (nokeyAbort_key _ _)))
      · extract_lets +onlyGivenNames z13
        clear_value z13
        refine (passControl_key _ _).trans ?_
        exact (sendPorts_key _ _ _).trans (pair_key q7 ((openFor_key _ _ _).trans (nokeyAbort_key _ _)))
theorem passDown_key (s : State) (f : Flit) : (passDown s f).key = s.key := by
  unfold passDown
  split
  · rename_i q1 q2 q3
    exact pair_key q3 ((openFor_key _ _ _).trans (nokeyAbort_key _ _))
  · rename_i q4 q5 q6 q7
    split
    · exact (bumpColl_key _ _).trans (pair_key q7 ((openFor_key _ _ _).trans (nokeyAbort_key _ _)))
    · refine ite_key ?_ ?_
      · exact (passControl_key _ _).trans (pair_key q7 ((openFor_key _ _ _).trans (nokeyAbort_key _ _)))
      · exact (bumpColl_key _ _).trans (pair_key q7 ((openFor_key _ _ _).trans (nokeyAbort_key _ _)))
theorem portLostHook_key (s : State) (r : PortRef) : (portLostHook s r).key = s.key := by
  unfold portLostHook
  split
  · exact reducerPortLost_key _ _
  · exact belugPortLost_key _ _
theorem portReadyHook_key (s : State) (r : PortRef) : (portReadyHook s r).key = s.key := by
  unfold portReadyHook
  split
  · exact pushAgain_key _ _
  · rfl
theorem namesHook_key (s : State) (p : Nat) (o : Offer) : (namesHook s p o).key = s.key := by
  unfold namesHook
  exact ite_key (deadOwner_key _ _) rfl

/-! ## PortOps -/

theorem leaveBlg_key (s : State) (n : Nat) : (leaveBlg s n).key = s.key := by
  unfold leaveBlg
  extract_lets +onlyGivenNames z1
  clear_value z1
  exact bumpB_key _ _ _
theorem countDiscards_key (s : State) (p : Nat) (fs : List Flit) : (countDiscards s p fs).key = s.key := by
  unfold countDiscards
  refine (foldl_key _ ?_ _ _).trans ?_
  · intro a1 a2
    exact ite_key (bump_key _ _ _) rfl
  · rfl
theorem dropExpress_key (s : State) (n : Nat) : (dropExpress s n).key = s.key := by
  unfold dropExpress
  refine (foldl_key _ ?_ _ _).trans ?_
  · intro a1 a2
    extract_lets +onlyGivenNames z3 z4
    clear_value z3 z4
    exact ite_key rfl ((countDiscards_key _ _ _).trans (modItvPort_key _ _ _))
  · rfl
theorem leaveItv_key (s : State) (n : Nat) : (leaveItv s n).key = s.key := by
  unfold leaveItv
  extract_lets +onlyGivenNames z1
  have h2 : z1.key = s.key := by
    unfold z1
    exact dropExpress_key _ _
  clear_value z1
  extract_lets +onlyGivenNames z3 z4
  clear_value z3
  have h5 : z4.key = s.key := by
    unfold z4
    refine (countDiscards_key _ _ _).trans ?_
    with_reducible assumption
  clear_value z4
  extract_lets +onlyGivenNames z6
  have h7 : z6.key = s.key := by
    unfold z6
    refine (countDiscards_key _ _ _).trans ?_
    with_reducible assumption
  clear_value z6
  extract_lets +onlyGivenNames z8 z9
  clear_value z8
  have h10 : z9.key = s.key := by
    unfold z9
    refine (countDiscards_key _ _ _).trans ?_
    with_reducible assumption
  clear_value z9
  extract_lets +onlyGivenNames z11 z12 z13 z14 z15 z16 z17 z18 z19
  clear_value z11 z12 z13 z14 z15 z17 z18
  have h20 : z19.key = s.key := by
    unfold z19
    refine upd_key rfl rfl ?_
    with_reducible assumption
  clear_value z19
  refine ite_key ?_ ?_
  · refine (ringRecord_key _ _ _).trans ?_
    with_reducible assumption
  · with_reducible assumption
theorem setSt_key (s : State) (r : PortRef) (st : LinkState) (why : Reason) : (setSt s r st why).key = s.key := by
  unfold setSt
  extract_lets +onlyGivenNames z1 z2
  clear_value z1
  have h3 : z2.key = s.key := by
    unfold z2
    exact setPort_key _ _ _
  clear_value z2
  refine ite_key ?_ ?_
  · with_reducible assumption
  · extract_lets +onlyGivenNames z4
    clear_value z4
    split
    · extract_lets +onlyGivenNames z7
      have h8 : z7.key = s.key := by
        unfold z7
        refine (bump_key _ _ _).trans ?_
        with_reducible assumption
      clear_value z7
      refine ite_key ?_ ?_
      · refine (raiseEvent_key _ _).trans ?_
        with_reducible assumption
      · with_reducible assumption
    · refine ite_key ?_ ?_
      · refine (raiseIrq_key _ _).trans ?_
        with_reducible assumption
      · with_reducible assumption
theorem leaveReady_key (s : State) (r : PortRef) (st : LinkState) (why : Reason) : (leaveReady s r st why).key = s.key := by
  unfold leaveReady
  extract_lets +onlyGivenNames z1
  have h2 : z1.key = s.key := by
    unfold z1
    split
    · exact leaveItv_key _ _
    · exact leaveBlg_key _ _
  clear_value z1
  extract_lets +onlyGivenNames z7
  have h8 : z7.key = s.key := by
    unfold z7
    refine (modPort_key _ _ _).trans ?_
    with_reducible assumption
  clear_value z7
  extract_lets +onlyGivenNames z9
  have h10 : z9.key = s.key := by
    unfold z9
    refine (setSt_key _ _ _ _).trans ?_
    with_reducible assumption
  clear_value z9
  extract_lets +onlyGivenNames z11
  have h12 : z11.key = s.key := by
    unfold z11
    refine ite_key ?_ ?_
    · refine (loseParent_key _ _).trans ?_
      with_reducible assumption
    · with_reducible assumption
  clear_value z11
  refine (portLostHook_key _ _).trans ?_
  with_reducible assumption
theorem moveTo_key (s : State) (r : PortRef) (st : LinkState) (why : Reason) : (moveTo s r st why).key = s.key := by
  unfold moveTo
  exact ite_key (leaveReady_key _ _ _ _) (setSt_key _ _ _ _)
theorem failAttempt_key (s : State) (r : PortRef) (st : LinkState) (why : Reason) : (failAttempt s r st why).key = s.key := by
  unfold failAttempt
  extract_lets +onlyGivenNames z1
  have h2 : z1.key = s.key := by
    unfold z1
    exact bumpPort_key _ _ _ _
  clear_value z1
  extract_lets +onlyGivenNames z3
  have h4 : z3.key = s.key := by
    unfold z3
    refine (modPort_key _ _ _).trans ?_
    with_reducible assumption
  clear_value z3
  refine (setSt_key _ _ _ _).trans ?_
  with_reducible assumption
theorem failTo_key (s : State) (r : PortRef) (st : LinkState) (why : Reason) : (failTo s r st why).key = s.key := by
  unfold failTo
  exact ite_key ((failAttempt_key _ _ _ _).trans (leaveReady_key _ _ _ _)) (failAttempt_key _ _ _ _)
theorem sendOffer_key (s : State) (r : PortRef) : (sendOffer s r).key = s.key := by
  unfold sendOffer
  exact emit_key _ _
theorem enterReady_key (s : State) (r : PortRef) : (enterReady s r).key = s.key := by
  unfold enterReady
  extract_lets +onlyGivenNames z1 z2
  clear_value z1
  have h3 : z2.key = s.key := by
    unfold z2
    exact modPort_key _ _ _
  clear_value z2
  extract_lets +onlyGivenNames z4
  have h5 : z4.key = s.key := by
    unfold z4
    refine (setSt_key _ _ _ _).trans ?_
    with_reducible assumption
  clear_value z4
  extract_lets +onlyGivenNames z6 z7 z8
  clear_value z7
  have h9 : z8.key = s.key := by
    unfold z8
    refine ite_key ?_ ?_
    · refine upd_key rfl rfl ?_
      with_reducible assumption
    · with_reducible assumption
  clear_value z8
  extract_lets +onlyGivenNames z10
  have h11 : z10.key = s.key := by
    unfold z10
    split
    · refine ite_key ?_ ?_
      · refine (ringRecord_key _ _ _).trans ?_
        with_reducible assumption
      · with_reducible assumption
    · with_reducible assumption
  clear_value z10
  refine (portReadyHook_key _ _).trans ?_
  with_reducible assumption
theorem realign_key (s : State) (r : PortRef) (rate : Nat) : (realign s r rate).key = s.key := by
  unfold realign
  extract_lets +onlyGivenNames z1
  have h2 : z1.key = s.key := by
    unfold z1
    exact leaveReady_key _ _ _ _
  clear_value z1
  refine (modPort_key _ _ _).trans ?_
  with_reducible assumption

/-! ## CmdOps -/

theorem ends_key (s : State) (status : Nat) (detail : optParam Nat 0) (result : optParam Bytes []) : (ends s status detail result).1.key = s.key := by
  unfold ends
  exact mk_fst_key rfl
theorem checked_key (s : State) (cs : List (Bool × Nat × Nat)) (f : Unit → State × Option Reply) (hf : ∀ v0, (f v0).1.key = s.key) :
    (checked s cs f).1.key = s.key := by
  induction cs with
  | nil => exact hf ()
  | cons c cs ih =>
    obtain ⟨b, x, y⟩ := c
    unfold checked
    split
    · exact ends_key _ _ _
    · exact ih
theorem withHost_key (s : State) (c : Call) (off : Nat) (f : Bytes → State × Option Reply) (hf : ∀ v0, (f v0).1.key = s.key) : (withHost s c off f).1.key = s.key := by
  unfold withHost
  split
  · exact ite_fst_key (hf _) (ends_key _ _ _ _)
  · exact ends_key _ _ _ _
theorem completeSess_key (s : State) (k : Nat) (seq : Word) (r : Reply) : (completeSess s k seq r).key = s.key := by
  unfold completeSess
  split
  · exact upd_key rfl rfl rfl
  · extract_lets +onlyGivenNames z6 z7
    clear_value z6 z7
    exact (emit_key _ _).trans (upd_key rfl rfl rfl)
theorem modSlot_key (s : State) (n : Nat) (f : Slot → Slot) : (modSlot s n f).key = s.key := by
  unfold modSlot
  refine dite_key ?_ ?_
  · intro a1
    exact upd_key rfl rfl rfl
  · intro a2
    rfl
theorem forgetSlot_key (s : State) (n : Nat) : (forgetSlot s n).key = s.key := by
  unfold forgetSlot
  exact upd_key rfl rfl rfl
theorem completeSlot_key (s : State) (n : Nat) (r : Reply) : (completeSlot s n r).key = s.key := by
  unfold completeSlot
  extract_lets +onlyGivenNames z1
  have h2 : z1.key = s.key := by
    unfold z1
    exact (modSlot_key _ _ _).trans (forgetSlot_key _ _)
  clear_value z1
  refine (raiseVector_key _ _).trans ?_
  with_reducible assumption
theorem finish_key (s : State) (c : Call) (r : Reply) : (finish s c r).key = s.key := by
  unfold finish
  split
  · exact completeSess_key _ _ _ _
  · split
    · exact completeSlot_key _ _ _
    · exact ite_key ((completeSlot_key _ _ _).trans (emit_key _ _)) (completeSlot_key _ _ _)
theorem finishLate_key (s : State) (who : Caller) (r : Reply) : (finishLate s who r).key = s.key := by
  unfold finishLate
  exact finish_key _ _ _
theorem finishKept_key (s : State) (slot : Option Nat) (sess : Option (Nat × Word)) (r : Reply) : (finishKept s slot sess r).key = s.key := by
  unfold finishKept
  split
  · exact ite_key (finishLate_key _ _ _) rfl
  · exact finishLate_key _ _ _
  · rfl
theorem codeResult_key (code : Nat) (x : State × Option Reply) : (codeResult code x).1.key = x.1.key := by
  unfold codeResult
  split
  · split <;> rfl
  · rfl
theorem runCmd_key (s : State) (c : Call) (len : Nat) (row : CmdRow) (f : Cmd) (hf : ∀ v0 v1, (f v0 v1).1.key = v0.key) :
    (runCmd s c len row f).key = s.key := by
  have hc : ∀ x : State × Option Reply, x.1.key = s.key → (codeResult row.code x).1.key = s.key :=
    fun x hx => (codeResult_key _ _).trans hx
  have hk : (codeResult row.code (if len > 4032 && !isMgmt c then ends s St.badarg 0xFFFF
    else if len < row.minLen ∨ len > row.maxLen then ends s St.badarg (min len row.minLen)
    else f s c)).1.key = s.key := by
    apply hc
    repeat' split
    · rfl
    · rfl
    · exact hf _ _
  unfold runCmd
  dsimp only
  split
  · rw [finish_key]; exact hk
  · exact hk
theorem acceptSlot_key (s : State) (n : Nat) : (acceptSlot s n).key = s.key := by
  unfold acceptSlot
  exact modSlot_key _ _ _
theorem cmdRow_key (s : State) (n : Fin 8) (code : Nat) (sel : Bytes → Bool) (green : Bool) (host : HostRead) (landed : Bool) (f : Cmd) (hf : ∀ v0 v1, (f v0 v1).1.key = v0.key) : (cmdRow s n code sel green host landed f).key = s.key := by
  unfold cmdRow
  extract_lets +onlyGivenNames z1 z2 z3
  clear_value z1 z2 z3
  refine ite_key ?_ ?_
  · split
    · refine (runCmd_key _ _ _ _ _ ?_).trans ?_
      · intro a7 a8
        exact hf _ _
      · exact acceptSlot_key _ _
    · rfl
  · rfl
theorem modStore_key (s : State) (f : Store → Store) : (modStore s f).key = s.key := by
  unfold modStore
  exact upd_key rfl rfl rfl

/-! ## ResetOps -/

theorem closeSession_key (s : State) (k : Nat) : (closeSession s k).key = s.key := by
  unfold closeSession
  split
  · rfl
  · exact (emit_key _ _).trans (upd_key rfl rfl rfl)
theorem closeAll_key (s : State) : (closeAll s).key = s.key := by
  unfold closeAll
  refine (foldl_key _ ?_ _ _).trans ?_
  · intro a1 a2
    exact closeSession_key _ _
  · rfl
theorem resetItvos_key (v : Itvos) (now : Nat) (held : Bool) : (resetItvos v now held).fuse = v.fuse := by
  unfold resetItvos
  rfl
theorem wholeReset_key (s : State) (held : Bool) : (wholeReset s held).key = s.key := by
  unfold wholeReset
  extract_lets +onlyGivenNames z1
  have h2 : z1.key = s.key := by
    unfold z1
    exact closeAll_key _
  clear_value z1
  extract_lets +onlyGivenNames z3
  have h4 : z3.key = s.key := by
    unfold z3
    refine ite_key ?_ ?_
    · with_reducible assumption
    · refine (emit_key _ _).trans ?_
      with_reducible assumption
  clear_value z3
  refine upd_key rfl rfl ?_
  with_reducible assumption
theorem dueReset_key (s : State) : (dueReset s).key = s.key := by
  unfold dueReset
  split
  · exact ite_key (wholeReset_key _ _) rfl
  · rfl
theorem endSlots_key (s : State) (keep : Option Nat) : (endSlots s keep).key = s.key := by
  unfold endSlots
  refine (foldl_key _ ?_ _ _).trans ?_
  · intro a1 a2
    extract_lets +onlyGivenNames z3
    clear_value z3
    exact ite_key (completeSlot_key _ _ _) rfl
  · rfl
theorem prompterReset_key (s : State) (keep : Option Nat) : (prompterReset s keep).key = s.key := by
  unfold prompterReset
  extract_lets +onlyGivenNames z1
  have h2 : z1.key = s.key := by
    unfold z1
    exact endSlots_key _ _
  clear_value z1
  extract_lets +onlyGivenNames z3
  have h4 : z3.key = s.key := by
    unfold z3
    refine (closeAll_key _).trans ?_
    with_reducible assumption
  clear_value z3
  extract_lets +onlyGivenNames z5 z6
  clear_value z5 z6
  refine (noteState_key _ _).trans ?_
  refine upd_key rfl rfl ?_
  with_reducible assumption

/-! ## BelugSettle -/

theorem retryGated_key (s : State) : (retryGated s).key = s.key := by
  unfold retryGated
  refine (foldl_key _ ?_ _ _).trans ?_
  · intro a1 a2
    exact performApron_key _ _
  · exact upd_key rfl rfl rfl
theorem modFence_key (s : State) (id : Nat) (f : FenceRun → FenceRun) : (modFence s id f).key = s.key := by
  unfold modFence
  exact upd_key rfl rfl rfl
theorem fenceReply_key (s : State) (id : Nat) (plane : Nat) (status : Nat) : (fenceReply s id plane status).key = s.key := by
  unfold fenceReply
  exact modFence_key _ _ _
theorem purposeDone_key (s : State) (p : Purpose) (metInv : Bool) (status : Nat) (reply : Option Flit) : (purposeDone s p metInv status reply).key = s.key := by
  unfold purposeDone
  split
  · exact pieceReply_key _ _ _ _ _ _ _
  · exact apronDone_key _ _ _ _
  · exact fillDone_key _ _ _ _ _
  · exact claimDone_key _ _ _
  · exact ocFillDone_key _ _ _ _
  · exact publishDone_key _ _ _
  · exact fenceReply_key _ _ _ _
  · rfl
  · rfl
theorem earlyDone_key (s : State) : (earlyDone s).key = s.key := by
  unfold earlyDone
  refine (foldl_key _ ?_ _ _).trans ?_
  · intro a1 a2
    exact purposeDone_key _ _ _ _ _
  · exact upd_key rfl rfl rfl
theorem endFence_key (s : State) (f : FenceRun) : (endFence s f).key = s.key := by
  unfold endFence
  exact (rspDone_key _ _ _ _ _).trans (upd_key rfl rfl rfl)
theorem afterRelease_key (s : State) (f : FenceRun) : (afterRelease s f).key = s.key := by
  unfold afterRelease
  exact ite_key (modFence_key _ _ _) (endFence_key _ _)
theorem sendFences_key (s : State) (f : FenceRun) : (sendFences s f).key = s.key := by
  unfold sendFences
  extract_lets +onlyGivenNames z1 z2
  clear_value z1
  have h3 : z2.key = s.key := by
    unfold z2
    exact modFence_key _ _ _
  clear_value z2
  refine (foldl_key _ ?_ _ _).trans ?_
  · intro a4 a5
    extract_lets +onlyGivenNames z6
    clear_value z6
    exact blgRequest_key _ _ _ _ _ _ _
  · with_reducible assumption
theorem clearDirty_key (s : State) (f : FenceRun) : (clearDirty s f).key = s.key := by
  unfold clearDirty
  extract_lets +onlyGivenNames z1
  clear_value z1
  exact (modFence_key _ _ _).trans (upd_key rfl rfl rfl)
theorem advance_key (s : State) (f : FenceRun) : (advance s f).key = s.key := by
  unfold advance
  split
  · refine ite_key ?_ ?_
    · rfl
    · refine ite_key ?_ ?_
      · extract_lets +onlyGivenNames z3
        have h4 : z3.key = s.key := by
          unfold z3
          exact modFence_key _ _ _
        clear_value z3
        refine (foldl_key _ ?_ _ _).trans ?_
        · intro a5 a6
          exact publish_key _ _
        · with_reducible assumption
      · exact afterRelease_key _ _
  · exact ite_key rfl (sendFences_key _ _)
  · refine ite_key ?_ ?_
    · extract_lets +onlyGivenNames z11
      have h12 : z11.key = s.key := by
        unfold z11
        exact clearDirty_key _ _
      clear_value z11
      split
      · refine (afterRelease_key _ _).trans ?_
        with_reducible assumption
      · with_reducible assumption
    · rfl
  · exact ite_key rfl (endFence_key _ _)
theorem advanceAll_key (s : State) (ids : List Nat) (n : Nat) : (advanceAll s ids n).key = s.key := by
  induction n generalizing s with
  | zero => rfl
  | succ n ih =>
    unfold advanceAll
    rw [ih]
    refine foldl_key _ ?_ _ _
    intro s x
    split
    · exact advance_key _ _
    · rfl
theorem settleOnce_key (s : State) : (settleOnce s).key = s.key := by
  unfold settleOnce
  extract_lets +onlyGivenNames z1
  have h2 : z1.key = s.key := by
    unfold z1
    exact (judgeLate_key _).trans ((retryGated_key _).trans ((retryFlowWait_key _).trans (earlyDone_key _)))
  clear_value z1
  refine (advanceAll_key _ _ _).trans ?_
  with_reducible assumption
theorem settle_key (s : State) : (settle s).key = s.key := by
  unfold settle
  exact (settleOnce_key _).trans (settleOnce_key _)
theorem dropRange_key (s : State) (node : BitVec 16) (off : Nat) (n : Nat) : (dropRange s node off n).key = s.key := by
  unfold dropRange
  extract_lets +onlyGivenNames z1 z2
  clear_value z1 z2
  exact (spoilFills_key _ _).trans (upd_key rfl rfl rfl)
theorem rangePage_key (s : State) (op : AOp) (va : Nat) (u3 : XRes) : (rangePage s op va u3).1.key = s.key := by
  unfold rangePage
  split
  · extract_lets +onlyGivenNames z5
    clear_value z5
    exact mk_fst_key (dropRange_key _ _ _ _)
  · exact mk_fst_key rfl
theorem rangeFrom_key (s : State) (op : AOp) (va n : Nat) : (rangeFrom s op va n).key = s.key := by
  induction n generalizing s va with
  | zero => rfl
  | succ n ih =>
    unfold rangeFrom
    split
    · exact endApron_key _ _ _ _ _
    · dsimp only
      split
      · rename_i h
        rw [ih]
        exact (rangePage_key _ _ _ _).trans (pair_key h (translate_key _ _ _))
      · rename_i h
        exact pair_key h (translate_key _ _ _)
theorem apronOp_key (s : State) (ch : Fin 24) (m : ApronMsg) (t : Nat) : (apronOp s ch m t).key = s.key := by
  unfold apronOp
  refine (onApron_key _ _ _ _ _ ?_).trans ?_
  · intro a1
    exact (settle_key _).trans (acceptApron_key _ _ _)
  · rfl
theorem oneDone_key (s : State) (o : Outst) (status : Nat) (reply : Option Flit) : (oneDone s o status reply).key = s.key := by
  unfold oneDone
  exact (purposeDone_key _ _ _ _ _).trans (ite_key (markDirty_key _ _ _) rfl)
theorem blgComplete_key (s : State) (o : Outst) (status : Nat) (reply : Option Flit) : (blgComplete s o status reply).key = s.key := by
  unfold blgComplete
  extract_lets +onlyGivenNames z1
  have h2 : z1.key = s.key := by
    unfold z1
    exact oneDone_key _ _ _ _
  clear_value z1
  refine ite_key ?_ ?_
  · split
    · rename_i q3 q4 q5 q6
      refine (domainCaches_key _).trans ?_
      refine (foldl_key _ ?_ _ _).trans ?_
      · intro a7 a8
        exact oneDone_key _ _ _ _
      · refine pair_key q6 ?_
        refine (takeCoherent_key _).trans ?_
        with_reducible assumption
  · with_reducible assumption
theorem beginFence_key (s : State) (ch : Nat) (tag : Nat) (scope : Nat) (rel : Bool) (acq : Bool) : (beginFence s ch tag scope rel acq).key = s.key := by
  unfold beginFence
  extract_lets +onlyGivenNames z1
  clear_value z1
  exact upd_key rfl rfl rfl
theorem kstartOp_key (s : State) (ch : Fin 24) (m : ApronMsg) : (kstartOp s ch m).key = s.key := by
  unfold kstartOp
  refine (onApron_key _ _ _ _ _ ?_).trans ?_
  · intro a1
    exact (settle_key _).trans (beginFence_key _ _ _ _ _ _)
  · rfl
theorem idle_key (s : State) : (idle s).key = (s.now + 1, s.key.2) := by
  unfold idle; rw [settle_key, dueReset_key]; rfl
theorem invRangeOp_key (s : State) (ch : Fin 24) (m : ApronMsg) : (invRangeOp s ch m).key = s.key := by
  unfold invRangeOp
  refine (onApron_key _ _ _ _ _ ?_).trans ?_
  · intro a1
    split
    · rename_i q2 q3 q4 q5
      extract_lets +onlyGivenNames z6
      clear_value z6
      exact (settle_key _).trans ((rangeFrom_key _ _ _ _).trans (pair_key q5 (openOp_key _ _ _ _ _)))
  · rfl
theorem apronFenceOp_key (s : State) (ch : Fin 24) (m : ApronMsg) : (apronFenceOp s ch m).key = s.key := by
  unfold apronFenceOp
  refine (onApron_key _ _ _ _ _ ?_).trans ?_
  · intro a1
    extract_lets +onlyGivenNames z2
    clear_value z2
    exact (settle_key _).trans (beginFence_key _ _ _ _ _ _)
  · rfl

/-! ## PoolOps -/

theorem abandonMoves_key (v : Itvos) (p : Nat → Bool) : (abandonMoves v p).fuse = v.fuse := by
  unfold abandonMoves
  rfl
theorem poisonBlock_key (s : State) (b : Nat) : (poisonBlock s b).key = s.key := by
  unfold poisonBlock
  extract_lets +onlyGivenNames z1 z2 z3 z4
  clear_value z1 z3
  have h5 : z4.key = s.key := by
    unfold z4
    exact upd_key rfl rfl rfl
  clear_value z4
  refine (raiseEvent_key _ _).trans ?_
  refine (bumpPool_key _ _).trans ?_
  with_reducible assumption
theorem dropPages_key (v : Itvos) (lo : Nat) (hi : Nat) : (dropPages v lo hi).fuse = v.fuse := by
  unfold dropPages
  rfl
theorem touchPage_key (s : State) (page : Nat) : (touchPage s page).key = s.key := by
  unfold touchPage
  split
  · rfl
  · extract_lets +onlyGivenNames z6 z7 z8 z9
    have h10 : z9.key = s.key := by
      unfold z9
      exact upd_key rfl rfl rfl
    refine ite_key ?_ ?_
    · refine ite_key ?_ ?_
      · exact upd_key rfl rfl rfl
      · refine (bumpPool_key _ _).trans ?_
        with_reducible assumption
    · with_reducible assumption
theorem touch_key (s : State) (off : Nat) (len : Nat) : (touch s off len).key = s.key := by
  unfold touch
  refine (foldl_key _ ?_ _ _).trans ?_
  · intro a1 a2
    exact touchPage_key _ _
  · rfl
theorem unitMismatch_key (s : State) (c : PoolCtr) : (unitMismatch s c).key = s.key := by
  unfold unitMismatch
  extract_lets +onlyGivenNames z1 z2 z3 z4
  clear_value z1 z3
  have h5 : z4.key = s.key := by
    unfold z4
    exact (bumpPool_key _ _).trans (upd_key rfl rfl rfl)
  clear_value z4
  refine ite_key ?_ ?_
  · refine (raiseEvent_key _ _).trans ?_
    with_reducible assumption
  · with_reducible assumption
theorem blockStore_key (v : Itvos) (b : Nat) (cur : Bool) (key : BitVec 256) (d : Bytes) : (blockStore v b cur key d).fuse = v.fuse := by
  unfold blockStore
  rfl
theorem blockWrite_key (v : Itvos) (part : Nat) (b : Nat) (d : Bytes) (mask : Nat) : (blockWrite v part b d mask).1.fuse = v.fuse := by
  unfold blockWrite
  extract_lets +onlyGivenNames z1
  clear_value z1
  split
  · rfl
  · refine ite_fst_obs Itvos.fuse ?_ ?_
    · rfl
    · refine ite_fst_obs Itvos.fuse ?_ ?_
      · exact mk_fst_obs Itvos.fuse (blockStore_key _ _ _ _ _)
      · split
        · exact mk_fst_obs Itvos.fuse (blockStore_key _ _ _ _ _)
        · rfl
theorem poolWrite_key (v : Itvos) (part : Nat) (off : Nat) (d : Bytes) (mask : Nat) : (poolWrite v part off d mask).1.fuse = v.fuse := by
  unfold poolWrite
  extract_lets +onlyGivenNames z1 z2 z3 z4
  clear_value z1 z2 z3 z4
  split
  · rfl
  · refine mk_fst_obs Itvos.fuse ?_
    refine (foldl_obs Itvos.fuse _ ?_ _ _).trans ?_
    · intro a9 a10
      exact blockWrite_key _ _ _ _ _
    · rfl
theorem evictOne_fuse {v w : Itvos} {n : Nat} (h : evictOne v = some (w, n)) : w.fuse = v.fuse := by
  unfold evictOne at h
  split at h
  · cases h; rfl
  · cases h
theorem placePage_key (v : Itvos) (page carve : Nat) (cls : TierClass) : (placePage v page carve cls).fuse = v.fuse := by
  unfold placePage
  dsimp only
  repeat' split
  all_goals first
    | rfl
    | (rename_i h; have e := evictOne_fuse h; exact e)
theorem placePages_key (v : Itvos) (carve : Nat) (off : Nat) (len : Nat) (cls : TierClass) : (placePages v carve off len cls).fuse = v.fuse := by
  unfold placePages
  refine (foldl_obs Itvos.fuse _ ?_ _ _).trans ?_
  · intro a1 a2
    exact placePage_key _ _ _ _
  · rfl
theorem zeroPages_key (v : Itvos) (lo : Nat) (hi : Nat) : (zeroPages v lo hi).fuse = v.fuse := by
  unfold zeroPages
  rfl

end Sys2Proof.Machine
end

