-- ==== Sys2Proof/Laws/KeepD.lean ====
section
/-! SUPPORT. What every operation leaves alone (Laws/Keep.lean): the operations of FlitCore, DirRows, HomeItv, CollPost, BelugHome, Callboard. -/

namespace Sys2Proof.Machine

open Sys2Proof

/-! ## FlitCore -/

theorem modDie_key (s : State) (d : Nat) (f : Die → Die) : (modDie s d f).key = s.key := by
  unfold modDie
  exact ite_key (upd_key rfl rfl rfl) (upd_key rfl rfl rfl)
theorem pathDrop_key (s : State) (inp : Nat) (o : Nat) (path : Nat) : (pathDrop s inp o path).key = s.key := by
  unfold pathDrop
  extract_lets +onlyGivenNames z1
  clear_value z1
  exact (bump_key _ _ _).trans (modDie_key _ _ _)
theorem setLastChoice_key (s : State) (inp : Nat) (g : Nat) (o : Nat) : (setLastChoice s inp g o).key = s.key := by
  unfold setLastChoice
  exact ite_key (modItvPort_key _ _ _) (upd_key rfl rfl rfl)
theorem deliverBelug_key (s : State) (p : Fin 24) (i : Nat) : (deliverBelug s p i).key = s.key := by
  unfold deliverBelug
  split
  · rfl
  · extract_lets +onlyGivenNames z6
    have h7 : z6.key = s.key := by
      unfold z6
      exact modPort_key _ _ _
    clear_value z6
    refine ite_key ?_ ?_
    · extract_lets +onlyGivenNames z8
      clear_value z8
      refine ite_key ?_ ?_
      · refine (modBlgPort_key _ _ _).trans ?_
        with_reducible assumption
      · refine (bumpB_key _ _ _).trans ?_
        with_reducible assumption
    · refine (openBelug_key _ _ _).trans ?_
      with_reducible assumption
theorem freeLanding_key (s : State) (inp : Nat) (v : Nat) : (freeLanding s inp v).key = s.key := by
  unfold freeLanding
  exact modItvPort_key _ _ _
theorem setStream_key (s : State) (k : Nat) (st : Stream) : (setStream s k st).key = s.key := by
  unfold setStream
  exact upd_key rfl rfl rfl
theorem settleStream_key (s : State) (inp : Nat) (o : Nat) (v : Nat) : (settleStream s inp o v).key = s.key := by
  unfold settleStream
  extract_lets +onlyGivenNames z1 z2
  clear_value z1 z2
  split
  · extract_lets +onlyGivenNames z7
    have h8 : z7.key = s.key := by
      unfold z7
      exact modItvPort_key _ _ _
    clear_value z7
    refine (setStream_key _ _ _).trans ?_
    with_reducible assumption
theorem reachOutput_key (s : State) (o : Nat) (e : QEntry) : (reachOutput s o e).key = s.key := by
  unfold reachOutput
  extract_lets +onlyGivenNames z1 z2
  clear_value z1 z2
  refine ite_key ?_ ?_
  · extract_lets +onlyGivenNames z3
    have h4 : z3.key = s.key := by
      unfold z3
      exact bump_key _ _ _
    clear_value z3
    refine upd_key rfl rfl ?_
    with_reducible assumption
  · exact (settleStream_key _ _ _ _).trans (modItvPort_key _ _ _)
theorem storeCopy_key (s : State) (inp : Nat) (l : Landed) (d : Nat) (path : Nat) (outs : List (Nat × Nat)) : (storeCopy s inp l d path outs).key = s.key := by
  unfold storeCopy
  extract_lets +onlyGivenNames z1 z2 z3 z4
  clear_value z1 z3
  have h5 : z4.key = s.key := by
    unfold z4
    exact upd_key rfl rfl rfl
  clear_value z4
  refine (foldl_key _ ?_ _ _).trans ?_
  · intro a6 a7
    exact reachOutput_key _ _ _
  · with_reducible assumption
theorem placeDie_key (s : State) (inp : Nat) (l : Landed) (d : Nat) (fate : CoreFate) : (placeDie s inp l d fate).1.key = s.key := by
  unfold placeDie
  extract_lets +onlyGivenNames z1 z2 z3
  clear_value z1 z2 z3
  refine ite_fst_key ?_ ?_
  · exact mk_fst_key rfl
  · refine ite_fst_key ?_ ?_
    · exact mk_fst_key rfl
    · extract_lets +onlyGivenNames z4 z5
      clear_value z4
      have h6 : z5.key = s.key := by
        unfold z5
        refine (foldl_key _ ?_ _ _).trans ?_
        · intro a7 a8
          extract_lets +onlyGivenNames z9
          clear_value z9
          exact setStream_key _ _ _
        · rfl
      clear_value z5
      extract_lets +onlyGivenNames z10
      clear_value z10
      split
      · refine mk_fst_key ?_
        refine (storeCopy_key _ _ _ _ _ _).trans ?_
        with_reducible assumption
      · refine mk_fst_key ?_
        refine (pathDrop_key _ _ _ _).trans ?_
        with_reducible assumption
      · refine mk_fst_key ?_
        refine upd_key rfl rfl ?_
        with_reducible assumption
theorem setLastPath_key (s : State) (inp : Nat) (path : Nat) : (setLastPath s inp path).key = s.key := by
  unfold setLastPath
  exact ite_key (modItvPort_key _ _ _) (upd_key rfl rfl rfl)
theorem placeUnicast_key {s : State} {inp : Nat} {l : Landed} {o g : Nat} {fate : CoreFate} {t : State}
    (h : placeUnicast s inp l o g fate = some t) : t.key = s.key := by
  unfold placeUnicast at h
  dsimp only at h
  repeat' split at h
  all_goals first
    | (cases h; done)
    | (cases h
       simp only [reachOutput_key, pathDrop_key, modItvPort_key, freeLanding_key, setLastChoice_key, setStream_key, setLastPath_key]
       done)
    | (cases h
       refine upd_key rfl rfl ?_
       simp only [freeLanding_key, setLastChoice_key, setStream_key, setLastPath_key])
theorem placeOne_key {s : State} {inp : Nat} {l : Landed} {fate : CoreFate} {t : State × Option Landed}
    (h : placeOne s inp l fate = some t) : t.1.key = s.key := by
  have hd : ∀ l : Landed, (placeDie (placeDie s inp l 0 fate).1 inp l 1 fate).1.key = s.key :=
    fun l => (placeDie_key _ _ _ _ _).trans (placeDie_key _ _ _ _ _)
  unfold placeOne at h
  dsimp only at h
  split at h
  · repeat' split at h
    all_goals first
      | (cases h; done)
      | (cases h; simp only [freeLanding_key, hd]; done)
  · repeat' split at h
    all_goals first
      | (cases h; done)
      | (cases h; simp only [freeLanding_key, hd, bumpDel_key, bump_key, openItvos_key, nokeyAbort_key, relayDown_key, passDown_key]; done)
      | (obtain ⟨a, ha, rfl⟩ := Option.map_eq_some_iff.mp h; exact placeUnicast_key ha)
      | (obtain ⟨a, ha, rfl⟩ := Option.map_eq_some_iff.mp h
         refine (passDown_key _ _).trans ?_
         repeat' split at ha
         all_goals first
           | (cases ha; done)
           | (cases ha; simp only [freeLanding_key, hd]; done))
theorem pathArrive_key (s : State) (i : Nat) (fate : CoreFate) : (pathArrive s i fate).key = s.key := by
  unfold pathArrive
  split
  · rfl
  · extract_lets +onlyGivenNames z6 z7 z8 z9
    clear_value z6 z8
    have h10 : z9.key = s.key := by
      unfold z9
      exact upd_key rfl rfl rfl
    clear_value z9
    split
    · rfl
    · refine (pathDrop_key _ _ _ _).trans ?_
      with_reducible assumption
    · extract_lets +onlyGivenNames z14
      clear_value z14
      refine ite_key ?_ ?_
      · refine (storeCopy_key _ _ _ _ _ _).trans ?_
        with_reducible assumption
      · refine (foldl_key _ ?_ _ _).trans ?_
        · intro a15 a16
          exact reachOutput_key _ _ _
        · with_reducible assumption
theorem flitPlaceOp_key (s : State) (sel : PlaceSel) (fate : CoreFate) : (flitPlaceOp s sel fate).key = s.key := by
  unfold flitPlaceOp
  split
  · exact deliverBelug_key _ _ _
  · split
    · rfl
    · split
      · rfl
      · rename_i q14 q15 q16 q17
        refine (modPort_key _ _ _).trans ?_
        exact ite_key ((atomReturned_key _ _).trans (placeOne_key q17)) (placeOne_key q17)
  · refine ite_key ?_ ?_
    · rfl
    · split
      · rfl
      · split
        · rfl
        · rename_i q27 q28 q29 q30
          exact upd_key rfl rfl (placeOne_key q30)
        · rename_i q31 q32 q33
          exact upd_key rfl rfl (placeOne_key q33)
  · exact pathArrive_key _ _ _
theorem flitAgedOp_key (s : State) (loc : AgedAt) : (flitAgedOp s loc).key = s.key := by
  unfold flitAgedOp
  split
  · split
    · exact ite_key ((bumpDel_key _ _).trans (modPort_key _ _ _)) rfl
    · rfl
  · split
    · refine ite_key ?_ ?_
      · extract_lets +onlyGivenNames z15
        have h16 : z15.key = s.key := by
          unfold z15
          exact modPort_key _ _ _
        clear_value z15
        extract_lets +onlyGivenNames z17
        have h18 : z17.key = s.key := by
          unfold z17
          refine ite_key ?_ ?_
          · refine (freeLanding_key _ _ _).trans ?_
            with_reducible assumption
          · with_reducible assumption
        clear_value z17
        refine (bumpDel_key _ _).trans ?_
        refine upd_key rfl rfl ?_
        with_reducible assumption
      · rfl
    · rfl
  · split
    · exact ite_key ((bumpB_key _ _ _).trans (modPort_key _ _ _)) rfl
    · rfl
  · split
    · exact ite_key ((bumpB_key _ _ _).trans (upd_key rfl rfl rfl)) rfl
    · rfl
  · rfl
theorem peep_key (s : State) (n : Nat) (egress : Bool) (express : Bool) (mcast : Bool) (f : Flit) : (peep s n egress express mcast f).key = s.key := by
  unfold peep
  extract_lets +onlyGivenNames z1
  clear_value z1
  refine ite_key ?_ ?_
  · split
    · extract_lets +onlyGivenNames z6
      have h7 : z6.key = s.key := by
        unfold z6
        exact modItvPort_key _ _ _
      clear_value z6
      refine ite_key ?_ ?_
      · extract_lets +onlyGivenNames z8 z9 z10 z11 z12 z13
        clear_value z8 z9 z10 z12
        have h14 : z13.key = s.key := by
          unfold z13
          refine upd_key rfl rfl ?_
          with_reducible assumption
        clear_value z13
        refine ite_key ?_ ?_
        · refine (telemeter_key _ _ _).trans ?_
          with_reducible assumption
        · refine (bump_key _ _ _).trans ?_
          with_reducible assumption
      · with_reducible assumption
  · rfl
theorem countOver_key (s : State) (n : Nat) (f : Flit) : (countOver s n f).key = s.key := by
  unfold countOver
  split
  · extract_lets +onlyGivenNames z5 z6
    clear_value z5
    have h7 : z6.key = s.key := by
      unfold z6
      exact modItvPort_key _ _ _
    clear_value z6
    refine ite_key ?_ ?_
    · refine (bump_key _ _ _).trans ?_
      with_reducible assumption
    · with_reducible assumption
  · rfl
theorem land_key (s : State) (r : PortRef) (f : Flit) : (land s r f).key = s.key := by
  unfold land
  extract_lets +onlyGivenNames z1
  clear_value z1
  refine ite_key ?_ ?_
  · extract_lets +onlyGivenNames z2
    have h3 : z2.key = s.key := by
      unfold z2
      exact modPort_key _ _ _
    clear_value z2
    extract_lets +onlyGivenNames z4
    have h5 : z4.key = s.key := by
      unfold z4
      refine (bumpPort_key _ _ _ _).trans ?_
      with_reducible assumption
    clear_value z4
    split
    · refine (peep_key _ _ _ _ _ _).trans ?_
      refine ite_key ?_ ?_
      · refine (countOver_key _ _ _).trans ?_
        with_reducible assumption
      · with_reducible assumption
    · refine ite_key ?_ ?_
      · refine (bumpB_key _ _ _).trans ?_
        with_reducible assumption
      · with_reducible assumption
  · extract_lets +onlyGivenNames z10
    have h11 : z10.key = s.key := by
      unfold z10
      exact bumpPort_key _ _ _ _
    clear_value z10
    refine (realign_key _ _ _).trans ?_
    with_reducible assumption
theorem arriveData_key (s : State) (r : PortRef) (f : Flit) (mbz : Nat) : (arriveData s r f mbz).key = s.key := by
  unfold arriveData
  extract_lets +onlyGivenNames z1
  have h2 : z1.key = s.key := by
    unfold z1
    exact modPort_key _ _ _
  clear_value z1
  refine ite_key ?_ ?_
  · refine (modPort_key _ _ _).trans ?_
    refine (bumpPort_key _ _ _ _).trans ?_
    with_reducible assumption
  · split
    · refine (land_key _ _ _).trans ?_
      with_reducible assumption
    · split
      · refine ite_key ?_ ?_
        · refine (modPort_key _ _ _).trans ?_
          refine (bump_key _ _ _).trans ?_
          with_reducible assumption
        · extract_lets +onlyGivenNames z11
          have h12 : z11.key = s.key := by
            unfold z11
            refine ite_key ?_ ?_
            · refine (modPort_key _ _ _).trans ?_
              with_reducible assumption
            · with_reducible assumption
          clear_value z11
          refine ite_key ?_ ?_
          · refine (modPort_key _ _ _).trans ?_
            refine (bump_key _ _ _).trans ?_
            with_reducible assumption
          · refine (land_key _ _ _).trans ?_
            with_reducible assumption
theorem arrivePassed_key (s : State) (r : PortRef) (f : Flit) (mbz : Nat) : (arrivePassed s r f mbz).key = s.key := by
  unfold arrivePassed
  refine ite_key ?_ ?_
  · exact ite_key (bumpPort_key _ _ _ _) (modPort_key _ _ _)
  · extract_lets +onlyGivenNames z1
    have h2 : z1.key = s.key := by
      unfold z1
      exact modPort_key _ _ _
    clear_value z1
    refine ite_key ?_ ?_
    · refine (bumpPort_key _ _ _ _).trans ?_
      with_reducible assumption
    · refine (arriveData_key _ _ _ _).trans ?_
      with_reducible assumption
theorem unexpress_key (s : State) (o : Nat) : (unexpress s o).key = s.key := by
  unfold unexpress
  extract_lets +onlyGivenNames z1 z2
  clear_value z1
  have h3 : z2.key = s.key := by
    unfold z2
    refine (foldl_key _ ?_ _ _).trans ?_
    · intro a4 a5
      exact ite_key (freeLanding_key _ _ _) rfl
    · rfl
  clear_value z2
  refine (modItvPort_key _ _ _).trans ?_
  with_reducible assumption
theorem pushLeft_key (s : State) (f : Flit) : (pushLeft s f).key = s.key := by
  unfold pushLeft
  refine ite_key ?_ ?_
  · rfl
  · extract_lets +onlyGivenNames z1 z2 z3 z4
    clear_value z1 z3
    have h5 : z4.key = s.key := by
      unfold z4
      exact upd_key rfl rfl rfl
    clear_value z4
    refine (foldl_key _ ?_ _ _).trans ?_
    · intro a6 a7
      exact finishKept_key _ _ _ _
    · with_reducible assumption
theorem sendItv_key (s : State) (n : Fin 72) (e : QEntry) (rest : List QEntry) : (sendItv s n e rest).key = s.key := by
  unfold sendItv
  extract_lets +onlyGivenNames z1 z2 z3 z4
  clear_value z1 z2 z3
  have h5 : z4.key = s.key := by
    unfold z4
    exact ite_key (bump_key _ _ _) rfl
  clear_value z4
  extract_lets +onlyGivenNames z6 z7 z8
  clear_value z7
  have h9 : z8.key = s.key := by
    unfold z8
    refine upd_key rfl rfl ?_
    with_reducible assumption
  clear_value z8
  extract_lets +onlyGivenNames z10 z11 z12 z13
  clear_value z10 z12
  have h14 : z13.key = s.key := by
    unfold z13
    refine upd_key rfl rfl ?_
    with_reducible assumption
  clear_value z13
  split
  · extract_lets +onlyGivenNames z20 z21 z22
    clear_value z20 z21
    have h23 : z22.key = s.key := by
      unfold z22
      refine (setPort_key _ _ _).trans ?_
      with_reducible assumption
    clear_value z22
    extract_lets +onlyGivenNames z24
    have h25 : z24.key = s.key := by
      unfold z24
      refine ite_key ?_ ?_
      · refine (freeLanding_key _ _ _).trans ?_
        with_reducible assumption
      · with_reducible assumption
    clear_value z24
    extract_lets +onlyGivenNames z26
    have h27 : z26.key = s.key := by
      unfold z26
      refine ite_key ?_ ?_
      · refine (unexpress_key _ _).trans ?_
        with_reducible assumption
      · with_reducible assumption
    clear_value z26
    extract_lets +onlyGivenNames z28
    have h29 : z28.key = s.key := by
      unfold z28
      refine (bumpPort_key _ _ _ _).trans ?_
      with_reducible assumption
    clear_value z28
    extract_lets +onlyGivenNames z30
    have h31 : z30.key = s.key := by
      unfold z30
      refine (peep_key _ _ _ _ _ _).trans ?_
      with_reducible assumption
    clear_value z30
    refine (pushLeft_key _ _).trans ?_
    refine (emit_key _ _).trans ?_
    with_reducible assumption
theorem sendBlg_key (s : State) (n : Fin 24) (e : QEntry) (rest : List QEntry) : (sendBlg s n e rest).key = s.key := by
  unfold sendBlg
  extract_lets +onlyGivenNames z1
  clear_value z1
  split
  · extract_lets +onlyGivenNames z7 z8 z9 z10
    clear_value z7 z8 z9
    have h11 : z10.key = s.key := by
      unfold z10
      exact (bumpPort_key _ _ _ _).trans (setPort_key _ _ _)
    clear_value z10
    refine (emit_key _ _).trans ?_
    with_reducible assumption
theorem flitArrivalOp_whenever__key (c : Bool) (s : State) (f : State → State) (hf : ∀ v0, (f v0).key = v0.key) : (flitArrivalOp.whenever_ c s f).key = s.key := by
  unfold flitArrivalOp.whenever_
  exact ite_key (hf _) rfl
theorem askResync_key (s : State) (r : PortRef) : (askResync s r).key = s.key := by
  unfold askResync
  extract_lets +onlyGivenNames z1
  have h2 : z1.key = s.key := by
    unfold z1
    exact bumpPort_key _ _ _ _
  clear_value z1
  refine (modPort_key _ _ _).trans ?_
  with_reducible assumption
theorem flitArrivalOp_key (s : State) (r : PortRef) (raw : Bytes) : (flitArrivalOp s r raw).key = s.key := by
  unfold flitArrivalOp
  extract_lets +onlyGivenNames z1
  clear_value z1
  refine (flitArrivalOp_whenever__key _ _ _ ?_).trans ?_
  · intro a2
    split
    · exact (askResync_key _ _).trans (bumpPort_key _ _ _ _)
    · extract_lets +onlyGivenNames z10
      have h11 : z10.key = a2.key := by
        unfold z10
        exact (bumpPort_key _ _ _ _).trans (bumpPort_key _ _ _ _)
      clear_value z10
      split
      · refine (arrivePassed_key _ _ _ _).trans ?_
        with_reducible assumption
  · rfl
theorem pathRetireOp_key (s0 : State) (d : Fin 2) (k : Fin 8) : (pathRetireOp s0 d k).key = s0.key := by
  unfold pathRetireOp
  extract_lets +onlyGivenNames z1 z2
  clear_value z1 z2
  refine ite_key ?_ ?_
  · extract_lets +onlyGivenNames z3
    have h4 : z3.key = s0.key := by
      unfold z3
      exact modDie_key _ _ _
    clear_value z3
    refine (noteState_key _ _).trans ?_
    refine (raiseEvent_key _ _).trans ?_
    with_reducible assumption
  · rfl
theorem sendEntry_key (s : State) (r : PortRef) (v : Nat) : (sendEntry s r v).key = s.key := by
  unfold sendEntry
  split
  · rfl
  · split
    · exact sendItv_key _ _ _ _
    · exact sendBlg_key _ _ _ _
theorem paceUpdateOp_key (s0 : State) (what : PaceOf) (rs : List Nat) : (paceUpdateOp s0 what rs).key = s0.key := by
  unfold paceUpdateOp
  split
  · extract_lets +onlyGivenNames z3 z4
    clear_value z3
    have h5 : z4.key = s0.key := by
      unfold z4
      exact modDie_key _ _ _
    clear_value z4
    extract_lets +onlyGivenNames z6
    have h7 : z6.key = s0.key := by
      unfold z6
      refine ite_key ?_ ?_
      · refine (bump_key _ _ _).trans ?_
        with_reducible assumption
      · with_reducible assumption
    clear_value z6
    refine (noteState_key _ _).trans ?_
    with_reducible assumption
  · exact upd_key rfl rfl rfl
theorem sendLinkCtl_key (s : State) (r : PortRef) (code : Nat) : (sendLinkCtl s r code).key = s.key := by
  unfold sendLinkCtl
  extract_lets +onlyGivenNames z1 z2
  clear_value z1
  have h3 : z2.key = s.key := by
    unfold z2
    exact modPort_key _ _ _
  clear_value z2
  extract_lets +onlyGivenNames z4 z5 z6 z7 z8 z9 z10
  clear_value z4 z5 z6 z7 z8 z9
  have h11 : z10.key = s.key := by
    unfold z10
    refine (modPort_key _ _ _).trans ?_
    with_reducible assumption
  clear_value z10
  refine (emit_key _ _).trans ?_
  with_reducible assumption
theorem flitTransmitOp_key (s : State) (r : PortRef) : (flitTransmitOp s r).key = s.key := by
  unfold flitTransmitOp
  extract_lets +onlyGivenNames z1
  clear_value z1
  refine ite_key ?_ ?_
  · rfl
  · split
    · exact (sendLinkCtl_key _ _ _).trans (modPort_key _ _ _)
    · refine ite_key ?_ ?_
      · exact sendEntry_key _ _ _
      · split
        · exact (sendEntry_key _ _ _).trans (modPort_key _ _ _)
        · exact (sendLinkCtl_key _ _ _).trans (modPort_key _ _ _)
theorem reseqSkipOp_key (s : State) (inp : Nat) (o : Fin 72) (v : Fin 8) : (reseqSkipOp s inp o v).key = s.key := by
  unfold reseqSkipOp
  extract_lets +onlyGivenNames z1 z2
  clear_value z1 z2
  split
  · rfl
  · extract_lets +onlyGivenNames z8
    clear_value z8
    refine ite_key ?_ ?_
    · extract_lets +onlyGivenNames z9
      have h10 : z9.key = s.key := by
        unfold z9
        exact bump_key _ _ _
      clear_value z9
      refine (settleStream_key _ _ _ _).trans ?_
      refine (setStream_key _ _ _).trans ?_
      with_reducible assumption
    · rfl

/-! ## DirRows -/

theorem tryWays_key (s : State) (key : Nat) : (tryWays s key).key = s.key := by
  unfold tryWays
  exact ite_key (wayFreed_key _ _) rfl
theorem directoryOp_key (s : State) (f : Flit) (t : Nat) : (directoryOp s f t).1.key = s.key := by
  unfold directoryOp
  split
  · exact mk_fst_key ((itvSend_key _ _).trans (bumpDel_key _ _))
  · refine ite_fst_key ?_ ?_
    · exact mk_fst_key (bumpDel_key _ _)
    · split
      · rename_i q6 q7 q8 q9
        exact mk_fst_key ((tryWays_key _ _).trans (pair_key q9 (dirAct_key _ _ _)))
theorem invAckOp_key (s : State) (f : Flit) : (invAckOp s f).key = s.key := by
  unfold invAckOp
  refine ite_key ?_ ?_
  · refine (fromInbox_key _ _ _ _ ?_).trans ?_
    · intro a1
      split
      · exact closeInv_key _ _
      · exact bumpCoh_key _ _
    · rfl
  · rfl
theorem invOrphanOp_key (s : State) (seat : Fin 72) (seq : Nat) : (invOrphanOp s seat seq).key = s.key := by
  unfold invOrphanOp
  split
  · rfl
  · refine ite_key ?_ ?_
    · refine ite_key ?_ ?_
      · exact deadOwner_key _ _
      · extract_lets +onlyGivenNames z6
        have h7 : z6.key = s.key := by
          unfold z6
          split
          · exact putEntry_key _ _ _
          · rfl
        clear_value z6
        refine (closeInv_key _ _).trans ?_
        refine (bumpCoh_key _ _).trans ?_
        with_reducible assumption
    · rfl
theorem fenceOp_key (s : State) (f : Flit) : (fenceOp s f).key = s.key := by
  unfold fenceOp
  refine ite_key ?_ ?_
  · refine (fromInbox_key _ _ _ _ ?_).trans ?_
    · intro a1
      extract_lets +onlyGivenNames z2
      clear_value z2
      split
      · rename_i q3 q4 q5
        refine ite_key ?_ ?_
        · exact (itvSend_key _ _).trans ((strikeDrop_key _ _).trans (pair_key q5 (arriveFlow_key _ _ _)))
        · exact pair_key q5 (arriveFlow_key _ _ _)
      · rename_i q6 q7 q8 q9
        extract_lets +onlyGivenNames z10
        have h11 : z10.key = a1.key := by
          unfold z10
          exact (bumpCoh_key _ _).trans (pair_key q9 (arriveFlow_key _ _ _))
        clear_value z10
        refine ite_key ?_ ?_
        · refine (itvSend_key _ _).trans ?_
          refine (strikeDrop_key _ _).trans ?_
          with_reducible assumption
        · refine ite_key ?_ ?_
          · refine (itvSend_key _ _).trans ?_
            with_reducible assumption
          · extract_lets +onlyGivenNames z12
            clear_value z12
            refine ite_key ?_ ?_
            · refine (itvSend_key _ _).trans ?_
              with_reducible assumption
            · refine (modDir_key _ _).trans ?_
              with_reducible assumption
    · rfl
  · rfl
theorem dirLateOp_key (s : State) (line : Nat) (i : Nat) : (dirLateOp s line i).key = s.key := by
  unfold dirLateOp
  split
  · split
    · exact ite_key ((bumpCoh_key _ _).trans (modDir_key _ _)) rfl
    · rfl
  · extract_lets +onlyGivenNames z12
    clear_value z12
    split
    · exact ite_key ((bumpCoh_key _ _).trans (modDir_key _ _)) rfl
    · rfl
theorem invResendOp_key (s : State) (seat : Fin 72) (seq : Nat) : (invResendOp s seat seq).key = s.key := by
  unfold invResendOp
  split
  · rfl
  · refine ite_key ?_ ?_
    · extract_lets +onlyGivenNames z6
      have h7 : z6.key = s.key := by
        unfold z6
        exact modDir_key _ _
      clear_value z6
      refine (itvSend_key _ _).trans ?_
      with_reducible assumption
    · rfl
theorem dirRequestOp_key (s : State) (f : Flit) : (dirRequestOp s f).key = s.key := by
  unfold dirRequestOp
  split
  · extract_lets +onlyGivenNames z5
    clear_value z5
    split
    · rename_i q6 q7 q8 q9
      refine ite_key ?_ ?_
      · exact (modItvPort_key _ _ _).trans (pair_key q9 (directoryOp_key _ _ _))
      · exact (modItvPort_key _ _ _).trans (pair_key q9 (directoryOp_key _ _ _))
  · refine ite_key ?_ ?_
    · refine (fromInbox_key _ _ _ _ ?_).trans ?_
      · intro a12
        refine ite_key ?_ ?_
        · split
          · rename_i q13 q14 q15 q16
            refine ite_key ?_ ?_
            · exact (passOn_key _ _).trans (pair_key q16 (directoryOp_key _ _ _))
            · exact pair_key q16 (directoryOp_key _ _ _)
        · exact ite_key (answer_key _ _ _) (passOn_key _ _)
      · rfl
    · rfl

/-! ## HomeItv -/

theorem hwMet_key (s : State) (f : Flit) (hw : HomeHw) (arith : Bool) (needs : Bool) : (hwMet s f hw arith needs).1.key = s.key := by
  unfold hwMet
  split
  · exact ite_fst_key (mk_fst_key (poisonBlock_key _ _)) (mk_fst_key rfl)
  · exact mk_fst_key rfl
  · exact ite_fst_key (mk_fst_key rfl) (mk_fst_key rfl)
  · exact mk_fst_key rfl
theorem endHome_key (s : State) (f : Flit) (u2 : HomeEnd) : (endHome s f u2).key = s.key := by
  unfold endHome
  split
  · exact itvSend_key _ _
  · exact unmark_key _ _ _
  · exact (unmark_key _ _ _).trans (unitMismatch_key _ _)
theorem poolRmem_key (s : State) (f : Flit) (c : Carve) (hw : HomeHw) : (poolRmem s f c hw).key = s.key := by
  unfold poolRmem
  extract_lets +onlyGivenNames z1
  clear_value z1
  refine ite_key ?_ ?_
  · exact itvSend_key _ _
  · extract_lets +onlyGivenNames z2
    have h3 : z2.key = s.key := by
      unfold z2
      exact touch_key _ _ _
    clear_value z2
    split
    · rename_i q4 q5 q6 q7
      refine (endHome_key _ _ _).trans ?_
      refine pair_key q7 ?_
      refine (hwMet_key _ _ _ _ _).trans ?_
      with_reducible assumption
    · rename_i q8 q9 q10
      split
      · refine (unmark_key _ _ _).trans ?_
        refine pair_key q10 ?_
        refine (hwMet_key _ _ _ _ _).trans ?_
        with_reducible assumption
      · refine (itvSend_key _ _).trans ?_
        refine pair_key q10 ?_
        refine (hwMet_key _ _ _ _ _).trans ?_
        with_reducible assumption
      · split
        · rename_i q18 q19 q20 q21
          refine (itvSend_key _ _).trans ?_
          refine upd_key ?_ ?_ ?_
          · exact pair_obs Itvos.fuse q21 (poolWrite_key _ _ _ _ _)
          · rfl
          · refine pair_key q10 ?_
            refine (hwMet_key _ _ _ _ _).trans ?_
            with_reducible assumption
        · refine (itvSend_key _ _).trans ?_
          refine pair_key q10 ?_
          refine (hwMet_key _ _ _ _ _).trans ?_
          with_reducible assumption
        · refine (unmark_key _ _ _).trans ?_
          refine pair_key q10 ?_
          refine (hwMet_key _ _ _ _ _).trans ?_
          with_reducible assumption
theorem poolAtomic_key (s : State) (f : Flit) (c : Carve) (hw : HomeHw) : (poolAtomic s f c hw).key = s.key := by
  unfold poolAtomic
  extract_lets +onlyGivenNames z1
  clear_value z1
  refine ite_key ?_ ?_
  · exact (itvSend_key _ _).trans (keepAtomic_key _ _ _ _ _)
  · extract_lets +onlyGivenNames z2
    have h3 : z2.key = s.key := by
      unfold z2
      exact touch_key _ _ _
    clear_value z2
    split
    · rename_i q4 q5 q6 q7
      refine (endHome_key _ _ _).trans ?_
      refine pair_key q7 ?_
      refine (hwMet_key _ _ _ _ _).trans ?_
      with_reducible assumption
    · rename_i q8 q9 q10
      extract_lets +onlyGivenNames z11
      have h12 : ∀ b0 b1 b2, (z11 b0 b1 b2).key = b0.key := by
        unfold z11
        intro a13 a14 a15
        exact (itvSend_key _ _).trans (keepAtomic_key _ _ _ _ _)
      clear_value z11
      split
      · refine (unmark_key _ _ _).trans ?_
        refine pair_key q10 ?_
        refine (hwMet_key _ _ _ _ _).trans ?_
        with_reducible assumption
      · refine Eq.trans (h12 _ _ _) ?_
        refine pair_key q10 ?_
        refine (hwMet_key _ _ _ _ _).trans ?_
        with_reducible assumption
      · extract_lets +onlyGivenNames z23 z24
        clear_value z23 z24
        refine ite_key ?_ ?_
        · refine Eq.trans (h12 _ _ _) ?_
          refine pair_key q10 ?_
          refine (hwMet_key _ _ _ _ _).trans ?_
          with_reducible assumption
        · split
          · rename_i q25 q26 q27 q28
            refine Eq.trans (h12 _ _ _) ?_
            refine upd_key ?_ ?_ ?_
            · exact pair_obs Itvos.fuse q28 (poolWrite_key _ _ _ _ _)
            · rfl
            · refine pair_key q10 ?_
              refine (hwMet_key _ _ _ _ _).trans ?_
              with_reducible assumption
          · refine Eq.trans (h12 _ _ _) ?_
            refine pair_key q10 ?_
            refine (hwMet_key _ _ _ _ _).trans ?_
            with_reducible assumption
          · refine (unmark_key _ _ _).trans ?_
            refine pair_key q10 ?_
            refine (hwMet_key _ _ _ _ _).trans ?_
            with_reducible assumption
theorem itvComplete_key (s : State) (p : Purpose) (status : Nat) (reply : Option Flit) : (itvComplete s p status reply).key = s.key := by
  unfold itvComplete
  split
  · exact mergedDone_key _ _ _
  · exact combinedDone_key _ _ _ _
  · rfl
theorem itvReply_key (s : State) (f : Flit) (k : BitVec 5) : (itvReply s f k).key = s.key := by
  unfold itvReply
  refine ite_key ?_ ?_
  · refine (fromInbox_key _ _ _ _ ?_).trans ?_
    · intro a1
      split
      · rename_i q2 q3 q4 q5
        exact (itvComplete_key _ _ _ _).trans (pair_key q5 (acceptReply_key _ _ _))
      · rename_i q6 q7 q8
        exact pair_key q8 (acceptReply_key _ _ _)
    · rfl
  · rfl
theorem poolLoad_key (s : State) (f : Flit) (c : Carve) (hw : HomeHw) : (poolLoad s f c hw).key = s.key := by
  unfold poolLoad
  extract_lets +onlyGivenNames z1 z2
  clear_value z1
  have h3 : z2.key = s.key := by
    unfold z2
    exact touch_key _ _ _
  clear_value z2
  split
  · rename_i q4 q5 q6 q7
    refine (endHome_key _ _ _).trans ?_
    refine pair_key q7 ?_
    refine (hwMet_key _ _ _ _ _).trans ?_
    with_reducible assumption
  · rename_i q8 q9 q10
    split
    · refine (itvSend_key _ _).trans ?_
      refine pair_key q10 ?_
      refine (hwMet_key _ _ _ _ _).trans ?_
      with_reducible assumption
    · refine (itvSend_key _ _).trans ?_
      refine pair_key q10 ?_
      refine (hwMet_key _ _ _ _ _).trans ?_
      with_reducible assumption
    · refine (unmark_key _ _ _).trans ?_
      refine pair_key q10 ?_
      refine (hwMet_key _ _ _ _ _).trans ?_
      with_reducible assumption
theorem poolMsg_key (s : State) (f : Flit) (k : BitVec 5) : (poolMsg s f k).key = s.key := by
  unfold poolMsg
  refine ite_key ?_ ?_
  · refine (fromInbox_key _ _ _ _ ?_).trans ?_
    · intro a1
      split
      · rename_i q2 q3 q4
        refine ite_key ?_ ?_
        · exact (itvSend_key _ _).trans ((strikeDrop_key _ _).trans (pair_key q4 (arriveFlow_key _ _ _)))
        · exact pair_key q4 (arriveFlow_key _ _ _)
      · rename_i q5 q6 q7 q8
        refine ite_key ?_ ?_
        · exact (itvSend_key _ _).trans ((strikeDrop_key _ _).trans (pair_key q8 (arriveFlow_key _ _ _)))
        · exact (itvSend_key _ _).trans (pair_key q8 (arriveFlow_key _ _ _))
    · rfl
  · rfl
theorem doorAct_key (s : State) (k : Nat) (w : Wardrobe) (f : Flit) (d : Door) : (doorAct s k w f d).1.key = s.key := by
  unfold doorAct
  extract_lets +onlyGivenNames z1
  have h2 : z1.1.key = s.key := by
    unfold z1
    exact mk_fst_key rfl
  clear_value z1
  extract_lets +onlyGivenNames z3
  clear_value z3
  split
  · refine ite_fst_key ?_ ?_
    · with_reducible assumption
    · split
      · rename_i q5 q6 q7 q8 q9
        exact mk_fst_key (pair_key q9 (wardAlloc_key _ _ _ _))
      · rename_i q10 q11 q12
        exact mk_fst_key (pair_key q12 (wardAlloc_key _ _ _ _))
  · extract_lets +onlyGivenNames z14 z15
    clear_value z14 z15
    refine ite_fst_key ?_ ?_
    · with_reducible assumption
    · split
      · with_reducible assumption
      · exact mk_fst_key (upd_key rfl rfl rfl)
      · exact mk_fst_key (bumpWard_key _ _ _ _)
  · refine ite_fst_key ?_ ?_
    · with_reducible assumption
    · split
      · with_reducible assumption
      · exact mk_fst_key (wardFree_key _ _ _ _)
      · exact mk_fst_key (bumpWard_key _ _ _ _)
theorem doorwayReq_key (s : State) (k : Nat) (f : Flit) : (doorwayReq s k f).key = s.key := by
  unfold doorwayReq
  split
  · exact itvSend_key _ _
  · split
    · exact itvSend_key _ _
    · split
      · rename_i q11 q12 q13 q14 q15
        refine (itvSend_key _ _).trans ?_
        refine (keepAtomic_key _ _ _ _ _).trans ?_
        exact pair_key q15 ((doorAct_key _ _ _ _ _).trans (touch_key _ _ _))
theorem poolStore_key (s : State) (f : Flit) (c : Carve) (hw : HomeHw) : (poolStore s f c hw).key = s.key := by
  unfold poolStore
  split
  · extract_lets +onlyGivenNames z6
    have h7 : z6.key = s.key := by
      unfold z6
      exact touch_key _ _ _
    clear_value z6
    split
    · rename_i q8 q9 q10 q11
      refine (endHome_key _ _ _).trans ?_
      refine pair_key q11 ?_
      refine (hwMet_key _ _ _ _ _).trans ?_
      with_reducible assumption
    · rename_i q12 q13 q14
      split
      · rename_i q15 q16 q17 q18
        refine (itvSend_key _ _).trans ?_
        refine upd_key ?_ ?_ ?_
        · exact pair_obs Itvos.fuse q18 (poolWrite_key _ _ _ _ _)
        · rfl
        · refine pair_key q14 ?_
          refine (hwMet_key _ _ _ _ _).trans ?_
          with_reducible assumption
      · refine (itvSend_key _ _).trans ?_
        refine pair_key q14 ?_
        refine (hwMet_key _ _ _ _ _).trans ?_
        with_reducible assumption
      · refine (unmark_key _ _ _).trans ?_
        refine pair_key q14 ?_
        refine (hwMet_key _ _ _ _ _).trans ?_
        with_reducible assumption
theorem poolPerform_key (s : State) (f : Flit) (c : Carve) (hw : HomeHw) : (poolPerform s f c hw).key = s.key := by
  unfold poolPerform
  split
  · exact doorwayReq_key _ _ _
  · refine ite_key ?_ ?_
    · exact poolLoad_key _ _ _ _
    · refine ite_key ?_ ?_
      · exact poolAtomic_key _ _ _ _
      · exact ite_key (poolRmem_key _ _ _ _) (poolStore_key _ _ _ _)
theorem poolDuplicate_key (s : State) (f : Flit) (c : Carve) (hw : HomeHw) : (poolDuplicate s f c hw).key = s.key := by
  unfold poolDuplicate
  exact ite_key (poolPerform_key _ _ _ _) (ite_key (itvSend_key _ _) (itvSend_key _ _))
theorem poolServe_key (s : State) (f : Flit) (hw : HomeHw) : (poolServe s f hw).key = s.key := by
  unfold poolServe
  refine ite_key ?_ ?_
  · exact (itvSend_key _ _).trans (strikeDrop_key _ _)
  · split
    · rename_i q1 q2 q3
      exact pair_key q3 (arriveFlow_key _ _ _)
    · rename_i q4 q5 q6 q7
      refine ite_key ?_ ?_
      · exact (itvSend_key _ _).trans ((strikeDrop_key _ _).trans (pair_key q7 (arriveFlow_key _ _ _)))
      · refine ite_key ?_ ?_
        · exact (itvSend_key _ _).trans (pair_key q7 (arriveFlow_key _ _ _))
        · refine ite_key ?_ ?_
          · split
            · exact (itvSend_key _ _).trans (pair_key q7 (arriveFlow_key _ _ _))
            · exact pair_key q7 (arriveFlow_key _ _ _)
          · split
            · refine ite_key ?_ ?_
              · refine (itvSend_key _ _).trans ?_
                refine ite_key ?_ ?_
                · exact (keepAtomic_key _ _ _ _ _).trans (pair_key q7 (arriveFlow_key _ _ _))
                · exact pair_key q7 (arriveFlow_key _ _ _)
              · refine ite_key ?_ ?_
                · exact (poolPerform_key _ _ _ _).trans (pair_key q7 (arriveFlow_key _ _ _))
                · exact (poolDuplicate_key _ _ _ _).trans (pair_key q7 (arriveFlow_key _ _ _))
theorem fromHome_key (s : State) (f : Flit) (k : BitVec 5) (hw : HomeHw) : (fromHome s f k hw).key = s.key := by
  unfold fromHome
  exact ite_key ((poolServe_key _ _ _).trans (modDir_key _ _)) rfl
theorem doorOp_key (s : State) (f : Flit) (d : Door) : (doorOp s f d).key = s.key := by
  unfold doorOp
  split
  · exact ite_key (fromHome_key _ _ _ _) rfl
  · rfl
theorem poolBulk_key (s : State) (f : Flit) (hw : HomeHw) : (poolBulk s f hw).key = s.key := by
  unfold poolBulk
  refine ite_key ?_ ?_
  · refine (fromInbox_key _ _ _ _ ?_).trans ?_
    · intro a1
      exact poolServe_key _ _ _
    · rfl
  · rfl
theorem freeCacheRefillOp_key (s : State) (w : Fin 17) (pool : Fin 8) : (freeCacheRefillOp s w pool).key = s.key := by
  unfold freeCacheRefillOp
  split
  · exact upd_key rfl rfl rfl
  · rfl

/-! ## CollPost -/

theorem postColl_key (s : State) (ch : Nat) (m : ApronMsg) (entry : Nat) (wire : BitVec 16) : (postColl s ch m entry wire).key = s.key := by
  unfold postColl
  extract_lets +onlyGivenNames z1 z2 z3 z4 z5 z6 z7
  clear_value z1 z2 z3 z4 z5 z6 z7
  exact (respond_key _ _ _ _ _ _).trans (upd_key rfl rfl rfl)
theorem postXlat_key (s : State) (op : AOp) (x : XWait) (r : XRes) : (postXlat s op x r).key = s.key := by
  unfold postXlat
  refine ite_key ?_ ?_
  · rfl
  · extract_lets +onlyGivenNames z1
    have h2 : z1.key = s.key := by
      unfold z1
      exact closeOp_key _ _
    clear_value z1
    split
    · refine (respond_key _ _ _ _ _ _).trans ?_
      refine (xlatFault_key _ _ _ _ _ _).trans ?_
      with_reducible assumption
    · refine ite_key ?_ ?_
      · refine (respond_key _ _ _ _ _ _).trans ?_
        with_reducible assumption
      · split
        · refine (respond_key _ _ _ _ _ _).trans ?_
          with_reducible assumption
        · refine ite_key ?_ ?_
          · refine (respond_key _ _ _ _ _ _).trans ?_
            with_reducible assumption
          · refine (postColl_key _ _ _ _ _).trans ?_
            with_reducible assumption
theorem postPart_key (s : State) (ch : Nat) (m : ApronMsg) : (postPart s ch m).key = s.key := by
  unfold postPart
  split
  · exact ite_key (respond_key _ _ _ _ _ _) ((respond_key _ _ _ _ _ _).trans (modColl_key _ _ _ _))
  · exact respond_key _ _ _ _ _ _
theorem acceptPost_key (s : State) (ch : Nat) (m : ApronMsg) : (acceptPost s ch m).key = s.key := by
  unfold acceptPost
  split
  · exact respond_key _ _ _ _ _ _
  · refine ite_key ?_ ?_
    · exact postPart_key _ _ _
    · refine ite_key ?_ ?_
      · exact respond_key _ _ _ _ _ _
      · extract_lets +onlyGivenNames z6
        clear_value z6
        refine ite_key ?_ ?_
        · exact (respond_key _ _ _ _ _ _).trans (tallyAdd_key _ _ _)
        · refine ite_key ?_ ?_
          · exact respond_key _ _ _ _ _ _
          · split
            · rename_i q7 q8 q9 q10
              extract_lets +onlyGivenNames z11 z12
              clear_value z11 z12
              split
              · rename_i q13 q14 q15 q16
                refine (postXlat_key _ _ _ _).trans ?_
                exact pair_key q16 ((translate_key _ _ _).trans (pair_key q10 (openOp_key _ _ _ _ _)))
              · rename_i q17 q18 q19
                exact pair_key q19 ((translate_key _ _ _).trans (pair_key q10 (openOp_key _ _ _ _ _)))

/-! ## BelugHome -/

theorem answerHere_key (s : State) (f : Flit) (port : Nat) (r : Flit) : (answerHere s f port r).key = s.key := by
  unfold answerHere
  split
  · rfl
  · extract_lets +onlyGivenNames z6
    have h7 : z6.key = s.key := by
      unfold z6
      exact endServing_key _ _ _
    clear_value z6
    refine ite_key ?_ ?_
    · with_reducible assumption
    · refine (blgSend_key _ _ _).trans ?_
      with_reducible assumption
theorem answerNow_key (s : State) (f : Flit) (port : Nat) (status : Nat) : (answerNow s f port status).key = s.key := by
  unfold answerNow
  exact (blgSend_key _ _ _).trans (ite_key (keepAtomic_key _ _ _ _ _) rfl)
theorem serveBulkMsg_key (s : State) (f : Flit) (port : Nat) (fresh : Bool) : (serveBulkMsg s f port fresh).key = s.key := by
  unfold serveBulkMsg
  split
  · exact (unmark_key _ _ _).trans (bumpBC_key _ _)
  · exact ite_key (blgSend_key _ _ _) ((lmemWrite_key _ _ _ _).trans (beginServing_key _ _ _))
theorem pmsgIn_key (s : State) (f : Flit) : (pmsgIn s f).key = s.key := by
  unfold pmsgIn
  exact sendApron_key _ _ _
theorem servePmsg_key (s : State) (f : Flit) (port : Nat) (fresh : Bool) : (servePmsg s f port fresh).key = s.key := by
  unfold servePmsg
  refine ite_key ?_ ?_
  · exact blgSend_key _ _ _
  · exact (blgSend_key _ _ _).trans (ite_key (pmsgIn_key _ _) rfl)
theorem performHere_key (s : State) (f : Flit) (port : Nat) : (performHere s f port).key = s.key := by
  unfold performHere
  refine ite_key ?_ ?_
  · exact upd_key rfl rfl rfl
  · refine ite_key ?_ ?_
    · exact lmemRead_key _ _ _ _
    · refine ite_key ?_ ?_
      · exact lmemAtomic_key _ _ _ _ _ _ _ _
      · refine ite_key ?_ ?_
        · exact (lmemReadLine_key _ _ _).trans (upd_key rfl rfl rfl)
        · refine ite_key ?_ ?_
          · split
            · exact lmemWriteLine_key _ _ _ _ _
          · exact lmemWrite_key _ _ _ _
theorem serveMem_key (s : State) (f : Flit) (port : Nat) (fresh : Bool) (hw : HomeHw) : (serveMem s f port fresh hw).key = s.key := by
  unfold serveMem
  refine ite_key ?_ ?_
  · split
    · exact blgSend_key _ _ _
    · rfl
  · extract_lets +onlyGivenNames z6
    clear_value z6
    refine ite_key ?_ ?_
    · exact answerNow_key _ _ _ _
    · refine ite_key ?_ ?_
      · exact answerNow_key _ _ _ _
      · refine ite_key ?_ ?_
        · exact blgSend_key _ _ _
        · refine ite_key ?_ ?_
          · exact (unmark_key _ _ _).trans (bumpBC_key _ _)
          · exact (performHere_key _ _ _).trans (beginServing_key _ _ _)
theorem seatRequest_key (s : State) (f : Flit) (k : BitVec 5) (hw : HomeHw) : (seatRequest s f k hw).key = s.key := by
  unfold seatRequest
  refine ite_key ?_ ?_
  · rfl
  · split
    · rfl
    · split
      · rename_i q9 q10 q11
        exact pair_key q11 ((arriveFlow_key _ _ _).trans (upd_key rfl rfl rfl))
      · rename_i q12 q13 q14 q15
        refine ite_key ?_ ?_
        · exact pair_key q15 ((arriveFlow_key _ _ _).trans (upd_key rfl rfl rfl))
        · refine ite_key ?_ ?_
          · refine (answerNow_key _ _ _ _).trans ?_
            exact pair_key q15 ((arriveFlow_key _ _ _).trans (upd_key rfl rfl rfl))
          · refine ite_key ?_ ?_
            · refine (serveBulkMsg_key _ _ _ _).trans ?_
              exact pair_key q15 ((arriveFlow_key _ _ _).trans (upd_key rfl rfl rfl))
            · refine ite_key ?_ ?_
              · refine (servePmsg_key _ _ _ _).trans ?_
                exact pair_key q15 ((arriveFlow_key _ _ _).trans (upd_key rfl rfl rfl))
              · refine (serveMem_key _ _ _ _ _).trans ?_
                exact pair_key q15 ((arriveFlow_key _ _ _).trans (upd_key rfl rfl rfl))
theorem resumeXlat_key (s : State) (w : XWait) (r : XRes) : (resumeXlat s w r).key = s.key := by
  unfold resumeXlat
  split
  · exact apronXlat_key _ _ _ _
  · exact sourceXlat_key _ _ _ _ _ _ _
  · exact ite_key (pmsgXlat_key _ _ _ _ _ _) (destXlat_key _ _ _ _ _ _)
  · split
    · rename_i q19 q20 q21 q22
      exact (rangeFrom_key _ _ _ _).trans (pair_key q22 (rangePage_key _ _ _ _))
  · exact postXlat_key _ _ _ _
theorem serveAnswer_key (s : State) (f : Flit) (port : Nat) (bad : Nat) (status : Nat) (data : Bytes) : (serveAnswer s f port bad status data).key = s.key := by
  unfold serveAnswer
  extract_lets +onlyGivenNames z1 z2
  clear_value z1 z2
  refine ite_key ?_ ?_
  · exact upd_key rfl rfl rfl
  · refine ite_key ?_ ?_
    · rfl
    · refine ite_key ?_ ?_
      · exact answerHere_key _ _ _ _
      · refine ite_key ?_ ?_
        · extract_lets +onlyGivenNames z3
          clear_value z3
          exact (answerHere_key _ _ _ _).trans (keepAtomic_key _ _ _ _ _)
        · refine ite_key ?_ ?_
          · extract_lets +onlyGivenNames z4 z5
            clear_value z4
            have h6 : z5.key = s.key := by
              unfold z5
              exact tallyAdd_key _ _ _
            clear_value z5
            refine (answerHere_key _ _ _ _).trans ?_
            refine ite_key ?_ ?_
            · refine (raiseIrq_key _ _).trans ?_
              with_reducible assumption
            · with_reducible assumption
          · exact answerHere_key _ _ _ _
theorem freeLine_key (s : State) (line : Nat) : (freeLine s line).key = s.key := by
  unfold freeLine
  extract_lets +onlyGivenNames z1
  clear_value z1
  refine (foldl_key _ ?_ _ _).trans ?_
  · intro a2 a3
    exact performHere_key _ _ _
  · exact upd_key rfl rfl rfl
theorem rmemReadDone_key (s : State) (f : Flit) (port : Nat) (status : Nat) (line : Bytes) : (rmemReadDone s f port status line).key = s.key := by
  unfold rmemReadDone
  extract_lets +onlyGivenNames z1 z2
  clear_value z1 z2
  exact ite_key ((freeLine_key _ _).trans (answerHere_key _ _ _ _)) (lmemWriteLine_key _ _ _ _ _)
theorem ownRmemReadDone_key (s : State) (op : AOp) (status : Nat) (line : Bytes) : (ownRmemReadDone s op status line).key = s.key := by
  unfold ownRmemReadDone
  exact ite_key ((freeLine_key _ _).trans (endApron_key _ _ _ _ _)) (lmemWriteLine_key _ _ _ _ _)
theorem lmemDone_key (s : State) (why : LFor) (status : Nat) (data : Bytes) : (lmemDone s why status data).key = s.key := by
  unfold lmemDone
  split
  · split
    · rename_i q3 q4 q5 q6
      refine (foldl_key _ ?_ _ _).trans ?_
      · intro a7 a8
        exact resumeXlat_key _ _ _
      · exact pair_key q6 (walkAnswer_key _ _ _ _)
  · exact endApron_key _ _ _ _ _
  · exact partDone_key _ _ _ _ _ _ _
  · exact pieceEnd_key _ _ _ _ _
  · exact serveAnswer_key _ _ _ _ _ _
  · exact rmemReadDone_key _ _ _ _ _
  · exact (freeLine_key _ _).trans (answerHere_key _ _ _ _)
  · exact ownRmemReadDone_key _ _ _ _
  · exact (freeLine_key _ _).trans (endApron_key _ _ _ _ _)
  · rfl
theorem resendTimeoutOp_key (s : State) (side : Side) (node : BitVec 16) (seq : BitVec 20) : (resendTimeoutOp s side node seq).key = s.key := by
  unfold resendTimeoutOp
  split
  · rename_i q1 q2 q3
    exact pair_key q3 (resendOrEnd_key _ _ _ _)
  · rename_i q4 q5 q6 q7
    split
    · exact (itvComplete_key _ _ _ _).trans (pair_key q7 (resendOrEnd_key _ _ _ _))
    · exact (settle_key _).trans ((blgComplete_key _ _ _ _).trans (pair_key q7 (resendOrEnd_key _ _ _ _)))
theorem blgReply_key (s : State) (f : Flit) (k : BitVec 5) : (blgReply s f k).key = s.key := by
  unfold blgReply
  refine ite_key ?_ ?_
  · refine (fromInbox_key _ _ _ _ ?_).trans ?_
    · intro a1
      split
      · rename_i q2 q3 q4 q5
        exact (blgComplete_key _ _ _ _).trans (pair_key q5 (acceptReply_key _ _ _))
      · rename_i q6 q7 q8
        exact pair_key q8 (acceptReply_key _ _ _)
    · rfl
  · rfl
theorem serviceLateOp_key (s : State) (side : Side) (node : BitVec 16) (seq : BitVec 20) : (serviceLateOp s side node seq).key = s.key := by
  unfold serviceLateOp
  split
  · split
    · exact (bumpDel_key _ _).trans (upd_key rfl rfl rfl)
    · rfl
  · extract_lets +onlyGivenNames z9
    clear_value z9
    refine ite_key ?_ ?_
    · exact setInflows_key _ _ _
    · extract_lets +onlyGivenNames z10
      clear_value z10
      split
      · exact modBlgPort_key _ _ _
      · rfl
theorem fwdOp_key (s : State) (f : Flit) : (fwdOp s f).key = s.key := by
  unfold fwdOp
  refine ite_key ?_ ?_
  · refine (settle_key _).trans ?_
    refine (fromInbox_key _ _ _ _ ?_).trans ?_
    · intro a1
      exact applyFwd_key _ _
    · rfl
  · rfl
theorem invOp_key (s : State) (f : Flit) : (invOp s f).key = s.key := by
  unfold invOp
  refine ite_key ?_ ?_
  · refine (settle_key _).trans ?_
    refine (fromInbox_key _ _ _ _ ?_).trans ?_
    · intro a1
      exact applyInv_key _ _
    · rfl
  · rfl
theorem homeWaitTimeoutOp_key (s : State) (node : BitVec 16) (seq : BitVec 20) : (homeWaitTimeoutOp s node seq).key = s.key := by
  unfold homeWaitTimeoutOp
  split
  · rename_i q1 q2 q3
    exact pair_key q3 (waitOrEnd_key _ _ _)
  · rename_i q4 q5 q6 q7
    exact (settle_key _).trans ((blgComplete_key _ _ _ _).trans (pair_key q7 (waitOrEnd_key _ _ _)))
theorem lmemRspOp_key (s : State) (ch : Fin 24) (m : ApronMsg) : (lmemRspOp s ch m).key = s.key := by
  unfold lmemRspOp
  refine ite_key ?_ ?_
  · rfl
  · extract_lets +onlyGivenNames z1
    have h2 : z1.key = s.key := by
      unfold z1
      exact takeWords_key _ _ _
    clear_value z1
    split
    · with_reducible assumption
    · refine (settle_key _).trans ?_
      refine (lmemDone_key _ _ _ _).trans ?_
      refine upd_key rfl rfl ?_
      with_reducible assumption

/-! ## Callboard -/

theorem flushVector_key (s : State) (v : Nat) : (flushVector s v).key = s.key := by
  unfold flushVector
  split
  · rfl
  · exact ite_key ((raiseVector_key _ _).trans (upd_key rfl rfl rfl)) rfl
theorem modMsix_key (s : State) (v : Nat) (f : MsixEntry → MsixEntry) : (modMsix s v f).key = s.key := by
  unfold modMsix
  refine dite_key ?_ ?_
  · intro a1
    exact upd_key rfl rfl rfl
  · intro a2
    rfl
theorem msixUnmaskOp_key (s : State) (v : Fin 16) : (msixUnmaskOp s v).key = s.key := by
  unfold msixUnmaskOp
  exact (flushVector_key _ _).trans (modMsix_key _ _ _)
theorem slotWrite_key (s : State) (n : Nat) (off : Nat) (v : Word) : (slotWrite s n off v).key = s.key := by
  unfold slotWrite
  exact ite_key (upd_key rfl rfl rfl) (modSlot_key _ _ _)
theorem eventCauseWriteOp_key (s : State) (v : Word) : (eventCauseWriteOp s v).key = s.key := by
  unfold eventCauseWriteOp
  extract_lets +onlyGivenNames z1 z2 z3 z4
  clear_value z1 z3
  have h5 : z4.key = s.key := by
    unfold z4
    exact upd_key rfl rfl rfl
  clear_value z4
  refine ite_key ?_ ?_
  · refine (emit_key _ _).trans ?_
    with_reducible assumption
  · with_reducible assumption
theorem bar0Write_key (s : State) (addr : Nat) (v : Word) : (bar0Write s addr v).key = s.key := by
  unfold bar0Write
  extract_lets +onlyGivenNames z1
  clear_value z1
  refine ite_key ?_ ?_
  · extract_lets +onlyGivenNames z2
    clear_value z2
    exact ite_key (modMsix_key _ _ _) ((flushVector_key _ _).trans (modMsix_key _ _ _))
  · refine ite_key ?_ ?_
    · exact eventCauseWriteOp_key _ _
    · exact ite_key (upd_key rfl rfl rfl) (ite_key (slotWrite_key _ _ _ _) rfl)
theorem flrOp_key (s : State) : (flrOp s).key = s.key := by
  unfold flrOp
  exact upd_key rfl rfl rfl
theorem commandTimeoutOp_key (s : State) (n : Fin 8) (applied : Bool) : (commandTimeoutOp s n applied).key = s.key := by
  unfold commandTimeoutOp
  split
  · exact ite_key (completeSlot_key _ _ _) rfl
  · rfl
theorem perstOp_key (s : State) (level : Bool) : (perstOp s level).key = s.key := by
  unfold perstOp
  extract_lets +onlyGivenNames z1 z2 z3
  clear_value z2
  have h4 : z3.key = s.key := by
    unfold z3
    exact upd_key rfl rfl rfl
  clear_value z3
  refine ite_key ?_ ?_
  · with_reducible assumption
  · refine (flrOp_key _).trans ?_
    with_reducible assumption
theorem hwAnswerOp_key (s : State) (n : Fin 8) : (hwAnswerOp s n).key = s.key := by
  unfold hwAnswerOp
  extract_lets +onlyGivenNames z1 z2 z3
  clear_value z1 z2 z3
  refine ite_key ?_ ?_
  · extract_lets +onlyGivenNames z4
    have h5 : z4.key = s.key := by
      unfold z4
      exact modSlot_key _ _ _
    clear_value z4
    refine (completeSlot_key _ _ _).trans ?_
    with_reducible assumption
  · rfl
theorem cxlLinkUpOp_key (s : State) (rate : Nat) (width : Nat) : (cxlLinkUpOp s rate width).key = s.key := by
  unfold cxlLinkUpOp
  extract_lets +onlyGivenNames z1 z2 z3
  clear_value z2
  have h4 : z3.key = s.key := by
    unfold z3
    exact upd_key rfl rfl rfl
  clear_value z3
  refine (foldl_key _ ?_ _ _).trans ?_
  · intro a5 a6
    exact flushVector_key _ _
  · with_reducible assumption
theorem mirrorRefreshOp_key (s : State) : (mirrorRefreshOp s).key = s.key := by
  unfold mirrorRefreshOp
  exact ite_key (upd_key rfl rfl rfl) rfl
theorem cxlMailboxOp_key (s : State) (op : Nat) (input : Bytes) : (cxlMailboxOp s op input).key = s.key := by
  unfold cxlMailboxOp
  exact emit_key _ _
theorem unknownCommandOp_key (s : State) (n : Fin 8) : (unknownCommandOp s n).key = s.key := by
  unfold unknownCommandOp
  exact ite_key ((completeSlot_key _ _ _).trans (acceptSlot_key _ _)) rfl
theorem cxlLinkDownOp_key (s : State) : (cxlLinkDownOp s).key = s.key := by
  unfold cxlLinkDownOp
  exact upd_key rfl rfl rfl

end Sys2Proof.Machine
end

