-- ==== Sys2Proof/Laws/KeepE.lean ====
section
/-! SUPPORT. What every operation leaves alone (Laws/Keep.lean): the operations of BelugRegs, BelugRows, Rehearsal, ChartOps, Chorus, ChorusCheck, CmdPool, CmdColl, CmdLinks, PoolMem. -/

namespace Sys2Proof.Machine

open Sys2Proof

/-! ## BelugRegs -/

theorem bpResetOp_key (s : State) (p : Fin 24) : (bpResetOp s p).key = s.key := by
  unfold bpResetOp
  exact (modPort_key _ _ _).trans (moveTo_key _ _ _ _)
theorem startWaitEndOp_key (s : State) : (startWaitEndOp s).key = s.key := by
  unfold startWaitEndOp
  refine ite_key ?_ ?_
  · extract_lets +onlyGivenNames z1
    clear_value z1
    exact (sendWaiting_key _).trans (upd_key rfl rfl rfl)
  · rfl
theorem noteAlert_key (s0 : State) (s : State) : (noteAlert s0 s).key = s.key := by
  unfold noteAlert
  exact ite_key rfl (emit_key _ _)
theorem intCauseWriteOp_key (s : State) (v : Word) : (intCauseWriteOp s v).key = s.key := by
  unfold intCauseWriteOp
  exact (noteAlert_key _ _).trans (upd_key rfl rfl rfl)
theorem resetBelug_key (b : Belug) (now : Nat) : (resetBelug b now).fuse = b.fuse := by
  unfold resetBelug
  rfl
theorem belugResetOp_key (s : State) : (belugResetOp s).key = s.key := by
  unfold belugResetOp
  exact (noteAlert_key _ _).trans (upd_key rfl rfl rfl)
theorem resetCtlOp_key (s : State) (v : Word) : (resetCtlOp s v).key = s.key := by
  unfold resetCtlOp
  extract_lets +onlyGivenNames z1
  clear_value z1
  split
  · exact stagehandResetOp_key _ _
  · refine dite_key ?_ ?_
    · intro a6
      exact bpResetOp_key _ _
    · intro a7
      rfl
  · exact belugResetOp_key _
  · rfl
theorem homeMapWriteOp_key (s : State) (k : Nat) (v : Word) : (homeMapWriteOp s k v).key = s.key := by
  unfold homeMapWriteOp
  exact upd_key rfl rfl rfl
theorem vcWeightWriteOp_key (s : State) (v : Word) : (vcWeightWriteOp s v).key = s.key := by
  unfold vcWeightWriteOp
  extract_lets +onlyGivenNames z1
  clear_value z1
  exact ite_key (bumpBC_key _ _) (upd_key rfl rfl rfl)
theorem e2eWriteOp_key (s : State) (v : Word) : (e2eWriteOp s v).key = s.key := by
  unfold e2eWriteOp
  extract_lets +onlyGivenNames z1
  clear_value z1
  exact ite_key (upd_key rfl rfl rfl) (bumpBC_key _ _)
theorem invSlotWrite_key (s : State) (n : Fin 4) (off : Nat) (v : Word) : (invSlotWrite s n off v).key = s.key := by
  unfold invSlotWrite
  exact ite_key rfl (modInvSlot_key _ _ _)
theorem xlatWrite_key (s : State) (a : Nat) (v : Word) : (xlatWrite s a v).key = s.key := by
  unfold xlatWrite
  refine ite_key ?_ ?_
  · exact upd_key rfl rfl rfl
  · refine ite_key ?_ ?_
    · exact upd_key rfl rfl rfl
    · refine ite_key ?_ ?_
      · exact upd_key rfl rfl rfl
      · refine ite_key ?_ ?_
        · exact upd_key rfl rfl rfl
        · refine ite_key ?_ ?_
          · exact upd_key rfl rfl rfl
          · refine ite_key ?_ ?_
            · exact upd_key rfl rfl rfl
            · refine dite_key ?_ ?_
              · intro a1
                exact invSlotWrite_key _ _ _ _
              · intro a2
                rfl
theorem groupTableWriteOp_key (s : State) (g : Nat) (word : Nat) (v : Word) : (groupTableWriteOp s g word v).key = s.key := by
  unfold groupTableWriteOp
  extract_lets +onlyGivenNames z1 z2
  have h3 : z2.key = s.key := by
    unfold z2
    exact upd_key rfl rfl rfl
  clear_value z2
  refine upd_key rfl rfl ?_
  with_reducible assumption
theorem tallyWriteOp_key (s : State) (t : Nat) (v : Word) : (tallyWriteOp s t v).key = s.key := by
  unfold tallyWriteOp
  exact (tallyWaits_key _ _).trans (upd_key rfl rfl rfl)
theorem cfgWrite_key (s : State) (a : Nat) (v : Word) : (cfgWrite s a v).key = s.key := by
  unfold cfgWrite
  refine ite_key ?_ ?_
  · exact intCauseWriteOp_key _ _
  · refine ite_key ?_ ?_
    · exact (noteAlert_key _ _).trans (upd_key rfl rfl rfl)
    · refine ite_key ?_ ?_
      · exact upd_key rfl rfl rfl
      · refine ite_key ?_ ?_
        · exact resetCtlOp_key _ _
        · refine ite_key ?_ ?_
          · exact homeMapWriteOp_key _ _ _
          · refine ite_key ?_ ?_
            · exact vcWeightWriteOp_key _ _
            · refine ite_key ?_ ?_
              · exact e2eWriteOp_key _ _
              · refine ite_key ?_ ?_
                · exact upd_key rfl rfl rfl
                · refine ite_key ?_ ?_
                  · exact upd_key rfl rfl rfl
                  · refine ite_key ?_ ?_
                    · exact xlatWrite_key _ _ _
                    · refine ite_key ?_ ?_
                      · exact groupTableWriteOp_key _ _ _ _
                      · exact ite_key (upd_key rfl rfl rfl) (ite_key (tallyWriteOp_key _ _ _) rfl)
theorem cfgMessage_key (s : State) (ch : Nat) (tag : BitVec 16) (a : Nat) (v : Word) : (cfgMessage s ch tag a v).key = s.key := by
  unfold cfgMessage
  refine ite_key ?_ ?_
  · rfl
  · extract_lets +onlyGivenNames z1 z2
    clear_value z1
    have h3 : z2.key = s.key := by
      unfold z2
      exact takeWords_key _ _ _
    clear_value z2
    refine ite_key ?_ ?_
    · refine (respond_key _ _ _ _ _ _).trans ?_
      with_reducible assumption
    · refine ite_key ?_ ?_
      · refine (belugResetOp_key _).trans ?_
        with_reducible assumption
      · refine (settle_key _).trans ?_
        refine (respond_key _ _ _ _ _ _).trans ?_
        refine (cfgWrite_key _ _ _).trans ?_
        with_reducible assumption
theorem registerWriteOp_key (s : State) (w : RegWrite) : (registerWriteOp s w).key = s.key := by
  unfold registerWriteOp
  split
  · exact bar0Write_key _ _ _
  · exact cfgMessage_key _ _ _ _ _
  · exact upd_key rfl rfl rfl

/-! ## BelugRows -/

theorem channelDown_key (s : State) (ch : Nat) : (channelDown s ch).key = s.key := by
  unfold channelDown
  extract_lets +onlyGivenNames z1
  have h2 : z1.key = s.key := by
    unfold z1
    exact modCh_key _ _ _
  clear_value z1
  extract_lets +onlyGivenNames z3
  clear_value z3
  refine (foldl_key _ ?_ _ _).trans ?_
  · intro a4 a5
    extract_lets +onlyGivenNames z6
    clear_value z6
    exact (sendApron_key _ _ _).trans (upd_key rfl rfl rfl)
  · with_reducible assumption
theorem replay_key (s : State) (ch : Nat) : (replay s ch).key = s.key := by
  unfold replay
  extract_lets +onlyGivenNames z1
  have h2 : z1.key = s.key := by
    unfold z1
    exact modCh_key _ _ _
  clear_value z1
  refine ite_key ?_ ?_
  · with_reducible assumption
  · refine (emit_key _ _).trans ?_
    with_reducible assumption
theorem principalTokenOp_key (s : State) (p : Fin 24) : (principalTokenOp s p).key = s.key := by
  unfold principalTokenOp
  extract_lets +onlyGivenNames z1
  clear_value z1
  split
  · exact setPort_key _ _ _
theorem tallyWaitTimeoutOp_key (s : State) (i : Nat) : (tallyWaitTimeoutOp s i).key = s.key := by
  unfold tallyWaitTimeoutOp
  split
  · exact ite_key ((rspData_key _ _ _ _ _ _).trans (upd_key rfl rfl rfl)) rfl
  · rfl
theorem apronRetryOp_key (s : State) (ch : Nat) : (apronRetryOp s ch).key = s.key := by
  unfold apronRetryOp
  extract_lets +onlyGivenNames z1
  clear_value z1
  refine ite_key ?_ ?_
  · rfl
  · extract_lets +onlyGivenNames z2
    have h3 : z2.key = s.key := by
      unfold z2
      exact modCh_key _ _ _
    clear_value z2
    refine ite_key ?_ ?_
    · refine (replay_key _ _).trans ?_
      with_reducible assumption
    · refine (modCh_key _ _ _).trans ?_
      with_reducible assumption
theorem apronCrcErrorOp_key (s : State) (ch : Nat) (word : Bytes) (ctl : BitVec 24) : (apronCrcErrorOp s ch word ctl).key = s.key := by
  unfold apronCrcErrorOp
  extract_lets +onlyGivenNames z1
  clear_value z1
  refine ite_key ?_ ?_
  · rfl
  · extract_lets +onlyGivenNames z2
    have h3 : z2.key = s.key := by
      unfold z2
      exact bumpB_key _ _ _
    clear_value z2
    refine ite_key ?_ ?_
    · with_reducible assumption
    · refine (emit_key _ _).trans ?_
      refine (modCh_key _ _ _).trans ?_
      with_reducible assumption
theorem apronReplayTimeoutOp_key (s : State) (ch : Nat) : (apronReplayTimeoutOp s ch).key = s.key := by
  unfold apronReplayTimeoutOp
  extract_lets +onlyGivenNames z1
  clear_value z1
  exact ite_key (replay_key _ _) rfl
theorem apronAckOp_key (s : State) (ch : Nat) : (apronAckOp s ch).key = s.key := by
  unfold apronAckOp
  exact modCh_key _ _ _
theorem tallyReadMsg_key (s : State) (ch : Nat) (m : ApronMsg) : (tallyReadMsg s ch m).key = s.key := by
  unfold tallyReadMsg
  extract_lets +onlyGivenNames z1 z2 z3
  clear_value z1 z2 z3
  refine ite_key ?_ ?_
  · exact respond_key _ _ _ _ _ _
  · exact ite_key (respond_key _ _ _ _ _ _) (upd_key rfl rfl rfl)
theorem apronRetrainOp_key (s : State) (ch : Nat) (ok : Bool) : (apronRetrainOp s ch ok).key = s.key := by
  unfold apronRetrainOp
  extract_lets +onlyGivenNames z1
  clear_value z1
  refine ite_key ?_ ?_
  · rfl
  · extract_lets +onlyGivenNames z2
    have h3 : z2.key = s.key := by
      unfold z2
      exact (raiseIrq_key _ _).trans (bumpB_key _ _ _)
    clear_value z2
    refine ite_key ?_ ?_
    · refine (replay_key _ _).trans ?_
      refine (modCh_key _ _ _).trans ?_
      with_reducible assumption
    · refine ite_key ?_ ?_
      · refine (modCh_key _ _ _).trans ?_
        with_reducible assumption
      · refine (channelDown_key _ _).trans ?_
        with_reducible assumption

/-! ## Rehearsal -/

theorem whenever_key (c : Bool) (s : State) (f : State → State) (hf : ∀ v0, (f v0).key = v0.key) : (whenever c s f).key = s.key := by
  unfold whenever
  exact ite_key (hf _) rfl
theorem tuneDoneOp_key (s : State) (r : PortRef) : (tuneDoneOp s r).key = s.key := by
  unfold tuneDoneOp
  refine (whenever_key _ _ _ ?_).trans ?_
  · intro a1
    exact setSt_key _ _ _ _
  · rfl
theorem shortProbeOp_key (s : State) (r : PortRef) (lane : Fin 9) (still : Bool) : (shortProbeOp s r lane still).key = s.key := by
  unfold shortProbeOp
  exact modPort_key _ _ _
theorem modeChoice_key (s : State) (r : PortRef) (o : Offer) : (modeChoice s r o).key = s.key := by
  unfold modeChoice
  extract_lets +onlyGivenNames z1 z2 z3 z4 z5 z6 z7
  clear_value z1 z2 z3 z4 z5 z6 z7
  refine ite_key ?_ ?_
  · exact failTo_key _ _ _ _
  · split
    · extract_lets +onlyGivenNames z14
      clear_value z14
      split
      · extract_lets +onlyGivenNames z21 z22
        clear_value z21
        have h23 : z22.key = s.key := by
          unfold z22
          exact modPort_key _ _ _
        clear_value z22
        split
        · refine ite_key ?_ ?_
          · refine (sendOffer_key _ _).trans ?_
            refine (setSt_key _ _ _ _).trans ?_
            refine (modPort_key _ _ _).trans ?_
            with_reducible assumption
          · refine (setSt_key _ _ _ _).trans ?_
            with_reducible assumption
        · refine (setSt_key _ _ _ _).trans ?_
          with_reducible assumption
      · exact failTo_key _ _ _ _
    · exact failTo_key _ _ _ _
theorem holdPort_key (s : State) (r : PortRef) (why : Reason) : (holdPort s r why).key = s.key := by
  unfold holdPort
  exact (sendOffer_key _ _).trans ((setSt_key _ _ _ _).trans (modPort_key _ _ _))
theorem laneRetired_key (s : State) (u1 : PortRef) : (laneRetired s u1).key = s.key := by
  unfold laneRetired
  split
  · exact raiseEvent_key _ _
  · exact raiseIrq_key _ _
theorem refit_key (s : State) (r : PortRef) (rate : Nat) : (refit s r rate).key = s.key := by
  unfold refit
  extract_lets +onlyGivenNames z1
  clear_value z1
  split
  · exact (setSt_key _ _ _ _).trans (modPort_key _ _ _)
  · exact failTo_key _ _ _ _
theorem dressOp_key (s : State) (r : PortRef) (own : DressObs) (other : DressObs) : (dressOp s r own other).key = s.key := by
  unfold dressOp
  extract_lets +onlyGivenNames z1
  clear_value z1
  refine (whenever_key _ _ _ ?_).trans ?_
  · intro a2
    extract_lets +onlyGivenNames z3 z4
    clear_value z3 z4
    refine ite_key ?_ ?_
    · exact enterReady_key _ _
    · extract_lets +onlyGivenNames z5 z6 z7 z8
      clear_value z5 z6 z7
      have h9 : z8.key = a2.key := by
        unfold z8
        split
        · exact (laneRetired_key _ _).trans (modPort_key _ _ _)
        · rfl
      clear_value z8
      extract_lets +onlyGivenNames z16
      have h17 : z16.key = a2.key := by
        unfold z16
        split
        · refine (modPort_key _ _ _).trans ?_
          with_reducible assumption
        · with_reducible assumption
      clear_value z16
      refine ite_key ?_ ?_
      · split
        · refine (refit_key _ _ _).trans ?_
          with_reducible assumption
        · refine (failTo_key _ _ _ _).trans ?_
          with_reducible assumption
      · refine (refit_key _ _ _).trans ?_
        with_reducible assumption
  · rfl
theorem shiftOp_key (s : State) (r : PortRef) : (shiftOp s r).key = s.key := by
  unfold shiftOp
  refine (whenever_key _ _ _ ?_).trans ?_
  · intro a1
    exact setSt_key _ _ _ _
  · rfl
theorem detectOp_key (s : State) (r : PortRef) (o : DetectObs) : (detectOp s r o).key = s.key := by
  unfold detectOp
  refine (whenever_key _ _ _ ?_).trans ?_
  · intro a1
    refine ite_key ?_ ?_
    · exact (failTo_key _ _ _ _).trans (modPort_key _ _ _)
    · extract_lets +onlyGivenNames z2 z3
      clear_value z2
      have h4 : z3.key = a1.key := by
        unfold z3
        exact modPort_key _ _ _
      clear_value z3
      refine (setSt_key _ _ _ _).trans ?_
      with_reducible assumption
  · rfl
theorem namesSettle_key (s : State) (r : PortRef) : (namesSettle s r).key = s.key := by
  unfold namesSettle
  extract_lets +onlyGivenNames z1 z2
  clear_value z1 z2
  refine ite_key ?_ ?_
  · exact setSt_key _ _ _ _
  · refine ite_key ?_ ?_
    · exact setSt_key _ _ _ _
    · exact ite_key (setSt_key _ _ _ _) (ite_key (setSt_key _ _ _ _) rfl)
theorem acceptOffer_key (s : State) (r : PortRef) (o : Offer) : (acceptOffer s r o).key = s.key := by
  unfold acceptOffer
  extract_lets +onlyGivenNames z1 z2
  clear_value z1
  have h3 : z2.key = s.key := by
    unfold z2
    exact modPort_key _ _ _
  clear_value z2
  refine ite_key ?_ ?_
  · extract_lets +onlyGivenNames z4
    have h5 : z4.key = s.key := by
      unfold z4
      refine ite_key ?_ ?_
      · with_reducible assumption
      · refine (sendOffer_key _ _).trans ?_
        refine (modPort_key _ _ _).trans ?_
        with_reducible assumption
    clear_value z4
    refine ite_key ?_ ?_
    · refine (modeChoice_key _ _ _).trans ?_
      refine (modPort_key _ _ _).trans ?_
      with_reducible assumption
    · with_reducible assumption
  · refine (namesSettle_key _ _).trans ?_
    with_reducible assumption
theorem clockOp_key (s : State) (r : PortRef) (o : ClockObs) : (clockOp s r o).key = s.key := by
  unfold clockOp
  extract_lets +onlyGivenNames z1
  clear_value z1
  refine (whenever_key _ _ _ ?_).trans ?_
  · intro a2
    extract_lets +onlyGivenNames z3 z4 z5
    clear_value z3 z4
    have h6 : z5.key = a2.key := by
      unfold z5
      exact modPort_key _ _ _
    clear_value z5
    refine ite_key ?_ ?_
    · refine (failTo_key _ _ _ _).trans ?_
      with_reducible assumption
    · refine (setSt_key _ _ _ _).trans ?_
      with_reducible assumption
  · rfl
theorem runningMonitorOp_key (s : State) (r : PortRef) (o : DressObs) : (runningMonitorOp s r o).key = s.key := by
  unfold runningMonitorOp
  extract_lets +onlyGivenNames z1
  clear_value z1
  refine (whenever_key _ _ _ ?_).trans ?_
  · intro a2
    split
    · extract_lets +onlyGivenNames z6
      have h7 : z6.key = a2.key := by
        unfold z6
        exact (realign_key _ _ _).trans (laneRetired_key _ _)
      clear_value z6
      refine (modPort_key _ _ _).trans ?_
      with_reducible assumption
    · split
      · exact realign_key _ _ _
      · exact failTo_key _ _ _ _
  · rfl
theorem offerFrameOp_key (s : State) (r : PortRef) (frame : Bytes) : (offerFrameOp s r frame).key = s.key := by
  unfold offerFrameOp
  extract_lets +onlyGivenNames z1
  clear_value z1
  refine (whenever_key _ _ _ ?_).trans ?_
  · intro a2
    refine ite_key ?_ ?_
    · exact modPort_key _ _ _
    · extract_lets +onlyGivenNames z3 z4
      clear_value z3
      have h5 : z4.key = a2.key := by
        unfold z4
        exact modPort_key _ _ _
      clear_value z4
      refine ite_key ?_ ?_
      · refine (acceptOffer_key _ _ _).trans ?_
        with_reducible assumption
      · with_reducible assumption
  · rfl
theorem passNames_key (s : State) (r : PortRef) : (passNames s r).key = s.key := by
  unfold passNames
  exact (namesSettle_key _ _).trans ((sendOffer_key _ _).trans (modPort_key _ _ _))
theorem adopt_key (b : Belug) (o : Offer) : (adopt b o).fuse = b.fuse := by
  unfold adopt
  rfl
theorem namesOp_key (s : State) (r : PortRef) : (namesOp s r).key = s.key := by
  unfold namesOp
  extract_lets +onlyGivenNames z1
  clear_value z1
  split
  · rfl
  · refine (whenever_key _ _ _ ?_).trans ?_
    · intro a7
      split
      · refine ite_key ?_ ?_
        · exact holdPort_key _ _ _
        · exact ite_key ((passNames_key _ _).trans (namesHook_key _ _ _)) (holdPort_key _ _ _)
      · refine ite_key ?_ ?_
        · exact holdPort_key _ _ _
        · split
          · exact (passNames_key _ _).trans (upd_key rfl rfl rfl)
          · exact ite_key (passNames_key _ _) (holdPort_key _ _ _)
    · rfl
theorem clockLossOp_key (s : State) (r : PortRef) : (clockLossOp s r).key = s.key := by
  unfold clockLossOp
  extract_lets +onlyGivenNames z1
  clear_value z1
  split
  · refine ite_key ?_ ?_
    · rfl
    · extract_lets +onlyGivenNames z4
      have h5 : z4.key = s.key := by
        unfold z4
        exact bumpPort_key _ _ _ _
      clear_value z4
      refine ite_key ?_ ?_
      · refine (leaveReady_key _ _ _ _).trans ?_
        with_reducible assumption
      · refine (modPort_key _ _ _).trans ?_
        with_reducible assumption
  · exact setSt_key _ _ _ _
  · exact failTo_key _ _ _ _
  · exact failTo_key _ _ _ _
  · exact failTo_key _ _ _ _
  · exact failTo_key _ _ _ _
  · exact failTo_key _ _ _ _
  · exact failTo_key _ _ _ _
  · rfl
theorem portRetryOp_key (s : State) (r : PortRef) : (portRetryOp s r).key = s.key := by
  unfold portRetryOp
  extract_lets +onlyGivenNames z1
  clear_value z1
  refine (whenever_key _ _ _ ?_).trans ?_
  · intro a2
    exact (setSt_key _ _ _ _).trans (modPort_key _ _ _)
  · rfl
theorem tuneTimeoutOp_key (s : State) (r : PortRef) : (tuneTimeoutOp s r).key = s.key := by
  unfold tuneTimeoutOp
  extract_lets +onlyGivenNames z1
  clear_value z1
  refine (whenever_key _ _ _ ?_).trans ?_
  · intro a2
    exact setSt_key _ _ _ _
  · rfl
theorem setRef_key (s : State) (d : Side) (a : Bool) (b : Bool) (use : Bool) (both : Option Nat) : (setRef s d a b use both).key = s.key := by
  unfold setRef
  split
  · exact upd_key rfl rfl rfl
  · exact upd_key rfl rfl rfl
theorem refclkLossOp_key (s0 : State) (d : Side) (inputB : Bool) : (refclkLossOp s0 d inputB).key = s0.key := by
  unfold refclkLossOp
  split
  · extract_lets +onlyGivenNames z7 z8 z9 z10
    clear_value z7 z8 z9
    have h11 : z10.key = s0.key := by
      unfold z10
      exact setRef_key _ _ _ _ _ _
    clear_value z10
    split
    · extract_lets +onlyGivenNames z13 z14
      clear_value z13
      have h15 : z14.key = s0.key := by
        unfold z14
        refine ite_key ?_ ?_
        · refine (bump_key _ _ _).trans ?_
          with_reducible assumption
        · with_reducible assumption
      clear_value z14
      refine (noteState_key _ _).trans ?_
      with_reducible assumption
    · with_reducible assumption
theorem tapRequestOp_key (s : State) (r : PortRef) (lane : Fin 9) (pre : BitVec 2) (post : BitVec 2) : (tapRequestOp s r lane pre post).key = s.key := by
  unfold tapRequestOp
  extract_lets +onlyGivenNames z1
  clear_value z1
  refine (whenever_key _ _ _ ?_).trans ?_
  · intro a2
    extract_lets +onlyGivenNames z3 z4 z5
    clear_value z3 z4 z5
    exact (emit_key _ _).trans (modPort_key _ _ _)
  · rfl
theorem rehearsalTimeoutOp_key (s : State) (r : PortRef) : (rehearsalTimeoutOp s r).key = s.key := by
  unfold rehearsalTimeoutOp
  extract_lets +onlyGivenNames z1
  clear_value z1
  split
  · refine (whenever_key _ _ _ ?_).trans ?_
    · intro a5
      exact failTo_key _ _ _ _
    · rfl
  · rfl
theorem alignOp_key (s : State) (r : PortRef) (o : AlignObs) : (alignOp s r o).key = s.key := by
  unfold alignOp
  extract_lets +onlyGivenNames z1
  clear_value z1
  refine (whenever_key _ _ _ ?_).trans ?_
  · intro a2
    extract_lets +onlyGivenNames z3 z4 z5
    clear_value z3 z4 z5
    refine ite_key ?_ ?_
    · exact failTo_key _ _ _ _
    · extract_lets +onlyGivenNames z6 z7 z8
      clear_value z6 z7
      have h9 : z8.key = a2.key := by
        unfold z8
        exact modPort_key _ _ _
      clear_value z8
      extract_lets +onlyGivenNames z10
      have h11 : z10.key = a2.key := by
        unfold z10
        refine (setSt_key _ _ _ _).trans ?_
        with_reducible assumption
      clear_value z10
      refine (sendOffer_key _ _).trans ?_
      with_reducible assumption
  · rfl
theorem refclkHoldoverEndOp_key (s : State) (d : Side) : (refclkHoldoverEndOp s d).key = s.key := by
  unfold refclkHoldoverEndOp
  split
  · rfl
  · refine (whenever_key _ _ _ ?_).trans ?_
    · intro a6
      refine (foldl_key _ ?_ _ _).trans ?_
      · intro a7 a8
        exact ite_key (moveTo_key _ _ _ _) rfl
      · rfl
    · rfl
theorem phaseRecentreOp_key (s : State) (r : PortRef) (steps : List ℤ) : (phaseRecentreOp s r steps).key = s.key := by
  unfold phaseRecentreOp
  refine (whenever_key _ _ _ ?_).trans ?_
  · intro a1
    exact modPort_key _ _ _
  · rfl
theorem refclkReturnOp_key (s0 : State) (d : Side) (inputB : Bool) : (refclkReturnOp s0 d inputB).key = s0.key := by
  unfold refclkReturnOp
  split
  · extract_lets +onlyGivenNames z7 z8 z9
    clear_value z7 z8
    have h10 : z9.key = s0.key := by
      unfold z9
      exact setRef_key _ _ _ _ _ _
    clear_value z9
    extract_lets +onlyGivenNames z11
    have h12 : z11.key = s0.key := by
      unfold z11
      refine ite_key ?_ ?_
      · refine (foldl_key _ ?_ _ _).trans ?_
        · intro a13 a14
          extract_lets +onlyGivenNames z15
          clear_value z15
          exact ite_key ((modPort_key _ _ _).trans (setSt_key _ _ _ _)) rfl
        · with_reducible assumption
      · with_reducible assumption
    clear_value z11
    split
    · refine (noteState_key _ _).trans ?_
      with_reducible assumption
    · with_reducible assumption
theorem standinTimeoutOp_key (s : State) (r : PortRef) : (standinTimeoutOp s r).key = s.key := by
  unfold standinTimeoutOp
  extract_lets +onlyGivenNames z1
  clear_value z1
  refine (whenever_key _ _ _ ?_).trans ?_
  · intro a2
    exact leaveReady_key _ _ _ _
  · rfl

/-! ## ChartOps -/

theorem rejudge_key (s : State) (n : Nat) : (rejudge s n).1.key = s.key := by
  unfold rejudge
  extract_lets +onlyGivenNames z1
  clear_value z1
  split
  · exact mk_fst_key rfl
  · split
    · refine ite_fst_key ?_ ?_
      · exact mk_fst_key ((setSt_key _ _ _ _).trans (modPort_key _ _ _))
      · exact mk_fst_key rfl
    · split
      · refine ite_fst_key ?_ ?_
        · exact mk_fst_key rfl
        · exact mk_fst_key ((modPort_key _ _ _).trans (leaveReady_key _ _ _ _))
      · exact mk_fst_key rfl
    · exact mk_fst_key rfl
theorem rejudgeAll_key (s : State) : (rejudgeAll s).1.key = s.key := by
  unfold rejudgeAll
  generalize List.range 72 = xs
  suffices h : ∀ (xs : List Nat) (a : State × Nat × Nat), (xs.foldl (fun (acc : State × Nat × Nat) n =>
      let (s, good, bad) := rejudge acc.1 n
      (s, acc.2.1 + b2n good, acc.2.2 + b2n bad)) a).1.key = a.1.key from h xs (s, 0, 0)
  intro xs
  induction xs with
  | nil => intro a; rfl
  | cons x xs ih => intro a; rw [List.foldl_cons, ih]; exact rejudge_key _ _
theorem rootOnChart_key (s : State) : (rootOnChart s).key = s.key := by
  unfold rootOnChart
  refine ite_key ?_ ?_
  · exact ite_key (takeRoot_key _) rfl
  · exact ite_key ((reparent_key _ _).trans (upd_key rfl rfl rfl)) rfl
theorem applyChart_key (s : State) (c : Chart) : (applyChart s c).key = s.key := by
  unfold applyChart
  extract_lets +onlyGivenNames z1 z2 z3 z4 z5 z6
  clear_value z1 z2 z3 z5
  have h7 : z6.key = s.key := by
    unfold z6
    exact upd_key rfl rfl rfl
  clear_value z6
  refine ite_key ?_ ?_
  · refine (ringRecord_key _ _ _).trans ?_
    with_reducible assumption
  · with_reducible assumption

/-! ## Chorus -/

theorem modBuf_key (s : State) (g : Nat) (q : Nat) (c : Nat) (f : StateBuf → StateBuf) : (modBuf s g q c f).key = s.key := by
  unfold modBuf
  exact upd_key rfl rfl rfl
theorem modCore_key (s : State) (i : Nat) (f : ChorusCore → ChorusCore) : (modCore s i f).key = s.key := by
  unfold modCore
  exact upd_key rfl rfl rfl
theorem startEntry_key (s : State) (b : StateBuf) (c : Cast) (e : CueEntry) (fin : Bool) (rank : Nat) (valid : Nat) (f0 : Bytes) : (startEntry s b c e fin rank valid f0).key = s.key := by
  unfold startEntry
  extract_lets +onlyGivenNames z1 z2
  clear_value z1 z2
  exact modCore_key _ _ _
theorem mergeOp_key (s : State) (f : Flit) : (mergeOp s f).key = s.key := by
  unfold mergeOp
  split
  · rfl
  · split
    · split
      · rfl
      · extract_lets +onlyGivenNames z17 z18 z19
        clear_value z17 z18 z19
        refine ite_key ?_ ?_
        · rfl
        · extract_lets +onlyGivenNames z20
          have h21 : z20.key = s.key := by
            unfold z20
            split
            · exact wardFree_key _ _ _ _
            · rfl
          clear_value z20
          extract_lets +onlyGivenNames z27
          have h28 : z27.key = s.key := by
            unfold z27
            refine (modBuf_key _ _ _ _ _).trans ?_
            with_reducible assumption
          clear_value z27
          refine (startEntry_key _ _ _ _ _ _ _ _).trans ?_
          with_reducible assumption
    · rfl
theorem endEntryOn_key (s : State) (i : Nat) : (endEntryOn s i).key = s.key := by
  unfold endEntryOn
  extract_lets +onlyGivenNames z1 z2
  clear_value z1
  have h3 : z2.key = s.key := by
    unfold z2
    exact modCore_key _ _ _
  clear_value z2
  refine ite_key ?_ ?_
  · refine (modCore_key _ _ _).trans ?_
    with_reducible assumption
  · refine ite_key ?_ ?_
    · refine (advanceStripe_key _ _ _ _).trans ?_
      refine (modBuf_key _ _ _ _ _).trans ?_
      with_reducible assumption
    · refine (modBuf_key _ _ _ _ _).trans ?_
      with_reducible assumption
theorem chorusWordOp_key (s : State) (i : Nat) (fault : Bool) : (chorusWordOp s i fault).key = s.key := by
  unfold chorusWordOp
  extract_lets +onlyGivenNames z1
  clear_value z1
  refine ite_key ?_ ?_
  · rfl
  · extract_lets +onlyGivenNames z2 z3 z4
    clear_value z2 z3 z4
    refine ite_key ?_ ?_
    · exact (clusterFault_key _ _ _ _).trans (modCore_key _ _ _)
    · split
      · extract_lets +onlyGivenNames z10
        have h11 : z10.key = s.key := by
          unfold z10
          exact upd_key rfl rfl rfl
        clear_value z10
        extract_lets +onlyGivenNames z12
        have h13 : z12.key = s.key := by
          unfold z12
          refine (modCore_key _ _ _).trans ?_
          with_reducible assumption
        clear_value z12
        extract_lets +onlyGivenNames z14
        have h15 : z14.key = s.key := by
          unfold z14
          refine ite_key ?_ ?_
          · with_reducible assumption
          · refine (modBuf_key _ _ _ _ _).trans ?_
            with_reducible assumption
        clear_value z14
        refine ite_key ?_ ?_
        · refine (endEntryOn_key _ _).trans ?_
          with_reducible assumption
        · with_reducible assumption
theorem finishOp_key (s : State) (g : Nat) (q : Nat) (ch : Nat) : (finishOp s g q ch).key = s.key := by
  unfold finishOp
  split
  · split
    · rfl
    · exact ite_key (startEntry_key _ _ _ _ _ _ _ _) rfl
  · rfl

/-! ## ChorusCheck -/

theorem verdictResult_key (s : State) (obj : Bytes) (v : Verdict) (handle : Nat) : (verdictResult s obj v handle).1.key = s.key := by
  unfold verdictResult
  extract_lets +onlyGivenNames z1
  clear_value z1
  split
  · extract_lets +onlyGivenNames z6
    clear_value z6
    exact mk_fst_key (upd_key rfl rfl rfl)

/-! ## CmdPool -/

theorem poolCarveClearWindowCmd_key (u0 : State) (u1 : Call) : (poolCarveClearWindowCmd u0 u1).1.key = u0.key := by
  unfold poolCarveClearWindowCmd
  refine (checked_key _ _ _ ?_).trans ?_
  · intro a1
    exact mk_fst_key (upd_key rfl rfl rfl)
  · rfl
theorem releaseCarve_key (v : Itvos) (n : Nat) : (releaseCarve v n).fuse = v.fuse := by
  unfold releaseCarve
  split
  · rfl
  · extract_lets +onlyGivenNames z6 z7 z8
    clear_value z6 z7
    rfl
theorem wardrobeCarveReclaimCmd_key (u0 : State) (u1 : Call) : (wardrobeCarveReclaimCmd u0 u1).1.key = u0.key := by
  unfold wardrobeCarveReclaimCmd
  extract_lets +onlyGivenNames z1 z2 z3
  clear_value z2 z3
  refine (checked_key _ _ _ ?_).trans ?_
  · intro a4
    split
    · rename_i q5 q6 q7 q8
      exact mk_fst_key (pair_key q8 (wardReclaim_key _ _ _))
  · rfl
theorem wardResize_key (v : Itvos) (p : Nat) (w : Wardrobe) (k : Carve) (counts : List Nat) (val : BitVec 16) (mask : BitVec 16) (rights : BitVec 3) : (wardResize v p w k counts val mask rights).fuse = v.fuse := by
  unfold wardResize
  extract_lets +onlyGivenNames z1 z2 z3
  clear_value z1 z2
  refine ite_obs Itvos.fuse ?_ ?_
  · exact placePages_key _ _ _ _ _
  · refine ite_obs Itvos.fuse ?_ ?_
    · extract_lets +onlyGivenNames z4 z5 z6
      clear_value z4 z5
      rfl
    · rfl
theorem wardChange_key (s : State) (p : Nat) (w : Wardrobe) (counts : List Nat) (val : BitVec 16) (mask : BitVec 16) (rights : BitVec 3) : (wardChange s p w counts val mask rights).1.key = s.key := by
  unfold wardChange
  extract_lets +onlyGivenNames z1
  clear_value z1
  refine (checked_key _ _ _ ?_).trans ?_
  · intro a2
    exact mk_fst_key (upd_key (wardResize_key _ _ _ _ _ _ _ _) rfl rfl)
  · rfl
theorem wardCreate_key (v : Itvos) (p : Nat) (n : Nat) (base : Nat) (counts : List Nat) (val : BitVec 16) (mask : BitVec 16) (rights : BitVec 3) : (wardCreate v p n base counts val mask rights).fuse = v.fuse := by
  unfold wardCreate
  extract_lets +onlyGivenNames z1
  clear_value z1
  exact placePages_key _ _ _ _ _
theorem wardPlace_key (s : State) (p : Nat) (counts : List Nat) (val : BitVec 16) (mask : BitVec 16) (rights : BitVec 3) (u6 : Option Nat) (u7 : Option Nat) (u8 : Bool) : (wardPlace s p counts val mask rights u6 u7 u8).1.key = s.key := by
  unfold wardPlace
  split
  · exact mk_fst_key (upd_key (wardCreate_key _ _ _ _ _ _ _ _) rfl rfl)
  · exact ends_key _ _ _ _
theorem wardMake_key (s : State) (p : Nat) (counts : List Nat) (val : BitVec 16) (mask : BitVec 16) (rights : BitVec 3) : (wardMake s p counts val mask rights).1.key = s.key := by
  unfold wardMake
  exact wardPlace_key _ _ _ _ _ _ _ _ _
theorem wardrobeCarveCreateCmd_key (u0 : State) (u1 : Call) : (wardrobeCarveCreateCmd u0 u1).1.key = u0.key := by
  unfold wardrobeCarveCreateCmd
  extract_lets +onlyGivenNames z1 z2 z3 z4
  clear_value z1 z2 z3 z4
  refine (checked_key _ _ _ ?_).trans ?_
  · intro a5
    split
    · exact wardChange_key _ _ _ _ _ _ _
    · exact wardMake_key _ _ _ _ _ _
  · rfl
theorem tierPolicySettingsCmd_key (u0 : State) (u1 : Call) : (tierPolicySettingsCmd u0 u1).1.key = u0.key := by
  unfold tierPolicySettingsCmd
  extract_lets +onlyGivenNames z1 z2 z3 z4 z5
  clear_value z1 z2 z3 z4 z5
  refine (checked_key _ _ _ ?_).trans ?_
  · intro a6
    exact mk_fst_key (upd_key rfl rfl rfl)
  · rfl
theorem setClass_key (v : Itvos) (n : Nat) (k : Carve) (cls : TierClass) : (setClass v n k cls).fuse = v.fuse := by
  unfold setClass
  rfl
theorem wardRelease_key (v : Itvos) (p : Nat) : (wardRelease v p).fuse = v.fuse := by
  unfold wardRelease
  split
  · exact releaseCarve_key _ _
  · rfl
theorem wardrobeCarveReleaseCmd_key (u0 : State) (u1 : Call) : (wardrobeCarveReleaseCmd u0 u1).1.key = u0.key := by
  unfold wardrobeCarveReleaseCmd
  extract_lets +onlyGivenNames z1 z2 z3
  clear_value z2 z3
  refine (checked_key _ _ _ ?_).trans ?_
  · intro a4
    exact mk_fst_key (upd_key (wardRelease_key _ _) rfl rfl)
  · rfl
theorem poolCarveWindowCmd_key (u0 : State) (u1 : Call) : (poolCarveWindowCmd u0 u1).1.key = u0.key := by
  unfold poolCarveWindowCmd
  extract_lets +onlyGivenNames z1 z2
  clear_value z2
  refine (checked_key _ _ _ ?_).trans ?_
  · intro a3
    exact mk_fst_key (upd_key rfl rfl rfl)
  · rfl
theorem poolCarveCreateCmd_key (u0 : State) (u1 : Call) : (poolCarveCreateCmd u0 u1).1.key = u0.key := by
  unfold poolCarveCreateCmd
  extract_lets +onlyGivenNames z1 z2 z3 z4 z5 z6 z7
  clear_value z2 z3 z4 z5 z6 z7
  refine (checked_key _ _ _ ?_).trans ?_
  · intro a8
    extract_lets +onlyGivenNames z9 z10 z11
    clear_value z9 z10
    exact mk_fst_key (upd_key (placePages_key _ _ _ _ _) rfl rfl)
  · rfl
theorem poolCarveReleaseCmd_key (u0 : State) (u1 : Call) : (poolCarveReleaseCmd u0 u1).1.key = u0.key := by
  unfold poolCarveReleaseCmd
  extract_lets +onlyGivenNames z1 z2 z3
  clear_value z2 z3
  refine (checked_key _ _ _ ?_).trans ?_
  · intro a4
    exact mk_fst_key (upd_key (releaseCarve_key _ _) rfl rfl)
  · rfl
theorem tierPolicyClassCmd_key (u0 : State) (u1 : Call) : (tierPolicyClassCmd u0 u1).1.key = u0.key := by
  unfold tierPolicyClassCmd
  extract_lets +onlyGivenNames z1 z2 z3 z4
  clear_value z2 z3 z4
  refine (checked_key _ _ _ ?_).trans ?_
  · intro a5
    split
    · exact mk_fst_key (upd_key rfl rfl rfl)
    · exact mk_fst_key rfl
  · rfl

/-! ## CmdColl -/

theorem armEntry_key (s : State) (g : Nat) (q : Nat) : (armEntry s g q).key = s.key := by
  unfold armEntry
  extract_lets +onlyGivenNames z1
  have h2 : z1.key = s.key := by
    unfold z1
    exact modCast_key _ _ _
  clear_value z1
  split
  · with_reducible assumption
  · split
    · with_reducible assumption
    · refine ite_key ?_ ?_
      · refine (endEntry_key _ _ _).trans ?_
        with_reducible assumption
      · with_reducible assumption
theorem cueArmCmd_key (u0 : State) (u1 : Call) : (cueArmCmd u0 u1).1.key = u0.key := by
  unfold cueArmCmd
  extract_lets +onlyGivenNames z1 z2 z3 z4 z5 z6
  clear_value z1 z2 z3 z4 z5 z6
  refine (checked_key _ _ _ ?_).trans ?_
  · intro a7
    refine mk_fst_key ?_
    refine (foldl_key _ ?_ _ _).trans ?_
    · intro a8 a9
      exact armEntry_key _ _ _
    · rfl
  · rfl
theorem chorusObjectCmd_key (load : Bool) (u1 : State) (u2 : Call) : (chorusObjectCmd load u1 u2).1.key = u1.key := by
  unfold chorusObjectCmd
  extract_lets +onlyGivenNames z1
  clear_value z1
  refine (checked_key _ _ _ ?_).trans ?_
  · intro a2
    refine (withHost_key _ _ _ _ ?_).trans ?_
    · intro a3
      extract_lets +onlyGivenNames z4 z5
      clear_value z4
      have h6 : ∀ b0 b1 b2 b3, (z5 b0 b1 b2 b3).1.key = b0.key := by
        unfold z5
        intro a7 a8
        intro a9 a10
        split
        · rename_i q11 q12 q13 q14
          exact mk_fst_key (pair_key q14 (verdictResult_key _ _ _ _))
      clear_value z5
      refine ite_fst_key ?_ ?_
      · exact h6 _ _ _ _
      · refine ite_fst_key ?_ ?_
        · exact h6 _ _ _ _
        · refine ite_fst_key ?_ ?_
          · exact h6 _ _ _ _
          · refine ite_fst_key ?_ ?_
            · exact h6 _ _ _ _
            · extract_lets +onlyGivenNames z15 z16 z17 z18
              clear_value z15 z17
              have h19 : z18.key = u1.key := by
                unfold z18
                exact upd_key rfl rfl rfl
              clear_value z18
              refine Eq.trans (h6 _ _ _ _) ?_
              with_reducible assumption
    · rfl
  · rfl
theorem understudySwapCmd_key (u0 : State) (u1 : Call) : (understudySwapCmd u0 u1).1.key = u0.key := by
  unfold understudySwapCmd
  extract_lets +onlyGivenNames z1 z2 z3 z4
  clear_value z1 z2 z3 z4
  refine (checked_key _ _ _ ?_).trans ?_
  · intro a5
    exact mk_fst_key (modCast_key _ _ _)
  · rfl
theorem curtainSetCmd_key (u0 : State) (u1 : Call) : (curtainSetCmd u0 u1).1.key = u0.key := by
  unfold curtainSetCmd
  extract_lets +onlyGivenNames z1 z2
  clear_value z1 z2
  refine (checked_key _ _ _ ?_).trans ?_
  · intro a3
    exact mk_fst_key (modCast_key _ _ _)
  · rfl
theorem entranceReadCmd_key (u0 : State) (u1 : Call) : (entranceReadCmd u0 u1).1.key = u0.key := by
  unfold entranceReadCmd
  extract_lets +onlyGivenNames z1 z2
  clear_value z1 z2
  refine (checked_key _ _ _ ?_).trans ?_
  · intro a3
    extract_lets +onlyGivenNames z4
    clear_value z4
    exact mk_fst_key rfl
  · rfl
theorem cueSheetAddCmd_dropEnded_key (s : State) (g : Nat) (q : Nat) : (cueSheetAddCmd.dropEnded s g q).key = s.key := by
  unfold cueSheetAddCmd.dropEnded
  extract_lets +onlyGivenNames z1
  have h2 : z1.key = s.key := by
    unfold z1
    exact modCast_key _ _ _
  clear_value z1
  refine upd_key rfl rfl ?_
  with_reducible assumption
theorem pruneSheet_key (s : State) (g : Nat) : (pruneSheet s g).key = s.key := by
  unfold pruneSheet
  split
  · rfl
  · extract_lets +onlyGivenNames z6 z7 z8 z9
    clear_value z6 z7 z8
    have h10 : z9.key = s.key := by
      unfold z9
      exact modCast_key _ _ _
    clear_value z9
    refine upd_key rfl rfl ?_
    with_reducible assumption
theorem cueSheetAddCmd_key (u0 : State) (u1 : Call) : (cueSheetAddCmd u0 u1).1.key = u0.key := by
  unfold cueSheetAddCmd
  extract_lets +onlyGivenNames z1 z2 z3 z4 z5
  clear_value z2 z3 z4 z5
  refine (checked_key _ _ _ ?_).trans ?_
  · intro a6
    split
    · exact mk_fst_key rfl
    · extract_lets +onlyGivenNames z10
      clear_value z10
      refine (checked_key _ _ _ ?_).trans ?_
      · intro a11
        extract_lets +onlyGivenNames z12 z13 z14 z15
        clear_value z12 z13 z14
        have h16 : z15.key = u0.key := by
          unfold z15
          exact cueSheetAddCmd_dropEnded_key _ _ _
        clear_value z15
        extract_lets +onlyGivenNames z17
        have h18 : z17.key = u0.key := by
          unfold z17
          refine (modCast_key _ _ _).trans ?_
          with_reducible assumption
        clear_value z17
        refine mk_fst_key ?_
        refine (pruneSheet_key _ _).trans ?_
        with_reducible assumption
      · rfl
  · rfl
theorem dropRuns_key (s : State) (g : Nat) : (dropRuns s g).key = s.key := by
  unfold dropRuns
  exact upd_key rfl rfl rfl
theorem promptBookReadCmd_key (u0 : State) (u1 : Call) : (promptBookReadCmd u0 u1).1.key = u0.key := by
  unfold promptBookReadCmd
  extract_lets +onlyGivenNames z1 z2 z3
  clear_value z1 z2 z3
  refine (checked_key _ _ _ ?_).trans ?_
  · intro a4
    extract_lets +onlyGivenNames z5
    clear_value z5
    exact mk_fst_key rfl
  · rfl
theorem castSetCmd_key (u0 : State) (u1 : Call) : (castSetCmd u0 u1).1.key = u0.key := by
  unfold castSetCmd
  extract_lets +onlyGivenNames z1 z2 z3 z4 z5 z6 z7 z8 z9 z10 z11
  clear_value z2 z3 z4 z5 z6 z7 z8 z9 z10 z11
  refine (checked_key _ _ _ ?_).trans ?_
  · intro a12
    refine ite_fst_key ?_ ?_
    · refine (checked_key _ _ _ ?_).trans ?_
      · intro a13
        exact mk_fst_key ((dropRuns_key _ _).trans (upd_key rfl rfl rfl))
      · rfl
    · refine (withHost_key _ _ _ _ ?_).trans ?_
      · intro a14
        extract_lets +onlyGivenNames z15 z16
        clear_value z15 z16
        refine (checked_key _ _ _ ?_).trans ?_
        · intro a17
          extract_lets +onlyGivenNames z18
          clear_value z18
          exact mk_fst_key ((dropRuns_key _ _).trans (upd_key rfl rfl rfl))
        · rfl
      · rfl
  · rfl

/-! ## CmdLinks -/

theorem endDrain_key (s : State) (d : Drain) : (endDrain s d).key = s.key := by
  unfold endDrain
  split
  · exact upd_key rfl rfl rfl
  · rfl
  · extract_lets +onlyGivenNames z7
    have h8 : z7.key = s.key := by
      unfold z7
      refine (foldl_key _ ?_ _ _).trans ?_
      · intro a9 a10
        split
        · exact (modPort_key _ _ _).trans (moveTo_key _ _ _ _)
        · rfl
      · rfl
    clear_value z7
    refine (finishKept_key _ _ _ _).trans ?_
    with_reducible assumption
  · extract_lets +onlyGivenNames z18
    have h19 : z18.key = s.key := by
      unfold z18
      refine (foldl_key _ ?_ _ _).trans ?_
      · intro a20 a21
        split
        · exact (modPort_key _ _ _).trans (moveTo_key _ _ _ _)
        · rfl
      · rfl
    clear_value z18
    refine (finishKept_key _ _ _ _).trans ?_
    with_reducible assumption
theorem routeDrainEndOp_key (s : State) : (routeDrainEndOp s).key = s.key := by
  unfold routeDrainEndOp
  extract_lets +onlyGivenNames z1 z2 z3 z4
  clear_value z1 z3
  have h5 : z4.key = s.key := by
    unfold z4
    exact upd_key rfl rfl rfl
  clear_value z4
  refine (foldl_key _ ?_ _ _).trans ?_
  · intro a6 a7
    exact endDrain_key _ _
  · with_reducible assumption
theorem identCmd_key (u0 : State) (u1 : Call) : (identCmd u0 u1).1.key = u0.key := by
  unfold identCmd
  exact mk_fst_key rfl
theorem linkStatusCmd_key (u0 : State) (u1 : Call) : (linkStatusCmd u0 u1).1.key = u0.key := by
  unfold linkStatusCmd
  extract_lets +onlyGivenNames z1 z2
  clear_value z1 z2
  refine (checked_key _ _ _ ?_).trans ?_
  · intro a3
    exact mk_fst_key rfl
  · rfl
theorem seatingLoadCmd_key (u0 : State) (u1 : Call) : (seatingLoadCmd u0 u1).1.key = u0.key := by
  unfold seatingLoadCmd
  extract_lets +onlyGivenNames z1
  clear_value z1
  refine (checked_key _ _ _ ?_).trans ?_
  · intro a2
    refine (withHost_key _ _ _ _ ?_).trans ?_
    · intro a3
      split
      · exact ends_key _ _ _ _
      · extract_lets +onlyGivenNames z9 z10
        clear_value z9 z10
        refine (checked_key _ _ _ ?_).trans ?_
        · intro a11
          extract_lets +onlyGivenNames z12
          have h13 : z12.key = u0.key := by
            unfold z12
            exact applyChart_key _ _
          clear_value z12
          extract_lets +onlyGivenNames z14
          have h15 : z14.key = u0.key := by
            unfold z14
            refine (modStore_key _ _).trans ?_
            with_reducible assumption
          clear_value z14
          extract_lets +onlyGivenNames z16 z21
          have h22 : z21.key = u0.key := by
            unfold z21 z16
            refine (noteState_key _ _).trans ?_
            refine (rootOnChart_key _).trans ?_
            refine (rejudgeAll_key _).trans ?_
            with_reducible assumption
          clear_value z21
          refine mk_fst_key ?_
          with_reducible assumption
        · rfl
    · rfl
  · rfl
theorem routeCommitCmd_key (u0 : State) (u1 : Call) : (routeCommitCmd u0 u1).1.key = u0.key := by
  unfold routeCommitCmd
  extract_lets +onlyGivenNames z1
  clear_value z1
  refine ite_fst_key ?_ ?_
  · exact ends_key _ _ _ _
  · refine ite_fst_key ?_ ?_
    · exact ends_key _ _ _ _
    · refine ite_fst_key ?_ ?_
      · exact mk_fst_key (upd_key rfl rfl rfl)
      · exact mk_fst_key (upd_key rfl rfl rfl)
theorem routeStageCmd_key (u0 : State) (u1 : Call) : (routeStageCmd u0 u1).1.key = u0.key := by
  unfold routeStageCmd
  refine (checked_key _ _ _ ?_).trans ?_
  · intro a1
    refine (withHost_key _ _ _ _ ?_).trans ?_
    · intro a2
      split
      · exact ends_key _ _ _ _
      · refine (checked_key _ _ _ ?_).trans ?_
        · intro a8
          exact mk_fst_key (upd_key rfl rfl rfl)
        · rfl
    · rfl
  · rfl

/-! ## PoolMem -/

theorem beginMove_key (v : Itvos) (page : Nat) (e : TierEntry) (frame : Nat) (next : Option Nat) : (beginMove v page e frame next).fuse = v.fuse := by
  unfold beginMove
  rfl
theorem moveCompleteOp_key (s : State) (page : Nat) : (moveCompleteOp s page).key = s.key := by
  unfold moveCompleteOp
  split
  · extract_lets +onlyGivenNames z8 z9 z10 z11
    clear_value z9
    refine (bumpPool_key _ _).trans ?_
    refine upd_key ?_ ?_ ?_
    · unfold z11
      split
      · rfl
      · split
        · exact ite_obs Itvos.fuse (beginMove_key _ _ _ _ _) rfl
        · rfl
    · rfl
    · rfl
  · rfl
theorem sweepEnd_key (v : Itvos) (part : Nat) : (sweepEnd v part).fuse = v.fuse := by
  unfold sweepEnd
  rfl
theorem promote_fuse {v w : Itvos} {page : Nat} {e : TierEntry} (h : promote v page e = some w) : w.fuse = v.fuse := by
  unfold promote at h
  repeat' split at h
  all_goals first
    | (cases h; done)
    | (cases h; exact beginMove_key _ _ _ _ _)
    | (cases h; dsimp only; exact beginMove_key _ _ _ _ _)
theorem moveStartOp_key (s : State) : (moveStartOp s).key = s.key := by
  have hm : ∀ (v w : Itvos) (p : Nat) (e : TierEntry),
      (if e.gallery then promote v p e else (freeFrame v true).map (fun f => beginMove v p e f none)) = some w → w.fuse = v.fuse := by
    intro v w p e h
    split at h
    · exact promote_fuse h
    · obtain ⟨a, _, rfl⟩ := Option.map_eq_some_iff.mp h
      exact beginMove_key _ _ _ _ _
  unfold moveStartOp
  dsimp only
  repeat' split
  all_goals first
    | rfl
    | (exact bumpPool_key _ _)
    | (rename_i h; exact upd_key (b := s) (hm _ _ _ _ h) rfl rfl)
    | (rename_i h; exact upd_key (b := s) ((promote_fuse h).trans rfl) rfl rfl)
theorem rekey_key (v : Itvos) (part : Nat) (b : Nat) : (rekey v part b).fuse = v.fuse := by
  unfold rekey
  extract_lets +onlyGivenNames z1
  clear_value z1
  split
  · refine ite_obs Itvos.fuse ?_ ?_
    · rfl
    · split
      · exact blockStore_key _ _ _ _ _
      · rfl
  · rfl
theorem sweepStepOp_key (s : State) (part : Fin 16) (hw : HomeHw) : (sweepStepOp s part hw).key = s.key := by
  unfold sweepStepOp
  split
  · rfl
  · extract_lets +onlyGivenNames z6
    clear_value z6
    split
    · exact upd_key rfl rfl rfl
    · refine ite_key ?_ ?_
      · rfl
      · extract_lets +onlyGivenNames z13 z14 z15
        clear_value z13 z14
        have h16 : ∀ b0, (z15 b0).key = b0.key := by
          unfold z15
          intro a17
          extract_lets +onlyGivenNames z18 z19 z20
          clear_value z19
          have h21 : z20.key = a17.key := by
            unfold z20
            exact upd_key rfl rfl rfl
          clear_value z20
          refine ite_key ?_ ?_
          · refine upd_key rfl rfl ?_
            with_reducible assumption
          · with_reducible assumption
        clear_value z15
        split
        · exact unitMismatch_key _ _
        · exact Eq.trans (h16 _) (poisonBlock_key _ _)
        · exact Eq.trans (h16 _) (ite_key (bumpPool_key _ _) (upd_key (rekey_key _ _ _) rfl rfl))
theorem checkReady_key (s : State) : (checkReady s).key = s.key := by
  unfold checkReady
  extract_lets +onlyGivenNames z1
  clear_value z1
  exact ite_key ((noteState_key _ _).trans (upd_key rfl rfl rfl)) rfl
theorem cxlPoison_key (s : State) : (cxlPoison s).key = s.key := by
  unfold cxlPoison
  exact emit_key _ _
theorem cxlMemReadOp_key (s : State) (offset : Nat) (hw : HomeHw) : (cxlMemReadOp s offset hw).key = s.key := by
  unfold cxlMemReadOp
  refine ite_key ?_ ?_
  · rfl
  · extract_lets +onlyGivenNames z1
    clear_value z1
    split
    · exact emit_key _ _
    · refine ite_key ?_ ?_
      · exact cxlPoison_key _
      · extract_lets +onlyGivenNames z8
        have h9 : z8.key = s.key := by
          unfold z8
          exact touch_key _ _ _
        clear_value z8
        split
        · refine (cxlPoison_key _).trans ?_
          refine (unitMismatch_key _ _).trans ?_
          with_reducible assumption
        · refine (cxlPoison_key _).trans ?_
          extract_lets +onlyGivenNames z12
          have h13 : z12.key = s.key := by
            unfold z12
            refine (poisonBlock_key _ _).trans ?_
            with_reducible assumption
          clear_value z12
          refine upd_key rfl rfl ?_
          with_reducible assumption
        · split
          · refine (emit_key _ _).trans ?_
            with_reducible assumption
          · refine (cxlPoison_key _).trans ?_
            with_reducible assumption
theorem cxlMemWriteOp_key (s : State) (offset : Nat) (data : Bytes) : (cxlMemWriteOp s offset data).key = s.key := by
  unfold cxlMemWriteOp
  refine ite_key ?_ ?_
  · rfl
  · split
    · exact bumpPool_key _ _
    · refine ite_key ?_ ?_
      · exact bumpPool_key _ _
      · extract_lets +onlyGivenNames z7
        have h8 : z7.key = s.key := by
          unfold z7
          exact touch_key _ _ _
        clear_value z7
        split
        · rename_i q9 q10 q11 q12
          refine upd_key ?_ ?_ ?_
          · exact pair_obs Itvos.fuse q12 (poolWrite_key _ _ _ _ _)
          · rfl
          · with_reducible assumption
        · refine (bumpPool_key _ _).trans ?_
          with_reducible assumption
theorem patrolScrubOp_key (s : State) (b : Nat) (found : ScrubFound) : (patrolScrubOp s b found).key = s.key := by
  unfold patrolScrubOp
  split
  · rfl
  · exact bumpPool_key _ _
  · exact poisonBlock_key _ _
theorem decayOp_key (s : State) : (decayOp s).key = s.key := by
  unfold decayOp
  exact ite_key (upd_key rfl rfl rfl) rfl
theorem scrubDoneOp_key (s : State) (i : Nat) : (scrubDoneOp s i).key = s.key := by
  unfold scrubDoneOp
  split
  · rfl
  · extract_lets +onlyGivenNames z6 z7 z8
    clear_value z7
    have h9 : z8.key = s.key := by
      unfold z8
      exact upd_key rfl rfl rfl
    clear_value z8
    split
    · refine upd_key rfl rfl ?_
      with_reducible assumption
    · refine (checkReady_key _).trans ?_
      refine upd_key rfl rfl ?_
      with_reducible assumption
    · refine (checkReady_key _).trans ?_
      refine upd_key rfl rfl ?_
      with_reducible assumption

end Sys2Proof.Machine
end

