-- ==== Sys2Proof/Laws/KeepF.lean ====
section
/-! SUPPORT. What every operation leaves alone (Laws/Keep.lean): the operations of Startup, Relay, CmdFirmware, CmdKeys, Power, CmdPower, CmdReset, CollRows. -/

namespace Sys2Proof.Machine

open Sys2Proof

/-! ## Startup -/

theorem resetNOp_key (s : State) (level : Bool) (strap : Bool) : (resetNOp s level strap).key = s.key := by
  unfold resetNOp
  exact ite_key (wholeReset_key _ _) (ite_key (upd_key rfl rfl rfl) rfl)
theorem noteTrial_key (s : State) : (noteTrial s).key = s.key := by
  unfold noteTrial
  exact ite_key (upd_key rfl rfl rfl) (upd_key rfl rfl rfl)
theorem enterGreenroom_key (s : State) : (enterGreenroom s).key = s.key := by
  unfold enterGreenroom
  extract_lets +onlyGivenNames z1
  have h2 : z1.key = s.key := by
    unfold z1
    refine (foldl_key _ ?_ _ _).trans ?_
    · intro a3 a4
      exact moveTo_key _ _ _ _
    · rfl
  clear_value z1
  refine (noteState_key _ _).trans ?_
  refine upd_key rfl rfl ?_
  with_reducible assumption
theorem loadSlot_key (s : State) (chk : SlotCheck) : (loadSlot s chk).key = s.key := by
  unfold loadSlot
  split
  · extract_lets +onlyGivenNames z6 z7 z8
    clear_value z6
    have h9 : z8.key = s.key := by
      unfold z8
      exact upd_key rfl rfl rfl
    clear_value z8
    extract_lets +onlyGivenNames z10 z11 z12
    clear_value z11
    have h13 : z12.key = s.key := by
      unfold z12
      refine ite_key ?_ ?_
      · refine (raiseEvent_key _ _).trans ?_
        refine upd_key rfl rfl ?_
        with_reducible assumption
      · with_reducible assumption
    clear_value z12
    split
    · refine (enterGreenroom_key _).trans ?_
      with_reducible assumption
    · refine upd_key rfl rfl ?_
      with_reducible assumption
theorem prompterRestartOp_key (s : State) (chk : SlotCheck) : (prompterRestartOp s chk).key = s.key := by
  unfold prompterRestartOp
  refine ite_key ?_ ?_
  · rfl
  · extract_lets +onlyGivenNames z1
    have h2 : z1.key = s.key := by
      unfold z1
      rfl
    clear_value z1
    extract_lets +onlyGivenNames z3 z4 z5
    clear_value z4
    have h6 : z5.key = s.key := by
      unfold z5
      exact (loadSlot_key _ _).trans (upd_key rfl rfl rfl)
    clear_value z5
    refine ite_key ?_ ?_
    · with_reducible assumption
    · extract_lets +onlyGivenNames z7 z8 z9 z10
      clear_value z8 z9
      have h11 : z10.key = s.key := by
        unfold z10
        refine (noteTrial_key _).trans ?_
        refine upd_key rfl rfl ?_
        with_reducible assumption
      clear_value z10
      extract_lets +onlyGivenNames z12
      have h13 : z12.key = s.key := by
        unfold z12
        refine (noteState_key _ _).trans ?_
        refine (checkReady_key _).trans ?_
        with_reducible assumption
      clear_value z12
      extract_lets +onlyGivenNames z14 z15 z16 z17
      clear_value z14 z16
      have h18 : z17.key = s.key := by
        unfold z17
        refine upd_key rfl rfl ?_
        with_reducible assumption
      clear_value z17
      split
      · refine (finishKept_key _ _ _ _).trans ?_
        with_reducible assumption
      · with_reducible assumption
theorem originateOp_key (s : State) : (originateOp s).key = s.key := by
  unfold originateOp
  exact ite_key (upd_key rfl rfl rfl) rfl
theorem watchdogExpiryOp_key (s : State) : (watchdogExpiryOp s).key = s.key := by
  unfold watchdogExpiryOp
  exact ite_key (prompterReset_key _ _) rfl
theorem loadStoredChart_key (s : State) : (loadStoredChart s).key = s.key := by
  unfold loadStoredChart
  split
  · exact ite_key ((rejudgeAll_key _).trans (applyChart_key _ _)) (modStore_key _ _)
  · rfl
theorem applyPower_key (s : State) : (applyPower s).key = s.key := by
  unfold applyPower
  extract_lets +onlyGivenNames z1 z2 z3
  clear_value z1 z2 z3
  exact upd_key rfl rfl rfl
theorem applyLicences_key (s : State) : (applyLicences s).key = s.key := by
  unfold applyLicences
  extract_lets +onlyGivenNames z1 z2 z3 z4
  clear_value z1 z3
  have h5 : z4.key = s.key := by
    unfold z4
    exact (bump_key _ _ _).trans (upd_key rfl rfl rfl)
  clear_value z4
  refine upd_key rfl rfl ?_
  with_reducible assumption
theorem yalnyStartOp_key (s : State) (storeOk : Bool) : (yalnyStartOp s storeOk).key = s.key := by
  unfold yalnyStartOp
  extract_lets +onlyGivenNames z1
  clear_value z1
  refine ite_key ?_ ?_
  · rfl
  · extract_lets +onlyGivenNames z2
    have h3 : z2.key = s.key := by
      unfold z2
      rfl
    clear_value z2
    extract_lets +onlyGivenNames z4 z5 z6
    clear_value z5
    have h7 : z6.key = s.key := by
      unfold z6
      exact ite_key rfl (upd_key rfl rfl rfl)
    clear_value z6
    extract_lets +onlyGivenNames z8
    have h9 : z8.key = s.key := by
      unfold z8
      refine (loadStoredChart_key _).trans ?_
      with_reducible assumption
    clear_value z8
    extract_lets +onlyGivenNames z10
    have h11 : z10.key = s.key := by
      unfold z10
      refine (applyPower_key _).trans ?_
      refine (applyLicences_key _).trans ?_
      with_reducible assumption
    clear_value z10
    split
    · extract_lets +onlyGivenNames z16 z17 z18 z19 z20
      clear_value z17 z18 z19
      have h21 : z20.key = s.key := by
        unfold z20
        refine upd_key rfl rfl ?_
        with_reducible assumption
      clear_value z20
      refine (noteState_key _ _).trans ?_
      refine (noteTrial_key _).trans ?_
      with_reducible assumption
theorem stallsTrainedOp_key (s : State) (ok : Bool) : (stallsTrainedOp s ok).key = s.key := by
  unfold stallsTrainedOp
  extract_lets +onlyGivenNames z1
  clear_value z1
  refine ite_key ?_ ?_
  · rfl
  · refine ite_key ?_ ?_
    · exact upd_key rfl rfl rfl
    · exact (checkReady_key _).trans ((raiseEvent_key _ _).trans (upd_key rfl rfl rfl))
theorem bowDeadlineOp_key (s : State) : (bowDeadlineOp s).key = s.key := by
  unfold bowDeadlineOp
  exact ite_key (upd_key rfl rfl rfl) rfl
theorem galleryTrainedOp_key (s : State) (found : Option Population) (trained : Bool) : (galleryTrainedOp s found trained).key = s.key := by
  unfold galleryTrainedOp
  refine ite_key ?_ ?_
  · rfl
  · extract_lets +onlyGivenNames z1 z2 z3 z4
    clear_value z2 z3
    have h5 : z4.key = s.key := by
      unfold z4
      exact upd_key rfl rfl rfl
    clear_value z4
    extract_lets +onlyGivenNames z6 z7 z8
    clear_value z7
    have h9 : z8.key = s.key := by
      unfold z8
      split
      · refine ite_key ?_ ?_
        · refine upd_key rfl rfl ?_
          with_reducible assumption
        · refine ite_key ?_ ?_
          · refine upd_key rfl rfl ?_
            with_reducible assumption
          · extract_lets +onlyGivenNames z12
            clear_value z12
            refine upd_key rfl rfl ?_
            with_reducible assumption
      · refine upd_key rfl rfl ?_
        with_reducible assumption
    clear_value z8
    refine (checkReady_key _).trans ?_
    refine (noteState_key _ _).trans ?_
    with_reducible assumption
theorem loaderPhaseOp_key (s : State) (chk : SlotCheck) : (loaderPhaseOp s chk).key = s.key := by
  unfold loaderPhaseOp
  extract_lets +onlyGivenNames z1
  clear_value z1
  exact ite_key rfl (loadSlot_key _ _)
theorem romPhaseOp_key (s : State) (loaderOk : Bool) : (romPhaseOp s loaderOk).key = s.key := by
  unfold romPhaseOp
  extract_lets +onlyGivenNames z1
  clear_value z1
  refine ite_key ?_ ?_
  · rfl
  · extract_lets +onlyGivenNames z2 z3 z4
    clear_value z3
    have h5 : z4.key = s.key := by
      unfold z4
      exact upd_key rfl rfl rfl
    clear_value z4
    refine ite_key ?_ ?_
    · refine (enterGreenroom_key _).trans ?_
      with_reducible assumption
    · with_reducible assumption

/-! ## Relay -/

theorem countRefusal_key (s : State) (st : Nat) : (countRefusal s st).key = s.key := by
  unfold countRefusal
  exact ite_key (bump_key _ _ _) (ite_key (bump_key _ _ _) rfl)
theorem beginStage_key (s : State) (slot : Nat) (img : Img) (byRelay : Bool) (who : Option Caller) : (beginStage s slot img byRelay who).key = s.key := by
  unfold beginStage
  exact upd_key rfl rfl rfl
theorem sendOfferTo_key (s : State) (img : Img) (dst : BitVec 16) : (sendOfferTo s img dst).key = s.key := by
  unfold sendOfferTo
  extract_lets +onlyGivenNames z1
  have h2 : z1.key = s.key := by
    unfold z1
    exact itvSend_key _ _
  clear_value z1
  refine upd_key rfl rfl ?_
  with_reducible assumption
theorem startRelay_key (s : State) (img : Img) : (startRelay s img).key = s.key := by
  unfold startRelay
  split
  · rfl
  · exact (sendOfferTo_key _ _ _).trans (upd_key rfl rfl rfl)
theorem endRelay_key (s : State) : (endRelay s).key = s.key := by
  unfold endRelay
  exact upd_key rfl rfl rfl
theorem relayHaveOp_key (s : State) (f : Flit) : (relayHaveOp s f).key = s.key := by
  unfold relayHaveOp
  refine (fromInbox_key _ _ _ _ ?_).trans ?_
  · intro a1
    split
    · exact ite_key (endRelay_key _) rfl
    · rfl
  · rfl
theorem sendWindow_key (s : State) (img : Img) (dst : BitVec 16) (off : Nat) : (sendWindow s img dst off).key = s.key := by
  unfold sendWindow
  extract_lets +onlyGivenNames z1 z2
  clear_value z1
  have h3 : z2.key = s.key := by
    unfold z2
    refine (foldl_key _ ?_ _ _).trans ?_
    · intro a4 a5
      exact itvSend_key _ _
    · rfl
  clear_value z2
  refine upd_key rfl rfl ?_
  with_reducible assumption
theorem relayWindowTimeoutOp_key (s : State) : (relayWindowTimeoutOp s).key = s.key := by
  unfold relayWindowTimeoutOp
  split
  · exact ite_key (sendWindow_key _ _ _ _) rfl
  · rfl
theorem answerRelay_key (s : State) (f : Flit) (code : Nat) (offset : Nat) (rest : List (Nat × Bytes)) : (answerRelay s f code offset rest).key = s.key := by
  unfold answerRelay
  exact itvSend_key _ _
theorem receivedAll_key (s : State) (f : Flit) : (receivedAll s f).key = s.key := by
  unfold receivedAll
  extract_lets +onlyGivenNames z1 z2 z3 z4
  clear_value z1 z3
  have h5 : z4.key = s.key := by
    unfold z4
    exact upd_key rfl rfl rfl
  clear_value z4
  split
  · refine (answerRelay_key _ _ _ _ _).trans ?_
    refine (countRefusal_key _ _).trans ?_
    with_reducible assumption
  · extract_lets +onlyGivenNames z12 z13
    clear_value z12
    have h14 : z13.key = s.key := by
      unfold z13
      refine (answerRelay_key _ _ _ _ _).trans ?_
      with_reducible assumption
    clear_value z13
    refine (startRelay_key _ _).trans ?_
    refine (beginStage_key _ _ _ _ _).trans ?_
    with_reducible assumption
theorem relayRefuseOp_key (s : State) (f : Flit) : (relayRefuseOp s f).key = s.key := by
  unfold relayRefuseOp
  refine (fromInbox_key _ _ _ _ ?_).trans ?_
  · intro a1
    rfl
  · rfl
theorem relayOfferOp_key (s : State) (f : Flit) : (relayOfferOp s f).key = s.key := by
  unfold relayOfferOp
  refine (fromInbox_key _ _ _ _ ?_).trans ?_
  · intro a1
    extract_lets +onlyGivenNames z2 z3
    clear_value z2 z3
    split
    · extract_lets +onlyGivenNames z7
      have h8 : z7.key = a1.key := by
        unfold z7
        exact answerRelay_key _ _ _ _ _
      clear_value z7
      refine ite_key ?_ ?_
      · refine (startRelay_key _ _).trans ?_
        with_reducible assumption
      · with_reducible assumption
    · refine ite_key ?_ ?_
      · exact answerRelay_key _ _ _ _ _
      · exact ite_key (answerRelay_key _ _ _ _ _) ((answerRelay_key _ _ _ _ _).trans (upd_key rfl rfl rfl))
  · rfl
theorem scriptStagedOp_key (s : State) (ok : Bool) : (scriptStagedOp s ok).key = s.key := by
  unfold scriptStagedOp
  extract_lets +onlyGivenNames z1
  clear_value z1
  split
  · rfl
  · extract_lets +onlyGivenNames z8 z9 z10
    clear_value z9
    have h11 : z10.key = s.key := by
      unfold z10
      exact upd_key rfl rfl rfl
    clear_value z10
    refine ite_key ?_ ?_
    · extract_lets +onlyGivenNames z12 z13 z14
      clear_value z13
      have h15 : z14.key = s.key := by
        unfold z14
        refine ite_key ?_ ?_
        · refine upd_key rfl rfl ?_
          with_reducible assumption
        · refine upd_key rfl rfl ?_
          with_reducible assumption
      clear_value z14
      extract_lets +onlyGivenNames z16
      have h17 : z16.key = s.key := by
        unfold z16
        refine ite_key ?_ ?_
        · refine (raiseEvent_key _ _).trans ?_
          with_reducible assumption
        · with_reducible assumption
      clear_value z16
      refine (finishKept_key _ _ _ _).trans ?_
      with_reducible assumption
    · refine (finishKept_key _ _ _ _).trans ?_
      refine (drawFree_key _).trans ?_
      with_reducible assumption
theorem relayAckOp_key (s : State) (f : Flit) : (relayAckOp s f).key = s.key := by
  unfold relayAckOp
  refine (fromInbox_key _ _ _ _ ?_).trans ?_
  · intro a1
    split
    · rfl
    · extract_lets +onlyGivenNames z8 z9 z10 z11
      clear_value z8 z10
      have h12 : z11.key = a1.key := by
        unfold z11
        exact upd_key rfl rfl rfl
      clear_value z11
      refine ite_key ?_ ?_
      · refine (endRelay_key _).trans ?_
        with_reducible assumption
      · refine (sendWindow_key _ _ _ _).trans ?_
        with_reducible assumption
  · rfl
theorem relaySkipOp_key (s : State) : (relaySkipOp s).key = s.key := by
  unfold relaySkipOp
  split
  · rfl
  · refine ite_key ?_ ?_
    · extract_lets +onlyGivenNames z6 z7 z8
      clear_value z7
      have h9 : z8.key = s.key := by
        unfold z8
        exact (raiseEvent_key _ _).trans (upd_key rfl rfl rfl)
      clear_value z8
      split
      · refine (sendOfferTo_key _ _ _).trans ?_
        with_reducible assumption
      · refine (endRelay_key _).trans ?_
        with_reducible assumption
    · rfl
theorem relayOfferTimerOp_key (s : State) : (relayOfferTimerOp s).key = s.key := by
  unfold relayOfferTimerOp
  split
  · exact ite_key (sendOfferTo_key _ _ _) rfl
  · rfl
theorem relayDataOp_key (s : State) (f : Flit) : (relayDataOp s f).key = s.key := by
  unfold relayDataOp
  refine (fromInbox_key _ _ _ _ ?_).trans ?_
  · intro a1
    extract_lets +onlyGivenNames z2
    clear_value z2
    refine ite_key ?_ ?_
    · rfl
    · extract_lets +onlyGivenNames z3 z4 z5 z6
      clear_value z3 z5
      have h7 : z6.key = a1.key := by
        unfold z6
        exact upd_key rfl rfl rfl
      clear_value z6
      refine ite_key ?_ ?_
      · refine (receivedAll_key _ _).trans ?_
        with_reducible assumption
      · refine ite_key ?_ ?_
        · refine (answerRelay_key _ _ _ _ _).trans ?_
          with_reducible assumption
        · with_reducible assumption
  · rfl

/-! ## CmdFirmware -/

theorem scriptStageCmd_key (u0 : State) (u1 : Call) : (scriptStageCmd u0 u1).1.key = u0.key := by
  unfold scriptStageCmd
  extract_lets +onlyGivenNames z1 z2
  clear_value z1 z2
  refine (checked_key _ _ _ ?_).trans ?_
  · intro a3
    refine (withHost_key _ _ _ _ ?_).trans ?_
    · intro a4
      split
      · exact (ends_key _ _ _ _).trans (countRefusal_key _ _)
      · extract_lets +onlyGivenNames z11
        clear_value z11
        refine ite_fst_key ?_ ?_
        · exact ends_key _ _ _ _
        · extract_lets +onlyGivenNames z12 z13
          clear_value z12
          have h14 : z13.key = u0.key := by
            unfold z13
            exact beginStage_key _ _ _ _ _
          clear_value z13
          refine mk_fst_key ?_
          refine ite_key ?_ ?_
          · refine (startRelay_key _ _).trans ?_
            with_reducible assumption
          · with_reducible assumption
    · rfl
  · rfl
theorem licenceApplyCmd_key (u0 : State) (u1 : Call) : (licenceApplyCmd u0 u1).1.key = u0.key := by
  unfold licenceApplyCmd
  extract_lets +onlyGivenNames z1 z2 z3 z4
  clear_value z1 z2 z3 z4
  refine (checked_key _ _ _ ?_).trans ?_
  · intro a5
    extract_lets +onlyGivenNames z6 z7 z8
    clear_value z7
    have h9 : z8.key = u0.key := by
      unfold z8
      exact upd_key rfl rfl rfl
    clear_value z8
    extract_lets +onlyGivenNames z10 z11 z12
    clear_value z11
    have h13 : z12.key = u0.key := by
      unfold z12
      refine upd_key rfl rfl ?_
      with_reducible assumption
    clear_value z12
    refine mk_fst_key ?_
    with_reducible assumption
  · rfl
theorem setTrial_key (s : State) (k : Nat) : (setTrial s k).key = s.key := by
  unfold setTrial
  exact upd_key rfl rfl rfl
theorem scriptSwitchCmd_key (u0 : State) (u1 : Call) : (scriptSwitchCmd u0 u1).1.key = u0.key := by
  unfold scriptSwitchCmd
  extract_lets +onlyGivenNames z1 z2
  clear_value z1 z2
  refine (checked_key _ _ _ ?_).trans ?_
  · intro a3
    extract_lets +onlyGivenNames z4
    have h5 : z4.key = u0.key := by
      unfold z4
      exact ite_key (setTrial_key _ _) rfl
    clear_value z4
    refine ite_fst_key ?_ ?_
    · refine mk_fst_key ?_
      refine upd_key rfl rfl ?_
      with_reducible assumption
    · extract_lets +onlyGivenNames z6
      have h7 : z6.key = u0.key := by
        unfold z6
        refine (finish_key _ _ _).trans ?_
        with_reducible assumption
      clear_value z6
      refine mk_fst_key ?_
      refine (prompterReset_key _ _).trans ?_
      with_reducible assumption
  · rfl
theorem takeBow_key (s : State) (t : Nat) : (takeBow s t).key = s.key := by
  unfold takeBow
  extract_lets +onlyGivenNames z1 z2 z3
  clear_value z1 z2 z3
  exact upd_key rfl rfl rfl
theorem scriptBowCmd_key (u0 : State) (u1 : Call) : (scriptBowCmd u0 u1).1.key = u0.key := by
  unfold scriptBowCmd
  split
  · exact ite_fst_key (mk_fst_key (takeBow_key _ _)) (ends_key _ _ _ _)
  · exact ends_key _ _ _ _
theorem freeDigest_key (s : State) : (freeDigest s).1.key = s.key := by
  unfold freeDigest
  exact mk_fst_key (upd_key rfl rfl rfl)
theorem attestFetchCmd_key (s : State) (c : Call) : (attestFetchCmd s c).1.key = s.key := by
  unfold attestFetchCmd
  refine checked_key _ _ _ (fun _ => ?_)
  split
  rename_i h
  cases h
  extract_lets r
  clear_value r
  split
  · rfl
  · exact upd_key rfl rfl rfl

/-! ## CmdKeys -/

theorem rotateKey_key (s : State) (part : Nat) (key : Option (BitVec 256)) (window : Bool) : (rotateKey s part key window).key = s.key := by
  unfold rotateKey
  extract_lets +onlyGivenNames z1 z2 z3 z4 z5 z6
  clear_value z1 z2 z3 z5
  have h7 : z6.key = s.key := by
    unfold z6
    exact upd_key rfl rfl rfl
  clear_value z6
  refine ite_key ?_ ?_
  · refine upd_key rfl rfl ?_
    with_reducible assumption
  · refine upd_key rfl rfl ?_
    with_reducible assumption
theorem reclaimPart_key (s : State) (part : Nat) : (reclaimPart s part).key = s.key := by
  unfold reclaimPart
  split
  · rename_i q1 q2 q3 q4
    extract_lets +onlyGivenNames z5
    clear_value z5
    exact upd_key rfl rfl (pair_key q4 (wardReclaim_key _ _ _))
theorem pushAll_key (s : State) (part : Nat) (code : Nat) : (pushAll s part code).key = s.key := by
  unfold pushAll
  refine (foldl_key _ ?_ _ _).trans ?_
  · intro a1 a2
    exact beginPush_key _ _ _
  · rfl
theorem acceptBlob_key (s : State) (b : Bytes) (kind : Nat) : (acceptBlob s b kind).key = s.key := by
  unfold acceptBlob
  exact upd_key rfl rfl rfl
theorem jobAccepted_key (s : State) (part : Nat) (b : Bytes) : (jobAccepted s part b).key = s.key := by
  unfold jobAccepted
  extract_lets +onlyGivenNames z1 z2 z3 z4
  have h1 : z1.key = s.key := acceptBlob_key _ _ _
  have h2 : z2.key = s.key := by
    unfold z2
    split
    · exact (installKey_key _ _ _ _ _ _ _).trans h1
    · exact h1
  have h4 : z4.key = s.key := (bump_key _ _ _).trans h2
  exact upd_key rfl rfl h4
theorem jobPushed_key (s : State) (part : Nat) (b : Bytes) : (jobPushed s part b).key = s.key := by
  unfold jobPushed
  refine (foldl_key _ ?_ _ _)
  intro a a'
  split
  · exact beginPush_key _ _ _
  · rfl
theorem keyInstallJobCmd_key (u0 : State) (u1 : Call) : (keyInstallJobCmd u0 u1).1.key = u0.key := by
  unfold keyInstallJobCmd
  extract_lets +onlyGivenNames z1 z2 z3
  clear_value z2 z3
  refine (checked_key _ _ _ ?_).trans ?_
  · intro a5
    extract_lets +onlyGivenNames z6 z7
    have h7 : z7.key = u0.key := (jobPushed_key _ _ _).trans (jobAccepted_key _ _ _)
    clear_value z7
    split
    · exact mk_fst_key h7
    · exact mk_fst_key h7
    · refine mk_fst_key ?_
      refine upd_key rfl rfl ?_
      with_reducible assumption
  · rfl
theorem eraseKeys_key (s : State) (part : Nat) : (eraseKeys s part).key = s.key := by
  unfold eraseKeys
  extract_lets +onlyGivenNames z1
  have h2 : z1.key = s.key := by
    unfold z1
    exact erasePartKeys_key _ _ _
  clear_value z1
  refine upd_key rfl rfl ?_
  with_reducible assumption
theorem keyRotateCmd_key (u0 : State) (u1 : Call) : (keyRotateCmd u0 u1).1.key = u0.key := by
  unfold keyRotateCmd
  extract_lets +onlyGivenNames z1 z2 z3
  clear_value z2 z3
  refine (checked_key _ _ _ ?_).trans ?_
  · intro a4
    extract_lets +onlyGivenNames z5
    have h6 : z5.key = u0.key := by
      unfold z5
      exact acceptBlob_key _ _ _
    clear_value z5
    refine mk_fst_key ?_
    refine (rotateKey_key _ _ _ _).trans ?_
    with_reducible assumption
  · rfl
theorem strikePart_key (s : State) (part : Nat) (slot : Option Nat) (sess : Option (Nat × Word)) : (strikePart s part slot sess).key = s.key := by
  unfold strikePart
  extract_lets +onlyGivenNames z1 z2 z3
  clear_value z2
  have h4 : z3.key = s.key := by
    unfold z3
    exact (eraseKeys_key _ _).trans (upd_key rfl rfl rfl)
  clear_value z3
  extract_lets +onlyGivenNames z5
  have h6 : z5.key = s.key := by
    unfold z5
    refine (abortPart_key _ _ _ _).trans ?_
    refine (pushAll_key _ _ _).trans ?_
    with_reducible assumption
  clear_value z5
  split
  · rename_i q7 q8 q9 q10
    extract_lets +onlyGivenNames z11
    have h12 : z11.key = s.key := by
      unfold z11
      refine (foldl_key _ ?_ _ _).trans ?_
      · intro a13 a14
        exact (answer_key _ _ _).trans (strikeDrop_key _ _)
      · refine pair_key q10 ?_
        refine (takeHeld_key _ _).trans ?_
        refine (reclaimPart_key _ _).trans ?_
        with_reducible assumption
    clear_value z11
    refine upd_key rfl rfl ?_
    with_reducible assumption
theorem strikeCmd_key (u0 : State) (u1 : Call) : (strikeCmd u0 u1).1.key = u0.key := by
  unfold strikeCmd
  extract_lets +onlyGivenNames z1 z2
  clear_value z2
  refine (checked_key _ _ _ ?_).trans ?_
  · intro a3
    exact ite_fst_key (mk_fst_key rfl) (mk_fst_key (strikePart_key _ _ _ _))
  · rfl
theorem keyInstallPoolCmd_key (u0 : State) (u1 : Call) : (keyInstallPoolCmd u0 u1).1.key = u0.key := by
  unfold keyInstallPoolCmd
  extract_lets +onlyGivenNames z1 z2 z3
  clear_value z2 z3
  refine (checked_key _ _ _ ?_).trans ?_
  · intro a4
    extract_lets +onlyGivenNames z5
    have h6 : z5.key = u0.key := by
      unfold z5
      exact acceptBlob_key _ _ _
    clear_value z5
    extract_lets +onlyGivenNames z7
    clear_value z7
    refine mk_fst_key ?_
    refine upd_key rfl rfl ?_
    with_reducible assumption
  · rfl
theorem partitionSetCmd_key (u0 : State) (u1 : Call) : (partitionSetCmd u0 u1).1.key = u0.key := by
  unfold partitionSetCmd
  extract_lets +onlyGivenNames z1 z2 z3 z4
  clear_value z2 z3 z4
  refine (checked_key _ _ _ ?_).trans ?_
  · intro a5
    extract_lets +onlyGivenNames z6
    clear_value z6
    exact mk_fst_key (upd_key rfl rfl rfl)
  · rfl

/-! ## Power -/

theorem applyStored_key (s : State) : (applyStored s).key = s.key := by
  unfold applyStored
  split
  · exact ite_key rfl (upd_key rfl rfl rfl)
  · rfl
theorem refloor_key (s0 : State) (s : State) : (refloor s0 s).key = s.key := by
  unfold refloor
  extract_lets +onlyGivenNames z1 z2 z3 z4 z5
  clear_value z1 z2 z4
  have h6 : z5.key = s.key := by
    unfold z5
    exact upd_key rfl rfl rfl
  clear_value z5
  refine ite_key ?_ ?_
  · refine upd_key rfl rfl ?_
    with_reducible assumption
  · refine ite_key ?_ ?_
    · refine (applyStored_key _).trans ?_
      refine upd_key rfl rfl ?_
      with_reducible assumption
    · with_reducible assumption
theorem tripOp_key (s : State) : (tripOp s).key = s.key := by
  unfold tripOp
  exact (wholeReset_key _ _).trans ((emit_key _ _).trans (upd_key rfl rfl rfl))
theorem putRecord_key (s : State) (rec_ : Bytes) : (putRecord s rec_).key = s.key := by
  unfold putRecord
  extract_lets +onlyGivenNames z1 z2 z3
  clear_value z2
  have h4 : z3.key = s.key := by
    unfold z3
    exact upd_key rfl rfl rfl
  clear_value z3
  refine (telemeter_key _ _ _).trans ?_
  refine (raiseEvent_key _ _).trans ?_
  with_reducible assumption
theorem sprintCheck_key (s : State) : (sprintCheck s).key = s.key := by
  unfold sprintCheck
  exact ite_key ((putRecord_key _ _).trans (upd_key rfl rfl rfl)) rfl
theorem setCap_key (s : State) (cap : Nat) : (setCap s cap).key = s.key := by
  unfold setCap
  extract_lets +onlyGivenNames z1 z2 z3 z4 z5
  clear_value z1 z2 z4
  have h6 : z5.key = s.key := by
    unfold z5
    exact upd_key rfl rfl rfl
  clear_value z5
  refine ite_key ?_ ?_
  · extract_lets +onlyGivenNames z7 z8 z9
    clear_value z8
    have h10 : z9.key = s.key := by
      unfold z9
      refine (putRecord_key _ _).trans ?_
      refine upd_key rfl rfl ?_
      with_reducible assumption
    clear_value z9
    refine (refloor_key _ _).trans ?_
    refine upd_key rfl rfl ?_
    with_reducible assumption
  · refine upd_key rfl rfl ?_
    with_reducible assumption
theorem applySet_key (s : State) : (applySet s).key = s.key := by
  unfold applySet
  split
  · refine ite_key ?_ ?_
    · rfl
    · extract_lets +onlyGivenNames z5 z6 z7
      clear_value z6
      have h8 : z7.key = s.key := by
        unfold z7
        exact upd_key rfl rfl rfl
      clear_value z7
      split
      · refine (setCap_key _ _).trans ?_
        with_reducible assumption
      · with_reducible assumption
  · rfl
theorem patchRecord_key (s : State) (kind : Nat) (off : Nat) (bs : Bytes) : (patchRecord s kind off bs).key = s.key := by
  unfold patchRecord
  exact upd_key rfl rfl rfl
theorem endRecord_key (s : State) (kind : Nat) (t : Nat) : (endRecord s kind t).key = s.key := by
  unfold endRecord
  exact patchRecord_key _ _ _ _
theorem tjSampleOp_key (s : State) (tj : Nat) : (tjSampleOp s tj).key = s.key := by
  unfold tjSampleOp
  refine ite_key ?_ ?_
  · rfl
  · refine ite_key ?_ ?_
    · exact (tripOp_key _).trans (upd_key rfl rfl rfl)
    · extract_lets +onlyGivenNames z1 z2 z3
      clear_value z2
      have h4 : z3.key = s.key := by
        unfold z3
        exact upd_key rfl rfl rfl
      clear_value z3
      split
      · extract_lets +onlyGivenNames z7 z8 z9
        clear_value z8
        have h10 : z9.key = s.key := by
          unfold z9
          refine upd_key rfl rfl ?_
          with_reducible assumption
        clear_value z9
        refine (sprintCheck_key _).trans ?_
        refine (refloor_key _ _).trans ?_
        refine (putRecord_key _ _).trans ?_
        with_reducible assumption
      · refine (sprintCheck_key _).trans ?_
        refine upd_key rfl rfl ?_
        with_reducible assumption
      · refine ite_key ?_ ?_
        · with_reducible assumption
        · refine ite_key ?_ ?_
          · split
            · refine upd_key rfl rfl ?_
              with_reducible assumption
            · refine ite_key ?_ ?_
              · extract_lets +onlyGivenNames z22 z23 z24
                clear_value z23
                have h25 : z24.key = s.key := by
                  unfold z24
                  refine upd_key rfl rfl ?_
                  with_reducible assumption
                clear_value z24
                refine ite_key ?_ ?_
                · refine (applySet_key _).trans ?_
                  refine (refloor_key _ _).trans ?_
                  refine (endRecord_key _ _ _).trans ?_
                  with_reducible assumption
                · with_reducible assumption
              · with_reducible assumption
          · refine upd_key rfl rfl ?_
            with_reducible assumption
theorem floorEndOp_key (s : State) : (floorEndOp s).key = s.key := by
  unfold floorEndOp
  split
  · refine ite_key ?_ ?_
    · exact (applySet_key _).trans ((refloor_key _ _).trans ((endRecord_key _ _ _).trans (upd_key rfl rfl rfl)))
    · rfl
  · rfl
theorem setGhost_key (s : State) (f : Nat) (u : Nat) (d : Nat) : (setGhost s f u d).key = s.key := by
  unfold setGhost
  exact (applyStored_key _).trans (upd_key rfl rfl rfl)
theorem heartbeatLostOp_key (s : State) : (heartbeatLostOp s).key = s.key := by
  unfold heartbeatLostOp
  refine ite_key ?_ ?_
  · extract_lets +onlyGivenNames z1 z2 z3
    clear_value z2
    have h4 : z3.key = s.key := by
      unfold z3
      exact upd_key rfl rfl rfl
    clear_value z3
    refine (noteState_key _ _).trans ?_
    refine (putRecord_key _ _).trans ?_
    with_reducible assumption
  · rfl
theorem clampCheck_key (s : State) : (clampCheck s).key = s.key := by
  unfold clampCheck
  extract_lets +onlyGivenNames z1 z2
  clear_value z1 z2
  split
  · exact (putRecord_key _ _).trans (upd_key rfl rfl rfl)
  · exact (endRecord_key _ _ _).trans (upd_key rfl rfl rfl)
  · rfl
theorem notePeak_key (s : State) : (notePeak s).key = s.key := by
  unfold notePeak
  extract_lets +onlyGivenNames z1
  clear_value z1
  exact ite_key (upd_key rfl rfl rfl) (upd_key rfl rfl rfl)
theorem overshootStep_key (s : State) (draw : Nat) : (overshootStep s draw).key = s.key := by
  unfold overshootStep
  split
  · rfl
  · refine ite_key ?_ ?_
    · extract_lets +onlyGivenNames z6 z7 z8 z9
      clear_value z6 z8
      have h10 : z9.key = s.key := by
        unfold z9
        exact upd_key rfl rfl rfl
      clear_value z9
      extract_lets +onlyGivenNames z11
      have h12 : z11.key = s.key := by
        unfold z11
        refine ite_key ?_ ?_
        · with_reducible assumption
        · refine (patchRecord_key _ _ _ _).trans ?_
          with_reducible assumption
      clear_value z11
      refine ite_key ?_ ?_
      · refine (endRecord_key _ _ _).trans ?_
        with_reducible assumption
      · with_reducible assumption
    · exact upd_key rfl rfl rfl
theorem moveVdd_key (s : State) (tight : Bool) : (moveVdd s tight).key = s.key := by
  unfold moveVdd
  extract_lets +onlyGivenNames z1
  clear_value z1
  refine ite_key ?_ ?_
  · rfl
  · extract_lets +onlyGivenNames z2 z3 z4 z5 z6 z7
    clear_value z2 z3 z4 z6
    have h8 : z7.key = s.key := by
      unfold z7
      exact upd_key rfl rfl rfl
    clear_value z7
    refine ite_key ?_ ?_
    · with_reducible assumption
    · refine (emit_key _ _).trans ?_
      with_reducible assumption
theorem sampleIn_key (s : State) (real : Nat) : (sampleIn s real).key = s.key := rfl
theorem sprintJudged_key (s : State) : (sprintJudged s).key = s.key := by
  unfold sprintJudged
  have hu : (sprintCheck (if (drawOf s.itv.pwr > 900 && sprintAllowed s) = true then { s with itv.pwr.sprinting := true } else s)).key =
      (s).key := (sprintCheck_key _).trans (ite_key rfl rfl)
  simp only
  generalize sprintCheck _ = u at hu ⊢
  refine ite_key ?_ hu
  split
  · exact (endRecord_key _ _ _).trans hu
  · exact hu
theorem governed_key (s : State) : (governed s).key = s.key := by
  unfold governed
  have hu : (if riseLimit s ≥ 1350 then { s with itv.pwr.floorEndAt := none } else s).key = (s).key := ite_key rfl rfl
  simp only
  generalize (if riseLimit s ≥ 1350 then _ else s) = u at hu ⊢
  exact (moveVdd_key u _).trans hu
theorem powerSampleOp_key (s : State) (real : Nat) : (powerSampleOp s real).key = s.key := by
  unfold powerSampleOp
  exact ite_key rfl ((governed_key _).trans ((sprintJudged_key _).trans ((overshootStep_key _ _).trans ((clampCheck_key _).trans
    ((notePeak_key _).trans (sampleIn_key s real))))))
theorem setLevels_key (s : State) (v : Option Nat) (c : Option Nat) : (setLevels s v c).key = s.key := by
  unfold setLevels
  split
  · exact (applySet_key _).trans (upd_key rfl rfl rfl)
theorem heartbeatCame_key (s : State) : (heartbeatCame s).key = s.key := by
  unfold heartbeatCame
  extract_lets +onlyGivenNames z1 z2 z3
  clear_value z2
  have h4 : z3.key = s.key := by
    unfold z3
    exact upd_key rfl rfl rfl
  clear_value z3
  refine ite_key ?_ ?_
  · extract_lets +onlyGivenNames z5
    have h6 : z5.key = s.key := by
      unfold z5
      refine (endRecord_key _ _ _).trans ?_
      with_reducible assumption
    clear_value z5
    refine (noteState_key _ _).trans ?_
    refine (applySet_key _).trans ?_
    refine (applyStored_key _).trans ?_
    refine (putRecord_key _ _).trans ?_
    with_reducible assumption
  · with_reducible assumption
theorem coolantInOp_key (s : State) (v : Nat) : (coolantInOp s v).key = s.key := by
  unfold coolantInOp
  exact (sprintCheck_key _).trans (upd_key rfl rfl rfl)
theorem pwrShedReleaseOp_key (s : State) : (pwrShedReleaseOp s).key = s.key := by
  unfold pwrShedReleaseOp
  split
  · exact (applySet_key _).trans ((refloor_key _ _).trans ((putRecord_key _ _).trans (upd_key rfl rfl rfl)))
  · rfl
theorem coolantStaleOp_key (s : State) : (coolantStaleOp s).key = s.key := by
  unfold coolantStaleOp
  exact sprintCheck_key _
theorem railFaultOp_key (s : State) (u1 : Rail) : (railFaultOp s u1).key = s.key := by
  unfold railFaultOp
  exact wholeReset_key _ _
theorem capMissedOp_key (s : State) : (capMissedOp s).key = s.key := by
  unfold capMissedOp
  extract_lets +onlyGivenNames z1
  clear_value z1
  refine ite_key ?_ ?_
  · extract_lets +onlyGivenNames z2 z3 z4
    clear_value z3
    have h5 : z4.key = s.key := by
      unfold z4
      exact upd_key rfl rfl rfl
    clear_value z4
    refine ite_key ?_ ?_
    · refine (putRecord_key _ _).trans ?_
      refine upd_key rfl rfl ?_
      with_reducible assumption
    · with_reducible assumption
  · rfl
theorem brownOutOp_key (s : State) : (brownOutOp s).key = s.key := by
  unfold brownOutOp
  exact (wholeReset_key _ _).trans (upd_key rfl rfl rfl)
theorem sprintAccountOp_key (s : State) : (sprintAccountOp s).key = s.key := by
  unfold sprintAccountOp
  extract_lets +onlyGivenNames z1 z2
  clear_value z1 z2
  exact (sprintCheck_key _).trans (upd_key rfl rfl rfl)
theorem avsRetryOp_key (s : State) (acked : Bool) : (avsRetryOp s acked).key = s.key := by
  unfold avsRetryOp
  refine ite_key ?_ ?_
  · exact upd_key rfl rfl rfl
  · exact (raiseEvent_key _ _).trans ((emit_key _ _).trans (upd_key rfl rfl rfl))
theorem pwrShedOp_key (s : State) : (pwrShedOp s).key = s.key := by
  unfold pwrShedOp
  exact ite_key rfl ((refloor_key _ _).trans (upd_key rfl rfl rfl))

/-! ## CmdPower -/

theorem ghostSetCmd_key (u0 : State) (u1 : Call) : (ghostSetCmd u0 u1).1.key = u0.key := by
  unfold ghostSetCmd
  extract_lets +onlyGivenNames z1 z2 z3
  clear_value z1 z2 z3
  refine (checked_key _ _ _ ?_).trans ?_
  · intro a4
    extract_lets +onlyGivenNames z5
    have h6 : z5.key = u0.key := by
      unfold z5
      exact setGhost_key _ _ _ _
    clear_value z5
    extract_lets +onlyGivenNames z7
    clear_value z7
    refine mk_fst_key ?_
    with_reducible assumption
  · rfl
theorem powerCapCmd_key (u0 : State) (u1 : Call) : (powerCapCmd u0 u1).1.key = u0.key := by
  unfold powerCapCmd
  extract_lets +onlyGivenNames z1
  clear_value z1
  refine (checked_key _ _ _ ?_).trans ?_
  · intro a2
    extract_lets +onlyGivenNames z3
    have h4 : z3.key = u0.key := by
      unfold z3
      exact setCap_key _ _
    clear_value z3
    refine mk_fst_key ?_
    with_reducible assumption
  · rfl
theorem paceReadCmd_key (u0 : State) (u1 : Call) : (paceReadCmd u0 u1).1.key = u0.key := by
  unfold paceReadCmd
  exact mk_fst_key rfl
theorem runLengthReadCmd_key (u0 : State) (u1 : Call) : (runLengthReadCmd u0 u1).1.key = u0.key := by
  unfold runLengthReadCmd
  exact mk_fst_key rfl
theorem clearCounters_key (s : State) (k : Nat) : (clearCounters s k).key = s.key := by
  unfold clearCounters
  extract_lets +onlyGivenNames z1 z2
  have h3 : z2.key = s.key := by
    unfold z2
    exact upd_key rfl rfl rfl
  clear_value z2
  refine ite_key ?_ ?_
  · refine upd_key rfl rfl ?_
    with_reducible assumption
  · with_reducible assumption
theorem countersReadCmd_key (u0 : State) (u1 : Call) : (countersReadCmd u0 u1).1.key = u0.key := by
  unfold countersReadCmd
  extract_lets +onlyGivenNames z1 z2
  clear_value z1 z2
  refine (checked_key _ _ _ ?_).trans ?_
  · intro a3
    extract_lets +onlyGivenNames z4
    clear_value z4
    refine ite_fst_key ?_ ?_
    · exact ends_key _ _ _ _
    · extract_lets +onlyGivenNames z5
      clear_value z5
      exact mk_fst_key (ite_key (clearCounters_key _ _) rfl)
  · rfl
theorem peepholeSetCmd_key (u0 : State) (u1 : Call) : (peepholeSetCmd u0 u1).1.key = u0.key := by
  unfold peepholeSetCmd
  extract_lets +onlyGivenNames z1
  clear_value z1
  refine (checked_key _ _ _ ?_).trans ?_
  · intro a2
    extract_lets +onlyGivenNames z3
    clear_value z3
    refine mk_fst_key ?_
    refine (foldl_key _ ?_ _ _).trans ?_
    · intro a4 a5
      exact modItvPort_key _ _ _
    · rfl
  · rfl

/-! ## CmdReset -/

theorem dropWaiting_key (s : State) (p : Combine → Bool) : (dropWaiting s p).key = s.key := by
  unfold dropWaiting
  extract_lets +onlyGivenNames z1 z2
  clear_value z1
  have h3 : z2.key = s.key := by
    unfold z2
    refine (foldl_key _ ?_ _ _).trans ?_
    · intro a4 a5
      exact unmark_key _ _ _
    · rfl
  clear_value z2
  refine (modDir_key _ _).trans ?_
  with_reducible assumption
theorem answerPart_key (s : State) (part : Nat) : (answerPart s part).key = s.key := by
  unfold answerPart
  split
  · rename_i q1 q2 q3 q4
    extract_lets +onlyGivenNames z5 z6
    clear_value z5
    have h7 : z6.key = s.key := by
      unfold z6
      exact (modDir_key _ _).trans (pair_key q4 (takeHeld_key _ _))
    clear_value z6
    refine (foldl_key _ ?_ _ _).trans ?_
    · intro a8 a9
      exact answer_key _ _ _
    · with_reducible assumption
theorem clearPaths_key (s : State) (d : Nat) : (clearPaths s d).key = s.key := by
  unfold clearPaths
  extract_lets +onlyGivenNames z1 z2 z3
  clear_value z1 z2
  have h4 : z3.key = s.key := by
    unfold z3
    refine (foldl_key _ ?_ _ _).trans ?_
    · intro a5 a6
      exact countDiscards_key _ _ _
    · rfl
  clear_value z3
  refine upd_key rfl rfl ?_
  with_reducible assumption
theorem endClosing_key (s : State) (d : Nat) : (endClosing s d).key = s.key := by
  unfold endClosing
  extract_lets +onlyGivenNames z1 z2
  clear_value z1 z2
  refine (foldl_key _ ?_ _ _).trans ?_
  · intro a3 a4
    exact endDrain_key _ _
  · exact upd_key rfl rfl rfl
theorem releasePart_key (s : State) (part : Nat) : (releasePart s part).key = s.key := by
  unfold releasePart
  extract_lets +onlyGivenNames z1
  refine upd_key ?_ ?_ ?_
  · refine (foldl_obs Itvos.fuse _ ?_ _ _).trans ?_
    · intro a2 a3
      exact releaseCarve_key _ _
    · unfold z1
      exact wardRelease_key _ _
  · rfl
  · rfl
theorem dropPartCasts_key (s : State) (part : Nat) : (dropPartCasts s part).key = s.key := by
  unfold dropPartCasts
  extract_lets +onlyGivenNames z1
  have h2 : z1.key = s.key := by
    unfold z1
    exact abortPart_key _ _ _ _
  clear_value z1
  extract_lets +onlyGivenNames z3
  clear_value z3
  refine upd_key rfl rfl ?_
  with_reducible assumption
theorem partitionReset_key (s0 : State) (part : Nat) : (partitionReset s0 part).key = s0.key := by
  unfold partitionReset
  extract_lets +onlyGivenNames z1
  have h2 : z1.key = s0.key := by
    unfold z1
    exact (dropPartCasts_key _ _).trans (answerPart_key _ _)
  clear_value z1
  extract_lets +onlyGivenNames z3
  have h4 : z3.key = s0.key := by
    unfold z3
    refine (freePart_key _ _).trans ?_
    refine (reclaimPart_key _ _).trans ?_
    refine (eraseKeys_key _ _).trans ?_
    with_reducible assumption
  clear_value z3
  extract_lets +onlyGivenNames z5
  have h6 : z5.key = s0.key := by
    unfold z5
    refine (modDir_key _ _).trans ?_
    refine (releasePart_key _ _).trans ?_
    with_reducible assumption
  clear_value z5
  extract_lets +onlyGivenNames z7 z8 z9
  clear_value z8
  have h10 : z9.key = s0.key := by
    unfold z9
    refine upd_key rfl rfl ?_
    with_reducible assumption
  clear_value z9
  refine (noteState_key _ _).trans ?_
  refine (pushAll_key _ _ _).trans ?_
  with_reducible assumption
theorem resetPartitionCmd_key (u0 : State) (u1 : Call) : (resetPartitionCmd u0 u1).1.key = u0.key := by
  unfold resetPartitionCmd
  extract_lets +onlyGivenNames z1
  clear_value z1
  refine (checked_key _ _ _ ?_).trans ?_
  · intro a2
    exact mk_fst_key (partitionReset_key _ _)
  · rfl
theorem closePort_key (s : State) (c : Call) (n : Nat) (why : DrainWhy) : (closePort s c n why).1.key = s.key := by
  unfold closePort
  split
  · exact ends_key _ _ _ _
  · refine ite_fst_key ?_ ?_
    · exact ends_key _ _ _ _
    · extract_lets +onlyGivenNames z6
      clear_value z6
      refine ite_fst_key ?_ ?_
      · exact mk_fst_key (upd_key rfl rfl rfl)
      · exact mk_fst_key (endDrain_key _ _)
theorem resetPortDisableCmd_key (u0 : State) (u1 : Call) : (resetPortDisableCmd u0 u1).1.key = u0.key := by
  unfold resetPortDisableCmd
  refine (checked_key _ _ _ ?_).trans ?_
  · intro a1
    exact closePort_key _ _ _ _
  · rfl
theorem resetPortEnableCmd_key (u0 : State) (u1 : Call) : (resetPortEnableCmd u0 u1).1.key = u0.key := by
  unfold resetPortEnableCmd
  extract_lets +onlyGivenNames z1
  clear_value z1
  refine (checked_key _ _ _ ?_).trans ?_
  · intro a2
    split
    · exact ends_key _ _ _ _
    · exact ite_fst_key (ends_key _ _ _ _) ((ends_key _ _ _ _).trans (modPort_key _ _ _))
  · rfl
theorem resetPortRehearseCmd_key (u0 : State) (u1 : Call) : (resetPortRehearseCmd u0 u1).1.key = u0.key := by
  unfold resetPortRehearseCmd
  extract_lets +onlyGivenNames z1
  clear_value z1
  refine (checked_key _ _ _ ?_).trans ?_
  · intro a2
    exact closePort_key _ _ _ _
  · rfl
theorem resetClusterCmd_key (u0 : State) (u1 : Call) : (resetClusterCmd u0 u1).1.key = u0.key := by
  unfold resetClusterCmd
  extract_lets +onlyGivenNames z1
  clear_value z1
  refine (checked_key _ _ _ ?_).trans ?_
  · intro a2
    extract_lets +onlyGivenNames z3 z4 z5 z6
    clear_value z3 z5
    have h7 : z6.key = u0.key := by
      unfold z6
      exact upd_key rfl rfl rfl
    clear_value z6
    refine mk_fst_key ?_
    refine (foldl_key _ ?_ _ _).trans ?_
    · intro a8 a9
      exact remapOwn_key _ _ _
    · with_reducible assumption
  · rfl
theorem coreReset_key (u0 : State) (u1 : Nat) : (coreReset u0 u1).key = u0.key := by
  unfold coreReset
  extract_lets +onlyGivenNames z3
  have h4 : z3.key = u0.key := by
    unfold z3
    refine (foldl_key _ ?_ _ _).trans ?_
    · intro a5 a6
      split
      · exact ite_key (leaveReady_key _ _ _ _) rfl
      · rfl
    · rfl
  clear_value z3
  extract_lets +onlyGivenNames z12
  have h13 : z12.key = u0.key := by
    unfold z12
    refine (dropWaiting_key _ _).trans ?_
    refine (clearPaths_key _ _).trans ?_
    with_reducible assumption
  clear_value z12
  extract_lets +onlyGivenNames z14
  have h15 : z14.key = u0.key := by
    unfold z14
    refine (modDie_key _ _ _).trans ?_
    with_reducible assumption
  clear_value z14
  extract_lets +onlyGivenNames z16
  have h17 : z16.key = u0.key := by
    unfold z16
    refine (foldl_key _ ?_ _ _).trans ?_
    · intro a18 a19
      exact moveCompleteOp_key _ _
    · with_reducible assumption
  clear_value z16
  refine (noteState_key _ _).trans ?_
  refine (endClosing_key _ _).trans ?_
  with_reducible assumption
theorem resetCoreCmd_key (u0 : State) (u1 : Call) : (resetCoreCmd u0 u1).1.key = u0.key := by
  unfold resetCoreCmd
  refine (checked_key _ _ _ ?_).trans ?_
  · intro a2
    refine mk_fst_key ?_
    exact coreReset_key _ _
  · rfl
theorem resetWholeChipCmd_key (u0 : State) (u1 : Call) : (resetWholeChipCmd u0 u1).1.key = u0.key := by
  unfold resetWholeChipCmd
  refine (checked_key _ _ _ ?_).trans ?_
  · intro a1
    exact mk_fst_key (upd_key rfl rfl rfl)
  · rfl
theorem resetPrompterCmd_key (u0 : State) (u1 : Call) : (resetPrompterCmd u0 u1).1.key = u0.key := by
  unfold resetPrompterCmd
  refine (checked_key _ _ _ ?_).trans ?_
  · intro a1
    extract_lets +onlyGivenNames z2 z3 z4
    clear_value z3
    have h5 : z4.key = u0.key := by
      unfold z4
      exact ite_key (upd_key rfl rfl rfl) rfl
    clear_value z4
    refine mk_fst_key ?_
    refine (prompterReset_key _ _).trans ?_
    with_reducible assumption
  · rfl
theorem clusterSelfTestOp_key (s : State) (k : Nat) (pass : Bool) : (clusterSelfTestOp s k pass).key = s.key := by
  unfold clusterSelfTestOp
  refine ite_key ?_ ?_
  · rfl
  · extract_lets +onlyGivenNames z1 z2 z3 z4 z5
    clear_value z1 z2 z4
    have h6 : z5.key = s.key := by
      unfold z5
      exact upd_key rfl rfl rfl
    clear_value z5
    refine ite_key ?_ ?_
    · refine (finishKept_key _ _ _ _).trans ?_
      with_reducible assumption
    · extract_lets +onlyGivenNames z7 z8 z9 z10
      clear_value z7 z9
      have h11 : z10.key = s.key := by
        unfold z10
        refine upd_key rfl rfl ?_
        with_reducible assumption
      clear_value z10
      extract_lets +onlyGivenNames z12
      have h13 : z12.key = s.key := by
        unfold z12
        refine ite_key ?_ ?_
        · with_reducible assumption
        · refine (raiseEvent_key _ _).trans ?_
          refine (bumpColl_key _ _).trans ?_
          with_reducible assumption
      clear_value z12
      refine (finishKept_key _ _ _ _).trans ?_
      with_reducible assumption

/-! ## CollRows -/

theorem onControl_key (s : State) (f : Flit) (step : Nat) (g : State → Cast → Sender → State) (hg : ∀ v0 v1 v2, (g v0 v1 v2).key = v0.key) : (onControl s f step g).key = s.key := by
  unfold onControl
  refine ite_key ?_ ?_
  · refine (fromInbox_key _ _ _ _ ?_).trans ?_
    · intro a1
      split
      · exact bumpColl_key _ _
      · split
        · exact bumpColl_key _ _
        · exact ite_key (hg _ _ _) (bumpColl_key _ _)
    · rfl
  · rfl
theorem reducerRemap_key (s : State) (f : Flit) : (reducerRemap s f).key = s.key := by
  unfold reducerRemap
  refine (onControl_key _ _ _ _ ?_).trans ?_
  · intro a1 a2 a3
    extract_lets +onlyGivenNames z4 z5
    clear_value z4 z5
    exact ite_key ((applyRemap_key _ _ _).trans (passRemap_key _ _ _ _ _ _ _)) rfl
  · rfl
theorem reducerAbort_key (s : State) (f : Flit) : (reducerAbort s f).key = s.key := by
  unfold reducerAbort
  refine (onControl_key _ _ _ _ ?_).trans ?_
  · intro a1 a2 a3
    extract_lets +onlyGivenNames z4
    clear_value z4
    split
    · exact bumpColl_key _ _
    · exact ite_key (bumpColl_key _ _) (dropColl_key _ _ _ _)
  · rfl
theorem mirrorWriteOp_key (s : State) (f : Flit) : (mirrorWriteOp s f).key = s.key := by
  unfold mirrorWriteOp
  refine ite_key ?_ ?_
  · refine (fromInbox_key _ _ _ _ ?_).trans ?_
    · intro a1
      exact upd_key rfl rfl rfl
    · rfl
  · rfl
theorem fromSeatInbox_key (s : State) (f : Flit) (g : State → Nat → State) (hg : ∀ v0 v1, (g v0 v1).key = v0.key) : (fromSeatInbox s f g).key = s.key := by
  unfold fromSeatInbox
  split
  · exact (settle_key _).trans (Eq.trans (hg _ _) (takeInbox_key _ _ _))
  · rfl
theorem resultOp_key (s : State) (f : Flit) (k : BitVec 5) : (resultOp s f k).key = s.key := by
  unfold resultOp
  refine ite_key ?_ ?_
  · refine (fromSeatInbox_key _ _ _ ?_).trans ?_
    · intro a1 a2
      exact memberResult_key _ _ _
    · rfl
  · rfl
theorem reportOp_key (s : State) (f : Flit) : (reportOp s f).key = s.key := by
  unfold reportOp
  refine (onControl_key _ _ _ _ ?_).trans ?_
  · intro a1 a2 a3
    extract_lets +onlyGivenNames z4
    clear_value z4
    split
    · exact bumpColl_key _ _
    · refine ite_key ?_ ?_
      · exact bumpColl_key _ _
      · extract_lets +onlyGivenNames z15
        have h16 : z15.key = a1.key := by
          unfold z15
          exact (noteArrival_key _ _ _ _ _).trans (ensureRun_key _ _ _ _)
        clear_value z15
        extract_lets +onlyGivenNames z17
        have h18 : z17.key = a1.key := by
          unfold z17
          refine (modRun_key _ _ _ _).trans ?_
          with_reducible assumption
        clear_value z17
        refine (judgeMismatch_key _ _ _ _).trans ?_
        refine (noteMismatch_key _ _ _ _).trans ?_
        with_reducible assumption
    · rfl
  · rfl
theorem seatControl_key (s : State) (f : Flit) (step : Nat) (g : State → Nat → State) (hg : ∀ v0 v1, (g v0 v1).key = v0.key) : (seatControl s f step g).key = s.key := by
  unfold seatControl
  refine ite_key ?_ ?_
  · refine (fromSeatInbox_key _ _ _ ?_).trans ?_
    · intro a1 a2
      exact hg _ _
    · rfl
  · rfl
theorem restoreFromMirrorOp_key (s : State) (f : Flit) : (restoreFromMirrorOp s f).key = s.key := by
  unfold restoreFromMirrorOp
  refine ite_key ?_ ?_
  · refine (fromInbox_key _ _ _ _ ?_).trans ?_
    · intro a1
      extract_lets +onlyGivenNames z2 z3 z4
      clear_value z2 z3 z4
      refine ite_key ?_ ?_
      · rfl
      · extract_lets +onlyGivenNames z5 z6
        clear_value z5 z6
        refine (foldl_key _ ?_ _ _).trans ?_
        · intro a7 a8
          exact itvSend_key _ _
        · rfl
    · rfl
  · rfl
theorem holdExpiryOp_key (s : State) (g : Nat) (q : Nat) (t : Nat) : (holdExpiryOp s g q t).key = s.key := by
  unfold holdExpiryOp
  split
  · split
    · refine ite_key ?_ ?_
      · rfl
      · refine ite_key ?_ ?_
        · exact judgeMismatch_key _ _ _ _
        · split
          · rfl
          · exact abortColl_key _ _ _ _ _
    · rfl
  · rfl
theorem promptBookRestoredOp_key (s0 : State) (own : Option (List Bytes)) (mirror : Option (List Bytes)) : (promptBookRestoredOp s0 own mirror).key = s0.key := by
  unfold promptBookRestoredOp
  refine ite_key ?_ ?_
  · rfl
  · extract_lets +onlyGivenNames z1 z2 z3 z4
    clear_value z1 z3
    have h5 : z4.key = s0.key := by
      unfold z4
      exact upd_key rfl rfl rfl
    clear_value z4
    extract_lets +onlyGivenNames z6 z7 z8 z9
    clear_value z6 z8
    have h10 : z9.key = s0.key := by
      unfold z9
      refine upd_key rfl rfl ?_
      with_reducible assumption
    clear_value z9
    refine (checkReady_key _).trans ?_
    with_reducible assumption
theorem resultKeepExpiryOp_key (s : State) (g : Nat) (q : Nat) (k : Nat) : (resultKeepExpiryOp s g q k).key = s.key := by
  unfold resultKeepExpiryOp
  split
  · split
    · exact ite_key (modStripe_key _ _ _ _ _) rfl
    · rfl
  · rfl
theorem contribOp_key (s : State) (f : Flit) (bad : Bool) : (contribOp s f bad).key = s.key := by
  unfold contribOp
  refine ite_key ?_ ?_
  · refine getD_key ?_ ?_
    · intro a1 a2
      exact Eq.trans (takeContrib_key a2) (takeInbox_key _ _ _)
    · rfl
  · rfl

end Sys2Proof.Machine
end

