-- ==== Sys2Proof/Laws/KeepG.lean ====
section
/-! SUPPORT. What every operation leaves alone (Laws/Keep.lean): the operations of KeysRun, LinkCtl, Mgmt, SramRows. -/

namespace Sys2Proof.Machine

open Sys2Proof

/-! ## KeysRun -/

theorem scrubPart_key (v : Itvos) (part : Nat) : (scrubPart v part).fuse = v.fuse := by
  unfold scrubPart
  rfl
theorem onSeatService_key (s : State) (f : Flit) (code : Nat) (g : State → Nat → State) (hg : ∀ v0 v1, (g v0 v1).key = v0.key) : (onSeatService s f code g).key = s.key := by
  unfold onSeatService
  refine ite_key ?_ ?_
  · split
    · exact (settle_key _).trans (Eq.trans (hg _ _) (takeInbox_key _ _ _))
    · rfl
  · rfl
theorem strikeSlot_key (s : State) (part : Nat) (n : Nat) (slot : Nat) : (strikeSlot s part n slot).key = s.key := by
  unfold strikeSlot
  extract_lets +onlyGivenNames z1
  clear_value z1
  refine (foldl_key _ ?_ _ _).trans ?_
  · intro a2 a3
    exact (pieceEnd_key _ _ _ _ _).trans (dropUnsent_key _ _ _ _)
  · rfl
theorem keyRevokeOp_key (s : State) (f : Flit) : (keyRevokeOp s f).key = s.key := by
  unfold keyRevokeOp
  refine (onSeatService_key _ _ _ _ ?_).trans ?_
  · intro a1 a2
    extract_lets +onlyGivenNames z3
    clear_value z3
    refine ite_key ?_ ?_
    · rfl
    · extract_lets +onlyGivenNames z4 z5
      have h6 : z5.key = a1.key := by
        unfold z5
        exact (erasePartKeys_key _ _ _).trans (upd_key rfl rfl rfl)
      clear_value z5
      extract_lets +onlyGivenNames z7
      have h8 : z7.key = a1.key := by
        unfold z7
        refine (foldl_key _ ?_ _ _).trans ?_
        · intro a9 a10
          refine (foldl_key _ ?_ _ _).trans ?_
          · intro a11 a12
            exact strikeSlot_key _ _ _ _
          · rfl
        · with_reducible assumption
      clear_value z7
      refine (dropCaches_key _ _).trans ?_
      with_reducible assumption
  · rfl
theorem keyUseAfterOp_key (s : State) (d : Side) (ctx : BitVec 16) : (keyUseAfterOp s d ctx).key = s.key := by
  unfold keyUseAfterOp
  split
  · rfl
  · exact ite_key (setKeys_key _ _ _) rfl
theorem debugUnlockOp_key (s : State) (token : Bytes) : (debugUnlockOp s token).key = s.key := by
  unfold debugUnlockOp
  exact ite_key (upd_key rfl rfl rfl) rfl
theorem strikeSettleOp_key (s : State) (part : Nat) : (strikeSettleOp s part).key = s.key := by
  unfold strikeSettleOp
  split
  · rfl
  · refine ite_key ?_ ?_
    · extract_lets +onlyGivenNames z6 z7 z8 z9
      clear_value z7 z8
      have h10 : z9.key = s.key := by
        unfold z9
        exact upd_key rfl rfl rfl
      clear_value z9
      extract_lets +onlyGivenNames z11
      have h12 : z11.key = s.key := by
        unfold z11
        refine upd_key rfl rfl ?_
        with_reducible assumption
      clear_value z11
      refine (finishKept_key _ _ _ _).trans ?_
      with_reducible assumption
    · rfl
theorem partitionClearOp_key (s : State) (f : Flit) : (partitionClearOp s f).key = s.key := by
  unfold partitionClearOp
  refine (onSeatService_key _ _ _ _ ?_).trans ?_
  · intro a1 a2
    refine ite_key ?_ ?_
    · rfl
    · split
      · rename_i q3 q4 q5 q6
        extract_lets +onlyGivenNames z7
        have h8 : z7.key = a1.key := by
          unfold z7
          refine (foldl_key _ ?_ _ _).trans ?_
          · intro a9 a10
            exact oneDone_key _ _ _ _
          · exact pair_key q6 (takeCoherent_key _)
        clear_value z7
        extract_lets +onlyGivenNames z11
        have h12 : z11.key = a1.key := by
          unfold z11
          refine (dropCaches_key _ _).trans ?_
          with_reducible assumption
        clear_value z11
        refine upd_key rfl rfl ?_
        with_reducible assumption
  · rfl
theorem keyPushRepeatOp_key (s : State) (i : Nat) : (keyPushRepeatOp s i).key = s.key := by
  unfold keyPushRepeatOp
  split
  · rfl
  · refine ite_key ?_ ?_
    · rfl
    · exact ite_key (upd_key rfl rfl rfl) ((sendSeat_key _ _ _).trans (upd_key rfl rfl rfl))
theorem previousKeyEraseOp_key (s : State) (d : Side) (ctx : BitVec 16) : (previousKeyEraseOp s d ctx).key = s.key := by
  unfold previousKeyEraseOp
  split
  · rfl
  · exact ite_key (setKeys_key _ _ _) rfl
theorem keyPushOp_key (s : State) (r : Fin 24) (f : Flit) : (keyPushOp s r f).key = s.key := by
  unfold keyPushOp
  split
  · rfl
  · refine ite_key ?_ ?_
    · rfl
    · refine (onSeatService_key _ _ _ _ ?_).trans ?_
      · intro a6 a7
        extract_lets +onlyGivenNames z8 z9 z10 z11 z12 z13
        clear_value z8 z9 z10 z11 z12 z13
        refine ite_key ?_ ?_
        · rfl
        · split
          · rfl
          · refine ite_key ?_ ?_
            · exact bumpBC_key _ _
            · extract_lets +onlyGivenNames z19
              have h20 : z19.key = a6.key := by
                unfold z19
                exact installKey_key _ _ _ _ _ _ _
              clear_value z19
              refine upd_key rfl rfl ?_
              with_reducible assumption
      · rfl

/-! ## LinkCtl -/

theorem resyncReqOp_key (s : State) (r : PortRef) : (resyncReqOp s r).key = s.key := by
  unfold resyncReqOp
  exact ite_key (modPort_key _ _ _) rfl
theorem resyncRepeatOp_key (s : State) (r : PortRef) : (resyncRepeatOp s r).key = s.key := by
  unfold resyncRepeatOp
  extract_lets +onlyGivenNames z1
  clear_value z1
  exact ite_key (modPort_key _ _ _) rfl
theorem cueStampTimerOp_key (s : State) (r : PortRef) : (cueStampTimerOp s r).key = s.key := by
  unfold cueStampTimerOp
  extract_lets +onlyGivenNames z1
  clear_value z1
  exact ite_key (modPort_key _ _ _) rfl
theorem standinReqOp_key (s : State) (r : PortRef) : (standinReqOp s r).key = s.key := by
  unfold standinReqOp
  extract_lets +onlyGivenNames z1
  clear_value z1
  refine ite_key ?_ ?_
  · rfl
  · extract_lets +onlyGivenNames z2
    clear_value z2
    exact ite_key (leaveReady_key _ _ _ _) ((emit_key _ _).trans (modPort_key _ _ _))
theorem linkCtlOp_key (s : State) (r : PortRef) (f : Flit) : (linkCtlOp s r f).key = s.key := by
  unfold linkCtlOp
  extract_lets +onlyGivenNames z1 z2
  clear_value z1
  have h3 : z2.key = s.key := by
    unfold z2
    exact modPort_key _ _ _
  clear_value z2
  refine ite_key ?_ ?_
  · with_reducible assumption
  · extract_lets +onlyGivenNames z4 z5
    clear_value z4
    have h6 : z5.key = s.key := by
      unfold z5
      split
      · refine (foldl_key _ ?_ _ _).trans ?_
        · intro a9 a10
          exact bump_key _ _ _
        · with_reducible assumption
      · with_reducible assumption
    clear_value z5
    extract_lets +onlyGivenNames z13
    have h14 : z13.key = s.key := by
      unfold z13
      refine ite_key ?_ ?_
      · with_reducible assumption
      · refine (modPort_key _ _ _).trans ?_
        with_reducible assumption
    clear_value z13
    extract_lets +onlyGivenNames z15
    have h16 : z15.key = s.key := by
      unfold z15
      refine (cueArrival_key _ _ _).trans ?_
      with_reducible assumption
    clear_value z15
    refine ite_key ?_ ?_
    · refine (resyncReqOp_key _ _).trans ?_
      with_reducible assumption
    · refine ite_key ?_ ?_
      · refine (standinReqOp_key _ _).trans ?_
        with_reducible assumption
      · with_reducible assumption
theorem noMode_key (s : State) (r : PortRef) : (noMode s r).key = s.key := by
  unfold noMode
  exact failTo_key _ _ _ _
theorem rootClaimOp_key (s : State) : (rootClaimOp s).key = s.key := by
  unfold rootClaimOp
  extract_lets +onlyGivenNames z1
  clear_value z1
  split
  · rfl
  · extract_lets +onlyGivenNames z7
    clear_value z7
    exact ite_key (takeRoot_key _) rfl
theorem standinDeskewedOp_key (s : State) (r : PortRef) (lanes : BitVec 8) : (standinDeskewedOp s r lanes).key = s.key := by
  unfold standinDeskewedOp
  extract_lets +onlyGivenNames z1
  clear_value z1
  refine ite_key ?_ ?_
  · extract_lets +onlyGivenNames z2
    clear_value z2
    split
    · exact noMode_key _ _
    · exact modPort_key _ _ _
  · rfl
theorem parentTimeoutOp_key (s : State) (d : Side) : (parentTimeoutOp s d).key = s.key := by
  unfold parentTimeoutOp
  split
  · rfl
  · extract_lets +onlyGivenNames z6
    clear_value z6
    exact ite_key (loseParent_key _ _) rfl
theorem alignDoneOp_key (s : State) (r : PortRef) (f : Flit) (lanes : BitVec 8) : (alignDoneOp s r f lanes).key = s.key := by
  unfold alignDoneOp
  extract_lets +onlyGivenNames z1 z2
  clear_value z1
  have h3 : z2.key = s.key := by
    unfold z2
    exact modPort_key _ _ _
  clear_value z2
  refine ite_key ?_ ?_
  · split
    · refine (noMode_key _ _).trans ?_
      with_reducible assumption
    · refine (modPort_key _ _ _).trans ?_
      with_reducible assumption
  · with_reducible assumption

/-! ## Mgmt -/

theorem onSession_key (s : State) (k : Nat) (f : State → Session → State) (hf : ∀ v0 v1, (f v0 v1).key = v0.key) : (onSession s k f).key = s.key := by
  unfold onSession
  split
  · rfl
  · exact ite_key (hf _ _) (closeSession_key _ _)
theorem sessionOpenOp_key (s : State) (handshake : Bool) : (sessionOpenOp s handshake).key = s.key := by
  unfold sessionOpenOp
  extract_lets +onlyGivenNames z1
  clear_value z1
  refine ite_key ?_ ?_
  · rfl
  · refine ite_key ?_ ?_
    · exact (emit_key _ _).trans (upd_key rfl rfl rfl)
    · exact ite_key (upd_key rfl rfl rfl) ((emit_key _ _).trans (upd_key rfl rfl rfl))
theorem sessionCloseOp_key (s : State) (k : Nat) : (sessionCloseOp s k).key = s.key := by
  unfold sessionCloseOp
  exact upd_key rfl rfl rfl
theorem modSess_key (s : State) (k : Nat) (f : Session → Session) : (modSess s k f).key = s.key := by
  unfold modSess
  split
  · exact upd_key rfl rfl rfl
  · rfl
theorem sessReply_key (s : State) (k : Nat) (seq : Word) (r : Reply) : (sessReply s k seq r).key = s.key := by
  unfold sessReply
  exact (emit_key _ _).trans (modSess_key _ _ _)
theorem badMessage_key (s : State) (k : Nat) (seq : Word) (off : Nat) : (badMessage s k seq off).key = s.key := by
  unfold badMessage
  exact sessReply_key _ _ _ _
theorem mgmtCmd_key {code : Nat} {p : Bytes} {f : Cmd} (h : mgmtCmd code p = some f) : ∀ v0 v1, (f v0 v1).1.key = v0.key := by
  unfold mgmtCmd at h
  repeat' split at h
  all_goals first
    | (cases h; done)
    | (cases h; with_reducible exact identCmd_key)
    | (cases h; with_reducible exact linkStatusCmd_key)
    | (cases h; with_reducible exact seatingLoadCmd_key)
    | (cases h; with_reducible exact entranceReadCmd_key)
    | (cases h; with_reducible exact powerCapCmd_key)
    | (cases h; with_reducible exact ghostSetCmd_key)
    | (cases h; with_reducible exact paceReadCmd_key)
    | (cases h; with_reducible exact runLengthReadCmd_key)
    | (cases h; with_reducible exact countersReadCmd_key)
    | (cases h; with_reducible exact peepholeSetCmd_key)
    | (cases h; with_reducible exact resetPortDisableCmd_key)
    | (cases h; with_reducible exact resetPortEnableCmd_key)
    | (cases h; with_reducible exact resetPortRehearseCmd_key)
    | (cases h; with_reducible exact resetClusterCmd_key)
    | (cases h; with_reducible exact resetCoreCmd_key)
    | (cases h; with_reducible exact resetPartitionCmd_key)
    | (cases h; with_reducible exact resetWholeChipCmd_key)
    | (cases h; with_reducible exact resetPrompterCmd_key)
    | (cases h; with_reducible exact scriptStageCmd_key)
    | (cases h; with_reducible exact scriptSwitchCmd_key)
    | (cases h; with_reducible exact scriptBowCmd_key)
    | (cases h; with_reducible exact licenceApplyCmd_key)
    | (cases h; with_reducible exact attestFetchCmd_key)
theorem commandOp_key (s : State) (k : Nat) (seq : Word) (body : Bytes) : (commandOp s k seq body).key = s.key := by
  unfold commandOp
  refine onSession_key _ _ _ ?_
  intro a b
  dsimp only
  repeat' split
  all_goals first
    | with_reducible exact badMessage_key _ _ _ _
    | with_reducible exact sessReply_key _ _ _ _
    | (rename_i h _ _ _; exact (runCmd_key _ _ _ _ _ (mgmtCmd_key h)).trans (modSess_key _ _ _))
theorem anchorSetOp_key (s : State) (k : Nat) (seq : Word) (cert : Bytes) : (anchorSetOp s k seq cert).key = s.key := by
  unfold anchorSetOp
  refine (onSession_key _ _ _ ?_).trans ?_
  · intro a1 a2
    refine ite_key ?_ ?_
    · exact sessReply_key _ _ _ _
    · refine ite_key ?_ ?_
      · exact badMessage_key _ _ _ _
      · refine (closeAll_key _).trans ?_
        extract_lets +onlyGivenNames z3
        have h4 : z3.key = a1.key := by
          unfold z3
          exact sessReply_key _ _ _ _
        clear_value z3
        refine upd_key rfl rfl ?_
        with_reducible assumption
  · rfl
theorem sendNymco_key (s : State) (k : Nat) (typ : Nat) (body : Bytes) : (sendNymco s k typ body).key = s.key := by
  unfold sendNymco
  exact (drawFree_key _).trans (emit_key _ _)
theorem estimatorOp_key (s : State) (e : EstInputs) : (estimatorOp s e).key = s.key := by
  unfold estimatorOp
  refine ite_key ?_ ?_
  · rfl
  · extract_lets +onlyGivenNames z1 z2 z3 z4 z5
    clear_value z1 z2 z3 z4 z5
    exact upd_key rfl rfl rfl
theorem powerSetOp_key (s : State) (k : Nat) (seq : Word) (body : Bytes) : (powerSetOp s k seq body).key = s.key := by
  unfold powerSetOp
  refine (onSession_key _ _ _ ?_).trans ?_
  · intro a1 a2
    refine ite_key ?_ ?_
    · exact sessReply_key _ _ _ _
    · split
      · exact badMessage_key _ _ _ _
      · split
        · extract_lets +onlyGivenNames z13
          have h14 : z13.key = a1.key := by
            unfold z13
            exact modStore_key _ _
          extract_lets +onlyGivenNames z15
          have h16 : z15.key = a1.key := by
            unfold z15
            refine ite_key ?_ ?_
            · refine (setLevels_key _ _ _).trans ?_
              with_reducible assumption
            · with_reducible assumption
          extract_lets +onlyGivenNames z17
          have h18 : z17.key = a1.key := by
            unfold z17
            split
            · refine (setGhost_key _ _ _ _).trans ?_
              with_reducible assumption
            · with_reducible assumption
          extract_lets +onlyGivenNames z24
          clear_value z24
          refine (sessReply_key _ _ _ _).trans ?_
          with_reducible assumption
  · rfl
theorem helloOp_key (s : State) (k : Nat) (seq : Word) (body : Bytes) : (helloOp s k seq body).key = s.key := by
  unfold helloOp
  split
  · rfl
  · extract_lets +onlyGivenNames z6
    have h7 : ∀ b0, (z6 b0).key = b0.key := by
      unfold z6
      intro a8
      exact sendNymco_key _ _ _ _
    clear_value z6
    refine ite_key ?_ ?_
    · exact h7 _
    · refine ite_key ?_ ?_
      · exact badMessage_key _ _ _ _
      · split
        · exact badMessage_key _ _ _ _
        · extract_lets +onlyGivenNames z14
          clear_value z14
          exact ite_key (closeSession_key _ _) (Eq.trans (h7 _) (modSess_key _ _ _))
theorem nymcoUnknownTypeOp_key (s : State) (k : Nat) (typ : Nat) (seq : Word) : (nymcoUnknownTypeOp s k typ seq).key = s.key := by
  unfold nymcoUnknownTypeOp
  extract_lets +onlyGivenNames z1
  clear_value z1
  split
  · rfl
  · exact ite_key (badMessage_key _ _ _ _) (closeSession_key _ _)
theorem telemetrySnapshotOp_key (s : State) (k : Nat) : (telemetrySnapshotOp s k).key = s.key := by
  unfold telemetrySnapshotOp
  split
  · rfl
  · refine ite_key ?_ ?_
    · extract_lets +onlyGivenNames z6
      clear_value z6
      exact (sendNymco_key _ _ _ _).trans (modSess_key _ _ _)
    · rfl
theorem resultUnreadOp_key (s : State) (k : Nat) : (resultUnreadOp s k).key = s.key := by
  unfold resultUnreadOp
  split
  · exact ite_key (closeSession_key _ _) rfl
  · rfl
theorem heartbeatOp_key (s : State) (k : Nat) : (heartbeatOp s k).key = s.key := by
  unfold heartbeatOp
  refine (onSession_key _ _ _ ?_).trans ?_
  · intro a1 a2
    exact ite_key (heartbeatCame_key _) rfl
  · rfl
theorem spdmReply_key (s : State) (msg : Bytes) : (spdmReply s msg).1.key = s.key := by
  unfold spdmReply
  split
  · rename_i q1 q2 q3 q4
    exact mk_fst_key (pair_key q4 (freeDigest_key _))
theorem spdmOp_key (s : State) (k : Option Nat) (msg : Bytes) : (spdmOp s k msg).key = s.key := by
  unfold spdmOp
  split
  · refine ite_key ?_ ?_
    · split
      · rename_i q2 q3 q4 q5
        exact (emit_key _ _).trans (pair_key q5 (spdmReply_key _ _))
    · rfl
  · refine (onSession_key _ _ _ ?_).trans ?_
    · intro a8 a9
      split
      · rename_i q10 q11 q12 q13
        exact (sendNymco_key _ _ _ _).trans (pair_key q13 (spdmReply_key _ _))
    · rfl
theorem subscribeOp_key (s : State) (k : Nat) (seq : Word) (body : Bytes) : (subscribeOp s k seq body).key = s.key := by
  unfold subscribeOp
  refine (onSession_key _ _ _ ?_).trans ?_
  · intro a1 a2
    refine ite_key ?_ ?_
    · exact sessReply_key _ _ _ _
    · split
      · exact badMessage_key _ _ _ _
      · extract_lets +onlyGivenNames z8
        have h9 : z8.key = a1.key := by
          unfold z8
          exact modSess_key _ _ _
        clear_value z8
        refine (sessReply_key _ _ _ _).trans ?_
        with_reducible assumption
  · rfl

/-! ## SramRows -/

theorem bumpCore_key (s : State) (d : Nat) (k : Nat) : (bumpCore s d k).key = s.key := by
  unfold bumpCore
  exact bump_key _ _ _
theorem stagingLost_key (s : State) (d : Nat) (cl : Nat) : (stagingLost s d cl).key = s.key := by
  unfold stagingLost
  extract_lets +onlyGivenNames z1
  have h2 : z1.key = s.key := by
    unfold z1
    exact bumpCore_key _ _ _
  clear_value z1
  extract_lets +onlyGivenNames z3 z4 z5
  clear_value z4
  have h6 : z5.key = s.key := by
    unfold z5
    refine ite_key ?_ ?_
    · with_reducible assumption
    · refine (raiseEvent_key _ _).trans ?_
      refine (bumpColl_key _ _).trans ?_
      refine upd_key rfl rfl ?_
      with_reducible assumption
  clear_value z5
  refine (foldl_key _ ?_ _ _).trans ?_
  · intro a7 a8
    exact remapOwn_key _ _ _
  · with_reducible assumption
theorem bufferLost_key (s : State) (o : Nat) (i : Nat) : (bufferLost s o i).key = s.key := by
  unfold bufferLost
  split
  · rfl
  · refine ite_key ?_ ?_
    · rfl
    · extract_lets +onlyGivenNames z6
      have h7 : z6.key = s.key := by
        unfold z6
        exact pathDrop_key _ _ _ _
      clear_value z6
      split
      · refine (modItvPort_key _ _ _).trans ?_
        with_reducible assumption
      · extract_lets +onlyGivenNames z13
        have h14 : z13.key = s.key := by
          unfold z13
          refine (foldl_key _ ?_ _ _).trans ?_
          · intro a15 a16
            exact modItvPort_key _ _ _
          · with_reducible assumption
        clear_value z13
        refine upd_key rfl rfl ?_
        with_reducible assumption
theorem entryLost_key (s : State) (key : Nat) : (entryLost s key).key = s.key := by
  unfold entryLost
  split
  · rfl
  · extract_lets +onlyGivenNames z6
    have h7 : z6.key = s.key := by
      unfold z6
      exact bumpCoh_key _ _
    clear_value z6
    split
    · refine (modDir_key _ _).trans ?_
      with_reducible assumption
    · extract_lets +onlyGivenNames z13
      clear_value z13
      refine ite_key ?_ ?_
      · refine ite_key ?_ ?_
        · with_reducible assumption
        · refine (sendNotices_key _ _).trans ?_
          refine (domainDown_key _ _).trans ?_
          with_reducible assumption
      · refine ite_key ?_ ?_
        · refine (foldl_key _ ?_ _ _).trans ?_
          · intro a14 a15
            exact sendInv_key _ _ _ _ _
          · with_reducible assumption
        · refine (openGroup_key _ _ _ _).trans ?_
          refine (modDir_key _ _).trans ?_
          with_reducible assumption
theorem castLost_key (s : State) (g : Nat) : (castLost s g).key = s.key := by
  unfold castLost
  split
  · rfl
  · refine (foldl_key _ ?_ _ _).trans ?_
    · intro a6 a7
      exact abortColl_key _ _ _ _ _
    · rfl
theorem flowLostAt_key (s : State) (seat : Nat) : (flowLostAt s seat).key = s.key := by
  unfold flowLostAt
  extract_lets +onlyGivenNames z1 z2
  clear_value z1
  have h3 : z2.key = s.key := by
    unfold z2
    exact bumpDel_key _ _
  clear_value z2
  refine upd_key rfl rfl ?_
  with_reducible assumption
theorem keyLost_key (s : State) (job : Option (BitVec 16)) (pool : Option (Nat × Bool)) : (keyLost s job pool).key = s.key := by
  unfold keyLost
  extract_lets +onlyGivenNames z1 z2 z3
  clear_value z2
  have h4 : z3.key = s.key := by
    unfold z3
    split
    · exact upd_key rfl rfl rfl
    · rfl
  clear_value z3
  extract_lets +onlyGivenNames z8 z9 z10
  clear_value z9
  have h11 : z10.key = s.key := by
    unfold z10
    split
    · refine upd_key rfl rfl ?_
      with_reducible assumption
    · with_reducible assumption
  clear_value z10
  refine (raiseEvent_key _ _).trans ?_
  refine (bump_key _ _ _).trans ?_
  with_reducible assumption
theorem sramLost_key (s : State) (d : Nat) (u2 : SramPart) : (sramLost s d u2).key = s.key := by
  unfold sramLost
  split
  · exact bufferLost_key _ _ _
  · exact entryLost_key _ _
  · exact stagingLost_key _ _ _
  · exact (poisonBlock_key _ _).trans (poisonBlock_key _ _)
  · extract_lets +onlyGivenNames z12
    have h13 : z12.key = s.key := by
      unfold z12
      exact bumpCore_key _ _ _
    clear_value z12
    refine upd_key rfl rfl ?_
    with_reducible assumption
  · exact (castLost_key _ _).trans (bumpCore_key _ _ _)
  · exact (dropWaiting_key _ _).trans (bumpCore_key _ _ _)
  · exact flowLostAt_key _ _
  · exact keyLost_key _ _ _
  · exact keyLost_key _ _ _
  · exact (raiseEvent_key _ _).trans ((prompterReset_key _ _).trans (bumpCore_key _ _ _))
theorem sramScrubOp_key (s : State) (d : Fin 2) (part : SramPart) (found : ScrubFound) : (sramScrubOp s d part found).key = s.key := by
  unfold sramScrubOp
  split
  · rfl
  · extract_lets +onlyGivenNames z4
    have h5 : z4.key = s.key := by
      unfold z4
      exact bumpCore_key _ _ _
    clear_value z4
    refine ite_key ?_ ?_
    · refine upd_key rfl rfl ?_
      with_reducible assumption
    · with_reducible assumption
  · exact (sramLost_key _ _ _).trans (bumpCore_key _ _ _)
theorem tableReloadOp_key (s : State) (key : Nat) : (tableReloadOp s key).key = s.key := by
  unfold tableReloadOp
  exact upd_key rfl rfl rfl

end Sys2Proof.Machine
end

