-- ==== Sys2Proof/Laws/KeepExec.lean ====
section
/-! SUPPORT. What every command leaves alone (Laws/Keep.lean): one lemma for each meaning, then for exec. -/

namespace Sys2Proof.Machine

open Sys2Proof

theorem next_key {a t : State} {k : Nat × List Instr × Fuses × BFuses} (h : (Host.Outcome.next a : Res) = .next t) (ha : a.key = k) :
    t.key = k := (congrArg State.key (Host.Outcome.next.inj h)).symm.trans ha

theorem execIdent_key {s₁ : State} (slot : Fin 8) (s : State) (h : execIdent slot s = .next s₁) : s₁.key = s.key :=
  next_key h (cmdRow_key _ _ _ _ _ _ _ _ (fun u c => identCmd_key u c))
theorem execLinkStatus_key {s₁ : State} (slot : Fin 8) (s : State) (h : execLinkStatus slot s = .next s₁) : s₁.key = s.key :=
  next_key h (cmdRow_key _ _ _ _ _ _ _ _ (fun u c => linkStatusCmd_key u c))
theorem execSeatingLoad_key {s₁ : State} (slot : Fin 8) (host : HostRead) (s : State)
    (h : execSeatingLoad slot host s = .next s₁) : s₁.key = s.key :=
  next_key h (cmdRow_key _ _ _ _ _ _ _ _ (fun u c => seatingLoadCmd_key u c))
theorem execRouteStage_key {s₁ : State} (slot : Fin 8) (host : HostRead) (s : State)
    (h : execRouteStage slot host s = .next s₁) : s₁.key = s.key :=
  next_key h (cmdRow_key _ _ _ _ _ _ _ _ (fun u c => routeStageCmd_key u c))
theorem execRouteCommit_key {s₁ : State} (slot : Fin 8) (s : State) (h : execRouteCommit slot s = .next s₁) : s₁.key = s.key :=
  next_key h (cmdRow_key _ _ _ _ _ _ _ _ (fun u c => routeCommitCmd_key u c))
theorem execRouteDrainEnd_key {s₁ : State} (s : State) (h : execRouteDrainEnd s = .next s₁) : s₁.key = s.key :=
  next_key h (routeDrainEndOp_key _)
theorem execCastSet_key {s₁ : State} (slot : Fin 8) (host : HostRead) (s : State)
    (h : execCastSet slot host s = .next s₁) : s₁.key = s.key :=
  next_key h (cmdRow_key _ _ _ _ _ _ _ _ (fun u c => castSetCmd_key u c))
theorem execCueSheetAdd_key {s₁ : State} (slot : Fin 8) (s : State) (h : execCueSheetAdd slot s = .next s₁) : s₁.key = s.key :=
  next_key h (cmdRow_key _ _ _ _ _ _ _ _ (fun u c => cueSheetAddCmd_key u c))
theorem execCueArm_key {s₁ : State} (slot : Fin 8) (s : State) (h : execCueArm slot s = .next s₁) : s₁.key = s.key :=
  next_key h (cmdRow_key _ _ _ _ _ _ _ _ (fun u c => cueArmCmd_key u c))
theorem execCurtainSet_key {s₁ : State} (slot : Fin 8) (s : State) (h : execCurtainSet slot s = .next s₁) : s₁.key = s.key :=
  next_key h (cmdRow_key _ _ _ _ _ _ _ _ (fun u c => curtainSetCmd_key u c))
theorem execUnderstudySwap_key {s₁ : State} (slot : Fin 8) (s : State) (h : execUnderstudySwap slot s = .next s₁) : s₁.key = s.key :=
  next_key h (cmdRow_key _ _ _ _ _ _ _ _ (fun u c => understudySwapCmd_key u c))
theorem execPromptBookRead_key {s₁ : State} (slot : Fin 8) (landed : Bool) (s : State)
    (h : execPromptBookRead slot landed s = .next s₁) : s₁.key = s.key :=
  next_key h (cmdRow_key _ _ _ _ _ _ _ _ (fun u c => promptBookReadCmd_key u c))
theorem execEntranceRead_key {s₁ : State} (slot : Fin 8) (landed : Bool) (s : State)
    (h : execEntranceRead slot landed s = .next s₁) : s₁.key = s.key :=
  next_key h (cmdRow_key _ _ _ _ _ _ _ _ (fun u c => entranceReadCmd_key u c))
theorem execChorusLoad_key {s₁ : State} (slot : Fin 8) (host : HostRead) (s : State)
    (h : execChorusLoad slot host s = .next s₁) : s₁.key = s.key :=
  next_key h (cmdRow_key _ _ _ _ _ _ _ _ (fun u c => chorusObjectCmd_key _ u c))
theorem execChorusCheck_key {s₁ : State} (slot : Fin 8) (host : HostRead) (s : State)
    (h : execChorusCheck slot host s = .next s₁) : s₁.key = s.key :=
  next_key h (cmdRow_key _ _ _ _ _ _ _ _ (fun u c => chorusObjectCmd_key _ u c))
theorem execPoolCarveCreate_key {s₁ : State} (slot : Fin 8) (s : State) (h : execPoolCarveCreate slot s = .next s₁) : s₁.key = s.key :=
  next_key h (cmdRow_key _ _ _ _ _ _ _ _ (fun u c => poolCarveCreateCmd_key u c))
theorem execPoolCarveRelease_key {s₁ : State} (slot : Fin 8) (s : State) (h : execPoolCarveRelease slot s = .next s₁) : s₁.key = s.key :=
  next_key h (cmdRow_key _ _ _ _ _ _ _ _ (fun u c => poolCarveReleaseCmd_key u c))
theorem execPoolCarveWindow_key {s₁ : State} (slot : Fin 8) (s : State) (h : execPoolCarveWindow slot s = .next s₁) : s₁.key = s.key :=
  next_key h (cmdRow_key _ _ _ _ _ _ _ _ (fun u c => poolCarveWindowCmd_key u c))
theorem execPoolCarveClearWindow_key {s₁ : State} (slot : Fin 8) (s : State)
    (h : execPoolCarveClearWindow slot s = .next s₁) : s₁.key = s.key :=
  next_key h (cmdRow_key _ _ _ _ _ _ _ _ (fun u c => poolCarveClearWindowCmd_key u c))
theorem execTierPolicySettings_key {s₁ : State} (slot : Fin 8) (s : State)
    (h : execTierPolicySettings slot s = .next s₁) : s₁.key = s.key :=
  next_key h (cmdRow_key _ _ _ _ _ _ _ _ (fun u c => tierPolicySettingsCmd_key u c))
theorem execTierPolicyClass_key {s₁ : State} (slot : Fin 8) (s : State) (h : execTierPolicyClass slot s = .next s₁) : s₁.key = s.key :=
  next_key h (cmdRow_key _ _ _ _ _ _ _ _ (fun u c => tierPolicyClassCmd_key u c))
theorem execWardrobeCarveCreate_key {s₁ : State} (slot : Fin 8) (s : State)
    (h : execWardrobeCarveCreate slot s = .next s₁) : s₁.key = s.key :=
  next_key h (cmdRow_key _ _ _ _ _ _ _ _ (fun u c => wardrobeCarveCreateCmd_key u c))
theorem execWardrobeCarveRelease_key {s₁ : State} (slot : Fin 8) (s : State)
    (h : execWardrobeCarveRelease slot s = .next s₁) : s₁.key = s.key :=
  next_key h (cmdRow_key _ _ _ _ _ _ _ _ (fun u c => wardrobeCarveReleaseCmd_key u c))
theorem execWardrobeCarveReclaim_key {s₁ : State} (slot : Fin 8) (s : State)
    (h : execWardrobeCarveReclaim slot s = .next s₁) : s₁.key = s.key :=
  next_key h (cmdRow_key _ _ _ _ _ _ _ _ (fun u c => wardrobeCarveReclaimCmd_key u c))
theorem execPartitionSet_key {s₁ : State} (slot : Fin 8) (s : State) (h : execPartitionSet slot s = .next s₁) : s₁.key = s.key :=
  next_key h (cmdRow_key _ _ _ _ _ _ _ _ (fun u c => partitionSetCmd_key u c))
theorem execKeyInstallJob_key {s₁ : State} (slot : Fin 8) (s : State) (h : execKeyInstallJob slot s = .next s₁) : s₁.key = s.key :=
  next_key h (cmdRow_key _ _ _ _ _ _ _ _ (fun u c => keyInstallJobCmd_key u c))
theorem execKeyInstallPool_key {s₁ : State} (slot : Fin 8) (s : State) (h : execKeyInstallPool slot s = .next s₁) : s₁.key = s.key :=
  next_key h (cmdRow_key _ _ _ _ _ _ _ _ (fun u c => keyInstallPoolCmd_key u c))
theorem execKeyRotate_key {s₁ : State} (slot : Fin 8) (s : State) (h : execKeyRotate slot s = .next s₁) : s₁.key = s.key :=
  next_key h (cmdRow_key _ _ _ _ _ _ _ _ (fun u c => keyRotateCmd_key u c))
theorem execStrike_key {s₁ : State} (slot : Fin 8) (s : State) (h : execStrike slot s = .next s₁) : s₁.key = s.key :=
  next_key h (cmdRow_key _ _ _ _ _ _ _ _ (fun u c => strikeCmd_key u c))
theorem execPowerCap_key {s₁ : State} (slot : Fin 8) (s : State) (h : execPowerCap slot s = .next s₁) : s₁.key = s.key :=
  next_key h (cmdRow_key _ _ _ _ _ _ _ _ (fun u c => powerCapCmd_key u c))
theorem execGhostSet_key {s₁ : State} (slot : Fin 8) (s : State) (h : execGhostSet slot s = .next s₁) : s₁.key = s.key :=
  next_key h (cmdRow_key _ _ _ _ _ _ _ _ (fun u c => ghostSetCmd_key u c))
theorem execPaceRead_key {s₁ : State} (slot : Fin 8) (s : State) (h : execPaceRead slot s = .next s₁) : s₁.key = s.key :=
  next_key h (cmdRow_key _ _ _ _ _ _ _ _ (fun u c => paceReadCmd_key u c))
theorem execRunLengthRead_key {s₁ : State} (slot : Fin 8) (s : State) (h : execRunLengthRead slot s = .next s₁) : s₁.key = s.key :=
  next_key h (cmdRow_key _ _ _ _ _ _ _ _ (fun u c => runLengthReadCmd_key u c))
theorem execCountersRead_key {s₁ : State} (slot : Fin 8) (landed : Bool) (s : State)
    (h : execCountersRead slot landed s = .next s₁) : s₁.key = s.key :=
  next_key h (cmdRow_key _ _ _ _ _ _ _ _ (fun u c => countersReadCmd_key u c))
theorem execPeepholeSet_key {s₁ : State} (slot : Fin 8) (s : State) (h : execPeepholeSet slot s = .next s₁) : s₁.key = s.key :=
  next_key h (cmdRow_key _ _ _ _ _ _ _ _ (fun u c => peepholeSetCmd_key u c))
theorem execResetPrompter_key {s₁ : State} (slot : Fin 8) (s : State) (h : execResetPrompter slot s = .next s₁) : s₁.key = s.key :=
  next_key h (cmdRow_key _ _ _ _ _ _ _ _ (fun u c => resetPrompterCmd_key u c))
theorem execResetPortRehearse_key {s₁ : State} (slot : Fin 8) (s : State) (h : execResetPortRehearse slot s = .next s₁) : s₁.key = s.key :=
  next_key h (cmdRow_key _ _ _ _ _ _ _ _ (fun u c => resetPortRehearseCmd_key u c))
theorem execResetPortDisable_key {s₁ : State} (slot : Fin 8) (s : State) (h : execResetPortDisable slot s = .next s₁) : s₁.key = s.key :=
  next_key h (cmdRow_key _ _ _ _ _ _ _ _ (fun u c => resetPortDisableCmd_key u c))
theorem execResetPortEnable_key {s₁ : State} (slot : Fin 8) (s : State) (h : execResetPortEnable slot s = .next s₁) : s₁.key = s.key :=
  next_key h (cmdRow_key _ _ _ _ _ _ _ _ (fun u c => resetPortEnableCmd_key u c))
theorem execResetCluster_key {s₁ : State} (slot : Fin 8) (s : State) (h : execResetCluster slot s = .next s₁) : s₁.key = s.key :=
  next_key h (cmdRow_key _ _ _ _ _ _ _ _ (fun u c => resetClusterCmd_key u c))
theorem execResetCore_key {s₁ : State} (slot : Fin 8) (s : State) (h : execResetCore slot s = .next s₁) : s₁.key = s.key :=
  next_key h (cmdRow_key _ _ _ _ _ _ _ _ (fun u c => resetCoreCmd_key u c))
theorem execResetPartition_key {s₁ : State} (slot : Fin 8) (s : State) (h : execResetPartition slot s = .next s₁) : s₁.key = s.key :=
  next_key h (cmdRow_key _ _ _ _ _ _ _ _ (fun u c => resetPartitionCmd_key u c))
theorem execResetWholeChip_key {s₁ : State} (slot : Fin 8) (s : State) (h : execResetWholeChip slot s = .next s₁) : s₁.key = s.key :=
  next_key h (cmdRow_key _ _ _ _ _ _ _ _ (fun u c => resetWholeChipCmd_key u c))
theorem execScriptStage_key {s₁ : State} (slot : Fin 8) (host : HostRead) (s : State)
    (h : execScriptStage slot host s = .next s₁) : s₁.key = s.key :=
  next_key h (cmdRow_key _ _ _ _ _ _ _ _ (fun u c => scriptStageCmd_key u c))
theorem execScriptSwitch_key {s₁ : State} (slot : Fin 8) (s : State) (h : execScriptSwitch slot s = .next s₁) : s₁.key = s.key :=
  next_key h (cmdRow_key _ _ _ _ _ _ _ _ (fun u c => scriptSwitchCmd_key u c))
theorem execScriptBow_key {s₁ : State} (slot : Fin 8) (s : State) (h : execScriptBow slot s = .next s₁) : s₁.key = s.key :=
  next_key h (cmdRow_key _ _ _ _ _ _ _ _ (fun u c => scriptBowCmd_key u c))
theorem execLicenceApply_key {s₁ : State} (slot : Fin 8) (s : State) (h : execLicenceApply slot s = .next s₁) : s₁.key = s.key :=
  next_key h (cmdRow_key _ _ _ _ _ _ _ _ (fun u c => licenceApplyCmd_key u c))
theorem execAttestFetch_key {s₁ : State} (slot : Fin 8) (landed : Bool) (s : State)
    (h : execAttestFetch slot landed s = .next s₁) : s₁.key = s.key :=
  next_key h (cmdRow_key _ _ _ _ _ _ _ _ (fun u c => attestFetchCmd_key u c))
theorem execUnknownCommand_key {s₁ : State} (slot : Fin 8) (s : State) (h : execUnknownCommand slot s = .next s₁) : s₁.key = s.key :=
  next_key h (unknownCommandOp_key _ _)
theorem execCallboardHwAnswer_key {s₁ : State} (slot : Fin 8) (s : State) (h : execCallboardHwAnswer slot s = .next s₁) : s₁.key = s.key :=
  next_key h (hwAnswerOp_key _ _)
theorem execCommandTimeout_key {s₁ : State} (slot : Fin 8) (applied : Bool) (s : State)
    (h : execCommandTimeout slot applied s = .next s₁) : s₁.key = s.key :=
  next_key h (commandTimeoutOp_key _ _ _)
theorem execRegisterWrite_key {s₁ : State} (w : RegWrite) (s : State) (h : execRegisterWrite w s = .next s₁) : s₁.key = s.key :=
  next_key h (registerWriteOp_key _ _)
theorem execEventCauseWrite_key {s₁ : State} (v : Word) (s : State) (h : execEventCauseWrite v s = .next s₁) : s₁.key = s.key :=
  next_key h (eventCauseWriteOp_key _ _)
theorem execMsixVectorUnmask_key {s₁ : State} (v : Fin 16) (s : State) (h : execMsixVectorUnmask v s = .next s₁) : s₁.key = s.key :=
  next_key h (msixUnmaskOp_key _ _)
theorem execMirrorRefresh_key {s₁ : State} (s : State) (h : execMirrorRefresh s = .next s₁) : s₁.key = s.key :=
  next_key h (mirrorRefreshOp_key _)
theorem execFunctionLevelReset_key {s₁ : State} (s : State) (h : execFunctionLevelReset s = .next s₁) : s₁.key = s.key :=
  next_key h (flrOp_key _)
theorem execPerstN_key {s₁ : State} (level : Bool) (s : State) (h : execPerstN level s = .next s₁) : s₁.key = s.key :=
  next_key h (perstOp_key _ _)
theorem execCxlLinkDown_key {s₁ : State} (s : State) (h : execCxlLinkDown s = .next s₁) : s₁.key = s.key :=
  next_key h (cxlLinkDownOp_key _)
theorem execCxlMemRead_key {s₁ : State} (offset : Nat) (hw : HomeHw) (s : State)
    (h : execCxlMemRead offset hw s = .next s₁) : s₁.key = s.key :=
  next_key h (cxlMemReadOp_key _ _ _)
theorem execCxlMemWrite_key {s₁ : State} (offset : Nat) (data : Bytes) (s : State)
    (h : execCxlMemWrite offset data s = .next s₁) : s₁.key = s.key :=
  next_key h (cxlMemWriteOp_key _ _ _)
theorem execPortRetry_key {s₁ : State} (r : PortRef) (s : State) (h : execPortRetry r s = .next s₁) : s₁.key = s.key :=
  next_key h (portRetryOp_key _ _)
theorem execDetect_key {s₁ : State} (r : PortRef) (obs : DetectObs) (s : State) (h : execDetect r obs s = .next s₁) : s₁.key = s.key :=
  next_key h (detectOp_key _ _ _)
theorem execClock_key {s₁ : State} (r : PortRef) (obs : ClockObs) (s : State) (h : execClock r obs s = .next s₁) : s₁.key = s.key :=
  next_key h (clockOp_key _ _ _)
theorem execAlign_key {s₁ : State} (r : PortRef) (obs : AlignObs) (s : State) (h : execAlign r obs s = .next s₁) : s₁.key = s.key :=
  next_key h (alignOp_key _ _ _)
theorem execOfferFrame_key {s₁ : State} (r : PortRef) (frame : Bytes) (s : State)
    (h : execOfferFrame r frame s = .next s₁) : s₁.key = s.key := by
  unfold execOfferFrame at h
  split at h
  · exact next_key h (offerFrameOp_key _ _ _)
  · cases h
theorem execNames_key {s₁ : State} (r : PortRef) (s : State) (h : execNames r s = .next s₁) : s₁.key = s.key :=
  next_key h (namesOp_key _ _)
theorem execShift_key {s₁ : State} (r : PortRef) (s : State) (h : execShift r s = .next s₁) : s₁.key = s.key :=
  next_key h (shiftOp_key _ _)
theorem execTapRequest_key {s₁ : State} (r : PortRef) (lane : Fin 9) (pre : BitVec 2) (_mid : BitVec 2) (post : BitVec 2) (s : State)
    (h : execTapRequest r lane pre _mid post s = .next s₁) : s₁.key = s.key :=
  next_key h (tapRequestOp_key _ _ _ _ _)
theorem execTuneDone_key {s₁ : State} (r : PortRef) (s : State) (h : execTuneDone r s = .next s₁) : s₁.key = s.key :=
  next_key h (tuneDoneOp_key _ _)
theorem execTuneTimeout_key {s₁ : State} (r : PortRef) (s : State) (h : execTuneTimeout r s = .next s₁) : s₁.key = s.key :=
  next_key h (tuneTimeoutOp_key _ _)
theorem execDressRehearsal_key {s₁ : State} (r : PortRef) (own : DressObs) (partner : DressObs) (s : State)
    (h : execDressRehearsal r own partner s = .next s₁) : s₁.key = s.key :=
  next_key h (dressOp_key _ _ _ _)
theorem execRehearsalTimeout_key {s₁ : State} (r : PortRef) (s : State) (h : execRehearsalTimeout r s = .next s₁) : s₁.key = s.key :=
  next_key h (rehearsalTimeoutOp_key _ _)
theorem execRunningMonitor_key {s₁ : State} (r : PortRef) (obs : DressObs) (s : State)
    (h : execRunningMonitor r obs s = .next s₁) : s₁.key = s.key :=
  next_key h (runningMonitorOp_key _ _ _)
theorem execPhaseRecentre_key {s₁ : State} (r : PortRef) (steps : List Int) (s : State)
    (h : execPhaseRecentre r steps s = .next s₁) : s₁.key = s.key :=
  next_key h (phaseRecentreOp_key _ _ _)
theorem execShortProbe_key {s₁ : State} (r : PortRef) (lane : Fin 9) (still : Bool) (s : State)
    (h : execShortProbe r lane still s = .next s₁) : s₁.key = s.key :=
  next_key h (shortProbeOp_key _ _ _ _)
theorem execClockLoss_key {s₁ : State} (r : PortRef) (s : State) (h : execClockLoss r s = .next s₁) : s₁.key = s.key :=
  next_key h (clockLossOp_key _ _)
theorem execStandinTimeout_key {s₁ : State} (r : PortRef) (s : State) (h : execStandinTimeout r s = .next s₁) : s₁.key = s.key :=
  next_key h (standinTimeoutOp_key _ _)
theorem execRefclkLoss_key {s₁ : State} (side : Side) (inputB : Bool) (s : State)
    (h : execRefclkLoss side inputB s = .next s₁) : s₁.key = s.key :=
  next_key h (refclkLossOp_key _ _ _)
theorem execRefclkHoldoverEnd_key {s₁ : State} (side : Side) (s : State) (h : execRefclkHoldoverEnd side s = .next s₁) : s₁.key = s.key :=
  next_key h (refclkHoldoverEndOp_key _ _)
theorem execRefclkReturn_key {s₁ : State} (side : Side) (inputB : Bool) (s : State)
    (h : execRefclkReturn side inputB s = .next s₁) : s₁.key = s.key :=
  next_key h (refclkReturnOp_key _ _ _)
theorem execFlitArrival_key {s₁ : State} (r : PortRef) (raw : Bytes) (s : State)
    (h : execFlitArrival r raw s = .next s₁) : s₁.key = s.key := by
  unfold execFlitArrival at h
  split at h
  · exact next_key h (flitArrivalOp_key _ _ _)
  · cases h
theorem execFlitPlace_key {s₁ : State} (sel : PlaceSel) (fate : CoreFate) (s : State)
    (h : execFlitPlace sel fate s = .next s₁) : s₁.key = s.key :=
  next_key h (flitPlaceOp_key _ _ _)
theorem execFlitTransmit_key {s₁ : State} (r : PortRef) (s : State) (h : execFlitTransmit r s = .next s₁) : s₁.key = s.key :=
  next_key h (flitTransmitOp_key _ _)
theorem execReseqSkip_key {s₁ : State} (inp : Nat) (out : Fin 72) (vc : Fin 8) (s : State)
    (h : execReseqSkip inp out vc s = .next s₁) : s₁.key = s.key :=
  next_key h (reseqSkipOp_key _ _ _ _)
theorem execPathRetire_key {s₁ : State} (die : Fin 2) (path : Fin 8) (s : State)
    (h : execPathRetire die path s = .next s₁) : s₁.key = s.key :=
  next_key h (pathRetireOp_key _ _ _)
theorem execPaceUpdate_key {s₁ : State} (of : PaceOf) (readings : List Nat) (s : State)
    (h : execPaceUpdate of readings s = .next s₁) : s₁.key = s.key :=
  next_key h (paceUpdateOp_key _ _ _)
theorem execFlitAged_key {s₁ : State} (loc : AgedAt) (s : State) (h : execFlitAged loc s = .next s₁) : s₁.key = s.key :=
  next_key h (flitAgedOp_key _ _)
theorem execLinkCtl_key {s₁ : State} (r : PortRef) (f : Flit) (s : State) (h : execLinkCtl r f s = .next s₁) : s₁.key = s.key :=
  next_key h (linkCtlOp_key _ _ _)
theorem execResyncReq_key {s₁ : State} (r : PortRef) (s : State) (h : execResyncReq r s = .next s₁) : s₁.key = s.key :=
  next_key h (resyncReqOp_key _ _)
theorem execResyncRepeat_key {s₁ : State} (r : PortRef) (s : State) (h : execResyncRepeat r s = .next s₁) : s₁.key = s.key :=
  next_key h (resyncRepeatOp_key _ _)
theorem execStandinReq_key {s₁ : State} (r : PortRef) (s : State) (h : execStandinReq r s = .next s₁) : s₁.key = s.key :=
  next_key h (standinReqOp_key _ _)
theorem execAlignDone_key {s₁ : State} (r : PortRef) (f : Flit) (lanes : BitVec 8) (s : State)
    (h : execAlignDone r f lanes s = .next s₁) : s₁.key = s.key :=
  next_key h (alignDoneOp_key _ _ _ _)
theorem execCueStampTimer_key {s₁ : State} (r : PortRef) (s : State) (h : execCueStampTimer r s = .next s₁) : s₁.key = s.key :=
  next_key h (cueStampTimerOp_key _ _)
theorem execParentTimeout_key {s₁ : State} (side : Side) (s : State) (h : execParentTimeout side s = .next s₁) : s₁.key = s.key :=
  next_key h (parentTimeoutOp_key _ _)
theorem execRootClaim_key {s₁ : State} (s : State) (h : execRootClaim s = .next s₁) : s₁.key = s.key :=
  next_key h (rootClaimOp_key _)
theorem execDirRequest_key {s₁ : State} (f : Flit) (s : State) (h : execDirRequest f s = .next s₁) : s₁.key = s.key :=
  next_key h (dirRequestOp_key _ _)
theorem execLoad_key {s₁ : State} (side : Side) (f : Flit) (hw : HomeHw) (s : State)
    (h : execLoad side f hw s = .next s₁) : s₁.key = s.key := by
  cases side
  · exact next_key h (fromHome_key _ _ _ _)
  · exact next_key h ((settle_key _).trans (seatRequest_key _ _ _ _))
theorem execStore_key {s₁ : State} (side : Side) (f : Flit) (hw : HomeHw) (s : State)
    (h : execStore side f hw s = .next s₁) : s₁.key = s.key := by
  cases side
  · exact next_key h (fromHome_key _ _ _ _)
  · exact next_key h ((settle_key _).trans (seatRequest_key _ _ _ _))
theorem execAtomic_key {s₁ : State} (side : Side) (f : Flit) (hw : HomeHw) (s : State)
    (h : execAtomic side f hw s = .next s₁) : s₁.key = s.key := by
  cases side
  · exact next_key h (fromHome_key _ _ _ _)
  · exact next_key h ((settle_key _).trans (seatRequest_key _ _ _ _))
theorem execFence_key {s₁ : State} (f : Flit) (s : State) (h : execFence f s = .next s₁) : s₁.key = s.key :=
  next_key h (fenceOp_key _ _)
theorem execRmem_key {s₁ : State} (side : Side) (f : Flit) (hw : HomeHw) (s : State)
    (h : execRmem side f hw s = .next s₁) : s₁.key = s.key := by
  cases side
  · exact next_key h (fromHome_key _ _ _ _)
  · exact next_key h ((settle_key _).trans (seatRequest_key _ _ _ _))
theorem execBulk_key {s₁ : State} (side : Side) (f : Flit) (hw : HomeHw) (s : State)
    (h : execBulk side f hw s = .next s₁) : s₁.key = s.key := by
  cases side
  · exact next_key h (poolBulk_key _ _ _)
  · exact next_key h ((settle_key _).trans (seatRequest_key _ _ _ _))
theorem execBulkMsg_key {s₁ : State} (side : Side) (f : Flit) (s : State) (h : execBulkMsg side f s = .next s₁) : s₁.key = s.key := by
  cases side
  · exact next_key h (poolMsg_key _ _ _)
  · exact next_key h ((settle_key _).trans (seatRequest_key _ _ _ _))
theorem execPmsg_key {s₁ : State} (side : Side) (f : Flit) (s : State) (h : execPmsg side f s = .next s₁) : s₁.key = s.key := by
  cases side
  · exact next_key h (poolMsg_key _ _ _)
  · exact next_key h ((settle_key _).trans (seatRequest_key _ _ _ _))
theorem execData_key {s₁ : State} (side : Side) (f : Flit) (s : State) (h : execData side f s = .next s₁) : s₁.key = s.key := by
  cases side
  · exact next_key h (itvReply_key _ _ _)
  · exact next_key h ((settle_key _).trans (blgReply_key _ _ _))
theorem execDone_key {s₁ : State} (side : Side) (f : Flit) (s : State) (h : execDone side f s = .next s₁) : s₁.key = s.key := by
  cases side
  · exact next_key h (itvReply_key _ _ _)
  · exact next_key h ((settle_key _).trans (blgReply_key _ _ _))
theorem execInv_key {s₁ : State} (f : Flit) (s : State) (h : execInv f s = .next s₁) : s₁.key = s.key :=
  next_key h (invOp_key _ _)
theorem execInvAck_key {s₁ : State} (f : Flit) (s : State) (h : execInvAck f s = .next s₁) : s₁.key = s.key :=
  next_key h (invAckOp_key _ _)
theorem execFwd_key {s₁ : State} (f : Flit) (s : State) (h : execFwd f s = .next s₁) : s₁.key = s.key :=
  next_key h (fwdOp_key _ _)
theorem execInvResend_key {s₁ : State} (seat : Fin 72) (seq : Nat) (s : State) (h : execInvResend seat seq s = .next s₁) : s₁.key = s.key :=
  next_key h (invResendOp_key _ _ _)
theorem execInvOrphan_key {s₁ : State} (seat : Fin 72) (seq : Nat) (s : State) (h : execInvOrphan seat seq s = .next s₁) : s₁.key = s.key :=
  next_key h (invOrphanOp_key _ _ _)
theorem execDomainDownNotice_key {s₁ : State} (part : Fin 16) (s : State) (h : execDomainDownNotice part s = .next s₁) : s₁.key = s.key :=
  next_key h (domainDown_key _ _)
theorem execDirLate_key {s₁ : State} (line : Nat) (i : Nat) (s : State) (h : execDirLate line i s = .next s₁) : s₁.key = s.key :=
  next_key h (dirLateOp_key _ _ _)
theorem execServiceLate_key {s₁ : State} (side : Side) (node : BitVec 16) (seq : BitVec 20) (s : State)
    (h : execServiceLate side node seq s = .next s₁) : s₁.key = s.key :=
  next_key h (serviceLateOp_key _ _ _ _)
theorem execResendTimeout_key {s₁ : State} (side : Side) (node : BitVec 16) (seq : BitVec 20) (s : State)
    (h : execResendTimeout side node seq s = .next s₁) : s₁.key = s.key :=
  next_key h (resendTimeoutOp_key _ _ _ _)
theorem execHomeWaitTimeout_key {s₁ : State} (node : BitVec 16) (seq : BitVec 20) (s : State)
    (h : execHomeWaitTimeout node seq s = .next s₁) : s₁.key = s.key :=
  next_key h (homeWaitTimeoutOp_key _ _ _)
theorem execHomeUsable_key {s₁ : State} (plane : Fin 24) (s : State) (h : execHomeUsable plane s = .next s₁) : s₁.key = s.key :=
  next_key h (homeUsableOp_key _ _)
theorem execApronLoad_key {s₁ : State} (ch : Fin 24) (m : ApronMsg) (s : State) (h : execApronLoad ch m s = .next s₁) : s₁.key = s.key :=
  next_key h (apronOp_key _ _ _ _)
theorem execApronStore_key {s₁ : State} (ch : Fin 24) (m : ApronMsg) (s : State) (h : execApronStore ch m s = .next s₁) : s₁.key = s.key :=
  next_key h (apronOp_key _ _ _ _)
theorem execApronAtomic_key {s₁ : State} (ch : Fin 24) (m : ApronMsg) (s : State)
    (h : execApronAtomic ch m s = .next s₁) : s₁.key = s.key :=
  next_key h (apronOp_key _ _ _ _)
theorem execApronFence_key {s₁ : State} (ch : Fin 24) (m : ApronMsg) (s : State) (h : execApronFence ch m s = .next s₁) : s₁.key = s.key :=
  next_key h (apronFenceOp_key _ _ _)
theorem execInvRange_key {s₁ : State} (ch : Fin 24) (m : ApronMsg) (s : State) (h : execInvRange ch m s = .next s₁) : s₁.key = s.key :=
  next_key h (invRangeOp_key _ _ _)
theorem execSlotPost_key {s₁ : State} (ch : Fin 24) (m : ApronMsg) (s : State) (h : execSlotPost ch m s = .next s₁) : s₁.key = s.key :=
  next_key h (onApron_key _ _ _ _ _ (fun _ => slotPost_key _ _ _))
theorem execCollPost_key {s₁ : State} (ch : Fin 24) (m : ApronMsg) (s : State) (h : execCollPost ch m s = .next s₁) : s₁.key = s.key :=
  next_key h (onApron_key _ _ _ _ _ (fun _ => (settle_key _).trans (acceptPost_key _ _ _)))
theorem execTallyRead_key {s₁ : State} (ch : Fin 24) (m : ApronMsg) (s : State) (h : execTallyRead ch m s = .next s₁) : s₁.key = s.key :=
  next_key h (onApron_key _ _ _ _ _ (fun _ => tallyReadMsg_key _ _ _))
theorem execTallyWaitTimeout_key {s₁ : State} (i : Nat) (s : State) (h : execTallyWaitTimeout i s = .next s₁) : s₁.key = s.key :=
  next_key h (tallyWaitTimeoutOp_key _ _)
theorem execKstart_key {s₁ : State} (ch : Fin 24) (m : ApronMsg) (s : State) (h : execKstart ch m s = .next s₁) : s₁.key = s.key :=
  next_key h (kstartOp_key _ _ _)
theorem execApronRmem_key {s₁ : State} (ch : Fin 24) (m : ApronMsg) (s : State) (h : execApronRmem ch m s = .next s₁) : s₁.key = s.key :=
  next_key h (apronOp_key _ _ _ _)
theorem execLmemRsp_key {s₁ : State} (ch : Fin 24) (m : ApronMsg) (s : State) (h : execLmemRsp ch m s = .next s₁) : s₁.key = s.key :=
  next_key h (lmemRspOp_key _ _ _)
theorem execApronRetry_key {s₁ : State} (ch : Fin 24) (s : State) (h : execApronRetry ch s = .next s₁) : s₁.key = s.key :=
  next_key h (apronRetryOp_key _ _)
theorem execApronReplayTimeout_key {s₁ : State} (ch : Fin 24) (s : State) (h : execApronReplayTimeout ch s = .next s₁) : s₁.key = s.key :=
  next_key h (apronReplayTimeoutOp_key _ _)
theorem execApronRetrain_key {s₁ : State} (ch : Fin 24) (ok : Bool) (s : State)
    (h : execApronRetrain ch ok s = .next s₁) : s₁.key = s.key :=
  next_key h (apronRetrainOp_key _ _ _)
theorem execApronRstN_key {s₁ : State} (s : State) (h : execApronRstN s = .next s₁) : s₁.key = s.key :=
  next_key h (belugResetOp_key _)
theorem execXlatInvRange_key {s₁ : State} (n : Fin 4) (s : State) (h : execXlatInvRange n s = .next s₁) : s₁.key = s.key :=
  next_key h (xlatInvOp_key _ _ _)
theorem execXlatInvContext_key {s₁ : State} (n : Fin 4) (s : State) (h : execXlatInvContext n s = .next s₁) : s₁.key = s.key :=
  next_key h (xlatInvOp_key _ _ _)
theorem execXlatInvAll_key {s₁ : State} (n : Fin 4) (s : State) (h : execXlatInvAll n s = .next s₁) : s₁.key = s.key :=
  next_key h (xlatInvOp_key _ _ _)
theorem execInvSlotComplete_key {s₁ : State} (n : Fin 4) (s : State) (h : execInvSlotComplete n s = .next s₁) : s₁.key = s.key :=
  next_key h (invSlotCompleteOp_key _ _)
theorem execIntCauseWrite_key {s₁ : State} (v : Word) (s : State) (h : execIntCauseWrite v s = .next s₁) : s₁.key = s.key :=
  next_key h (intCauseWriteOp_key _ _)
theorem execHomeMapWrite_key {s₁ : State} (k : Fin 3) (v : Word) (s : State) (h : execHomeMapWrite k v s = .next s₁) : s₁.key = s.key :=
  next_key h (homeMapWriteOp_key _ _ _)
theorem execVcWeightWrite_key {s₁ : State} (v : Word) (s : State) (h : execVcWeightWrite v s = .next s₁) : s₁.key = s.key :=
  next_key h (vcWeightWriteOp_key _ _)
theorem execTallyWrite_key {s₁ : State} (t : Fin 4096) (v : Word) (s : State) (h : execTallyWrite t v s = .next s₁) : s₁.key = s.key :=
  next_key h (tallyWriteOp_key _ _ _)
theorem execGroupTableWrite_key {s₁ : State} (g : Fin 256) (word : Fin 4) (v : Word) (s : State)
    (h : execGroupTableWrite g word v s = .next s₁) : s₁.key = s.key :=
  next_key h (groupTableWriteOp_key _ _ _ _)
theorem execStagehandReset_key {s₁ : State} (n : Fin 32) (s : State) (h : execStagehandReset n s = .next s₁) : s₁.key = s.key :=
  next_key h ((settle_key _).trans (stagehandResetOp_key _ _))
theorem execBpReset_key {s₁ : State} (p : Fin 24) (s : State) (h : execBpReset p s = .next s₁) : s₁.key = s.key :=
  next_key h (bpResetOp_key _ _)
theorem execBelugReset_key {s₁ : State} (s : State) (h : execBelugReset s = .next s₁) : s₁.key = s.key :=
  next_key h (belugResetOp_key _)
theorem execBelugStartWaitEnd_key {s₁ : State} (s : State) (h : execBelugStartWaitEnd s = .next s₁) : s₁.key = s.key :=
  next_key h (startWaitEndOp_key _)
theorem execStagehandDescriptor_key {s₁ : State} (n : Fin 32) (s : State) (h : execStagehandDescriptor n s = .next s₁) : s₁.key = s.key :=
  next_key h ((settle_key _).trans (stagehandStep_key _ _))
theorem execPrincipalToken_key {s₁ : State} (p : Fin 24) (s : State) (h : execPrincipalToken p s = .next s₁) : s₁.key = s.key :=
  next_key h (principalTokenOp_key _ _)
theorem execCueLaunch_key {s₁ : State} (group : Nat) (cueSeq : BitVec 16) (input : Bytes) (s : State)
    (h : execCueLaunch group cueSeq input s = .next s₁) : s₁.key = s.key :=
  next_key h (cueLaunchOp_key _ _ _ _)
theorem execCurtainRelease_key {s₁ : State} (group : Nat) (cueSeq : BitVec 16) (s : State)
    (h : execCurtainRelease group cueSeq s = .next s₁) : s₁.key = s.key :=
  next_key h (curtainReleaseOp_key _ _ _)
theorem execContrib_key {s₁ : State} (f : Flit) (residueBad : Bool) (s : State)
    (h : execContrib f residueBad s = .next s₁) : s₁.key = s.key :=
  next_key h (contribOp_key _ _ _)
theorem execResult_key {s₁ : State} (f : Flit) (s : State) (h : execResult f s = .next s₁) : s₁.key = s.key :=
  next_key h (resultOp_key _ _ _)
theorem execMcast_key {s₁ : State} (f : Flit) (s : State) (h : execMcast f s = .next s₁) : s₁.key = s.key :=
  next_key h (resultOp_key _ _ _)
theorem execAbort_key {s₁ : State} (side : Side) (f : Flit) (s : State) (h : execAbort side f s = .next s₁) : s₁.key = s.key := by
  cases side
  · exact next_key h (reducerAbort_key _ _)
  · exact next_key h (seatControl_key _ _ _ _ (fun u p => memberAbort_key u _ p))
theorem execRemap_key {s₁ : State} (side : Side) (f : Flit) (s : State) (h : execRemap side f s = .next s₁) : s₁.key = s.key := by
  cases side
  · exact next_key h (reducerRemap_key _ _)
  · exact next_key h (seatControl_key _ _ _ _ (fun u p => memberRemapFlit_key u _ p))
theorem execReport_key {s₁ : State} (f : Flit) (s : State) (h : execReport f s = .next s₁) : s₁.key = s.key :=
  next_key h (reportOp_key _ _)
theorem execCollResend_key {s₁ : State} (group : Nat) (cueSeq : BitVec 16) (stripe : Nat) (s : State)
    (h : execCollResend group cueSeq stripe s = .next s₁) : s₁.key = s.key :=
  next_key h (collResendOp_key _ _ _ _)
theorem execCollMemberTimeout_key {s₁ : State} (group : Nat) (cueSeq : BitVec 16) (s : State)
    (h : execCollMemberTimeout group cueSeq s = .next s₁) : s₁.key = s.key :=
  next_key h (collMemberTimeoutOp_key _ _ _)
theorem execHoldExpiry_key {s₁ : State} (group : Nat) (cueSeq : BitVec 16) (step : Nat) (s : State)
    (h : execHoldExpiry group cueSeq step s = .next s₁) : s₁.key = s.key :=
  next_key h (holdExpiryOp_key _ _ _ _)
theorem execResultKeepExpiry_key {s₁ : State} (group : Nat) (cueSeq : BitVec 16) (stripe : Nat) (s : State)
    (h : execResultKeepExpiry group cueSeq stripe s = .next s₁) : s₁.key = s.key :=
  next_key h (resultKeepExpiryOp_key _ _ _ _)
theorem execMirrorWrite_key {s₁ : State} (f : Flit) (s : State) (h : execMirrorWrite f s = .next s₁) : s₁.key = s.key :=
  next_key h (mirrorWriteOp_key _ _)
theorem execMerge_key {s₁ : State} (f : Flit) (s : State) (h : execMerge f s = .next s₁) : s₁.key = s.key :=
  next_key h (mergeOp_key _ _)
theorem execFinish_key {s₁ : State} (group : Nat) (cueSeq : BitVec 16) (chunk : Nat) (s : State)
    (h : execFinish group cueSeq chunk s = .next s₁) : s₁.key = s.key :=
  next_key h (finishOp_key _ _ _ _)
theorem execChorusWord_key {s₁ : State} (core : Fin 72) (fault : Bool) (s : State)
    (h : execChorusWord core fault s = .next s₁) : s₁.key = s.key :=
  next_key h (chorusWordOp_key _ _ _)
theorem execClusterSelfTest_key {s₁ : State} (cluster : Fin 18) (pass : Bool) (s : State)
    (h : execClusterSelfTest cluster pass s = .next s₁) : s₁.key = s.key :=
  next_key h (clusterSelfTestOp_key _ _ _)
theorem execAlloc_key {s₁ : State} (f : Flit) (s : State) (h : execAlloc f s = .next s₁) : s₁.key = s.key :=
  next_key h (doorOp_key _ _ _)
theorem execHandOn_key {s₁ : State} (f : Flit) (s : State) (h : execHandOn f s = .next s₁) : s₁.key = s.key :=
  next_key h (doorOp_key _ _ _)
theorem execFree_key {s₁ : State} (f : Flit) (s : State) (h : execFree f s = .next s₁) : s₁.key = s.key :=
  next_key h (doorOp_key _ _ _)
theorem execFreeCacheRefill_key {s₁ : State} (w : Fin 17) (pool : Fin 8) (s : State)
    (h : execFreeCacheRefill w pool s = .next s₁) : s₁.key = s.key :=
  next_key h (freeCacheRefillOp_key _ _ _)
theorem execDecay_key {s₁ : State} (s : State) (h : execDecay s = .next s₁) : s₁.key = s.key :=
  next_key h (decayOp_key _)
theorem execMoveStart_key {s₁ : State} (s : State) (h : execMoveStart s = .next s₁) : s₁.key = s.key :=
  next_key h (moveStartOp_key _)
theorem execMoveComplete_key {s₁ : State} (page : Nat) (s : State) (h : execMoveComplete page s = .next s₁) : s₁.key = s.key :=
  next_key h (moveCompleteOp_key _ _)
theorem execSweepStep_key {s₁ : State} (part : Fin 16) (hw : HomeHw) (s : State)
    (h : execSweepStep part hw s = .next s₁) : s₁.key = s.key :=
  next_key h (sweepStepOp_key _ _ _)
theorem execScrubDone_key {s₁ : State} (i : Nat) (s : State) (h : execScrubDone i s = .next s₁) : s₁.key = s.key :=
  next_key h (scrubDoneOp_key _ _)
theorem execPatrolScrub_key {s₁ : State} (block : Nat) (found : ScrubFound) (s : State)
    (h : execPatrolScrub block found s = .next s₁) : s₁.key = s.key :=
  next_key h (patrolScrubOp_key _ _ _)
theorem execSramScrub_key {s₁ : State} (die : Fin 2) (part : SramPart) (found : ScrubFound) (s : State)
    (h : execSramScrub die part found s = .next s₁) : s₁.key = s.key :=
  next_key h (sramScrubOp_key _ _ _ _)
theorem execKeyPush_key {s₁ : State} (r : Fin 24) (f : Flit) (s : State) (h : execKeyPush r f s = .next s₁) : s₁.key = s.key :=
  next_key h (keyPushOp_key _ _ _)
theorem execKeyRevoke_key {s₁ : State} (f : Flit) (s : State) (h : execKeyRevoke f s = .next s₁) : s₁.key = s.key :=
  next_key h (keyRevokeOp_key _ _)
theorem execPartitionClear_key {s₁ : State} (f : Flit) (s : State) (h : execPartitionClear f s = .next s₁) : s₁.key = s.key :=
  next_key h (partitionClearOp_key _ _)
theorem execKeyPushRepeat_key {s₁ : State} (i : Nat) (s : State) (h : execKeyPushRepeat i s = .next s₁) : s₁.key = s.key :=
  next_key h (keyPushRepeatOp_key _ _)
theorem execKeyUseAfter_key {s₁ : State} (side : Side) (ctx : BitVec 16) (s : State)
    (h : execKeyUseAfter side ctx s = .next s₁) : s₁.key = s.key :=
  next_key h (keyUseAfterOp_key _ _ _)
theorem execPreviousKeyErase_key {s₁ : State} (side : Side) (ctx : BitVec 16) (s : State)
    (h : execPreviousKeyErase side ctx s = .next s₁) : s₁.key = s.key :=
  next_key h (previousKeyEraseOp_key _ _ _)
theorem execStrikeSettle_key {s₁ : State} (part : Fin 16) (s : State) (h : execStrikeSettle part s = .next s₁) : s₁.key = s.key :=
  next_key h (strikeSettleOp_key _ _)
theorem execDebugUnlock_key {s₁ : State} (token : Bytes) (s : State) (h : execDebugUnlock token s = .next s₁) : s₁.key = s.key :=
  next_key h (debugUnlockOp_key _ _)
theorem execPowerSample_key {s₁ : State} (real : Nat) (s : State) (h : execPowerSample real s = .next s₁) : s₁.key = s.key :=
  next_key h (powerSampleOp_key _ _)
theorem execSprintAccount_key {s₁ : State} (s : State) (h : execSprintAccount s = .next s₁) : s₁.key = s.key :=
  next_key h (sprintAccountOp_key _)
theorem execCapMissed_key {s₁ : State} (s : State) (h : execCapMissed s = .next s₁) : s₁.key = s.key :=
  next_key h (capMissedOp_key _)
theorem execFloorEnd_key {s₁ : State} (s : State) (h : execFloorEnd s = .next s₁) : s₁.key = s.key :=
  next_key h (floorEndOp_key _)
theorem execTjSample_key {s₁ : State} (tj : Nat) (s : State) (h : execTjSample tj s = .next s₁) : s₁.key = s.key :=
  next_key h (tjSampleOp_key _ _)
theorem execThermalTrip_key {s₁ : State} (s : State) (h : execThermalTrip s = .next s₁) : s₁.key = s.key :=
  next_key h (tripOp_key _)
theorem execPwrShedN_key {s₁ : State} (s : State) (h : execPwrShedN s = .next s₁) : s₁.key = s.key :=
  next_key h (pwrShedOp_key _)
theorem execPwrShedRelease_key {s₁ : State} (s : State) (h : execPwrShedRelease s = .next s₁) : s₁.key = s.key :=
  next_key h (pwrShedReleaseOp_key _)
theorem execHeartbeatLost_key {s₁ : State} (s : State) (h : execHeartbeatLost s = .next s₁) : s₁.key = s.key :=
  next_key h (heartbeatLostOp_key _)
theorem execCoolantStale_key {s₁ : State} (s : State) (h : execCoolantStale s = .next s₁) : s₁.key = s.key :=
  next_key h (coolantStaleOp_key _)
theorem execBrownOut_key {s₁ : State} (s : State) (h : execBrownOut s = .next s₁) : s₁.key = s.key :=
  next_key h (brownOutOp_key _)
theorem execRailFault_key {s₁ : State} (rail : Rail) (s : State) (h : execRailFault rail s = .next s₁) : s₁.key = s.key :=
  next_key h (railFaultOp_key _ _)
theorem execAvsRetry_key {s₁ : State} (acked : Bool) (s : State) (h : execAvsRetry acked s = .next s₁) : s₁.key = s.key :=
  next_key h (avsRetryOp_key _ _)
theorem execResetN_key {s₁ : State} (level : Bool) (strap : Bool) (s : State) (h : execResetN level strap s = .next s₁) : s₁.key = s.key :=
  next_key h (resetNOp_key _ _ _)
theorem execRomPhase_key {s₁ : State} (loaderOk : Bool) (s : State) (h : execRomPhase loaderOk s = .next s₁) : s₁.key = s.key :=
  next_key h (romPhaseOp_key _ _)
theorem execLoaderPhase_key {s₁ : State} (chk : SlotCheck) (s : State) (h : execLoaderPhase chk s = .next s₁) : s₁.key = s.key :=
  next_key h (loaderPhaseOp_key _ _)
theorem execYalnyStart_key {s₁ : State} (storeOk : Bool) (s : State) (h : execYalnyStart storeOk s = .next s₁) : s₁.key = s.key :=
  next_key h (yalnyStartOp_key _ _)
theorem execStallsTrained_key {s₁ : State} (ok : Bool) (s : State) (h : execStallsTrained ok s = .next s₁) : s₁.key = s.key :=
  next_key h (stallsTrainedOp_key _ _)
theorem execGalleryTrained_key {s₁ : State} (found : Option Population) (trained : Bool) (s : State)
    (h : execGalleryTrained found trained s = .next s₁) : s₁.key = s.key :=
  next_key h (galleryTrainedOp_key _ _ _)
theorem execPromptBookRestored_key {s₁ : State} (own mirror : Option (List Bytes)) (s : State)
    (h : execPromptBookRestored own mirror s = .next s₁) : s₁.key = s.key :=
  next_key h (promptBookRestoredOp_key _ _ _)
theorem execOriginateAllowed_key {s₁ : State} (s : State) (h : execOriginateAllowed s = .next s₁) : s₁.key = s.key :=
  next_key h (originateOp_key _)
theorem execWatchdogExpiry_key {s₁ : State} (s : State) (h : execWatchdogExpiry s = .next s₁) : s₁.key = s.key :=
  next_key h (watchdogExpiryOp_key _)
theorem execPrompterRestart_key {s₁ : State} (chk : SlotCheck) (s : State) (h : execPrompterRestart chk s = .next s₁) : s₁.key = s.key :=
  next_key h (prompterRestartOp_key _ _)
theorem execBowDeadline_key {s₁ : State} (s : State) (h : execBowDeadline s = .next s₁) : s₁.key = s.key :=
  next_key h (bowDeadlineOp_key _)
theorem execRelayOfferTimer_key {s₁ : State} (s : State) (h : execRelayOfferTimer s = .next s₁) : s₁.key = s.key :=
  next_key h (relayOfferTimerOp_key _)
theorem execRelaySkip_key {s₁ : State} (s : State) (h : execRelaySkip s = .next s₁) : s₁.key = s.key :=
  next_key h (relaySkipOp_key _)
theorem execRelayWindowTimeout_key {s₁ : State} (s : State) (h : execRelayWindowTimeout s = .next s₁) : s₁.key = s.key :=
  next_key h (relayWindowTimeoutOp_key _)
theorem execRelayOffer_key {s₁ : State} (f : Flit) (s : State) (h : execRelayOffer f s = .next s₁) : s₁.key = s.key :=
  next_key h (relayOfferOp_key _ _)
theorem execRelayData_key {s₁ : State} (f : Flit) (s : State) (h : execRelayData f s = .next s₁) : s₁.key = s.key :=
  next_key h (relayDataOp_key _ _)
theorem execRelayAck_key {s₁ : State} (f : Flit) (s : State) (h : execRelayAck f s = .next s₁) : s₁.key = s.key :=
  next_key h (relayAckOp_key _ _)
theorem execRelayHave_key {s₁ : State} (f : Flit) (s : State) (h : execRelayHave f s = .next s₁) : s₁.key = s.key :=
  next_key h (relayHaveOp_key _ _)
theorem execRelayRefuse_key {s₁ : State} (f : Flit) (s : State) (h : execRelayRefuse f s = .next s₁) : s₁.key = s.key :=
  next_key h (relayRefuseOp_key _ _)
theorem execSessionOpen_key {s₁ : State} (handshake : Bool) (s : State) (h : execSessionOpen handshake s = .next s₁) : s₁.key = s.key :=
  next_key h (sessionOpenOp_key _ _)
theorem execHello_key {s₁ : State} (k : Nat) (seq : Word) (body : Bytes) (s : State)
    (h : execHello k seq body s = .next s₁) : s₁.key = s.key :=
  next_key h (helloOp_key _ _ _ _)
theorem execCommand_key {s₁ : State} (k : Nat) (seq : Word) (body : Bytes) (s : State)
    (h : execCommand k seq body s = .next s₁) : s₁.key = s.key :=
  next_key h (commandOp_key _ _ _ _)
theorem execHeartbeat_key {s₁ : State} (k : Nat) (s : State) (h : execHeartbeat k s = .next s₁) : s₁.key = s.key :=
  next_key h (heartbeatOp_key _ _)
theorem execPowerSet_key {s₁ : State} (k : Nat) (seq : Word) (body : Bytes) (s : State)
    (h : execPowerSet k seq body s = .next s₁) : s₁.key = s.key :=
  next_key h (powerSetOp_key _ _ _ _)
theorem execSubscribe_key {s₁ : State} (k : Nat) (seq : Word) (body : Bytes) (s : State)
    (h : execSubscribe k seq body s = .next s₁) : s₁.key = s.key :=
  next_key h (subscribeOp_key _ _ _ _)
theorem execTelemetrySnapshot_key {s₁ : State} (k : Nat) (s : State) (h : execTelemetrySnapshot k s = .next s₁) : s₁.key = s.key :=
  next_key h (telemetrySnapshotOp_key _ _)
theorem execResultUnreadTimeout_key {s₁ : State} (k : Nat) (s : State) (h : execResultUnreadTimeout k s = .next s₁) : s₁.key = s.key :=
  next_key h (resultUnreadOp_key _ _)
theorem execSpdm_key {s₁ : State} (k : Option Nat) (msg : Bytes) (s : State) (h : execSpdm k msg s = .next s₁) : s₁.key = s.key :=
  next_key h (spdmOp_key _ _ _)
theorem execAnchorSet_key {s₁ : State} (k : Nat) (seq : Word) (cert : Bytes) (s : State)
    (h : execAnchorSet k seq cert s = .next s₁) : s₁.key = s.key :=
  next_key h (anchorSetOp_key _ _ _ _)
theorem execCoolantIn_key {s₁ : State} (v : Nat) (s : State) (h : execCoolantIn v s = .next s₁) : s₁.key = s.key :=
  next_key h (coolantInOp_key _ _)
theorem execApronAck_key {s₁ : State} (ch : Fin 24) (s : State) (h : execApronAck ch s = .next s₁) : s₁.key = s.key :=
  next_key h (apronAckOp_key _ _)
theorem execApronCrcError_key {s₁ : State} (ch : Fin 24) (word : Bytes) (ctl : BitVec 24) (s : State)
    (h : execApronCrcError ch word ctl s = .next s₁) : s₁.key = s.key :=
  next_key h (apronCrcErrorOp_key _ _ _ _)
theorem execApronReservedType_key {s₁ : State} (ch : Fin 24) (m : ApronMsg) (s : State)
    (h : execApronReservedType ch m s = .next s₁) : s₁.key = s.key :=
  next_key h (apronReservedTypeOp_key _ _ _)
theorem execStandinDeskewed_key {s₁ : State} (r : PortRef) (lanes : BitVec 8) (s : State)
    (h : execStandinDeskewed r lanes s = .next s₁) : s₁.key = s.key :=
  next_key h (standinDeskewedOp_key _ _ _)
theorem execCxlLinkUp_key {s₁ : State} (rate width : Nat) (s : State) (h : execCxlLinkUp rate width s = .next s₁) : s₁.key = s.key :=
  next_key h (cxlLinkUpOp_key _ _ _)
theorem execCxlMailboxCommand_key {s₁ : State} (op : Nat) (input : Bytes) (s : State)
    (h : execCxlMailboxCommand op input s = .next s₁) : s₁.key = s.key :=
  next_key h (cxlMailboxOp_key _ _ _)
theorem execSessionClose_key {s₁ : State} (k : Nat) (s : State) (h : execSessionClose k s = .next s₁) : s₁.key = s.key :=
  next_key h (sessionCloseOp_key _ _)
theorem execNymcoUnknownType_key {s₁ : State} (k typ : Nat) (seq : Word) (s : State)
    (h : execNymcoUnknownType k typ seq s = .next s₁) : s₁.key = s.key :=
  next_key h (nymcoUnknownTypeOp_key _ _ _ _)
theorem execEstimatorUpdate_key {s₁ : State} (inp : EstInputs) (s : State) (h : execEstimatorUpdate inp s = .next s₁) : s₁.key = s.key :=
  next_key h (estimatorOp_key _ _)
theorem execScriptStaged_key {s₁ : State} (ok : Bool) (s : State) (h : execScriptStaged ok s = .next s₁) : s₁.key = s.key :=
  next_key h (scriptStagedOp_key _ _)
theorem execRestoreFromMirror_key {s₁ : State} (f : Flit) (s : State) (h : execRestoreFromMirror f s = .next s₁) : s₁.key = s.key :=
  next_key h (restoreFromMirrorOp_key _ _)
theorem execTableReload_key {s₁ : State} (key : Nat) (s : State) (h : execTableReload key s = .next s₁) : s₁.key = s.key :=
  next_key h (tableReloadOp_key _ _)

/-- No command writes the clock, the queue or a fuse. -/
theorem exec_key {c : Instr} {s t : State} (h : exec c s = .next t) : t.key = s.key := by
  cases c
  case ident => exact execIdent_key _ _ h
  case linkStatus => exact execLinkStatus_key _ _ h
  case seatingLoad => exact execSeatingLoad_key _ _ _ h
  case routeStage => exact execRouteStage_key _ _ _ h
  case routeCommit => exact execRouteCommit_key _ _ h
  case routeDrainEnd => exact execRouteDrainEnd_key _ h
  case castSet => exact execCastSet_key _ _ _ h
  case cueSheetAdd => exact execCueSheetAdd_key _ _ h
  case cueArm => exact execCueArm_key _ _ h
  case curtainSet => exact execCurtainSet_key _ _ h
  case understudySwap => exact execUnderstudySwap_key _ _ h
  case promptBookRead => exact execPromptBookRead_key _ _ _ h
  case entranceRead => exact execEntranceRead_key _ _ _ h
  case chorusLoad => exact execChorusLoad_key _ _ _ h
  case chorusCheck => exact execChorusCheck_key _ _ _ h
  case poolCarveCreate => exact execPoolCarveCreate_key _ _ h
  case poolCarveRelease => exact execPoolCarveRelease_key _ _ h
  case poolCarveWindow => exact execPoolCarveWindow_key _ _ h
  case poolCarveClearWindow => exact execPoolCarveClearWindow_key _ _ h
  case tierPolicySettings => exact execTierPolicySettings_key _ _ h
  case tierPolicyClass => exact execTierPolicyClass_key _ _ h
  case wardrobeCarveCreate => exact execWardrobeCarveCreate_key _ _ h
  case wardrobeCarveRelease => exact execWardrobeCarveRelease_key _ _ h
  case wardrobeCarveReclaim => exact execWardrobeCarveReclaim_key _ _ h
  case partitionSet => exact execPartitionSet_key _ _ h
  case keyInstallJob => exact execKeyInstallJob_key _ _ h
  case keyInstallPool => exact execKeyInstallPool_key _ _ h
  case keyRotate => exact execKeyRotate_key _ _ h
  case strike => exact execStrike_key _ _ h
  case powerCap => exact execPowerCap_key _ _ h
  case ghostSet => exact execGhostSet_key _ _ h
  case paceRead => exact execPaceRead_key _ _ h
  case runLengthRead => exact execRunLengthRead_key _ _ h
  case countersRead => exact execCountersRead_key _ _ _ h
  case peepholeSet => exact execPeepholeSet_key _ _ h
  case resetPrompter => exact execResetPrompter_key _ _ h
  case resetPortRehearse => exact execResetPortRehearse_key _ _ h
  case resetPortDisable => exact execResetPortDisable_key _ _ h
  case resetPortEnable => exact execResetPortEnable_key _ _ h
  case resetCluster => exact execResetCluster_key _ _ h
  case resetCore => exact execResetCore_key _ _ h
  case resetPartition => exact execResetPartition_key _ _ h
  case resetWholeChip => exact execResetWholeChip_key _ _ h
  case scriptStage => exact execScriptStage_key _ _ _ h
  case scriptSwitch => exact execScriptSwitch_key _ _ h
  case scriptBow => exact execScriptBow_key _ _ h
  case licenceApply => exact execLicenceApply_key _ _ h
  case attestFetch => exact execAttestFetch_key _ _ _ h
  case unknownCommand => exact execUnknownCommand_key _ _ h
  case callboardHwAnswer => exact execCallboardHwAnswer_key _ _ h
  case commandTimeout => exact execCommandTimeout_key _ _ _ h
  case registerWrite => exact execRegisterWrite_key _ _ h
  case eventCauseWrite => exact execEventCauseWrite_key _ _ h
  case msixVectorUnmask => exact execMsixVectorUnmask_key _ _ h
  case mirrorRefresh => exact execMirrorRefresh_key _ h
  case functionLevelReset => exact execFunctionLevelReset_key _ h
  case perstN => exact execPerstN_key _ _ h
  case cxlLinkDown => exact execCxlLinkDown_key _ h
  case cxlMemRead => exact execCxlMemRead_key _ _ _ h
  case cxlMemWrite => exact execCxlMemWrite_key _ _ _ h
  case portRetry => exact execPortRetry_key _ _ h
  case detect => exact execDetect_key _ _ _ h
  case clock => exact execClock_key _ _ _ h
  case align => exact execAlign_key _ _ _ h
  case offerFrame => exact execOfferFrame_key _ _ _ h
  case names => exact execNames_key _ _ h
  case shift => exact execShift_key _ _ h
  case tapRequest r lane pre mid post => exact execTapRequest_key r lane pre mid post _ h
  case tuneDone => exact execTuneDone_key _ _ h
  case tuneTimeout => exact execTuneTimeout_key _ _ h
  case dressRehearsal => exact execDressRehearsal_key _ _ _ _ h
  case rehearsalTimeout => exact execRehearsalTimeout_key _ _ h
  case runningMonitor => exact execRunningMonitor_key _ _ _ h
  case phaseRecentre => exact execPhaseRecentre_key _ _ _ h
  case shortProbe => exact execShortProbe_key _ _ _ _ h
  case clockLoss => exact execClockLoss_key _ _ h
  case standinTimeout => exact execStandinTimeout_key _ _ h
  case refclkLoss => exact execRefclkLoss_key _ _ _ h
  case refclkHoldoverEnd => exact execRefclkHoldoverEnd_key _ _ h
  case refclkReturn => exact execRefclkReturn_key _ _ _ h
  case flitArrival => exact execFlitArrival_key _ _ _ h
  case flitPlace => exact execFlitPlace_key _ _ _ h
  case flitTransmit => exact execFlitTransmit_key _ _ h
  case reseqSkip => exact execReseqSkip_key _ _ _ _ h
  case pathRetire => exact execPathRetire_key _ _ _ h
  case paceUpdate => exact execPaceUpdate_key _ _ _ h
  case flitAged => exact execFlitAged_key _ _ h
  case linkCtl => exact execLinkCtl_key _ _ _ h
  case resyncReq => exact execResyncReq_key _ _ h
  case resyncRepeat => exact execResyncRepeat_key _ _ h
  case standinReq => exact execStandinReq_key _ _ h
  case alignDone => exact execAlignDone_key _ _ _ _ h
  case cueStampTimer => exact execCueStampTimer_key _ _ h
  case parentTimeout => exact execParentTimeout_key _ _ h
  case rootClaim => exact execRootClaim_key _ h
  case dirRequest => exact execDirRequest_key _ _ h
  case load => exact execLoad_key _ _ _ _ h
  case store => exact execStore_key _ _ _ _ h
  case atomic => exact execAtomic_key _ _ _ _ h
  case fence => exact execFence_key _ _ h
  case rmem => exact execRmem_key _ _ _ _ h
  case bulk => exact execBulk_key _ _ _ _ h
  case bulkMsg => exact execBulkMsg_key _ _ _ h
  case pmsg => exact execPmsg_key _ _ _ h
  case data => exact execData_key _ _ _ h
  case done => exact execDone_key _ _ _ h
  case inv => exact execInv_key _ _ h
  case invAck => exact execInvAck_key _ _ h
  case fwd => exact execFwd_key _ _ h
  case invResend => exact execInvResend_key _ _ _ h
  case invOrphan => exact execInvOrphan_key _ _ _ h
  case domainDownNotice => exact execDomainDownNotice_key _ _ h
  case dirLate => exact execDirLate_key _ _ _ h
  case serviceLate => exact execServiceLate_key _ _ _ _ h
  case resendTimeout => exact execResendTimeout_key _ _ _ _ h
  case homeWaitTimeout => exact execHomeWaitTimeout_key _ _ _ h
  case homeUsable => exact execHomeUsable_key _ _ h
  case apronLoad => exact execApronLoad_key _ _ _ h
  case apronStore => exact execApronStore_key _ _ _ h
  case apronAtomic => exact execApronAtomic_key _ _ _ h
  case apronFence => exact execApronFence_key _ _ _ h
  case invRange => exact execInvRange_key _ _ _ h
  case slotPost => exact execSlotPost_key _ _ _ h
  case collPost => exact execCollPost_key _ _ _ h
  case tallyRead => exact execTallyRead_key _ _ _ h
  case tallyWaitTimeout => exact execTallyWaitTimeout_key _ _ h
  case kstart => exact execKstart_key _ _ _ h
  case apronRmem => exact execApronRmem_key _ _ _ h
  case lmemRsp => exact execLmemRsp_key _ _ _ h
  case apronRetry => exact execApronRetry_key _ _ h
  case apronReplayTimeout => exact execApronReplayTimeout_key _ _ h
  case apronRetrain => exact execApronRetrain_key _ _ _ h
  case apronRstN => exact execApronRstN_key _ h
  case xlatInvRange => exact execXlatInvRange_key _ _ h
  case xlatInvContext => exact execXlatInvContext_key _ _ h
  case xlatInvAll => exact execXlatInvAll_key _ _ h
  case invSlotComplete => exact execInvSlotComplete_key _ _ h
  case intCauseWrite => exact execIntCauseWrite_key _ _ h
  case homeMapWrite => exact execHomeMapWrite_key _ _ _ h
  case vcWeightWrite => exact execVcWeightWrite_key _ _ h
  case tallyWrite => exact execTallyWrite_key _ _ _ h
  case groupTableWrite => exact execGroupTableWrite_key _ _ _ _ h
  case stagehandReset => exact execStagehandReset_key _ _ h
  case bpReset => exact execBpReset_key _ _ h
  case belugReset => exact execBelugReset_key _ h
  case belugStartWaitEnd => exact execBelugStartWaitEnd_key _ h
  case stagehandDescriptor => exact execStagehandDescriptor_key _ _ h
  case principalToken => exact execPrincipalToken_key _ _ h
  case cueLaunch => exact execCueLaunch_key _ _ _ _ h
  case curtainRelease => exact execCurtainRelease_key _ _ _ h
  case contrib => exact execContrib_key _ _ _ h
  case result => exact execResult_key _ _ h
  case mcast => exact execMcast_key _ _ h
  case abort => exact execAbort_key _ _ _ h
  case remap => exact execRemap_key _ _ _ h
  case report => exact execReport_key _ _ h
  case collResend => exact execCollResend_key _ _ _ _ h
  case collMemberTimeout => exact execCollMemberTimeout_key _ _ _ h
  case holdExpiry => exact execHoldExpiry_key _ _ _ _ h
  case resultKeepExpiry => exact execResultKeepExpiry_key _ _ _ _ h
  case mirrorWrite => exact execMirrorWrite_key _ _ h
  case merge => exact execMerge_key _ _ h
  case finish => exact execFinish_key _ _ _ _ h
  case chorusWord => exact execChorusWord_key _ _ _ h
  case clusterSelfTest => exact execClusterSelfTest_key _ _ _ h
  case alloc => exact execAlloc_key _ _ h
  case handOn => exact execHandOn_key _ _ h
  case free => exact execFree_key _ _ h
  case freeCacheRefill => exact execFreeCacheRefill_key _ _ _ h
  case decay => exact execDecay_key _ h
  case moveStart => exact execMoveStart_key _ h
  case moveComplete => exact execMoveComplete_key _ _ h
  case sweepStep => exact execSweepStep_key _ _ _ h
  case scrubDone => exact execScrubDone_key _ _ h
  case patrolScrub => exact execPatrolScrub_key _ _ _ h
  case sramScrub => exact execSramScrub_key _ _ _ _ h
  case keyPush => exact execKeyPush_key _ _ _ h
  case keyRevoke => exact execKeyRevoke_key _ _ h
  case partitionClear => exact execPartitionClear_key _ _ h
  case keyPushRepeat => exact execKeyPushRepeat_key _ _ h
  case keyUseAfter => exact execKeyUseAfter_key _ _ _ h
  case previousKeyErase => exact execPreviousKeyErase_key _ _ _ h
  case strikeSettle => exact execStrikeSettle_key _ _ h
  case debugUnlock => exact execDebugUnlock_key _ _ h
  case powerSample => exact execPowerSample_key _ _ h
  case sprintAccount => exact execSprintAccount_key _ h
  case capMissed => exact execCapMissed_key _ h
  case floorEnd => exact execFloorEnd_key _ h
  case tjSample => exact execTjSample_key _ _ h
  case thermalTrip => exact execThermalTrip_key _ h
  case pwrShedN => exact execPwrShedN_key _ h
  case pwrShedRelease => exact execPwrShedRelease_key _ h
  case heartbeatLost => exact execHeartbeatLost_key _ h
  case coolantStale => exact execCoolantStale_key _ h
  case brownOut => exact execBrownOut_key _ h
  case railFault => exact execRailFault_key _ _ h
  case avsRetry => exact execAvsRetry_key _ _ h
  case resetN => exact execResetN_key _ _ _ h
  case romPhase => exact execRomPhase_key _ _ h
  case loaderPhase => exact execLoaderPhase_key _ _ h
  case yalnyStart => exact execYalnyStart_key _ _ h
  case stallsTrained => exact execStallsTrained_key _ _ h
  case galleryTrained => exact execGalleryTrained_key _ _ _ h
  case promptBookRestored => exact execPromptBookRestored_key _ _ _ h
  case originateAllowed => exact execOriginateAllowed_key _ h
  case watchdogExpiry => exact execWatchdogExpiry_key _ h
  case prompterRestart => exact execPrompterRestart_key _ _ h
  case bowDeadline => exact execBowDeadline_key _ h
  case relayOfferTimer => exact execRelayOfferTimer_key _ h
  case relaySkip => exact execRelaySkip_key _ h
  case relayWindowTimeout => exact execRelayWindowTimeout_key _ h
  case relayOffer => exact execRelayOffer_key _ _ h
  case relayData => exact execRelayData_key _ _ h
  case relayAck => exact execRelayAck_key _ _ h
  case relayHave => exact execRelayHave_key _ _ h
  case relayRefuse => exact execRelayRefuse_key _ _ h
  case sessionOpen => exact execSessionOpen_key _ _ h
  case hello => exact execHello_key _ _ _ _ h
  case command => exact execCommand_key _ _ _ _ h
  case heartbeat => exact execHeartbeat_key _ _ h
  case powerSet => exact execPowerSet_key _ _ _ _ h
  case subscribe => exact execSubscribe_key _ _ _ _ h
  case telemetrySnapshot => exact execTelemetrySnapshot_key _ _ h
  case resultUnreadTimeout => exact execResultUnreadTimeout_key _ _ h
  case spdm => exact execSpdm_key _ _ _ h
  case anchorSet => exact execAnchorSet_key _ _ _ _ h
  case coolantIn => exact execCoolantIn_key _ _ h
  case apronAck => exact execApronAck_key _ _ h
  case apronCrcError => exact execApronCrcError_key _ _ _ _ h
  case apronReservedType => exact execApronReservedType_key _ _ _ h
  case standinDeskewed => exact execStandinDeskewed_key _ _ _ h
  case cxlLinkUp => exact execCxlLinkUp_key _ _ _ h
  case cxlMailboxCommand => exact execCxlMailboxCommand_key _ _ _ h
  case sessionClose => exact execSessionClose_key _ _ h
  case nymcoUnknownType => exact execNymcoUnknownType_key _ _ _ _ h
  case estimatorUpdate => exact execEstimatorUpdate_key _ _ h
  case scriptStaged => exact execScriptStaged_key _ _ h
  case restoreFromMirror => exact execRestoreFromMirror_key _ _ h
  case tableReload => exact execTableReload_key _ _ h

end Sys2Proof.Machine
end

