-- ==== Sys2Proof/Laws/Memory.lean ====
section
/-! SUPPORT. Byte memory and sparse tables: reads after writes, and that every memory operation keeps the canonical form. -/

namespace Sys2Proof.Machine

open Sys2Proof

/-! ## Sparse tables -/

/-- Keys strictly rising. -/
def Rising {α : Type} (m : List (Nat × α)) : Prop := m.Pairwise (fun a b => a.1 < b.1)

theorem kset_mem {α : Type} (m : List (Nat × α)) (k : Nat) (v : α) {c : Nat × α} (h : c ∈ kset m k v) : c = (k, v) ∨ c ∈ m := by
  induction m with
  | nil => simpa [kset] using h
  | cons p m ih =>
    unfold kset at h
    split at h
    · simpa using h
    · split at h
      · rcases List.mem_cons.mp h with rfl | h <;> simp_all
      · rcases List.mem_cons.mp h with rfl | h
        · simp
        · rcases ih h with rfl | h <;> simp_all

theorem kdel_mem {α : Type} (m : List (Nat × α)) (k : Nat) {c : Nat × α} (h : c ∈ kdel m k) : c ∈ m := by
  induction m with
  | nil => simp [kdel] at h
  | cons p m ih =>
    unfold kdel at h
    split at h
    · exact List.mem_cons_of_mem _ h
    · rcases List.mem_cons.mp h with rfl | h
      · simp
      · exact List.mem_cons_of_mem _ (ih h)

theorem kset_rising {α : Type} {m : List (Nat × α)} (k : Nat) (v : α) (h : Rising m) : Rising (kset m k v) := by
  induction m with
  | nil => simp [kset, Rising]
  | cons p m ih =>
    obtain ⟨hp, hm⟩ := List.pairwise_cons.mp h
    unfold kset
    split
    · refine List.pairwise_cons.mpr ⟨fun c hc => ?_, h⟩
      rcases List.mem_cons.mp hc with rfl | hc
      · assumption
      · exact Nat.lt_trans ‹_› (hp c hc)
    · split
      · subst k; exact List.pairwise_cons.mpr ⟨hp, hm⟩
      · refine List.pairwise_cons.mpr ⟨fun c hc => ?_, ih hm⟩
        rcases kset_mem m k v hc with rfl | hc
        · dsimp only; omega
        · exact hp c hc

theorem kdel_rising {α : Type} {m : List (Nat × α)} (k : Nat) (h : Rising m) : Rising (kdel m k) := by
  induction m with
  | nil => exact h
  | cons p m ih =>
    obtain ⟨hp, hm⟩ := List.pairwise_cons.mp h
    unfold kdel
    split
    · exact hm
    · exact List.pairwise_cons.mpr ⟨fun c hc => hp c (kdel_mem m k hc), ih hm⟩

theorem filter_rising {α : Type} {m : List (Nat × α)} (p : Nat × α → Bool) (h : Rising m) : Rising (m.filter p) :=
  List.Pairwise.sublist List.filter_sublist h

theorem kget_kset {α : Type} (m : List (Nat × α)) (k : Nat) (v : α) : kget (kset m k v) k = some v := by
  induction m with
  | nil => simp [kset, kget]
  | cons p m ih =>
    unfold kset
    split
    · simp [kget]
    · split
      · simp [kget]
      · rename_i h1 h2
        have h3 : ¬ p.1 = k := fun e => h2 e.symm
        simp [kget, h3, ih]

theorem kget_kset_ne {α : Type} (m : List (Nat × α)) {k j : Nat} (v : α) (h : j ≠ k) : kget (kset m k v) j = kget m j := by
  have hk : ¬ k = j := fun e => h e.symm
  induction m with
  | nil => simp [kset, kget, hk]
  | cons p m ih =>
    unfold kset
    split
    · simp [kget, hk]
    · split
      · rename_i h1 h2
        have h3 : ¬ p.1 = j := fun e => hk (h2.trans e)
        simp [kget, hk, h3]
      · simp [kget, ih]

theorem kget_none {α : Type} {m : List (Nat × α)} {k : Nat} (h : ∀ c ∈ m, c.1 ≠ k) : kget m k = none := by
  induction m with
  | nil => rfl
  | cons p m ih =>
    have h1 : ¬ p.1 = k := h p (by simp)
    simp [kget, h1, ih (fun c hc => h c (List.mem_cons_of_mem _ hc))]

theorem kget_kdel {α : Type} {m : List (Nat × α)} (k : Nat) (h : Rising m) : kget (kdel m k) k = none := by
  induction m with
  | nil => rfl
  | cons p m ih =>
    obtain ⟨hp, hm⟩ := List.pairwise_cons.mp h
    unfold kdel
    split
    · rename_i e
      exact kget_none (fun c hc e2 => by have := hp c hc; omega)
    · rename_i e
      simp [kget, e, ih hm]

theorem kget_kdel_ne {α : Type} (m : List (Nat × α)) {k j : Nat} (h : j ≠ k) : kget (kdel m k) j = kget m j := by
  induction m with
  | nil => rfl
  | cons p m ih =>
    unfold kdel
    split
    · rename_i e
      have h2 : ¬ p.1 = j := fun e2 => h (e2.symm.trans e)
      simp [kget, h2]
    · simp [kget, ih]

/-! ## Byte memory -/

/-- The canonical form, as a statement on the list. -/
theorem Memory.wf_iff (m : Mem) : Memory.wf m = true ↔ Rising m ∧ ∀ c ∈ m, c.2 ≠ 0 := by
  induction m with
  | nil => simp [Memory.wf, Rising]
  | cons p m ih =>
    obtain ⟨a, b⟩ := p
    simp only [Memory.wf, Bool.and_eq_true, ih, Rising, List.pairwise_cons, List.forall_mem_cons, List.all_eq_true, decide_eq_true_eq,
      bne_iff_ne]
    tauto

theorem memPut_wf {m : Mem} (a : Nat) (b : Byte) (h : Memory.wf m = true) : Memory.wf (memPut m a b) = true := by
  rw [Memory.wf_iff] at *
  unfold memPut
  split
  · exact ⟨kdel_rising a h.1, fun c hc => h.2 c (kdel_mem m a hc)⟩
  · refine ⟨kset_rising a b h.1, fun c hc => ?_⟩
    rcases kset_mem m a b hc with rfl | hc
    · assumption
    · exact h.2 c hc

theorem memWrite_wf {m : Mem} (a : Nat) (d : Bytes) (h : Memory.wf m = true) : Memory.wf (memWrite m a d) = true := by
  induction d generalizing m a with
  | nil => exact h
  | cons b d ih => exact ih (a + 1) (memPut_wf a b h)

theorem filter_wf {m : Mem} (p : Nat × Byte → Bool) (h : Memory.wf m = true) : Memory.wf (m.filter p) = true := by
  rw [Memory.wf_iff] at *
  exact ⟨filter_rising p h.1, fun c hc => h.2 c (List.mem_filter.mp hc).1⟩

theorem memZero_wf {m : Mem} (a n : Nat) (h : Memory.wf m = true) : Memory.wf (memZero m a n) = true := filter_wf _ h
theorem kdelRange_wf {m : Mem} (lo hi : Nat) (h : Memory.wf m = true) : Memory.wf (kdelRange m lo hi) = true := filter_wf _ h

theorem memMasked_wf {m : Mem} (a : Nat) (d : Bytes) (mask : Nat) (h : Memory.wf m = true) : Memory.wf (memMasked m a d mask) = true := by
  unfold memMasked
  generalize List.range d.length = xs
  induction xs generalizing m with
  | nil => exact h
  | cons x xs ih =>
    refine ih ?_
    dsimp only
    split
    · exact memPut_wf _ _ h
    · exact h

/-- The byte written reads back. -/
theorem memGet_memPut {m : Mem} (a : Nat) (b : Byte) (h : Memory.wf m = true) : memGet (memPut m a b) a = b := by
  unfold memGet memPut
  split
  · rename_i e
    rw [kget_kdel a ((Memory.wf_iff m).mp h).1]; exact e.symm
  · rw [kget_kset]; rfl

/-- A write of one byte leaves every other byte. -/
theorem memGet_memPut_ne (m : Mem) {a x : Nat} (b : Byte) (h : x ≠ a) : memGet (memPut m a b) x = memGet m x := by
  unfold memGet memPut
  split
  · rw [kget_kdel_ne m h]
  · rw [kget_kset_ne m b h]

/-- A write of bytes leaves every byte before it. -/
theorem memGet_memWrite_lt (m : Mem) {a x : Nat} (d : Bytes) (h : x < a) : memGet (memWrite m a d) x = memGet m x := by
  induction d generalizing m a with
  | nil => rfl
  | cons b d ih =>
    rw [memWrite, ih _ (Nat.lt_succ_of_lt h), memGet_memPut_ne m b (by omega)]

/-- A write of bytes leaves every byte after it. -/
theorem memGet_memWrite_ge (m : Mem) {a x : Nat} (d : Bytes) (h : a + d.length ≤ x) : memGet (memWrite m a d) x = memGet m x := by
  induction d generalizing m a with
  | nil => rfl
  | cons b d ih =>
    simp only [List.length_cons] at h
    rw [memWrite, ih _ (by omega), memGet_memPut_ne m b (by omega)]

/-- The bytes written read back. -/
theorem memGet_memWrite {m : Mem} (a : Nat) (d : Bytes) (i : Nat) (hi : i < d.length) (h : Memory.wf m = true) :
    memGet (memWrite m a d) (a + i) = d.getD i 0 := by
  induction d generalizing m a i with
  | nil => simp at hi
  | cons b d ih =>
    cases i with
    | zero =>
      show memGet (memWrite (memPut m a b) (a + 1) d) a = b
      rw [memGet_memWrite_lt _ d (Nat.lt_succ_self a), memGet_memPut a b h]
    | succ i =>
      have := ih (a + 1) i (by simpa using hi) (memPut_wf a b h)
      rw [memWrite, show a + (i + 1) = a + 1 + i by omega, this]; rfl

theorem memRead_length (m : Mem) (a n : Nat) : (memRead m a n).length = n := by simp [memRead]

/-- The bytes cleared read 0. -/
theorem memGet_memZero (m : Mem) {a n x : Nat} (h : a ≤ x ∧ x < a + n) : memGet (memZero m a n) x = 0 := by
  unfold memGet
  rw [kget_none]
  · rfl
  · intro c hc e
    have := (List.mem_filter.mp hc).2
    simp only [Bool.or_eq_true, decide_eq_true_eq] at this
    omega

end Sys2Proof.Machine
end

