-- ==== Sys2Proof/Laws/State.lean ====
section
/-! SUPPORT. One lemma per field for each named update of the state in Machine/Ops.lean: what it writes and what it leaves. A port
write, a cue write and a counter leave every field but their own. -/

namespace Sys2Proof.Machine

open Sys2Proof

/-! ## emit -/

@[simp] theorem emit_now (s : State) (o : Out) : (emit s o).now = s.now := rfl
@[simp] theorem emit_itv (s : State) (o : Out) : (emit s o).itv = s.itv := rfl
@[simp] theorem emit_blg (s : State) (o : Out) : (emit s o).blg = s.blg := rfl
@[simp] theorem emit_out (s : State) (o : Out) : (emit s o).out = s.out ++ [o] := rfl
@[simp] theorem emit_free (s : State) (o : Out) : (emit s o).free = s.free := rfl
@[simp] theorem emit_pending (s : State) (o : Out) : (emit s o).pending = s.pending := rfl

/-! ## drawFree -/

@[simp] theorem drawFree_now (s : State) : (drawFree s).now = s.now := rfl
@[simp] theorem drawFree_itv (s : State) : (drawFree s).itv = s.itv := rfl
@[simp] theorem drawFree_blg (s : State) : (drawFree s).blg = s.blg := rfl
@[simp] theorem drawFree_out (s : State) : (drawFree s).out = s.out := rfl
@[simp] theorem drawFree_free (s : State) : (drawFree s).free = s.free + 1 := rfl
@[simp] theorem drawFree_pending (s : State) : (drawFree s).pending = s.pending := rfl

/-! ## setPort_itv -/

@[simp] theorem setPort_itv_now (s : State) (n : Fin 72) (p : Port) : (setPort s (.itv n) p).now = s.now := rfl
@[simp] theorem setPort_itv_itv_fuse (s : State) (n : Fin 72) (p : Port) : (setPort s (.itv n) p).itv.fuse = s.itv.fuse := rfl
@[simp] theorem setPort_itv_itv_boot (s : State) (n : Fin 72) (p : Port) : (setPort s (.itv n) p).itv.boot = s.itv.boot := rfl
@[simp] theorem setPort_itv_itv_flash (s : State) (n : Fin 72) (p : Port) : (setPort s (.itv n) p).itv.flash = s.itv.flash := rfl
@[simp] theorem setPort_itv_itv_relay (s : State) (n : Fin 72) (p : Port) : (setPort s (.itv n) p).itv.relay = s.itv.relay := rfl
@[simp] theorem setPort_itv_itv_cb (s : State) (n : Fin 72) (p : Port) : (setPort s (.itv n) p).itv.cb = s.itv.cb := rfl
@[simp] theorem setPort_itv_itv_ports (s : State) (n : Fin 72) (p : Port) : (setPort s (.itv n) p).itv.ports = s.itv.ports.set n.val p n.isLt := rfl
@[simp] theorem setPort_itv_itv_routing (s : State) (n : Fin 72) (p : Port) : (setPort s (.itv n) p).itv.routing = s.itv.routing := rfl
@[simp] theorem setPort_itv_itv_core (s : State) (n : Fin 72) (p : Port) : (setPort s (.itv n) p).itv.core = s.itv.core := rfl
@[simp] theorem setPort_itv_itv_cue (s : State) (n : Fin 72) (p : Port) : (setPort s (.itv n) p).itv.cue = s.itv.cue := rfl
@[simp] theorem setPort_itv_itv_inflows (s : State) (n : Fin 72) (p : Port) : (setPort s (.itv n) p).itv.inflows = s.itv.inflows := rfl
@[simp] theorem setPort_itv_itv_outflows (s : State) (n : Fin 72) (p : Port) : (setPort s (.itv n) p).itv.outflows = s.itv.outflows := rfl
@[simp] theorem setPort_itv_itv_turns (s : State) (n : Fin 72) (p : Port) : (setPort s (.itv n) p).itv.turns = s.itv.turns := rfl
@[simp] theorem setPort_itv_itv_dir (s : State) (n : Fin 72) (p : Port) : (setPort s (.itv n) p).itv.dir = s.itv.dir := rfl
@[simp] theorem setPort_itv_itv_pool (s : State) (n : Fin 72) (p : Port) : (setPort s (.itv n) p).itv.pool = s.itv.pool := rfl
@[simp] theorem setPort_itv_itv_wards (s : State) (n : Fin 72) (p : Port) : (setPort s (.itv n) p).itv.wards = s.itv.wards := rfl
@[simp] theorem setPort_itv_itv_coll (s : State) (n : Fin 72) (p : Port) : (setPort s (.itv n) p).itv.coll = s.itv.coll := rfl
@[simp] theorem setPort_itv_itv_sec (s : State) (n : Fin 72) (p : Port) : (setPort s (.itv n) p).itv.sec = s.itv.sec := rfl
@[simp] theorem setPort_itv_itv_pwr (s : State) (n : Fin 72) (p : Port) : (setPort s (.itv n) p).itv.pwr = s.itv.pwr := rfl
@[simp] theorem setPort_itv_itv_mgmt (s : State) (n : Fin 72) (p : Port) : (setPort s (.itv n) p).itv.mgmt = s.itv.mgmt := rfl
@[simp] theorem setPort_itv_itv_ctr (s : State) (n : Fin 72) (p : Port) : (setPort s (.itv n) p).itv.ctr = s.itv.ctr := rfl
@[simp] theorem setPort_itv_itv_portRing (s : State) (n : Fin 72) (p : Port) : (setPort s (.itv n) p).itv.portRing = s.itv.portRing := rfl
@[simp] theorem setPort_itv_itv_lostTables (s : State) (n : Fin 72) (p : Port) : (setPort s (.itv n) p).itv.lostTables = s.itv.lostTables := rfl
@[simp] theorem setPort_itv_blg (s : State) (n : Fin 72) (p : Port) : (setPort s (.itv n) p).blg = s.blg := rfl
@[simp] theorem setPort_itv_out (s : State) (n : Fin 72) (p : Port) : (setPort s (.itv n) p).out = s.out := rfl
@[simp] theorem setPort_itv_free (s : State) (n : Fin 72) (p : Port) : (setPort s (.itv n) p).free = s.free := rfl
@[simp] theorem setPort_itv_pending (s : State) (n : Fin 72) (p : Port) : (setPort s (.itv n) p).pending = s.pending := rfl

/-! ## setPort_blg -/

@[simp] theorem setPort_blg_now (s : State) (n : Fin 24) (p : Port) : (setPort s (.blg n) p).now = s.now := rfl
@[simp] theorem setPort_blg_itv (s : State) (n : Fin 24) (p : Port) : (setPort s (.blg n) p).itv = s.itv := rfl
@[simp] theorem setPort_blg_blg_fuse (s : State) (n : Fin 24) (p : Port) : (setPort s (.blg n) p).blg.fuse = s.blg.fuse := rfl
@[simp] theorem setPort_blg_blg_node (s : State) (n : Fin 24) (p : Port) : (setPort s (.blg n) p).blg.node = s.blg.node := rfl
@[simp] theorem setPort_blg_blg_planes (s : State) (n : Fin 24) (p : Port) : (setPort s (.blg n) p).blg.planes = s.blg.planes := rfl
@[simp] theorem setPort_blg_blg_form (s : State) (n : Fin 24) (p : Port) : (setPort s (.blg n) p).blg.form = s.blg.form := rfl
@[simp] theorem setPort_blg_blg_ports (s : State) (n : Fin 24) (p : Port) : (setPort s (.blg n) p).blg.ports = s.blg.ports.set n.val p n.isLt := rfl
@[simp] theorem setPort_blg_blg_cue (s : State) (n : Fin 24) (p : Port) : (setPort s (.blg n) p).blg.cue = s.blg.cue := rfl
@[simp] theorem setPort_blg_blg_lostA (s : State) (n : Fin 24) (p : Port) : (setPort s (.blg n) p).blg.lostA = s.blg.lostA := rfl
@[simp] theorem setPort_blg_blg_lostB (s : State) (n : Fin 24) (p : Port) : (setPort s (.blg n) p).blg.lostB = s.blg.lostB := rfl
@[simp] theorem setPort_blg_blg_useB (s : State) (n : Fin 24) (p : Port) : (setPort s (.blg n) p).blg.useB = s.blg.useB := rfl
@[simp] theorem setPort_blg_blg_bothLost (s : State) (n : Fin 24) (p : Port) : (setPort s (.blg n) p).blg.bothLost = s.blg.bothLost := rfl
@[simp] theorem setPort_blg_blg_startWait (s : State) (n : Fin 24) (p : Port) : (setPort s (.blg n) p).blg.startWait = s.blg.startWait := rfl
@[simp] theorem setPort_blg_blg_resetAt (s : State) (n : Fin 24) (p : Port) : (setPort s (.blg n) p).blg.resetAt = s.blg.resetAt := rfl
@[simp] theorem setPort_blg_blg_cause (s : State) (n : Fin 24) (p : Port) : (setPort s (.blg n) p).blg.cause = s.blg.cause := rfl
@[simp] theorem setPort_blg_blg_mask (s : State) (n : Fin 24) (p : Port) : (setPort s (.blg n) p).blg.mask = s.blg.mask := rfl
@[simp] theorem setPort_blg_blg_intChannel (s : State) (n : Fin 24) (p : Port) : (setPort s (.blg n) p).blg.intChannel = s.blg.intChannel := rfl
@[simp] theorem setPort_blg_blg_pmsgChannel (s : State) (n : Fin 24) (p : Port) : (setPort s (.blg n) p).blg.pmsgChannel = s.blg.pmsgChannel := rfl
@[simp] theorem setPort_blg_blg_pace (s : State) (n : Fin 24) (p : Port) : (setPort s (.blg n) p).blg.pace = s.blg.pace := rfl
@[simp] theorem setPort_blg_blg_vreq (s : State) (n : Fin 24) (p : Port) : (setPort s (.blg n) p).blg.vreq = s.blg.vreq := rfl
@[simp] theorem setPort_blg_blg_homeMap (s : State) (n : Fin 24) (p : Port) : (setPort s (.blg n) p).blg.homeMap = s.blg.homeMap := rfl
@[simp] theorem setPort_blg_blg_homeWritten (s : State) (n : Fin 24) (p : Port) : (setPort s (.blg n) p).blg.homeWritten = s.blg.homeWritten := rfl
@[simp] theorem setPort_blg_blg_vcWeight (s : State) (n : Fin 24) (p : Port) : (setPort s (.blg n) p).blg.vcWeight = s.blg.vcWeight := rfl
@[simp] theorem setPort_blg_blg_e2e (s : State) (n : Fin 24) (p : Port) : (setPort s (.blg n) p).blg.e2e = s.blg.e2e := rfl
@[simp] theorem setPort_blg_blg_retryMax (s : State) (n : Fin 24) (p : Port) : (setPort s (.blg n) p).blg.retryMax = s.blg.retryMax := rfl
@[simp] theorem setPort_blg_blg_ctxBase (s : State) (n : Fin 24) (p : Port) : (setPort s (.blg n) p).blg.ctxBase = s.blg.ctxBase := rfl
@[simp] theorem setPort_blg_blg_ctxCount (s : State) (n : Fin 24) (p : Port) : (setPort s (.blg n) p).blg.ctxCount = s.blg.ctxCount := rfl
@[simp] theorem setPort_blg_blg_window (s : State) (n : Fin 24) (p : Port) : (setPort s (.blg n) p).blg.window = s.blg.window := rfl
@[simp] theorem setPort_blg_blg_faultBase (s : State) (n : Fin 24) (p : Port) : (setPort s (.blg n) p).blg.faultBase = s.blg.faultBase := rfl
@[simp] theorem setPort_blg_blg_faultHead (s : State) (n : Fin 24) (p : Port) : (setPort s (.blg n) p).blg.faultHead = s.blg.faultHead := rfl
@[simp] theorem setPort_blg_blg_faultTail (s : State) (n : Fin 24) (p : Port) : (setPort s (.blg n) p).blg.faultTail = s.blg.faultTail := rfl
@[simp] theorem setPort_blg_blg_faultLog2 (s : State) (n : Fin 24) (p : Port) : (setPort s (.blg n) p).blg.faultLog2 = s.blg.faultLog2 := rfl
@[simp] theorem setPort_blg_blg_faultLost (s : State) (n : Fin 24) (p : Port) : (setPort s (.blg n) p).blg.faultLost = s.blg.faultLost := rfl
@[simp] theorem setPort_blg_blg_invSlots (s : State) (n : Fin 24) (p : Port) : (setPort s (.blg n) p).blg.invSlots = s.blg.invSlots := rfl
@[simp] theorem setPort_blg_blg_tables (s : State) (n : Fin 24) (p : Port) : (setPort s (.blg n) p).blg.tables = s.blg.tables := rfl
@[simp] theorem setPort_blg_blg_groupMem (s : State) (n : Fin 24) (p : Port) : (setPort s (.blg n) p).blg.groupMem = s.blg.groupMem := rfl
@[simp] theorem setPort_blg_blg_live (s : State) (n : Fin 24) (p : Port) : (setPort s (.blg n) p).blg.live = s.blg.live := rfl
@[simp] theorem setPort_blg_blg_tallies (s : State) (n : Fin 24) (p : Port) : (setPort s (.blg n) p).blg.tallies = s.blg.tallies := rfl
@[simp] theorem setPort_blg_blg_waits (s : State) (n : Fin 24) (p : Port) : (setPort s (.blg n) p).blg.waits = s.blg.waits := rfl
@[simp] theorem setPort_blg_blg_l1 (s : State) (n : Fin 24) (p : Port) : (setPort s (.blg n) p).blg.l1 = s.blg.l1 := rfl
@[simp] theorem setPort_blg_blg_l2 (s : State) (n : Fin 24) (p : Port) : (setPort s (.blg n) p).blg.l2 = s.blg.l2 := rfl
@[simp] theorem setPort_blg_blg_walkCache (s : State) (n : Fin 24) (p : Port) : (setPort s (.blg n) p).blg.walkCache = s.blg.walkCache := rfl
@[simp] theorem setPort_blg_blg_descs (s : State) (n : Fin 24) (p : Port) : (setPort s (.blg n) p).blg.descs = s.blg.descs := rfl
@[simp] theorem setPort_blg_blg_walks (s : State) (n : Fin 24) (p : Port) : (setPort s (.blg n) p).blg.walks = s.blg.walks := rfl
@[simp] theorem setPort_blg_blg_walkQueue (s : State) (n : Fin 24) (p : Port) : (setPort s (.blg n) p).blg.walkQueue = s.blg.walkQueue := rfl
@[simp] theorem setPort_blg_blg_nextWalk (s : State) (n : Fin 24) (p : Port) : (setPort s (.blg n) p).blg.nextWalk = s.blg.nextWalk := rfl
@[simp] theorem setPort_blg_blg_lmem (s : State) (n : Fin 24) (p : Port) : (setPort s (.blg n) p).blg.lmem = s.blg.lmem := rfl
@[simp] theorem setPort_blg_blg_nextTag (s : State) (n : Fin 24) (p : Port) : (setPort s (.blg n) p).blg.nextTag = s.blg.nextTag := rfl
@[simp] theorem setPort_blg_blg_far (s : State) (n : Fin 24) (p : Port) : (setPort s (.blg n) p).blg.far = s.blg.far := rfl
@[simp] theorem setPort_blg_blg_oc (s : State) (n : Fin 24) (p : Port) : (setPort s (.blg n) p).blg.oc = s.blg.oc := rfl
@[simp] theorem setPort_blg_blg_nextOc (s : State) (n : Fin 24) (p : Port) : (setPort s (.blg n) p).blg.nextOc = s.blg.nextOc := rfl
@[simp] theorem setPort_blg_blg_useClock (s : State) (n : Fin 24) (p : Port) : (setPort s (.blg n) p).blg.useClock = s.blg.useClock := rfl
@[simp] theorem setPort_blg_blg_fillWait (s : State) (n : Fin 24) (p : Port) : (setPort s (.blg n) p).blg.fillWait = s.blg.fillWait := rfl
@[simp] theorem setPort_blg_blg_rmemBusy (s : State) (n : Fin 24) (p : Port) : (setPort s (.blg n) p).blg.rmemBusy = s.blg.rmemBusy := rfl
@[simp] theorem setPort_blg_blg_rmemWait (s : State) (n : Fin 24) (p : Port) : (setPort s (.blg n) p).blg.rmemWait = s.blg.rmemWait := rfl
@[simp] theorem setPort_blg_blg_fences (s : State) (n : Fin 24) (p : Port) : (setPort s (.blg n) p).blg.fences = s.blg.fences := rfl
@[simp] theorem setPort_blg_blg_gated (s : State) (n : Fin 24) (p : Port) : (setPort s (.blg n) p).blg.gated = s.blg.gated := rfl
@[simp] theorem setPort_blg_blg_dirtyPlanes (s : State) (n : Fin 24) (p : Port) : (setPort s (.blg n) p).blg.dirtyPlanes = s.blg.dirtyPlanes := rfl
@[simp] theorem setPort_blg_blg_dirtyCtx (s : State) (n : Fin 24) (p : Port) : (setPort s (.blg n) p).blg.dirtyCtx = s.blg.dirtyCtx := rfl
@[simp] theorem setPort_blg_blg_lostStatus (s : State) (n : Fin 24) (p : Port) : (setPort s (.blg n) p).blg.lostStatus = s.blg.lostStatus := rfl
@[simp] theorem setPort_blg_blg_openOps (s : State) (n : Fin 24) (p : Port) : (setPort s (.blg n) p).blg.openOps = s.blg.openOps := rfl
@[simp] theorem setPort_blg_blg_nextOp (s : State) (n : Fin 24) (p : Port) : (setPort s (.blg n) p).blg.nextOp = s.blg.nextOp := rfl
@[simp] theorem setPort_blg_blg_inflows (s : State) (n : Fin 24) (p : Port) : (setPort s (.blg n) p).blg.inflows = s.blg.inflows := rfl
@[simp] theorem setPort_blg_blg_outflows (s : State) (n : Fin 24) (p : Port) : (setPort s (.blg n) p).blg.outflows = s.blg.outflows := rfl
@[simp] theorem setPort_blg_blg_turns (s : State) (n : Fin 24) (p : Port) : (setPort s (.blg n) p).blg.turns = s.blg.turns := rfl
@[simp] theorem setPort_blg_blg_flowWait (s : State) (n : Fin 24) (p : Port) : (setPort s (.blg n) p).blg.flowWait = s.blg.flowWait := rfl
@[simp] theorem setPort_blg_blg_early (s : State) (n : Fin 24) (p : Port) : (setPort s (.blg n) p).blg.early = s.blg.early := rfl
@[simp] theorem setPort_blg_blg_lastAdaptive (s : State) (n : Fin 24) (p : Port) : (setPort s (.blg n) p).blg.lastAdaptive = s.blg.lastAdaptive := rfl
@[simp] theorem setPort_blg_blg_inbox (s : State) (n : Fin 24) (p : Port) : (setPort s (.blg n) p).blg.inbox = s.blg.inbox := rfl
@[simp] theorem setPort_blg_blg_channels (s : State) (n : Fin 24) (p : Port) : (setPort s (.blg n) p).blg.channels = s.blg.channels := rfl
@[simp] theorem setPort_blg_blg_hands (s : State) (n : Fin 24) (p : Port) : (setPort s (.blg n) p).blg.hands = s.blg.hands := rfl
@[simp] theorem setPort_blg_blg_colls (s : State) (n : Fin 24) (p : Port) : (setPort s (.blg n) p).blg.colls = s.blg.colls := rfl
@[simp] theorem setPort_blg_blg_keys (s : State) (n : Fin 24) (p : Port) : (setPort s (.blg n) p).blg.keys = s.blg.keys := rfl
@[simp] theorem setPort_blg_blg_keyEpochs (s : State) (n : Fin 24) (p : Port) : (setPort s (.blg n) p).blg.keyEpochs = s.blg.keyEpochs := rfl
@[simp] theorem setPort_blg_blg_struck (s : State) (n : Fin 24) (p : Port) : (setPort s (.blg n) p).blg.struck = s.blg.struck := rfl
@[simp] theorem setPort_blg_blg_cleared (s : State) (n : Fin 24) (p : Port) : (setPort s (.blg n) p).blg.cleared = s.blg.cleared := rfl
@[simp] theorem setPort_blg_blg_ctr (s : State) (n : Fin 24) (p : Port) : (setPort s (.blg n) p).blg.ctr = s.blg.ctr := rfl
@[simp] theorem setPort_blg_out (s : State) (n : Fin 24) (p : Port) : (setPort s (.blg n) p).out = s.out := rfl
@[simp] theorem setPort_blg_free (s : State) (n : Fin 24) (p : Port) : (setPort s (.blg n) p).free = s.free := rfl
@[simp] theorem setPort_blg_pending (s : State) (n : Fin 24) (p : Port) : (setPort s (.blg n) p).pending = s.pending := rfl

/-! ## setCue_itv -/

@[simp] theorem setCue_itv_now (s : State) (c : Cue) : (setCue s .itv c).now = s.now := rfl
@[simp] theorem setCue_itv_itv_fuse (s : State) (c : Cue) : (setCue s .itv c).itv.fuse = s.itv.fuse := rfl
@[simp] theorem setCue_itv_itv_boot (s : State) (c : Cue) : (setCue s .itv c).itv.boot = s.itv.boot := rfl
@[simp] theorem setCue_itv_itv_flash (s : State) (c : Cue) : (setCue s .itv c).itv.flash = s.itv.flash := rfl
@[simp] theorem setCue_itv_itv_relay (s : State) (c : Cue) : (setCue s .itv c).itv.relay = s.itv.relay := rfl
@[simp] theorem setCue_itv_itv_cb (s : State) (c : Cue) : (setCue s .itv c).itv.cb = s.itv.cb := rfl
@[simp] theorem setCue_itv_itv_ports (s : State) (c : Cue) : (setCue s .itv c).itv.ports = s.itv.ports := rfl
@[simp] theorem setCue_itv_itv_routing (s : State) (c : Cue) : (setCue s .itv c).itv.routing = s.itv.routing := rfl
@[simp] theorem setCue_itv_itv_core (s : State) (c : Cue) : (setCue s .itv c).itv.core = s.itv.core := rfl
@[simp] theorem setCue_itv_itv_cue (s : State) (c : Cue) : (setCue s .itv c).itv.cue = c := rfl
@[simp] theorem setCue_itv_itv_inflows (s : State) (c : Cue) : (setCue s .itv c).itv.inflows = s.itv.inflows := rfl
@[simp] theorem setCue_itv_itv_outflows (s : State) (c : Cue) : (setCue s .itv c).itv.outflows = s.itv.outflows := rfl
@[simp] theorem setCue_itv_itv_turns (s : State) (c : Cue) : (setCue s .itv c).itv.turns = s.itv.turns := rfl
@[simp] theorem setCue_itv_itv_dir (s : State) (c : Cue) : (setCue s .itv c).itv.dir = s.itv.dir := rfl
@[simp] theorem setCue_itv_itv_pool (s : State) (c : Cue) : (setCue s .itv c).itv.pool = s.itv.pool := rfl
@[simp] theorem setCue_itv_itv_wards (s : State) (c : Cue) : (setCue s .itv c).itv.wards = s.itv.wards := rfl
@[simp] theorem setCue_itv_itv_coll (s : State) (c : Cue) : (setCue s .itv c).itv.coll = s.itv.coll := rfl
@[simp] theorem setCue_itv_itv_sec (s : State) (c : Cue) : (setCue s .itv c).itv.sec = s.itv.sec := rfl
@[simp] theorem setCue_itv_itv_pwr (s : State) (c : Cue) : (setCue s .itv c).itv.pwr = s.itv.pwr := rfl
@[simp] theorem setCue_itv_itv_mgmt (s : State) (c : Cue) : (setCue s .itv c).itv.mgmt = s.itv.mgmt := rfl
@[simp] theorem setCue_itv_itv_ctr (s : State) (c : Cue) : (setCue s .itv c).itv.ctr = s.itv.ctr := rfl
@[simp] theorem setCue_itv_itv_portRing (s : State) (c : Cue) : (setCue s .itv c).itv.portRing = s.itv.portRing := rfl
@[simp] theorem setCue_itv_itv_lostTables (s : State) (c : Cue) : (setCue s .itv c).itv.lostTables = s.itv.lostTables := rfl
@[simp] theorem setCue_itv_blg (s : State) (c : Cue) : (setCue s .itv c).blg = s.blg := rfl
@[simp] theorem setCue_itv_out (s : State) (c : Cue) : (setCue s .itv c).out = s.out := rfl
@[simp] theorem setCue_itv_free (s : State) (c : Cue) : (setCue s .itv c).free = s.free := rfl
@[simp] theorem setCue_itv_pending (s : State) (c : Cue) : (setCue s .itv c).pending = s.pending := rfl

/-! ## setCue_blg -/

@[simp] theorem setCue_blg_now (s : State) (c : Cue) : (setCue s .blg c).now = s.now := rfl
@[simp] theorem setCue_blg_itv (s : State) (c : Cue) : (setCue s .blg c).itv = s.itv := rfl
@[simp] theorem setCue_blg_blg_fuse (s : State) (c : Cue) : (setCue s .blg c).blg.fuse = s.blg.fuse := rfl
@[simp] theorem setCue_blg_blg_node (s : State) (c : Cue) : (setCue s .blg c).blg.node = s.blg.node := rfl
@[simp] theorem setCue_blg_blg_planes (s : State) (c : Cue) : (setCue s .blg c).blg.planes = s.blg.planes := rfl
@[simp] theorem setCue_blg_blg_form (s : State) (c : Cue) : (setCue s .blg c).blg.form = s.blg.form := rfl
@[simp] theorem setCue_blg_blg_ports (s : State) (c : Cue) : (setCue s .blg c).blg.ports = s.blg.ports := rfl
@[simp] theorem setCue_blg_blg_cue (s : State) (c : Cue) : (setCue s .blg c).blg.cue = c := rfl
@[simp] theorem setCue_blg_blg_lostA (s : State) (c : Cue) : (setCue s .blg c).blg.lostA = s.blg.lostA := rfl
@[simp] theorem setCue_blg_blg_lostB (s : State) (c : Cue) : (setCue s .blg c).blg.lostB = s.blg.lostB := rfl
@[simp] theorem setCue_blg_blg_useB (s : State) (c : Cue) : (setCue s .blg c).blg.useB = s.blg.useB := rfl
@[simp] theorem setCue_blg_blg_bothLost (s : State) (c : Cue) : (setCue s .blg c).blg.bothLost = s.blg.bothLost := rfl
@[simp] theorem setCue_blg_blg_startWait (s : State) (c : Cue) : (setCue s .blg c).blg.startWait = s.blg.startWait := rfl
@[simp] theorem setCue_blg_blg_resetAt (s : State) (c : Cue) : (setCue s .blg c).blg.resetAt = s.blg.resetAt := rfl
@[simp] theorem setCue_blg_blg_cause (s : State) (c : Cue) : (setCue s .blg c).blg.cause = s.blg.cause := rfl
@[simp] theorem setCue_blg_blg_mask (s : State) (c : Cue) : (setCue s .blg c).blg.mask = s.blg.mask := rfl
@[simp] theorem setCue_blg_blg_intChannel (s : State) (c : Cue) : (setCue s .blg c).blg.intChannel = s.blg.intChannel := rfl
@[simp] theorem setCue_blg_blg_pmsgChannel (s : State) (c : Cue) : (setCue s .blg c).blg.pmsgChannel = s.blg.pmsgChannel := rfl
@[simp] theorem setCue_blg_blg_pace (s : State) (c : Cue) : (setCue s .blg c).blg.pace = s.blg.pace := rfl
@[simp] theorem setCue_blg_blg_vreq (s : State) (c : Cue) : (setCue s .blg c).blg.vreq = s.blg.vreq := rfl
@[simp] theorem setCue_blg_blg_homeMap (s : State) (c : Cue) : (setCue s .blg c).blg.homeMap = s.blg.homeMap := rfl
@[simp] theorem setCue_blg_blg_homeWritten (s : State) (c : Cue) : (setCue s .blg c).blg.homeWritten = s.blg.homeWritten := rfl
@[simp] theorem setCue_blg_blg_vcWeight (s : State) (c : Cue) : (setCue s .blg c).blg.vcWeight = s.blg.vcWeight := rfl
@[simp] theorem setCue_blg_blg_e2e (s : State) (c : Cue) : (setCue s .blg c).blg.e2e = s.blg.e2e := rfl
@[simp] theorem setCue_blg_blg_retryMax (s : State) (c : Cue) : (setCue s .blg c).blg.retryMax = s.blg.retryMax := rfl
@[simp] theorem setCue_blg_blg_ctxBase (s : State) (c : Cue) : (setCue s .blg c).blg.ctxBase = s.blg.ctxBase := rfl
@[simp] theorem setCue_blg_blg_ctxCount (s : State) (c : Cue) : (setCue s .blg c).blg.ctxCount = s.blg.ctxCount := rfl
@[simp] theorem setCue_blg_blg_window (s : State) (c : Cue) : (setCue s .blg c).blg.window = s.blg.window := rfl
@[simp] theorem setCue_blg_blg_faultBase (s : State) (c : Cue) : (setCue s .blg c).blg.faultBase = s.blg.faultBase := rfl
@[simp] theorem setCue_blg_blg_faultHead (s : State) (c : Cue) : (setCue s .blg c).blg.faultHead = s.blg.faultHead := rfl
@[simp] theorem setCue_blg_blg_faultTail (s : State) (c : Cue) : (setCue s .blg c).blg.faultTail = s.blg.faultTail := rfl
@[simp] theorem setCue_blg_blg_faultLog2 (s : State) (c : Cue) : (setCue s .blg c).blg.faultLog2 = s.blg.faultLog2 := rfl
@[simp] theorem setCue_blg_blg_faultLost (s : State) (c : Cue) : (setCue s .blg c).blg.faultLost = s.blg.faultLost := rfl
@[simp] theorem setCue_blg_blg_invSlots (s : State) (c : Cue) : (setCue s .blg c).blg.invSlots = s.blg.invSlots := rfl
@[simp] theorem setCue_blg_blg_tables (s : State) (c : Cue) : (setCue s .blg c).blg.tables = s.blg.tables := rfl
@[simp] theorem setCue_blg_blg_groupMem (s : State) (c : Cue) : (setCue s .blg c).blg.groupMem = s.blg.groupMem := rfl
@[simp] theorem setCue_blg_blg_live (s : State) (c : Cue) : (setCue s .blg c).blg.live = s.blg.live := rfl
@[simp] theorem setCue_blg_blg_tallies (s : State) (c : Cue) : (setCue s .blg c).blg.tallies = s.blg.tallies := rfl
@[simp] theorem setCue_blg_blg_waits (s : State) (c : Cue) : (setCue s .blg c).blg.waits = s.blg.waits := rfl
@[simp] theorem setCue_blg_blg_l1 (s : State) (c : Cue) : (setCue s .blg c).blg.l1 = s.blg.l1 := rfl
@[simp] theorem setCue_blg_blg_l2 (s : State) (c : Cue) : (setCue s .blg c).blg.l2 = s.blg.l2 := rfl
@[simp] theorem setCue_blg_blg_walkCache (s : State) (c : Cue) : (setCue s .blg c).blg.walkCache = s.blg.walkCache := rfl
@[simp] theorem setCue_blg_blg_descs (s : State) (c : Cue) : (setCue s .blg c).blg.descs = s.blg.descs := rfl
@[simp] theorem setCue_blg_blg_walks (s : State) (c : Cue) : (setCue s .blg c).blg.walks = s.blg.walks := rfl
@[simp] theorem setCue_blg_blg_walkQueue (s : State) (c : Cue) : (setCue s .blg c).blg.walkQueue = s.blg.walkQueue := rfl
@[simp] theorem setCue_blg_blg_nextWalk (s : State) (c : Cue) : (setCue s .blg c).blg.nextWalk = s.blg.nextWalk := rfl
@[simp] theorem setCue_blg_blg_lmem (s : State) (c : Cue) : (setCue s .blg c).blg.lmem = s.blg.lmem := rfl
@[simp] theorem setCue_blg_blg_nextTag (s : State) (c : Cue) : (setCue s .blg c).blg.nextTag = s.blg.nextTag := rfl
@[simp] theorem setCue_blg_blg_far (s : State) (c : Cue) : (setCue s .blg c).blg.far = s.blg.far := rfl
@[simp] theorem setCue_blg_blg_oc (s : State) (c : Cue) : (setCue s .blg c).blg.oc = s.blg.oc := rfl
@[simp] theorem setCue_blg_blg_nextOc (s : State) (c : Cue) : (setCue s .blg c).blg.nextOc = s.blg.nextOc := rfl
@[simp] theorem setCue_blg_blg_useClock (s : State) (c : Cue) : (setCue s .blg c).blg.useClock = s.blg.useClock := rfl
@[simp] theorem setCue_blg_blg_fillWait (s : State) (c : Cue) : (setCue s .blg c).blg.fillWait = s.blg.fillWait := rfl
@[simp] theorem setCue_blg_blg_rmemBusy (s : State) (c : Cue) : (setCue s .blg c).blg.rmemBusy = s.blg.rmemBusy := rfl
@[simp] theorem setCue_blg_blg_rmemWait (s : State) (c : Cue) : (setCue s .blg c).blg.rmemWait = s.blg.rmemWait := rfl
@[simp] theorem setCue_blg_blg_fences (s : State) (c : Cue) : (setCue s .blg c).blg.fences = s.blg.fences := rfl
@[simp] theorem setCue_blg_blg_gated (s : State) (c : Cue) : (setCue s .blg c).blg.gated = s.blg.gated := rfl
@[simp] theorem setCue_blg_blg_dirtyPlanes (s : State) (c : Cue) : (setCue s .blg c).blg.dirtyPlanes = s.blg.dirtyPlanes := rfl
@[simp] theorem setCue_blg_blg_dirtyCtx (s : State) (c : Cue) : (setCue s .blg c).blg.dirtyCtx = s.blg.dirtyCtx := rfl
@[simp] theorem setCue_blg_blg_lostStatus (s : State) (c : Cue) : (setCue s .blg c).blg.lostStatus = s.blg.lostStatus := rfl
@[simp] theorem setCue_blg_blg_openOps (s : State) (c : Cue) : (setCue s .blg c).blg.openOps = s.blg.openOps := rfl
@[simp] theorem setCue_blg_blg_nextOp (s : State) (c : Cue) : (setCue s .blg c).blg.nextOp = s.blg.nextOp := rfl
@[simp] theorem setCue_blg_blg_inflows (s : State) (c : Cue) : (setCue s .blg c).blg.inflows = s.blg.inflows := rfl
@[simp] theorem setCue_blg_blg_outflows (s : State) (c : Cue) : (setCue s .blg c).blg.outflows = s.blg.outflows := rfl
@[simp] theorem setCue_blg_blg_turns (s : State) (c : Cue) : (setCue s .blg c).blg.turns = s.blg.turns := rfl
@[simp] theorem setCue_blg_blg_flowWait (s : State) (c : Cue) : (setCue s .blg c).blg.flowWait = s.blg.flowWait := rfl
@[simp] theorem setCue_blg_blg_early (s : State) (c : Cue) : (setCue s .blg c).blg.early = s.blg.early := rfl
@[simp] theorem setCue_blg_blg_lastAdaptive (s : State) (c : Cue) : (setCue s .blg c).blg.lastAdaptive = s.blg.lastAdaptive := rfl
@[simp] theorem setCue_blg_blg_inbox (s : State) (c : Cue) : (setCue s .blg c).blg.inbox = s.blg.inbox := rfl
@[simp] theorem setCue_blg_blg_channels (s : State) (c : Cue) : (setCue s .blg c).blg.channels = s.blg.channels := rfl
@[simp] theorem setCue_blg_blg_hands (s : State) (c : Cue) : (setCue s .blg c).blg.hands = s.blg.hands := rfl
@[simp] theorem setCue_blg_blg_colls (s : State) (c : Cue) : (setCue s .blg c).blg.colls = s.blg.colls := rfl
@[simp] theorem setCue_blg_blg_keys (s : State) (c : Cue) : (setCue s .blg c).blg.keys = s.blg.keys := rfl
@[simp] theorem setCue_blg_blg_keyEpochs (s : State) (c : Cue) : (setCue s .blg c).blg.keyEpochs = s.blg.keyEpochs := rfl
@[simp] theorem setCue_blg_blg_struck (s : State) (c : Cue) : (setCue s .blg c).blg.struck = s.blg.struck := rfl
@[simp] theorem setCue_blg_blg_cleared (s : State) (c : Cue) : (setCue s .blg c).blg.cleared = s.blg.cleared := rfl
@[simp] theorem setCue_blg_blg_ctr (s : State) (c : Cue) : (setCue s .blg c).blg.ctr = s.blg.ctr := rfl
@[simp] theorem setCue_blg_out (s : State) (c : Cue) : (setCue s .blg c).out = s.out := rfl
@[simp] theorem setCue_blg_free (s : State) (c : Cue) : (setCue s .blg c).free = s.free := rfl
@[simp] theorem setCue_blg_pending (s : State) (c : Cue) : (setCue s .blg c).pending = s.pending := rfl

/-! ## itvSend -/

@[simp] theorem itvSend_now (s : State) (f : Flit) : (itvSend s f).now = s.now := rfl
@[simp] theorem itvSend_itv_fuse (s : State) (f : Flit) : (itvSend s f).itv.fuse = s.itv.fuse := rfl
@[simp] theorem itvSend_itv_boot (s : State) (f : Flit) : (itvSend s f).itv.boot = s.itv.boot := rfl
@[simp] theorem itvSend_itv_flash (s : State) (f : Flit) : (itvSend s f).itv.flash = s.itv.flash := rfl
@[simp] theorem itvSend_itv_relay (s : State) (f : Flit) : (itvSend s f).itv.relay = s.itv.relay := rfl
@[simp] theorem itvSend_itv_cb (s : State) (f : Flit) : (itvSend s f).itv.cb = s.itv.cb := rfl
@[simp] theorem itvSend_itv_ports (s : State) (f : Flit) : (itvSend s f).itv.ports = s.itv.ports := rfl
@[simp] theorem itvSend_itv_routing (s : State) (f : Flit) : (itvSend s f).itv.routing = s.itv.routing := rfl
@[simp] theorem itvSend_itv_cue (s : State) (f : Flit) : (itvSend s f).itv.cue = s.itv.cue := rfl
@[simp] theorem itvSend_itv_inflows (s : State) (f : Flit) : (itvSend s f).itv.inflows = s.itv.inflows := rfl
@[simp] theorem itvSend_itv_outflows (s : State) (f : Flit) : (itvSend s f).itv.outflows = s.itv.outflows := rfl
@[simp] theorem itvSend_itv_turns (s : State) (f : Flit) : (itvSend s f).itv.turns = s.itv.turns := rfl
@[simp] theorem itvSend_itv_dir (s : State) (f : Flit) : (itvSend s f).itv.dir = s.itv.dir := rfl
@[simp] theorem itvSend_itv_pool (s : State) (f : Flit) : (itvSend s f).itv.pool = s.itv.pool := rfl
@[simp] theorem itvSend_itv_wards (s : State) (f : Flit) : (itvSend s f).itv.wards = s.itv.wards := rfl
@[simp] theorem itvSend_itv_coll (s : State) (f : Flit) : (itvSend s f).itv.coll = s.itv.coll := rfl
@[simp] theorem itvSend_itv_sec (s : State) (f : Flit) : (itvSend s f).itv.sec = s.itv.sec := rfl
@[simp] theorem itvSend_itv_pwr (s : State) (f : Flit) : (itvSend s f).itv.pwr = s.itv.pwr := rfl
@[simp] theorem itvSend_itv_mgmt (s : State) (f : Flit) : (itvSend s f).itv.mgmt = s.itv.mgmt := rfl
@[simp] theorem itvSend_itv_ctr (s : State) (f : Flit) : (itvSend s f).itv.ctr = s.itv.ctr := rfl
@[simp] theorem itvSend_itv_portRing (s : State) (f : Flit) : (itvSend s f).itv.portRing = s.itv.portRing := rfl
@[simp] theorem itvSend_itv_lostTables (s : State) (f : Flit) : (itvSend s f).itv.lostTables = s.itv.lostTables := rfl
@[simp] theorem itvSend_blg (s : State) (f : Flit) : (itvSend s f).blg = s.blg := rfl
@[simp] theorem itvSend_out (s : State) (f : Flit) : (itvSend s f).out = s.out := rfl
@[simp] theorem itvSend_free (s : State) (f : Flit) : (itvSend s f).free = s.free := rfl
@[simp] theorem itvSend_pending (s : State) (f : Flit) : (itvSend s f).pending = s.pending := rfl

/-! ## takeInbox_itv -/

@[simp] theorem takeInbox_itv_now (s : State) (f : Flit) : (takeInbox s .itv f).now = s.now := rfl
@[simp] theorem takeInbox_itv_itv_fuse (s : State) (f : Flit) : (takeInbox s .itv f).itv.fuse = s.itv.fuse := rfl
@[simp] theorem takeInbox_itv_itv_boot (s : State) (f : Flit) : (takeInbox s .itv f).itv.boot = s.itv.boot := rfl
@[simp] theorem takeInbox_itv_itv_flash (s : State) (f : Flit) : (takeInbox s .itv f).itv.flash = s.itv.flash := rfl
@[simp] theorem takeInbox_itv_itv_relay (s : State) (f : Flit) : (takeInbox s .itv f).itv.relay = s.itv.relay := rfl
@[simp] theorem takeInbox_itv_itv_cb (s : State) (f : Flit) : (takeInbox s .itv f).itv.cb = s.itv.cb := rfl
@[simp] theorem takeInbox_itv_itv_ports (s : State) (f : Flit) : (takeInbox s .itv f).itv.ports = s.itv.ports := rfl
@[simp] theorem takeInbox_itv_itv_routing (s : State) (f : Flit) : (takeInbox s .itv f).itv.routing = s.itv.routing := rfl
@[simp] theorem takeInbox_itv_itv_cue (s : State) (f : Flit) : (takeInbox s .itv f).itv.cue = s.itv.cue := rfl
@[simp] theorem takeInbox_itv_itv_inflows (s : State) (f : Flit) : (takeInbox s .itv f).itv.inflows = s.itv.inflows := rfl
@[simp] theorem takeInbox_itv_itv_outflows (s : State) (f : Flit) : (takeInbox s .itv f).itv.outflows = s.itv.outflows := rfl
@[simp] theorem takeInbox_itv_itv_turns (s : State) (f : Flit) : (takeInbox s .itv f).itv.turns = s.itv.turns := rfl
@[simp] theorem takeInbox_itv_itv_dir (s : State) (f : Flit) : (takeInbox s .itv f).itv.dir = s.itv.dir := rfl
@[simp] theorem takeInbox_itv_itv_pool (s : State) (f : Flit) : (takeInbox s .itv f).itv.pool = s.itv.pool := rfl
@[simp] theorem takeInbox_itv_itv_wards (s : State) (f : Flit) : (takeInbox s .itv f).itv.wards = s.itv.wards := rfl
@[simp] theorem takeInbox_itv_itv_coll (s : State) (f : Flit) : (takeInbox s .itv f).itv.coll = s.itv.coll := rfl
@[simp] theorem takeInbox_itv_itv_sec (s : State) (f : Flit) : (takeInbox s .itv f).itv.sec = s.itv.sec := rfl
@[simp] theorem takeInbox_itv_itv_pwr (s : State) (f : Flit) : (takeInbox s .itv f).itv.pwr = s.itv.pwr := rfl
@[simp] theorem takeInbox_itv_itv_mgmt (s : State) (f : Flit) : (takeInbox s .itv f).itv.mgmt = s.itv.mgmt := rfl
@[simp] theorem takeInbox_itv_itv_ctr (s : State) (f : Flit) : (takeInbox s .itv f).itv.ctr = s.itv.ctr := rfl
@[simp] theorem takeInbox_itv_itv_portRing (s : State) (f : Flit) : (takeInbox s .itv f).itv.portRing = s.itv.portRing := rfl
@[simp] theorem takeInbox_itv_itv_lostTables (s : State) (f : Flit) : (takeInbox s .itv f).itv.lostTables = s.itv.lostTables := rfl
@[simp] theorem takeInbox_itv_blg (s : State) (f : Flit) : (takeInbox s .itv f).blg = s.blg := rfl
@[simp] theorem takeInbox_itv_out (s : State) (f : Flit) : (takeInbox s .itv f).out = s.out := rfl
@[simp] theorem takeInbox_itv_free (s : State) (f : Flit) : (takeInbox s .itv f).free = s.free := rfl
@[simp] theorem takeInbox_itv_pending (s : State) (f : Flit) : (takeInbox s .itv f).pending = s.pending := rfl

/-! ## tick -/

@[simp] theorem tick_now (s : State) : (tick s).now = s.now + 1 := rfl
@[simp] theorem tick_itv_fuse (s : State) : (tick s).itv.fuse = s.itv.fuse := rfl
@[simp] theorem tick_itv_boot (s : State) : (tick s).itv.boot = s.itv.boot := rfl
@[simp] theorem tick_itv_flash (s : State) : (tick s).itv.flash = s.itv.flash := rfl
@[simp] theorem tick_itv_relay (s : State) : (tick s).itv.relay = s.itv.relay := rfl
@[simp] theorem tick_itv_cb (s : State) : (tick s).itv.cb = s.itv.cb := rfl
@[simp] theorem tick_itv_ports (s : State) : (tick s).itv.ports = s.itv.ports := rfl
@[simp] theorem tick_itv_routing (s : State) : (tick s).itv.routing = s.itv.routing := rfl
@[simp] theorem tick_itv_core (s : State) : (tick s).itv.core = s.itv.core := rfl
@[simp] theorem tick_itv_cue (s : State) : (tick s).itv.cue = cueTick s.itv.cue := rfl
@[simp] theorem tick_itv_inflows (s : State) : (tick s).itv.inflows = s.itv.inflows := rfl
@[simp] theorem tick_itv_outflows (s : State) : (tick s).itv.outflows = s.itv.outflows := rfl
@[simp] theorem tick_itv_turns (s : State) : (tick s).itv.turns = s.itv.turns := rfl
@[simp] theorem tick_itv_dir (s : State) : (tick s).itv.dir = s.itv.dir := rfl
@[simp] theorem tick_itv_pool (s : State) : (tick s).itv.pool = s.itv.pool := rfl
@[simp] theorem tick_itv_wards (s : State) : (tick s).itv.wards = s.itv.wards := rfl
@[simp] theorem tick_itv_coll (s : State) : (tick s).itv.coll = s.itv.coll := rfl
@[simp] theorem tick_itv_sec (s : State) : (tick s).itv.sec = s.itv.sec := rfl
@[simp] theorem tick_itv_pwr (s : State) : (tick s).itv.pwr = s.itv.pwr := rfl
@[simp] theorem tick_itv_mgmt (s : State) : (tick s).itv.mgmt = s.itv.mgmt := rfl
@[simp] theorem tick_itv_ctr (s : State) : (tick s).itv.ctr = s.itv.ctr := rfl
@[simp] theorem tick_itv_portRing (s : State) : (tick s).itv.portRing = s.itv.portRing := rfl
@[simp] theorem tick_itv_lostTables (s : State) : (tick s).itv.lostTables = s.itv.lostTables := rfl
@[simp] theorem tick_blg_fuse (s : State) : (tick s).blg.fuse = s.blg.fuse := rfl
@[simp] theorem tick_blg_node (s : State) : (tick s).blg.node = s.blg.node := rfl
@[simp] theorem tick_blg_planes (s : State) : (tick s).blg.planes = s.blg.planes := rfl
@[simp] theorem tick_blg_form (s : State) : (tick s).blg.form = s.blg.form := rfl
@[simp] theorem tick_blg_ports (s : State) : (tick s).blg.ports = s.blg.ports := rfl
@[simp] theorem tick_blg_cue (s : State) : (tick s).blg.cue = cueTick s.blg.cue := rfl
@[simp] theorem tick_blg_lostA (s : State) : (tick s).blg.lostA = s.blg.lostA := rfl
@[simp] theorem tick_blg_lostB (s : State) : (tick s).blg.lostB = s.blg.lostB := rfl
@[simp] theorem tick_blg_useB (s : State) : (tick s).blg.useB = s.blg.useB := rfl
@[simp] theorem tick_blg_bothLost (s : State) : (tick s).blg.bothLost = s.blg.bothLost := rfl
@[simp] theorem tick_blg_startWait (s : State) : (tick s).blg.startWait = s.blg.startWait := rfl
@[simp] theorem tick_blg_resetAt (s : State) : (tick s).blg.resetAt = s.blg.resetAt := rfl
@[simp] theorem tick_blg_cause (s : State) : (tick s).blg.cause = s.blg.cause := rfl
@[simp] theorem tick_blg_mask (s : State) : (tick s).blg.mask = s.blg.mask := rfl
@[simp] theorem tick_blg_intChannel (s : State) : (tick s).blg.intChannel = s.blg.intChannel := rfl
@[simp] theorem tick_blg_pmsgChannel (s : State) : (tick s).blg.pmsgChannel = s.blg.pmsgChannel := rfl
@[simp] theorem tick_blg_pace (s : State) : (tick s).blg.pace = s.blg.pace := rfl
@[simp] theorem tick_blg_vreq (s : State) : (tick s).blg.vreq = s.blg.vreq := rfl
@[simp] theorem tick_blg_homeMap (s : State) : (tick s).blg.homeMap = s.blg.homeMap := rfl
@[simp] theorem tick_blg_homeWritten (s : State) : (tick s).blg.homeWritten = s.blg.homeWritten := rfl
@[simp] theorem tick_blg_vcWeight (s : State) : (tick s).blg.vcWeight = s.blg.vcWeight := rfl
@[simp] theorem tick_blg_e2e (s : State) : (tick s).blg.e2e = s.blg.e2e := rfl
@[simp] theorem tick_blg_retryMax (s : State) : (tick s).blg.retryMax = s.blg.retryMax := rfl
@[simp] theorem tick_blg_ctxBase (s : State) : (tick s).blg.ctxBase = s.blg.ctxBase := rfl
@[simp] theorem tick_blg_ctxCount (s : State) : (tick s).blg.ctxCount = s.blg.ctxCount := rfl
@[simp] theorem tick_blg_window (s : State) : (tick s).blg.window = s.blg.window := rfl
@[simp] theorem tick_blg_faultBase (s : State) : (tick s).blg.faultBase = s.blg.faultBase := rfl
@[simp] theorem tick_blg_faultHead (s : State) : (tick s).blg.faultHead = s.blg.faultHead := rfl
@[simp] theorem tick_blg_faultTail (s : State) : (tick s).blg.faultTail = s.blg.faultTail := rfl
@[simp] theorem tick_blg_faultLog2 (s : State) : (tick s).blg.faultLog2 = s.blg.faultLog2 := rfl
@[simp] theorem tick_blg_faultLost (s : State) : (tick s).blg.faultLost = s.blg.faultLost := rfl
@[simp] theorem tick_blg_invSlots (s : State) : (tick s).blg.invSlots = s.blg.invSlots := rfl
@[simp] theorem tick_blg_tables (s : State) : (tick s).blg.tables = s.blg.tables := rfl
@[simp] theorem tick_blg_groupMem (s : State) : (tick s).blg.groupMem = s.blg.groupMem := rfl
@[simp] theorem tick_blg_live (s : State) : (tick s).blg.live = s.blg.live := rfl
@[simp] theorem tick_blg_tallies (s : State) : (tick s).blg.tallies = s.blg.tallies := rfl
@[simp] theorem tick_blg_waits (s : State) : (tick s).blg.waits = s.blg.waits := rfl
@[simp] theorem tick_blg_l1 (s : State) : (tick s).blg.l1 = s.blg.l1 := rfl
@[simp] theorem tick_blg_l2 (s : State) : (tick s).blg.l2 = s.blg.l2 := rfl
@[simp] theorem tick_blg_walkCache (s : State) : (tick s).blg.walkCache = s.blg.walkCache := rfl
@[simp] theorem tick_blg_descs (s : State) : (tick s).blg.descs = s.blg.descs := rfl
@[simp] theorem tick_blg_walks (s : State) : (tick s).blg.walks = s.blg.walks := rfl
@[simp] theorem tick_blg_walkQueue (s : State) : (tick s).blg.walkQueue = s.blg.walkQueue := rfl
@[simp] theorem tick_blg_nextWalk (s : State) : (tick s).blg.nextWalk = s.blg.nextWalk := rfl
@[simp] theorem tick_blg_lmem (s : State) : (tick s).blg.lmem = s.blg.lmem := rfl
@[simp] theorem tick_blg_nextTag (s : State) : (tick s).blg.nextTag = s.blg.nextTag := rfl
@[simp] theorem tick_blg_far (s : State) : (tick s).blg.far = s.blg.far := rfl
@[simp] theorem tick_blg_oc (s : State) : (tick s).blg.oc = s.blg.oc := rfl
@[simp] theorem tick_blg_nextOc (s : State) : (tick s).blg.nextOc = s.blg.nextOc := rfl
@[simp] theorem tick_blg_useClock (s : State) : (tick s).blg.useClock = s.blg.useClock := rfl
@[simp] theorem tick_blg_fillWait (s : State) : (tick s).blg.fillWait = s.blg.fillWait := rfl
@[simp] theorem tick_blg_rmemBusy (s : State) : (tick s).blg.rmemBusy = s.blg.rmemBusy := rfl
@[simp] theorem tick_blg_rmemWait (s : State) : (tick s).blg.rmemWait = s.blg.rmemWait := rfl
@[simp] theorem tick_blg_fences (s : State) : (tick s).blg.fences = s.blg.fences := rfl
@[simp] theorem tick_blg_gated (s : State) : (tick s).blg.gated = s.blg.gated := rfl
@[simp] theorem tick_blg_dirtyPlanes (s : State) : (tick s).blg.dirtyPlanes = s.blg.dirtyPlanes := rfl
@[simp] theorem tick_blg_dirtyCtx (s : State) : (tick s).blg.dirtyCtx = s.blg.dirtyCtx := rfl
@[simp] theorem tick_blg_lostStatus (s : State) : (tick s).blg.lostStatus = s.blg.lostStatus := rfl
@[simp] theorem tick_blg_openOps (s : State) : (tick s).blg.openOps = s.blg.openOps := rfl
@[simp] theorem tick_blg_nextOp (s : State) : (tick s).blg.nextOp = s.blg.nextOp := rfl
@[simp] theorem tick_blg_inflows (s : State) : (tick s).blg.inflows = s.blg.inflows := rfl
@[simp] theorem tick_blg_outflows (s : State) : (tick s).blg.outflows = s.blg.outflows := rfl
@[simp] theorem tick_blg_turns (s : State) : (tick s).blg.turns = s.blg.turns := rfl
@[simp] theorem tick_blg_flowWait (s : State) : (tick s).blg.flowWait = s.blg.flowWait := rfl
@[simp] theorem tick_blg_early (s : State) : (tick s).blg.early = s.blg.early := rfl
@[simp] theorem tick_blg_lastAdaptive (s : State) : (tick s).blg.lastAdaptive = s.blg.lastAdaptive := rfl
@[simp] theorem tick_blg_inbox (s : State) : (tick s).blg.inbox = s.blg.inbox := rfl
@[simp] theorem tick_blg_channels (s : State) : (tick s).blg.channels = s.blg.channels := rfl
@[simp] theorem tick_blg_hands (s : State) : (tick s).blg.hands = s.blg.hands := rfl
@[simp] theorem tick_blg_colls (s : State) : (tick s).blg.colls = s.blg.colls := rfl
@[simp] theorem tick_blg_keys (s : State) : (tick s).blg.keys = s.blg.keys := rfl
@[simp] theorem tick_blg_keyEpochs (s : State) : (tick s).blg.keyEpochs = s.blg.keyEpochs := rfl
@[simp] theorem tick_blg_struck (s : State) : (tick s).blg.struck = s.blg.struck := rfl
@[simp] theorem tick_blg_cleared (s : State) : (tick s).blg.cleared = s.blg.cleared := rfl
@[simp] theorem tick_blg_ctr (s : State) : (tick s).blg.ctr = s.blg.ctr := rfl
@[simp] theorem tick_out (s : State) : (tick s).out = s.out := rfl
@[simp] theorem tick_free (s : State) : (tick s).free = s.free := rfl
@[simp] theorem tick_pending (s : State) : (tick s).pending = s.pending := rfl

/-! ## bump -/

@[simp] theorem bump_now (s : State) (idx n : Nat) : (bump s idx n).now = s.now := by
  unfold bump; split <;> rfl
@[simp] theorem bump_itv_fuse (s : State) (idx n : Nat) : (bump s idx n).itv.fuse = s.itv.fuse := by
  unfold bump; split <;> rfl
@[simp] theorem bump_itv_boot (s : State) (idx n : Nat) : (bump s idx n).itv.boot = s.itv.boot := by
  unfold bump; split <;> rfl
@[simp] theorem bump_itv_flash (s : State) (idx n : Nat) : (bump s idx n).itv.flash = s.itv.flash := by
  unfold bump; split <;> rfl
@[simp] theorem bump_itv_relay (s : State) (idx n : Nat) : (bump s idx n).itv.relay = s.itv.relay := by
  unfold bump; split <;> rfl
@[simp] theorem bump_itv_cb (s : State) (idx n : Nat) : (bump s idx n).itv.cb = s.itv.cb := by
  unfold bump; split <;> rfl
@[simp] theorem bump_itv_ports (s : State) (idx n : Nat) : (bump s idx n).itv.ports = s.itv.ports := by
  unfold bump; split <;> rfl
@[simp] theorem bump_itv_routing (s : State) (idx n : Nat) : (bump s idx n).itv.routing = s.itv.routing := by
  unfold bump; split <;> rfl
@[simp] theorem bump_itv_core (s : State) (idx n : Nat) : (bump s idx n).itv.core = s.itv.core := by
  unfold bump; split <;> rfl
@[simp] theorem bump_itv_cue (s : State) (idx n : Nat) : (bump s idx n).itv.cue = s.itv.cue := by
  unfold bump; split <;> rfl
@[simp] theorem bump_itv_inflows (s : State) (idx n : Nat) : (bump s idx n).itv.inflows = s.itv.inflows := by
  unfold bump; split <;> rfl
@[simp] theorem bump_itv_outflows (s : State) (idx n : Nat) : (bump s idx n).itv.outflows = s.itv.outflows := by
  unfold bump; split <;> rfl
@[simp] theorem bump_itv_turns (s : State) (idx n : Nat) : (bump s idx n).itv.turns = s.itv.turns := by
  unfold bump; split <;> rfl
@[simp] theorem bump_itv_dir (s : State) (idx n : Nat) : (bump s idx n).itv.dir = s.itv.dir := by
  unfold bump; split <;> rfl
@[simp] theorem bump_itv_pool (s : State) (idx n : Nat) : (bump s idx n).itv.pool = s.itv.pool := by
  unfold bump; split <;> rfl
@[simp] theorem bump_itv_wards (s : State) (idx n : Nat) : (bump s idx n).itv.wards = s.itv.wards := by
  unfold bump; split <;> rfl
@[simp] theorem bump_itv_coll (s : State) (idx n : Nat) : (bump s idx n).itv.coll = s.itv.coll := by
  unfold bump; split <;> rfl
@[simp] theorem bump_itv_sec (s : State) (idx n : Nat) : (bump s idx n).itv.sec = s.itv.sec := by
  unfold bump; split <;> rfl
@[simp] theorem bump_itv_pwr (s : State) (idx n : Nat) : (bump s idx n).itv.pwr = s.itv.pwr := by
  unfold bump; split <;> rfl
@[simp] theorem bump_itv_mgmt (s : State) (idx n : Nat) : (bump s idx n).itv.mgmt = s.itv.mgmt := by
  unfold bump; split <;> rfl
@[simp] theorem bump_itv_portRing (s : State) (idx n : Nat) : (bump s idx n).itv.portRing = s.itv.portRing := by
  unfold bump; split <;> rfl
@[simp] theorem bump_itv_lostTables (s : State) (idx n : Nat) : (bump s idx n).itv.lostTables = s.itv.lostTables := by
  unfold bump; split <;> rfl
@[simp] theorem bump_blg (s : State) (idx n : Nat) : (bump s idx n).blg = s.blg := by
  unfold bump; split <;> rfl
@[simp] theorem bump_out (s : State) (idx n : Nat) : (bump s idx n).out = s.out := by
  unfold bump; split <;> rfl
@[simp] theorem bump_free (s : State) (idx n : Nat) : (bump s idx n).free = s.free := by
  unfold bump; split <;> rfl
@[simp] theorem bump_pending (s : State) (idx n : Nat) : (bump s idx n).pending = s.pending := by
  unfold bump; split <;> rfl

/-! ## bumpB -/

@[simp] theorem bumpB_now (s : State) (idx n : Nat) : (bumpB s idx n).now = s.now := by
  unfold bumpB; split <;> rfl
@[simp] theorem bumpB_itv (s : State) (idx n : Nat) : (bumpB s idx n).itv = s.itv := by
  unfold bumpB; split <;> rfl
@[simp] theorem bumpB_blg_fuse (s : State) (idx n : Nat) : (bumpB s idx n).blg.fuse = s.blg.fuse := by
  unfold bumpB; split <;> rfl
@[simp] theorem bumpB_blg_node (s : State) (idx n : Nat) : (bumpB s idx n).blg.node = s.blg.node := by
  unfold bumpB; split <;> rfl
@[simp] theorem bumpB_blg_planes (s : State) (idx n : Nat) : (bumpB s idx n).blg.planes = s.blg.planes := by
  unfold bumpB; split <;> rfl
@[simp] theorem bumpB_blg_form (s : State) (idx n : Nat) : (bumpB s idx n).blg.form = s.blg.form := by
  unfold bumpB; split <;> rfl
@[simp] theorem bumpB_blg_ports (s : State) (idx n : Nat) : (bumpB s idx n).blg.ports = s.blg.ports := by
  unfold bumpB; split <;> rfl
@[simp] theorem bumpB_blg_cue (s : State) (idx n : Nat) : (bumpB s idx n).blg.cue = s.blg.cue := by
  unfold bumpB; split <;> rfl
@[simp] theorem bumpB_blg_lostA (s : State) (idx n : Nat) : (bumpB s idx n).blg.lostA = s.blg.lostA := by
  unfold bumpB; split <;> rfl
@[simp] theorem bumpB_blg_lostB (s : State) (idx n : Nat) : (bumpB s idx n).blg.lostB = s.blg.lostB := by
  unfold bumpB; split <;> rfl
@[simp] theorem bumpB_blg_useB (s : State) (idx n : Nat) : (bumpB s idx n).blg.useB = s.blg.useB := by
  unfold bumpB; split <;> rfl
@[simp] theorem bumpB_blg_bothLost (s : State) (idx n : Nat) : (bumpB s idx n).blg.bothLost = s.blg.bothLost := by
  unfold bumpB; split <;> rfl
@[simp] theorem bumpB_blg_startWait (s : State) (idx n : Nat) : (bumpB s idx n).blg.startWait = s.blg.startWait := by
  unfold bumpB; split <;> rfl
@[simp] theorem bumpB_blg_resetAt (s : State) (idx n : Nat) : (bumpB s idx n).blg.resetAt = s.blg.resetAt := by
  unfold bumpB; split <;> rfl
@[simp] theorem bumpB_blg_cause (s : State) (idx n : Nat) : (bumpB s idx n).blg.cause = s.blg.cause := by
  unfold bumpB; split <;> rfl
@[simp] theorem bumpB_blg_mask (s : State) (idx n : Nat) : (bumpB s idx n).blg.mask = s.blg.mask := by
  unfold bumpB; split <;> rfl
@[simp] theorem bumpB_blg_intChannel (s : State) (idx n : Nat) : (bumpB s idx n).blg.intChannel = s.blg.intChannel := by
  unfold bumpB; split <;> rfl
@[simp] theorem bumpB_blg_pmsgChannel (s : State) (idx n : Nat) : (bumpB s idx n).blg.pmsgChannel = s.blg.pmsgChannel := by
  unfold bumpB; split <;> rfl
@[simp] theorem bumpB_blg_pace (s : State) (idx n : Nat) : (bumpB s idx n).blg.pace = s.blg.pace := by
  unfold bumpB; split <;> rfl
@[simp] theorem bumpB_blg_vreq (s : State) (idx n : Nat) : (bumpB s idx n).blg.vreq = s.blg.vreq := by
  unfold bumpB; split <;> rfl
@[simp] theorem bumpB_blg_homeMap (s : State) (idx n : Nat) : (bumpB s idx n).blg.homeMap = s.blg.homeMap := by
  unfold bumpB; split <;> rfl
@[simp] theorem bumpB_blg_homeWritten (s : State) (idx n : Nat) : (bumpB s idx n).blg.homeWritten = s.blg.homeWritten := by
  unfold bumpB; split <;> rfl
@[simp] theorem bumpB_blg_vcWeight (s : State) (idx n : Nat) : (bumpB s idx n).blg.vcWeight = s.blg.vcWeight := by
  unfold bumpB; split <;> rfl
@[simp] theorem bumpB_blg_e2e (s : State) (idx n : Nat) : (bumpB s idx n).blg.e2e = s.blg.e2e := by
  unfold bumpB; split <;> rfl
@[simp] theorem bumpB_blg_retryMax (s : State) (idx n : Nat) : (bumpB s idx n).blg.retryMax = s.blg.retryMax := by
  unfold bumpB; split <;> rfl
@[simp] theorem bumpB_blg_ctxBase (s : State) (idx n : Nat) : (bumpB s idx n).blg.ctxBase = s.blg.ctxBase := by
  unfold bumpB; split <;> rfl
@[simp] theorem bumpB_blg_ctxCount (s : State) (idx n : Nat) : (bumpB s idx n).blg.ctxCount = s.blg.ctxCount := by
  unfold bumpB; split <;> rfl
@[simp] theorem bumpB_blg_window (s : State) (idx n : Nat) : (bumpB s idx n).blg.window = s.blg.window := by
  unfold bumpB; split <;> rfl
@[simp] theorem bumpB_blg_faultBase (s : State) (idx n : Nat) : (bumpB s idx n).blg.faultBase = s.blg.faultBase := by
  unfold bumpB; split <;> rfl
@[simp] theorem bumpB_blg_faultHead (s : State) (idx n : Nat) : (bumpB s idx n).blg.faultHead = s.blg.faultHead := by
  unfold bumpB; split <;> rfl
@[simp] theorem bumpB_blg_faultTail (s : State) (idx n : Nat) : (bumpB s idx n).blg.faultTail = s.blg.faultTail := by
  unfold bumpB; split <;> rfl
@[simp] theorem bumpB_blg_faultLog2 (s : State) (idx n : Nat) : (bumpB s idx n).blg.faultLog2 = s.blg.faultLog2 := by
  unfold bumpB; split <;> rfl
@[simp] theorem bumpB_blg_faultLost (s : State) (idx n : Nat) : (bumpB s idx n).blg.faultLost = s.blg.faultLost := by
  unfold bumpB; split <;> rfl
@[simp] theorem bumpB_blg_invSlots (s : State) (idx n : Nat) : (bumpB s idx n).blg.invSlots = s.blg.invSlots := by
  unfold bumpB; split <;> rfl
@[simp] theorem bumpB_blg_tables (s : State) (idx n : Nat) : (bumpB s idx n).blg.tables = s.blg.tables := by
  unfold bumpB; split <;> rfl
@[simp] theorem bumpB_blg_groupMem (s : State) (idx n : Nat) : (bumpB s idx n).blg.groupMem = s.blg.groupMem := by
  unfold bumpB; split <;> rfl
@[simp] theorem bumpB_blg_live (s : State) (idx n : Nat) : (bumpB s idx n).blg.live = s.blg.live := by
  unfold bumpB; split <;> rfl
@[simp] theorem bumpB_blg_tallies (s : State) (idx n : Nat) : (bumpB s idx n).blg.tallies = s.blg.tallies := by
  unfold bumpB; split <;> rfl
@[simp] theorem bumpB_blg_waits (s : State) (idx n : Nat) : (bumpB s idx n).blg.waits = s.blg.waits := by
  unfold bumpB; split <;> rfl
@[simp] theorem bumpB_blg_l1 (s : State) (idx n : Nat) : (bumpB s idx n).blg.l1 = s.blg.l1 := by
  unfold bumpB; split <;> rfl
@[simp] theorem bumpB_blg_l2 (s : State) (idx n : Nat) : (bumpB s idx n).blg.l2 = s.blg.l2 := by
  unfold bumpB; split <;> rfl
@[simp] theorem bumpB_blg_walkCache (s : State) (idx n : Nat) : (bumpB s idx n).blg.walkCache = s.blg.walkCache := by
  unfold bumpB; split <;> rfl
@[simp] theorem bumpB_blg_descs (s : State) (idx n : Nat) : (bumpB s idx n).blg.descs = s.blg.descs := by
  unfold bumpB; split <;> rfl
@[simp] theorem bumpB_blg_walks (s : State) (idx n : Nat) : (bumpB s idx n).blg.walks = s.blg.walks := by
  unfold bumpB; split <;> rfl
@[simp] theorem bumpB_blg_walkQueue (s : State) (idx n : Nat) : (bumpB s idx n).blg.walkQueue = s.blg.walkQueue := by
  unfold bumpB; split <;> rfl
@[simp] theorem bumpB_blg_nextWalk (s : State) (idx n : Nat) : (bumpB s idx n).blg.nextWalk = s.blg.nextWalk := by
  unfold bumpB; split <;> rfl
@[simp] theorem bumpB_blg_lmem (s : State) (idx n : Nat) : (bumpB s idx n).blg.lmem = s.blg.lmem := by
  unfold bumpB; split <;> rfl
@[simp] theorem bumpB_blg_nextTag (s : State) (idx n : Nat) : (bumpB s idx n).blg.nextTag = s.blg.nextTag := by
  unfold bumpB; split <;> rfl
@[simp] theorem bumpB_blg_far (s : State) (idx n : Nat) : (bumpB s idx n).blg.far = s.blg.far := by
  unfold bumpB; split <;> rfl
@[simp] theorem bumpB_blg_oc (s : State) (idx n : Nat) : (bumpB s idx n).blg.oc = s.blg.oc := by
  unfold bumpB; split <;> rfl
@[simp] theorem bumpB_blg_nextOc (s : State) (idx n : Nat) : (bumpB s idx n).blg.nextOc = s.blg.nextOc := by
  unfold bumpB; split <;> rfl
@[simp] theorem bumpB_blg_useClock (s : State) (idx n : Nat) : (bumpB s idx n).blg.useClock = s.blg.useClock := by
  unfold bumpB; split <;> rfl
@[simp] theorem bumpB_blg_fillWait (s : State) (idx n : Nat) : (bumpB s idx n).blg.fillWait = s.blg.fillWait := by
  unfold bumpB; split <;> rfl
@[simp] theorem bumpB_blg_rmemBusy (s : State) (idx n : Nat) : (bumpB s idx n).blg.rmemBusy = s.blg.rmemBusy := by
  unfold bumpB; split <;> rfl
@[simp] theorem bumpB_blg_rmemWait (s : State) (idx n : Nat) : (bumpB s idx n).blg.rmemWait = s.blg.rmemWait := by
  unfold bumpB; split <;> rfl
@[simp] theorem bumpB_blg_fences (s : State) (idx n : Nat) : (bumpB s idx n).blg.fences = s.blg.fences := by
  unfold bumpB; split <;> rfl
@[simp] theorem bumpB_blg_gated (s : State) (idx n : Nat) : (bumpB s idx n).blg.gated = s.blg.gated := by
  unfold bumpB; split <;> rfl
@[simp] theorem bumpB_blg_dirtyPlanes (s : State) (idx n : Nat) : (bumpB s idx n).blg.dirtyPlanes = s.blg.dirtyPlanes := by
  unfold bumpB; split <;> rfl
@[simp] theorem bumpB_blg_dirtyCtx (s : State) (idx n : Nat) : (bumpB s idx n).blg.dirtyCtx = s.blg.dirtyCtx := by
  unfold bumpB; split <;> rfl
@[simp] theorem bumpB_blg_lostStatus (s : State) (idx n : Nat) : (bumpB s idx n).blg.lostStatus = s.blg.lostStatus := by
  unfold bumpB; split <;> rfl
@[simp] theorem bumpB_blg_openOps (s : State) (idx n : Nat) : (bumpB s idx n).blg.openOps = s.blg.openOps := by
  unfold bumpB; split <;> rfl
@[simp] theorem bumpB_blg_nextOp (s : State) (idx n : Nat) : (bumpB s idx n).blg.nextOp = s.blg.nextOp := by
  unfold bumpB; split <;> rfl
@[simp] theorem bumpB_blg_inflows (s : State) (idx n : Nat) : (bumpB s idx n).blg.inflows = s.blg.inflows := by
  unfold bumpB; split <;> rfl
@[simp] theorem bumpB_blg_outflows (s : State) (idx n : Nat) : (bumpB s idx n).blg.outflows = s.blg.outflows := by
  unfold bumpB; split <;> rfl
@[simp] theorem bumpB_blg_turns (s : State) (idx n : Nat) : (bumpB s idx n).blg.turns = s.blg.turns := by
  unfold bumpB; split <;> rfl
@[simp] theorem bumpB_blg_flowWait (s : State) (idx n : Nat) : (bumpB s idx n).blg.flowWait = s.blg.flowWait := by
  unfold bumpB; split <;> rfl
@[simp] theorem bumpB_blg_early (s : State) (idx n : Nat) : (bumpB s idx n).blg.early = s.blg.early := by
  unfold bumpB; split <;> rfl
@[simp] theorem bumpB_blg_lastAdaptive (s : State) (idx n : Nat) : (bumpB s idx n).blg.lastAdaptive = s.blg.lastAdaptive := by
  unfold bumpB; split <;> rfl
@[simp] theorem bumpB_blg_inbox (s : State) (idx n : Nat) : (bumpB s idx n).blg.inbox = s.blg.inbox := by
  unfold bumpB; split <;> rfl
@[simp] theorem bumpB_blg_channels (s : State) (idx n : Nat) : (bumpB s idx n).blg.channels = s.blg.channels := by
  unfold bumpB; split <;> rfl
@[simp] theorem bumpB_blg_hands (s : State) (idx n : Nat) : (bumpB s idx n).blg.hands = s.blg.hands := by
  unfold bumpB; split <;> rfl
@[simp] theorem bumpB_blg_colls (s : State) (idx n : Nat) : (bumpB s idx n).blg.colls = s.blg.colls := by
  unfold bumpB; split <;> rfl
@[simp] theorem bumpB_blg_keys (s : State) (idx n : Nat) : (bumpB s idx n).blg.keys = s.blg.keys := by
  unfold bumpB; split <;> rfl
@[simp] theorem bumpB_blg_keyEpochs (s : State) (idx n : Nat) : (bumpB s idx n).blg.keyEpochs = s.blg.keyEpochs := by
  unfold bumpB; split <;> rfl
@[simp] theorem bumpB_blg_struck (s : State) (idx n : Nat) : (bumpB s idx n).blg.struck = s.blg.struck := by
  unfold bumpB; split <;> rfl
@[simp] theorem bumpB_blg_cleared (s : State) (idx n : Nat) : (bumpB s idx n).blg.cleared = s.blg.cleared := by
  unfold bumpB; split <;> rfl
@[simp] theorem bumpB_out (s : State) (idx n : Nat) : (bumpB s idx n).out = s.out := by
  unfold bumpB; split <;> rfl
@[simp] theorem bumpB_free (s : State) (idx n : Nat) : (bumpB s idx n).free = s.free := by
  unfold bumpB; split <;> rfl
@[simp] theorem bumpB_pending (s : State) (idx n : Nat) : (bumpB s idx n).pending = s.pending := by
  unfold bumpB; split <;> rfl

/-! ## A port read after a port write -/

@[simp] theorem getPort_setPort (s : State) (r : PortRef) (p : Port) : getPort (setPort s r p) r = p := by
  cases r with
  | itv i => exact Vector.getElem_set_self i.isLt
  | blg i => exact Vector.getElem_set_self i.isLt
theorem getPort_setPort_ne (s : State) {r q : PortRef} (p : Port) (h : q ≠ r) : getPort (setPort s r p) q = getPort s q := by
  cases r with
  | itv i =>
    cases q with
    | itv j => exact Vector.getElem_set_ne i.isLt j.isLt (fun e => h (congrArg PortRef.itv (Fin.ext e.symm)))
    | blg j => rfl
  | blg i =>
    cases q with
    | itv j => rfl
    | blg j => exact Vector.getElem_set_ne i.isLt j.isLt (fun e => h (congrArg PortRef.blg (Fin.ext e.symm)))

end Sys2Proof.Machine
end

