-- ==== Sys2Proof/Laws/Steps.lean ====
section
/-! SUPPORT. Small laws of shared operations that the statements' proofs cite. -/

namespace Sys2Proof.Machine

open Sys2Proof

/-- A little-endian number of at most `n` bytes is below 256 to the n. -/
theorem leNat_lt (bs : Bytes) : leNat bs < 256 ^ bs.length := by
  induction bs with
  | nil => simp [leNat]
  | cons b bs ih =>
    have hb := b.isLt
    simp only [leNat, List.length_cons, Nat.pow_succ]
    omega
theorem leNat_lt2 (bs : Bytes) (h : bs.length ≤ 2) : leNat bs < 65536 :=
  Nat.lt_of_lt_of_le (leNat_lt bs) (Nat.pow_le_pow_right (by decide) h)


/-- The lengths of the pieces of a message. -/
@[simp] theorem leBytes_length (n v : Nat) : (leBytes n v).length = n := by
  induction n generalizing v with
  | zero => rfl
  | succ n ih => simp [leBytes, ih]
@[simp] theorem zeros_length (n : Nat) : (zeros n).length = n := by simp [zeros]
@[simp] theorem pad_length (n : Nat) (b : Bytes) : (pad n b).length = n := by
  simp [pad]; omega
theorem partRecord_length (v : Itvos) (p : Nat) : (partRecord v p).length = 64 := by
  unfold partRecord
  simp only [List.length_append, leBytes_length, pad_length, zeros_length]
theorem orderCode_length (v : Itvos) : (orderCode v).length = 16 := rfl

/-- The length of a report (R614). -/
theorem attestReport_length (v : Itvos) (nonce cfg : Bytes) :
    (attestReport v nonce cfg).length = 2104 + Config.certChain.length := by
  have h1 : ∀ (k : Nat) (f : Nat → Bytes), (∀ i, (f i).length = k) → ∀ n, ((List.range n).flatMap f).length = k * n := by
    intro k f hf n
    rw [List.length_flatMap]
    simp [hf, Nat.mul_comm]
  unfold attestReport reportBody
  simp only [List.length_append, leBytes_length, pad_length, zeros_length, orderCode_length, List.length_cons, List.length_nil,
    h1 64 (partRecord v) (partRecord_length v), h1 8 _ (fun i => leBytes_length 8 _)]
  omega

/-! ## The homes of the fabric -/

/-- A new request that the pool home admits is performed. -/
theorem poolServe_new {s : State} {f : Flit} {c : Carve} {hw : HomeHw} (h : poolMeets s f true c) :
    poolServe s f hw = poolPerform (arrived s .itv f) f c hw := by
  obtain ⟨h1, h2, h3, h4, h5⟩ := h
  have e : arriveFlow s .itv f = (arrived s .itv f, some true) := Prod.ext rfl h2
  have hd : ¬ (f.kind ≠ Kind.bulk ∧ domainHit (arrived s .itv f) f = true) := by
    rintro ⟨ha, hb⟩
    rcases h4 with h4 | h4
    · exact ha h4
    · rw [hb] at h4; cases h4
  unfold poolServe
  simp only [h1, e, h3, h5, if_neg hd, Bool.false_eq_true, if_false, Bool.not_true, and_false, ne_eq, not_true_eq_false, if_true]

/-- A duplicate other than an ATOMIC. -/
theorem poolServe_dup {s : State} {f : Flit} {c : Carve} {hw : HomeHw} (h : poolMeets s f false c) (ha : f.kind ≠ Kind.atomic) :
    poolServe s f hw = poolDuplicate (arrived s .itv f) f c hw := by
  obtain ⟨h1, h2, h3, h4, h5⟩ := h
  have e : arriveFlow s .itv f = (arrived s .itv f, some false) := Prod.ext rfl h2
  have hd : ¬ (f.kind ≠ Kind.bulk ∧ domainHit (arrived s .itv f) f = true) := by
    rintro ⟨ha, hb⟩
    rcases h4 with h4 | h4
    · exact ha h4
    · rw [hb] at h4; cases h4
  unfold poolServe
  simp only [h1, e, h3, h5, if_neg hd, ha, false_and, Bool.false_eq_true, if_false, ne_eq, not_true_eq_false]

/-- A LOAD is performed whether it is new or a duplicate. -/
theorem poolServe_load {s : State} {f : Flit} {c : Carve} {hw : HomeHw} {fresh : Bool} (h : poolMeets s f fresh c)
    (hk : f.kind = Kind.load) : poolServe s f hw = poolPerform (arrived s .itv f) f c hw := by
  cases fresh
  · rw [poolServe_dup h (by rw [hk]; decide)]
    exact if_pos hk
  · exact poolServe_new h

/-- A request in the home's queue. -/
theorem fromHome_served {s : State} {f : Flit} {k : BitVec 5} {hw : HomeHw} (hk : f.kind = k) (hq : f ∈ s.itv.dir.home) :
    fromHome s f k hw = poolServe (fromQueue s f) f hw := if_pos ⟨hk, by simpa using hq⟩

/-- A request delivered to Itvos. -/
theorem fromInbox_itv {s : State} {f : Flit} {g : State → State} (h : f ∈ s.itv.core.inbox) :
    fromInbox s .itv f g = g (takeInbox s .itv f) := if_pos (by simpa using h)

/-- A flit delivered to Belug. -/
theorem fromInbox_blg {s : State} {f : Flit} {g : State → State} (h : s.blg.inbox.any (fun x => x.1 == f) = true) :
    fromInbox s .blg f g = g (takeInbox s .blg f) := if_pos h

/-- A request that Belug takes up. -/
theorem seatRequest_taken {s : State} {f : Flit} {k : BitVec 5} {hw : HomeHw} {t p : Nat} {rest : List (Flit × Nat × Nat)} {fresh : Bool}
    (h : seatGets s f t p rest fresh) (hk : f.kind = k) :
    seatRequest s f k hw =
      (let u := arrived { s with blg.inbox := rest } .blg f
       if k = Kind.bulkMsg then serveBulkMsg u f p fresh else if k = Kind.pmsg then servePmsg u f p fresh else serveMem u f p fresh hw) := by
  obtain ⟨h1, h2, h3, h4⟩ := h
  have e : arriveFlow { s with blg.inbox := rest } .blg f = (arrived { s with blg.inbox := rest } .blg f, some fresh) := Prod.ext rfl h2
  have hf : (!fresh && inService (arrived { s with blg.inbox := rest } .blg f) .blg f) = false := by
    rcases h3 with h3 | h3 <;> simp [h3]
  unfold seatRequest
  simp only [ne_eq, hk, not_true_eq_false, if_false, h1, e, hf, h4, Option.isSome_none, Bool.false_eq_true]

/-- A well-formed message of the apron. -/
theorem onApron_takes {s : State} {ch : Fin 24} {m : ApronMsg} {t : Nat} {g : State → State} (h : apronGets s ch m t) :
    onApron s ch m t g = g (takeWords s ch.val m) := by
  obtain ⟨h1, h2, h3⟩ := h
  unfold onApron
  rw [if_pos ⟨h1, h2⟩]
  simp only [h3, if_true]

/-- A memory operation of the apron whose translation is at hand. -/
theorem apronOp_meets {s : State} {ch : Fin 24} {m : ApronMsg} {t : Nat} {phys : Word} {wire : BitVec 16} {nc : Bool}
    (h : apronMeets s ch m t phys wire nc) :
    apronOp s ch m t = settle (performApron (apronXlated s ch m).1 { apronAOp s ch m with phys := phys, wire := wire, nocache := nc }) := by
  obtain ⟨h1, h2, h3⟩ := h
  unfold apronOp
  rw [onApron_takes h1]
  unfold acceptApron
  rw [if_neg (by omega)]
  have e : apronXlated s ch m = ((apronXlated s ch m).1, some (.ok phys wire nc)) := Prod.ext rfl h3
  unfold apronXlated apronOpened apronAOp at e
  unfold apronOpened at e
  simp only at e ⊢
  rw [e]
  rfl

/-- An operation that nothing holds back. -/
theorem performApron_runs {s : State} {op : AOp} (h : mayRun s op) :
    performApron s op = if opNode op = s.blg.node then localOp s op else remoteOp s op := by
  obtain ⟨h1, h2, h3, h4⟩ := h
  unfold performApron
  simp only [h1, h2, h3, h4, Bool.not_true, Bool.or_self, Bool.false_eq_true, if_false]

/-- A context whose descriptor is cached. -/
theorem translate_ctx {s : State} {ctx eng : Nat} {w : XFor} {d : CtxDesc} (h : descOf s ctx = some d) :
    translate s ctx { engine := eng, op := .ctxOnly, va := 0, for_ := w } = (s, some (.ok 0 d.wire false)) := by
  unfold translate
  simp only [h, if_true]
  exact if_neg (by decide)

/-! ## Power -/

/-- What a sample has set: T, G and the samples kept. -/
def sampleKey (s : State) : Nat × Nat × List Nat := (s.itv.pwr.ghostT, s.itv.pwr.ghostG, s.itv.pwr.samples)

theorem telemeter_itv (s : State) (k : Nat) (r : Bytes) : (telemeter s k r).itv = s.itv := by
  unfold telemeter
  generalize s.itv.mgmt.sessions.filter (fun x => x.2.streams.getLsbD k) = l
  induction l generalizing s with
  | nil => rfl
  | cons x xs ih => exact (ih _).trans rfl
theorem raiseVector_pwr (s : State) (n : Nat) : (raiseVector s n).itv.pwr = s.itv.pwr := by
  unfold raiseVector
  repeat' split
  all_goals rfl
theorem pwr_ite {c : Prop} [Decidable c] {a b s : State} (ha : a.itv.pwr = s.itv.pwr) (hb : b.itv.pwr = s.itv.pwr) :
    (if c then a else b).itv.pwr = s.itv.pwr := by
  split <;> assumption
theorem sample_ite {c : Prop} [Decidable c] {a b s : State} (ha : sampleKey a = sampleKey s) (hb : sampleKey b = sampleKey s) :
    sampleKey (if c then a else b) = sampleKey s := by
  split <;> assumption
theorem raiseEvent_pwr (s : State) (i : Nat) : (raiseEvent s i).itv.pwr = s.itv.pwr := by
  unfold raiseEvent
  refine pwr_ite rfl (pwr_ite ((raiseVector_pwr _ _).trans ?_) ?_)
  all_goals exact pwr_ite (s := s) rfl rfl
theorem raiseVector_boot (s : State) (n : Nat) : (raiseVector s n).itv.boot = s.itv.boot := by
  unfold raiseVector
  repeat' split
  all_goals rfl
theorem boot_ite {c : Prop} [Decidable c] {a b s : State} (ha : a.itv.boot = s.itv.boot) (hb : b.itv.boot = s.itv.boot) :
    (if c then a else b).itv.boot = s.itv.boot := by
  split <;> assumption
theorem raiseEvent_boot (s : State) (i : Nat) : (raiseEvent s i).itv.boot = s.itv.boot := by
  unfold raiseEvent
  refine boot_ite rfl (boot_ite ((raiseVector_boot _ _).trans ?_) ?_)
  all_goals exact boot_ite (s := s) rfl rfl
theorem putRecord_sample (s : State) (r : Bytes) : sampleKey (putRecord s r) = sampleKey s := by
  unfold putRecord sampleKey
  simp only [telemeter_itv, raiseEvent_pwr]
theorem sprintCheck_sample (s : State) : sampleKey (sprintCheck s) = sampleKey s := by
  unfold sprintCheck
  split
  · exact putRecord_sample _ _
  · rfl
theorem clampCheck_sample (s : State) : sampleKey (clampCheck s) = sampleKey s := by
  unfold clampCheck
  simp only
  split
  · exact putRecord_sample _ _
  · rfl
  · rfl
theorem notePeak_sample (s : State) : sampleKey (notePeak s) = sampleKey s := by
  unfold notePeak
  exact sample_ite rfl rfl
theorem overshootStep_sample (s : State) (d : Nat) : sampleKey (overshootStep s d) = sampleKey s := by
  unfold overshootStep
  split
  · rfl
  · exact sample_ite (sample_ite (sample_ite rfl rfl) (sample_ite rfl rfl)) rfl
theorem moveVdd_sample (s : State) (b : Bool) : sampleKey (moveVdd s b) = sampleKey s := by
  unfold moveVdd
  exact sample_ite rfl (sample_ite rfl rfl)

theorem sprintJudged_sample (s : State) : sampleKey (sprintJudged s) = sampleKey s := by
  unfold sprintJudged
  have hu : sampleKey (sprintCheck (if (drawOf s.itv.pwr > 900 && sprintAllowed s) = true then { s with itv.pwr.sprinting := true } else s)) =
      sampleKey (s) := (sprintCheck_sample _).trans (sample_ite rfl rfl)
  simp only
  generalize sprintCheck _ = u at hu ⊢
  refine sample_ite ?_ hu
  split
  · exact hu
  · exact hu
theorem governed_sample (s : State) : sampleKey (governed s) = sampleKey s := by
  unfold governed
  have hu : sampleKey (if riseLimit s ≥ 1350 then { s with itv.pwr.floorEndAt := none } else s) = sampleKey (s) := sample_ite rfl rfl
  simp only
  generalize (if riseLimit s ≥ 1350 then _ else s) = u at hu ⊢
  exact (moveVdd_sample u _).trans hu

/-! ## Ports under events, interrupts and counters; callboard slots -/

theorem vector_port (s : State) (n : Nat) (r : PortRef) : getPort (raiseVector s n) r = getPort s r := by
  unfold raiseVector
  split
  · rfl
  · split
    · cases r <;> rfl
    · split
      · cases r <;> rfl
      · rfl
theorem port_ite {c : Prop} [Decidable c] {a b s : State} {r : PortRef} (ha : getPort a r = getPort s r) (hb : getPort b r = getPort s r) :
    getPort (if c then a else b) r = getPort s r := by split <;> assumption
theorem event_port (s : State) (i : Nat) (r : PortRef) : getPort (raiseEvent s i) r = getPort s r := by
  unfold raiseEvent
  have k : getPort (if s.itv.cb.eventCause = 0 then emit s (.alert .itv true) else s) r = getPort s r := by
    refine port_ite ?_ rfl
    cases r <;> rfl
  refine port_ite rfl ?_
  refine port_ite ((vector_port _ _ r).trans ?_) ?_
  · refine Eq.trans ?_ k
    cases r <;> rfl
  · refine Eq.trans ?_ k
    cases r <;> rfl
theorem bump_port (s : State) (i n : Nat) (r : PortRef) : getPort (bump s i n) r = getPort s r := by
  unfold bump
  split
  · rfl
  · cases r <;> rfl
theorem apron_port (s : State) (n : Nat) (m : ApronMsg) (r : PortRef) : getPort (sendApron s n m) r = getPort s r := by
  unfold sendApron
  split
  · unfold modCh
    dsimp only
    split <;> cases r <;> rfl
  · unfold bumpBC bumpB
    split
    · rfl
    · cases r <;> rfl
theorem irq_port (s : State) (i : Nat) (r : PortRef) : getPort (raiseIrq s i) r = getPort s r := by
  unfold raiseIrq
  refine port_ite rfl ?_
  have em : ∀ (u : State) (o : Out), getPort (emit u o) r = getPort u r := by
    intro u o
    cases r <;> rfl
  refine port_ite (port_ite ((apron_port _ _ _ r).trans ?_) ((em _ _).trans ((apron_port _ _ _ r).trans ?_))) ?_
  all_goals cases r <;> rfl
theorem slot_same (s : State) (n : Fin 8) (f : Slot → Slot) : getSlot (modSlot s n.val f) n.val = f (getSlot s n.val) := by
  have h := n.isLt
  unfold modSlot getSlot
  rw [dif_pos h]
  simp
  rfl
theorem slot_other (s : State) (n m : Fin 8) (f : Slot → Slot) (h : m ≠ n) : getSlot (modSlot s n.val f) m.val = getSlot s m.val := by
  have e : n.val ≠ m.val := fun e => h (Fin.ext e.symm)
  unfold modSlot getSlot
  rw [dif_pos n.isLt]
  dsimp only
  rw [Vector.getElem?_set_ne _ e]

end Sys2Proof.Machine
end

