-- ==== Sys2Proof/Tests/Slice0.lean ====
section
/-! SUPPORT. Our own tests: states and messages to test on, a witness for the hypotheses of every clause of the statements, small runs, and terms that are not well formed. -/

set_option maxRecDepth 40000
set_option Elab.async false
set_option linter.unusedVariables false

namespace Sys2Proof.Tests
open Sys2Proof Sys2Proof.Machine

/-- Itvos running, with every feature held and bus mastering allowed. -/
def up : State :=
  { State.reset with itv.boot.yalny := true, itv.boot.mode := .ready, itv.boot.licences := 7, itv.cb.busMaster := true }
/-- A command handed over in slot `n`. -/
def post (s : State) (n : Fin 8) (code : Nat) (p : Bytes) : State :=
  modSlot s n.val (fun x => { x with own := true, code := BitVec.ofNat 16 code, len := BitVec.ofNat 16 p.length,
                                     payload := memWrite [] 0 p })
end Sys2Proof.Tests
namespace Sys2Proof.Tests
open Sys2Proof Sys2Proof.Machine

/-- The first 128 bytes of a chart of version 7 for the chip as shipped: FORM 0, plane 0, house 0 (R733). -/
def goodHead : Bytes :=
  leBytes 4 0x54414553 ++ leBytes 2 1 ++ [0, 0] ++ leBytes 4 7 ++ [1, 0, 0, 0] ++ leBytes 8 0 ++ leBytes 2 0 ++ [16, 3] ++
    leBytes 4 1000 ++ leBytes 4 50 ++ leBytes 4 0 ++ zeros 88
/-- That chart, every port without a partner (R734). -/
def goodChart : Bytes := goodHead ++ zeros 2304
/-- The payload of a seating-load of it. -/
def goodLoad : Bytes := zeros 8 ++ leBytes 4 2432 ++ zeros 4 ++ leBytes 4 7 ++ zeros 4

theorem leNat_zeros (n : Nat) : leNat (zeros n) = 0 := by
  induction n with
  | zero => rfl
  | succ n ih => simp [zeros, List.replicate_succ, leNat] at *; exact ih
theorem natAt_zeros (n a k : Nat) : natAt (zeros n) a k = 0 := by
  unfold natAt slice zeros
  rw [List.drop_replicate, List.take_replicate]
  exact leNat_zeros _
theorem allZero_slice (n a k : Nat) : allZero (slice (zeros n) a k) = true := by
  unfold slice zeros allZero
  rw [List.drop_replicate, List.take_replicate]
  simp
theorem slice_tail (h : Bytes) (n a k : Nat) (ha : h.length ≤ a) : slice (h ++ zeros n) a k = slice (zeros n) (a - h.length) k := by
  unfold slice
  rw [List.drop_append, List.drop_of_length_le ha, List.nil_append]
theorem natAt_tail (h : Bytes) (n a k : Nat) (ha : h.length ≤ a) : natAt (h ++ zeros n) a k = 0 := by
  have e := slice_tail h n a k ha
  unfold natAt
  rw [e]
  exact natAt_zeros n (a - h.length) k
theorem byteAt_tail (h : Bytes) (n a : Nat) (ha : h.length ≤ a) : byteAt (h ++ zeros n) a = 0 := by
  unfold byteAt zeros
  rw [List.getD_append_right _ _ _ _ ha]
  simp
theorem firstOf_none (cs : List (Bool × Nat)) (h : ∀ c ∈ cs, c.1 = false) : firstOf cs = none := by
  unfold firstOf
  rw [List.find?_eq_none.2 (fun c hc => by simp [h c hc])]
  rfl
theorem pad_self (n : Nat) (b : Bytes) (h : b.length = n) : pad n b = b := by
  unfold pad
  rw [List.take_of_length_le (by omega), h, Nat.sub_self]
  simp
theorem goodHead_length : goodHead.length = 128 := by decide
theorem goodChart_length : goodChart.length = 2432 := by
  simp [goodChart, goodHead_length, zeros]
theorem goodChart_nat (a k : Nat) (h : 128 ≤ a) : natAt goodChart a k = 0 := natAt_tail _ _ _ _ (by rw [goodHead_length]; exact h)
theorem goodChart_byte (a : Nat) (h : 128 ≤ a) : byteAt goodChart a = 0 := byteAt_tail _ _ _ (by rw [goodHead_length]; exact h)
theorem goodChart_zero (a k : Nat) (h : 128 ≤ a) : allZero (slice goodChart a k) = true := by
  unfold goodChart
  rw [slice_tail _ _ _ _ (by rw [goodHead_length]; exact h)]
  exact allZero_slice _ _ _
theorem goodChart_port (p : Nat) : parseChartPort goodChart p = { weights := List.replicate 7 0 } := by
  simp only [parseChartPort]
  rw [goodChart_byte _ (by omega), goodChart_byte _ (by omega), goodChart_nat _ _ (by omega), goodChart_byte _ (by omega),
    goodChart_byte _ (by omega), goodChart_byte _ (by omega), goodChart_nat _ _ (by omega), goodChart_byte _ (by omega),
    goodChart_byte _ (by omega)]
  have e : (List.range 7).map (fun i => byteAt goodChart (128 + 32 * p + 12 + i)) = List.replicate 7 0 := by
    rw [show (List.replicate 7 0 : List Nat) = (List.range 7).map (fun _ => 0) from rfl]
    exact List.map_congr_left (fun i _ => goodChart_byte _ (by omega))
  rw [e]
  rfl
theorem goodChart_zeroChecks (a n : Nat) (h : 128 ≤ a) (c : Bool × Nat) (hc : c ∈ zeroChecks goodChart a n) : c.1 = false := by
  simp only [zeroChecks, List.mem_map] at hc
  obtain ⟨i, -, rfl⟩ := hc
  simp [goodChart_byte (a + i) (by omega)]
theorem zeroChecks_zeros (m a n : Nat) (c : Bool × Nat) (hc : c ∈ zeroChecks (zeros m) a n) : c.1 = false := by
  simp only [zeroChecks, List.mem_map] at hc
  obtain ⟨i, -, rfl⟩ := hc
  have e : byteAt (zeros m) (a + i) = 0 := by
    have := byteAt_tail [] m (a + i) (Nat.zero_le _)
    simpa using this
  simp [e]
theorem goodChart_checks : chartRefused 7 goodChart = none := by
  unfold chartRefused
  rw [if_neg (by rw [goodChart_length]; decide)]
  refine firstOf_none _ ?_
  intro c hc
  rw [List.mem_append] at hc
  rcases hc with hc | hc
  · revert c
    decide +kernel
  · rw [List.mem_flatMap] at hc
    obtain ⟨p, hp, hc⟩ := hc
    have hlt : p < 72 := List.mem_range.1 hp
    have e : (parseChart goodChart).ports.getD p {} = { weights := List.replicate 7 0 } := by
      simp only [parseChart]
      rw [List.getD_eq_getElem _ _ (by simpa using hlt)]
      simp [goodChart_port]
    have u : upClass (parseChart goodChart) p = false := by
      simp only [upClass, parseChart]
      rw [show (byteAt goodChart 6) = 0 from by decide]
      simp
    simp only [portChecks, e, u] at hc
    rw [List.mem_append] at hc
    rcases hc with hc | hc
    · rw [goodChart_byte _ (by omega), goodChart_byte _ (by omega)] at hc
      fin_cases hc <;> simp
    · exact goodChart_zeroChecks _ _ (by omega) c hc
theorem goodChart_good : chartRefused (natAt goodLoad 16 4) (pad (hostRef goodLoad 0).len goodChart) = none := by
  rw [show natAt goodLoad 16 4 = 7 from by decide, show (hostRef goodLoad 0).len = 2432 from by decide,
    pad_self _ _ goodChart_length]
  exact goodChart_checks
theorem goodChart_serial : (parseChart (pad (hostRef goodLoad 0).len goodChart)).serial = up.itv.fuse.serial := by
  rw [show (hostRef goodLoad 0).len = 2432 from by decide, pad_self _ _ goodChart_length]
  decide
theorem entryBad_zero (t : RouteSet) : entryBad t 0 = false := by
  simp [entryBad]
theorem tablesRefused_empty : tablesRefused up.itv.routing.portClass (pad 10752 []) = none := by
  have hp : pad 10752 [] = zeros 10752 := rfl
  rw [hp]
  refine firstOf_none _ ?_
  have hg : (parseTables (zeros 10752)).groups = [] := by
    simp [parseTables, natAt_zeros]
  intro c hc
  simp only [List.mem_append, List.mem_map, List.mem_flatMap, List.mem_cons] at hc
  rcases hc with ((((⟨i, -, rfl⟩ | ⟨i, -, rfl⟩) | ⟨i, -, rfl⟩) | ⟨i, -, rfl⟩) | hz) | ⟨g, -, rfl | hz⟩
  · exact congrArg (entryBad _) (congrArg (BitVec.ofNat 16) (natAt_zeros _ _ _)) |>.trans (entryBad_zero _)
  · exact congrArg (entryBad _) (congrArg (BitVec.ofNat 16) (natAt_zeros _ _ _)) |>.trans (entryBad_zero _)
  · exact congrArg (entryBad _) (congrArg (BitVec.ofNat 16) (natAt_zeros _ _ _)) |>.trans (entryBad_zero _)
  · exact congrArg (entryBad _) (congrArg (BitVec.ofNat 16) (natAt_zeros _ _ _)) |>.trans (entryBad_zero _)
  · exact zeroChecks_zeros _ _ _ c hz
  · simp [hg, kgetD, kget, oneClass]
  · exact zeroChecks_zeros _ _ _ c hz
end Sys2Proof.Tests
namespace Sys2Proof.Tests
open Sys2Proof Sys2Proof.Machine
/-- cast-set of group 4,095: one rank, node 0, plane 0, HOLD 1,000,000 us, no expert table. -/
def oneCast : Bytes := leBytes 2 4095 ++ leBytes 2 1 ++ [1, 0, 0, 0] ++ leBytes 4 1000000 ++ zeros 4 ++ zeros 8 ++ leBytes 4 2 ++ zeros 4
end Sys2Proof.Tests
namespace Sys2Proof.Tests
open Sys2Proof Sys2Proof.Machine
/-- A cast list of one rank, node 0, on plane 0. -/
def aCast : Cast := { nodes := [0], planes := 1, live := 1, hold := 1000000 }
def withCast : State := { up with itv.coll.casts := [(4095, aCast)] }
/-- cue-sheet-add of the first entry: ALL_REDUCE, SUM, FP32 in and out, 96 elements, to group 4,095. -/
def addPayload : Bytes := leBytes 2 4095 ++ zeros 6 ++ [1, 1, 2, 2] ++ zeros 4 ++ leBytes 6 96 ++ zeros 18
def anEntry : CueEntry := { seq := 65535, ext := 65535, desc := { op := 1 }, digest := 0 }
def withEntry : State := { up with itv.coll.casts := [(4095, { aCast with sheet := [anEntry], nextSeq := some 0 })] }
def armPayload : Bytes := leBytes 2 4095 ++ leBytes 2 65535 ++ leBytes 2 65535 ++ [0, 0]
end Sys2Proof.Tests
namespace Sys2Proof.Tests
open Sys2Proof Sys2Proof.Machine
/-- The clipped sum of chapter 11: header, handle table, the seven words. -/
def clippedSum : Bytes :=
  leBytes 4 0x524F4843 ++ leBytes 2 1 ++ [0, 1, 4, 4, 1, 0] ++ leBytes 4 4608 ++ zeros 8 ++ leBytes 2 7 ++ zeros 2 ++ leBytes 2 5 ++
    zeros 34 ++ [1, 0, 96, 0, 0, 0, 0, 0] ++ zeros 56 ++
    [(0x060494010000_8000, 0x0B0094040000_0000, 0, 0), (0x0804080100000001, 0x0B01240400000000, 0, 0), (0, 0x0601802400000000, 0, 0),
     (0, 0x07020C4400000000, 0, 0), (0, 0x1000110400000000, 0, 0x0300000000000000), (0, 0x1200800400080000, 0, 0),
     (0, 0, 0x0700044000000000, 0x0300000000000000)].flatMap
      (fun (w : Nat × Nat × Nat × Nat) => leBytes 8 w.1 ++ leBytes 8 w.2.1 ++ leBytes 8 w.2.2.1 ++ leBytes 8 w.2.2.2)
end Sys2Proof.Tests
namespace Sys2Proof.Tests
open Sys2Proof Sys2Proof.Machine
/-- The start scrubs are done. -/
def pooled : State := { up with itv.pool.stallsScrubbed := true, itv.pool.galleryScrubbed := true }
/-- Carve 255: one page of the stalls, every right. -/
def carvePayload : Bytes := [255, 0, 0, 0, 0, 0, 0, 0, 7, 1] ++ zeros 6 ++ leBytes 8 0 ++ leBytes 8 65536
def aCarve : Carve := { base := 0, len := 65536, part := 0, ctxValue := 0, ctxMask := 0, rights := 7, cls := .stalls }
def withCarve : State := { pooled with itv.pool.carves := [(255, aCarve)] }
/-- A wardrobe of partition 0 with one buffer of 256 bytes. -/
def wardPayload : Bytes := [0, 0, 0, 0, 0, 0, 0, 0, 7] ++ zeros 7 ++ leBytes 4 1 ++ zeros 28
end Sys2Proof.Tests
namespace Sys2Proof.Tests
open Sys2Proof Sys2Proof.Machine

/-- The head of a job blob (KIND 0) or pool blob (KIND 1) of EPOCH 1 for partition 0 of the Itvos with serial 0, and one entry for
serial `e`. -/
def blobOf (kind e : Nat) : Bytes :=
  leBytes 4 0x4C424B57 ++ [1] ++ leBytes 1 kind ++ [1, 0] ++ leBytes 4 1 ++ zeros 84 ++ leBytes 8 e ++ zeros 40
/-- A job blob with no entry of this chip or its seats. -/
def jobBlob : Bytes := blobOf 0 9
def jobPayload : Bytes := [0, 0, 0, 0] ++ leBytes 4 1 ++ leBytes 2 144 ++ zeros 6 ++ jobBlob
def poolBlob : Bytes := blobOf 1 0
def poolPayload : Bytes := [0, 1, 0, 0] ++ leBytes 4 1 ++ leBytes 2 144 ++ zeros 6 ++ poolBlob
/-- A job blob with an entry of the seat of `seated`. -/
def seatBlob : Bytes := blobOf 0 5
def seatPayload : Bytes := [0, 0, 0, 0] ++ leBytes 4 1 ++ leBytes 2 144 ++ zeros 6 ++ seatBlob
/-- A house switch of FORM 0 whose port 0 is READY towards the Belug with serial 5. -/
def seated : State :=
  modItvPort { up with itv.routing.chart := some (parseChart goodHead) } 0
    (fun p => { p with st := .ready, partner := some { part := 2, serial := 5 } })
def seatPush : Flit := seatFlit seated 0 0x0301 0 [(16, seatBlob.take 96), (112, slice seatBlob 96 48)]

theorem blobHead_good (kind : Nat) (b : Bytes) (hc : Config.onCurve (serviceKey b) = true)
    (hr : (natAt b 0 4 == 0x4C424B57 && byteAt b 4 == 1 && byteAt b 5 == kind && decide (1 ≤ byteAt b 6) && decide (byteAt b 6 ≤ 81) &&
      decide (byteAt b 7 ≤ kind) && decide (blobPart b ≤ 15) && byteAt b 13 == 0 &&
      (if kind = 0 then blobJob b / 4096 == blobPart b && (!true || blobJob b == 0) else blobJob b == 0 && blobUseAfter b == 0) &&
      allZero (slice b 89 7)) = true) : blobHeadOk b kind true = true := by
  unfold blobHeadOk
  rw [hc, hr]
  rfl
theorem head_check {kind : Nat} {b : Bytes} {x y z : Bool} (h : blobHeadOk b kind true = true) (hx : x = false) (hy : y = false)
    (hz : z = false) : (!blobHeadOk b kind true || x || y || z) = false := by
  rw [h, hx, hy, hz]
  rfl
theorem job_checks (hc : Config.onCurve (serviceKey jobBlob) = true) :
    ∀ x ∈ blobChecks (post up 1 0x302 jobPayload) (slotCall 1 jobPayload) 0, x.1 = false := by
  have e : slice jobPayload 16 144 = jobBlob := by decide
  refine pass_cons (by decide) (pass_cons (by decide) (pass_cons (mbz_fst (by decide)) (pass_cons (by decide) (pass_cons (mbz_fst (by decide))
    (pass_cons (head_check (blobHead_good 0 _ ?_ (by decide)) (by decide) (by decide) (by decide)) (pass_cons (by decide) (pass_cons (by decide) (pass_cons (by decide)
      (pass_cons (by decide) (pass_cons ?_ pass_nil))))))))))
  · exact hc
  · have h0 : entryFor jobBlob 0 = none := by decide
    exact congrArg (fun x => ((Option.map (fun e => (openEntry 0 jobBlob e).isNone) x).getD false)) h0
end Sys2Proof.Tests
namespace Sys2Proof.Tests
open Sys2Proof Sys2Proof.Machine
theorem seat_checks (hc : Config.onCurve (serviceKey seatBlob) = true) :
    ∀ x ∈ blobChecks (post seated 1 0x302 seatPayload) (slotCall 1 seatPayload) 0, x.1 = false := by
  refine pass_cons (by decide) (pass_cons (by decide) (pass_cons (mbz_fst (by decide)) (pass_cons (by decide) (pass_cons (mbz_fst (by decide))
    (pass_cons (head_check (blobHead_good 0 _ ?_ (by decide)) (by decide) (by decide) (by decide)) (pass_cons (by decide) (pass_cons (by decide) (pass_cons (by decide)
      (pass_cons (by decide) (pass_cons ?_ pass_nil))))))))))
  · exact hc
  · have h0 : entryFor seatBlob 0 = none := by decide
    exact congrArg (fun x => ((Option.map (fun e => (openEntry 0 seatBlob e).isNone) x).getD false)) h0
theorem seat_first : jobFirst (jobAccepted (taken (post seated 1 0x302 seatPayload) 1) (byteAt seatPayload 0)
    (slice seatPayload 16 (natAt seatPayload 8 2))) (byteAt seatPayload 0) (slice seatPayload 16 (natAt seatPayload 8 2)) = [seatPush] := by
  decide +kernel
theorem pool_entry : (entryFor poolBlob 0).map (fun e => slice e 8 40) = some (zeros 40) := by decide
theorem pool_open (hk : (Config.unwrapKey 0 (poolBlob.take 96) (zeros 40)).isNone = false) :
    (((entryFor poolBlob 0).map (fun e => (openEntry 0 poolBlob e).isNone)).getD false) = false := by
  have h := pool_entry
  rcases he : entryFor poolBlob 0 with _ | e
  · rfl
  · rw [he] at h
    have h' : slice e 8 40 = zeros 40 := Option.some.inj h
    simp only [Option.map_some, Option.getD_some, openEntry, h']
    exact hk
theorem pool_checks (hc : Config.onCurve (serviceKey poolBlob) = true)
    (hk : (Config.unwrapKey 0 (poolBlob.take 96) (zeros 40)).isNone = false) :
    ∀ x ∈ blobChecks (post up 1 0x302 poolPayload) (slotCall 1 poolPayload) 1, x.1 = false := by
  refine pass_cons (by decide) (pass_cons (by decide) (pass_cons (mbz_fst (by decide)) (pass_cons (by decide) (pass_cons (mbz_fst (by decide))
    (pass_cons (head_check (blobHead_good 1 _ ?_ (by decide)) (by decide) (by decide) (by decide)) (pass_cons (by decide) (pass_cons (by decide) (pass_cons (by decide)
      (pass_cons (by decide) (pass_cons ?_ pass_nil))))))))))
  · exact hc
  · exact pool_open hk
theorem rotate_checks (hc : Config.onCurve (serviceKey poolBlob) = true)
    (hk : (Config.unwrapKey 0 (poolBlob.take 96) (zeros 40)).isNone = false) :
    ∀ x ∈ blobChecks (post { up with itv.sec.poolKeys := [(0, { key0 := some 1 })] } 1 0x303 poolPayload) (slotCall 1 poolPayload) 1,
      x.1 = false := by
  refine pass_cons (by decide) (pass_cons (by decide) (pass_cons (mbz_fst (by decide)) (pass_cons (by decide) (pass_cons (mbz_fst (by decide))
    (pass_cons (head_check (blobHead_good 1 _ ?_ (by decide)) (by decide) (by decide) (by decide)) (pass_cons (by decide) (pass_cons (by decide) (pass_cons (by decide)
      (pass_cons (by decide) (pass_cons ?_ pass_nil))))))))))
  · exact hc
  · exact pool_open hk
end Sys2Proof.Tests
namespace Sys2Proof.Tests
open Sys2Proof Sys2Proof.Machine
/-- An image of a header and a signature alone. -/
def tinyImage : Bytes := leBytes 4 0x54524353 ++ leBytes 2 1 ++ [0, 1] ++ zeros 216
/-- A script-stage of it into slot 1. -/
def stagePayload : Bytes := [1] ++ zeros 7 ++ (zeros 8 ++ leBytes 4 224 ++ zeros 4)
theorem tiny_good (hs : imageSigned tinyImage = true) :
    imageRefused (post up 1 0x601 stagePayload).itv (pad (hostRef stagePayload 8).len tinyImage) 0 = none := by
  have e : pad (hostRef stagePayload 8).len tinyImage = tinyImage := by decide
  rw [e]
  unfold imageRefused
  rw [if_neg (by decide), hs]
  rfl
/-- A licence of feature 1 for the chip as shipped. -/
def licPayload : Bytes := leBytes 2 136 ++ zeros 14 ++ leBytes 4 0x4E43494C ++ leBytes 2 1 ++ [1] ++ zeros 129
/-- An attest-fetch into a buffer of 64 KiB. -/
def attPayload : Bytes := zeros 32 ++ (zeros 8 ++ leBytes 4 65536 ++ [1, 0, 0, 0])
theorem att_fits (hc : Config.certChain.length ≤ 8192) :
    (attestReport (taken (post up 1 0x702 attPayload) 1).itv (attPayload.take 32) (freeDigest (taken (post up 1 0x702 attPayload) 1)).2).length
      ≤ (hostRef attPayload 32).len := by
  rw [show (hostRef attPayload 32).len = 65536 from by decide, attestReport_length]
  omega
end Sys2Proof.Tests
namespace Sys2Proof.Tests
open Sys2Proof Sys2Proof.Machine
/-- The carve of the CXL window, the link up and the decoder committed. -/
def windowed : State :=
  { withCarve with itv.pool.window := some 255, itv.cb.hdmCommitted := true, itv.cb.cxlUp := true, itv.boot.licences := 7,
                   itv.boot.held := false, itv.sec.poolKeys := [(0, { key0 := some 1 })] }
end Sys2Proof.Tests
namespace Sys2Proof.Tests
open Sys2Proof Sys2Proof.Machine
/-- One port in a state. -/
def atSt (r : PortRef) (st : LinkState) : State := modPort up r (fun p => { p with st := st })
/-- An offer frame of zeros with its CRC. -/
def goodFrame : Bytes := 0x4F :: zeros 59 ++ leBytes 4 (crc32 (0x4F :: zeros 59)).toNat
/-- Port 3 in NAMES with the partner its chart names. -/
def aPartner : Offer := { part := 1, ownId := 5, ownPort := 9 }
def aChart : Chart :=
  { form := 0, rootPlane := 0, version := 1, planes := 1, serial := 0, swid := 0, principalLimit := 16, retryMax := 3,
    e2eTimeout := 1000, ageLimit := 50, longestL := 0, relayNext := [],
    ports := List.replicate 72 { part := 1, peerId := 5, peerPort := 9 } }
def named : State :=
  { modPort up (.itv 3) (fun p => { p with st := .names, partner := some aPartner }) with
    itv.routing.chart := some aChart }
end Sys2Proof.Tests
namespace Sys2Proof.Tests
open Sys2Proof Sys2Proof.Machine
/-- A released VC0 flit in an output queue. -/
def anOut : QEntry := { flit := { kind := Kind.pmsg }, at_ := 0, inp := 4 }
/-- A switch whose core runs at speed, so that a slow reading is news. -/
def fast : State := { up with itv.core.dies := Vector.replicate 2 { pace := 1500, monitors := [] } }
/-- A landed flit no table routes. -/
def landedFlit : Flit := { kind := Kind.svc, dst := 0x7FFF }
def landedIn : State := modPort (atSt (.itv 3) .ready) (.itv 3) (fun p => { p with landing := [{ flit := landedFlit, at_ := 0 }] })
theorem lost_flit : placeOne landedIn 3 { flit := landedFlit, at_ := 0 } .arrives = some (freeLanding (bumpDel landedIn .noRoute) 3 7, none) := by decide +kernel
end Sys2Proof.Tests
namespace Sys2Proof.Tests
open Sys2Proof Sys2Proof.Machine
/-- A request that the directory has passed to the pool home. -/
def homed (f : Flit) : State := { windowed with itv.dir.home := [f], itv.routing.chart := some aChart }
/-- A request of seat 5: OFFSET 0 and a head of R85. -/
def ask (k : BitVec 5) (rest : List (Nat × Bytes)) : Flit := { kind := k, src := 5, payload := payloadOf rest }
def aLoad : Flit := ask Kind.load []
def aStore : Flit := ask Kind.store [(16, [7]), (144, [0xFF])]
def anAtomic : Flit := ask Kind.atomic [(0, reqHead 0 0 0 3 0 0 0), (16, [5])]
def aCas : Flit := ask Kind.atomic [(0, reqHead 0 0 0 2 0 0 0), (16, [5]), (32, [9])]
def anRmem : Flit := ask Kind.rmem [(0, reqHead 0 4 0 0 0 16 1)]
def aBulk : Flit := ask Kind.bulk [(0, reqHead 0 0 0 64 0 0 0)]
end Sys2Proof.Tests
namespace Sys2Proof.Tests
open Sys2Proof Sys2Proof.Machine
/-- Partition 0's wardrobe of one buffer of 256 bytes at 0; its control page begins at 256. -/
def aWard : Wardrobe := newWardrobe 0 255 [1, 0, 0, 0, 0, 0, 0, 0]
def ownedWard : Wardrobe := { aWard with owners := [(0, (5, 0))], ring := List.replicate 8 [] }
def emptyWard : Wardrobe := { aWard with ring := List.replicate 8 [] }
def aWardCarve : Carve := { aCarve with len := 131072, ward := true }
def warded (f : Flit) : State := { homed f with itv.wards := [(0, aWard)], itv.pool.carves := [(255, aWardCarve)] }
def anAlloc : Flit := ask Kind.atomic [(0, reqHead 256 0 0 1 0 0 0), (16, [100])]
def aHandOn : Flit := ask Kind.atomic [(0, reqHead 512 1 0 1 0 0 0), (24, [6, 0])]
def aFree : Flit := ask Kind.atomic [(0, reqHead 768 0 0 1 0 0 0)]
end Sys2Proof.Tests
namespace Sys2Proof.Tests
open Sys2Proof Sys2Proof.Machine
/-- A LOAD of seat 5 for the pool of this switch (plane 0, house 0), a FENCE of it, an INV to it and its INV_ACK. -/
def poolAsk : Flit := { aLoad with dst := poolNode (homed aLoad).itv }
def aFence : Flit := ask Kind.fence []
def anInv : InvOut := { seat := 5, seq := 0, line := 0, toOwner := false, group := none, lastSend := 0 }
def anAck : Flit := ask Kind.invAck []
end Sys2Proof.Tests
namespace Sys2Proof.Tests
open Sys2Proof Sys2Proof.Machine
/-- Belug as seat 3 with a delivered flit, and a window of 16 pages. -/
def given (f : Flit) : State := { up with blg.node := 3, blg.window := 16, blg.inbox := [(f, 0, 0)], now := 10000000 }
/-- A request of Itvos, of Belug, sent to node 5 and not answered; its answer. -/
def anOutst : Outst := { seq := 0, flit := aLoad, purpose := .combined 0, sends := 1 }
def flown (d : Side) (o : Outst) (f : Flit) : State :=
  setOutflows { given f with itv.core.inbox := [f], itv.routing.chart := some aChart } d [(5, { next := 1, outst := [o] })]
def aData : Flit := { kind := Kind.data, src := 5, payload := payloadOf [] }
def aDone : Flit := { aData with kind := Kind.done }
/-- An owned line 0 of node 5. -/
def aLine : OcLine := { id := 0, node := 5, ctx := 0, st := .owned }
def owning (e : OcLine) (f : Flit) : State := { given f with blg.oc := [(0, e)] }
def aRead : Flit := { kind := Kind.inv, src := 96, payload := payloadOf [] }
def aFwd : Flit := { aRead with kind := Kind.fwd }
/-- A message of 8 bytes, into rendezvous buffer 0. -/
def aMsg (k : BitVec 5) : Flit := { kind := k, src := 5, payload := payloadOf [(9, [8])] }
/-- The table of rendezvous buffers with the first armed, 128 bytes long. -/
def armed (f : Flit) : State := { given f with blg.tables := memWrite [] 0x5000 (leBytes 8 (2 ^ 63) ++ leBytes 4 128) }
end Sys2Proof.Tests
namespace Sys2Proof.Tests
open Sys2Proof Sys2Proof.Machine
/-- An apron message of a type, and Belug as seat 3 with page 0 of context 0 translated to a page of a node, for channel 0. -/
def amsg (t : Byte) : ApronMsg := { typ := t }
def aStoreMsg : ApronMsg := { typ := 2, data := zeros 64, tail := leBytes 16 0xFF ++ zeros 32 }
def anRmemMsg : ApronMsg := { typ := 13, size := 4, b7 := 16, opt := 1, data := zeros 128 }
def paged (node : Nat) : State :=
  { given aLoad with
    blg.startWait := false,
    blg.l1 := [(32, [{ ctx := 0, va := 0, sh := 16, leaf := BitVec.ofNat 64 (node * 2 ^ 48 + 0x1F), wire := 0 }])] }
def pageAt (node : Nat) : Word := BitVec.ofNat 64 (node * 2 ^ 48)
/-- Line 0 of node 5 owned by the seat, whole. -/
def pagedOwned : State := { paged 5 with blg.oc := [(0, { aLine with filled := true, data := zeros 128 })] }
/-- A post of a collective of group 7, and Belug with that group's entry and context 0. -/
def aPost : ApronMsg :=
  { typ := 7, tail := zeros 8 ++ leBytes 8 4096 ++ zeros 8 ++ leBytes 2 7 ++ zeros 22,
    data := [1, 1, 2, 2] ++ zeros 4 ++ leBytes 6 96 ++ zeros 18 ++ zeros 32 }
def grouped : State :=
  { given aLoad with
    blg.groupMem := memWrite [] 0x3000 (leBytes 2 0x8007 ++ zeros 2 ++ leBytes 2 1 ++ leBytes 3 1),
    blg.descs := [(0, { root := 0, wire := 0 })] }
/-- A message of a stagehand's descriptor, and stagehand 0 with slot 0 posted. -/
def aDesc : Bytes := [4] ++ zeros 23 ++ [8] ++ zeros 39
def handed : State := modSH (given aLoad) 0 0 (fun _ => { own := true, desc := aDesc, total := 1 })
def putDesc : Bytes := [1] ++ zeros 23 ++ [8] ++ zeros 39
def handedPut : State := modSH (given aLoad) 0 0 (fun _ => { own := true, desc := putDesc, total := 1 })
/-- A channel with held words. -/
def held : State := modCh (given aLoad) 0 (fun c => { c with held := [(0, zeros 64)] })
/-- An invalidation slot handed over. -/
def slotted (t : BitVec 2) : State :=
  modInvSlot { given aLoad with blg.ctxCount := 4 } 1 (fun x => { x with own := true, typ := t, pages := 1 })
end Sys2Proof.Tests
namespace Sys2Proof.Tests
open Sys2Proof Sys2Proof.Machine
/-- An ALL_REDUCE of 48 FP32 elements by group 7 of one rank, seat 3, on plane 0: as its reducer and as its member know it. -/
def aJob : Desc := { op := 1, opr := 1, fmt := 2, ofmt := 2, count := 48 }
def armedEntry : CueEntry := { seq := 0, ext := 0, desc := aJob, digest := 0, armed := true }
def aMColl : MColl :=
  { group := 7, seq := 0, rank := 0, n := 1, planes := 1, hold := 1000, desc := aJob, digest := 0, inVa := 0, outVa := 4096, launch := 0,
    tally := 0, ctx := 0, blockwise := false, ready := [0], late := some false, stripes := [{ stripe := 0 }] }
def going (m : MColl) : MColl := { m with launched := true }
def collHead (step : Nat) : CHead := { group := 7, rank := 0, cueSeq := 0, step := step, digest := 0, chunk := 0, valid := 192 }
def collF (k : BitVec 5) (step : Nat) : Flit := collFlit k 3 3 0 false (collHead step) []
/-- The group at both ends, with a delivered flit. -/
def staged (m : MColl) (f : Flit) : State :=
  { given f with
    itv.core.inbox := [f], itv.routing.chart := some aChart,
    itv.coll.casts := [(7, { nodes := [3], planes := 1, live := 1, hold := 1000, sheet := [armedEntry] })],
    blg.colls := [m], blg.live := [(7, 1)], blg.cue := { st := .locked } }
def stagedRun (f : Flit) (x : StripeRun) : State :=
  { staged aMColl f with itv.coll.runs := [{ group := 7, seq := 0, stripes := [x], steps := [{ step := 0, opened := 0, first := 0 }] }] }
/-- A state buffer of a chunk of the collective. -/
def aBuf : StateBuf := { group := 7, seq := 0, chunk := 0, core := 0, ward := 0, pool := 0, idx := 0 }
def buffered (b : StateBuf) (f : Flit) : State :=
  { stagedRun f { stripe := 0 } with itv.coll.bufs := [b] }
end Sys2Proof.Tests
namespace Sys2Proof.Tests
open Sys2Proof Sys2Proof.Machine
/-- A REPORT of house 0's switch; a Service flit of a code from the switch of plane 0. -/
def aReport : Flit := collFlit Kind.contrib 3 0 0 true (collHead 0xFD) []
def svcFlit (c : BitVec 16) : Flit := { kind := Kind.svc, sk := true, payload := leBytes 2 c.toNat ++ zeros 206 }
/-- A core that runs the clipped sum's first word. -/
def chorusRun : State :=
  { buffered aBuf aLoad with
    itv.coll.kernels := [(0, { obj := clippedSum, gen := 0 })],
    itv.coll.cores := [(0, { active := true, group := 7, seq := 0, chunk := 0 })] }
end Sys2Proof.Tests
namespace Sys2Proof.Tests
open Sys2Proof Sys2Proof.Machine
theorem svcFlit_svc (c : BitVec 16) : (svcFlit c).svc = c.toNat := by
  have h : c.toNat < 65536 := c.isLt
  simp [svcFlit, Flit.svc, natAt, slice, leBytes, leNat]
  omega
end Sys2Proof.Tests
namespace Sys2Proof.Tests
open Sys2Proof Sys2Proof.Machine
/-- Page 0 in the stalls of a carve pinned to the gallery; a page of the gallery in the promotion queue. -/
def tiered (m : KMap TierEntry) (cls : TierClass) : State :=
  { pooled with
    itv.pool.tier := m, itv.pool.carves := [(255, { aCarve with cls := cls })], itv.pool.enable := true, itv.pool.galleryGiB := 1,
    now := 10000000000000 }
end Sys2Proof.Tests
namespace Sys2Proof.Tests
open Sys2Proof Sys2Proof.Machine
/-- A Service flit to Belug of a code, for partition 0. -/
def seatSvc (c : Nat) : Flit := { kind := Kind.svc, payload := leBytes 2 c ++ zeros 206 }
/-- A push of a blob of serial 0 to Belug with serial 0. -/
def aPush : Flit := { kind := Kind.svc, payload := leBytes 2 0x0301 ++ zeros 14 ++ (blobOf 0 0).take 96 ++ slice (blobOf 0 0) 96 48 ++ zeros 48 }
def aKey : JobKey := { part := 0, key := 0, epoch := 1, useAfter := 0 }
end Sys2Proof.Tests
namespace Sys2Proof.Tests
open Sys2Proof Sys2Proof.Machine
/-- Start-up at a step: out of reset, the ROM done, the loader done, Yalny started. -/
def booting : State := { State.reset with itv.boot.held := false }
def romRun : State := { State.reset with itv.boot.held := false, itv.boot.romDone := true }
def loaded : State := { State.reset with itv.boot.held := false, itv.boot.romDone := true, itv.boot.loaderDone := true }
def begun : State := { State.reset with itv.boot.held := false, itv.boot.started := true }
/-- A relay of an image of one byte to switch 1, and one being received. -/
def anImg : Img := { st := .staged, version := 7, body := [1], digest := zeros 48 }
def relaying (f : Flit) : State :=
  { given f with
    itv.core.inbox := [f], itv.routing.chart := some { aChart with relayNext := [1] }, itv.relay.sending := some anImg,
    now := 1000000000000 }
def receiving (f : Flit) : State :=
  { given f with
    itv.core.inbox := [f], itv.routing.chart := some aChart, itv.relay.receiving := true, itv.relay.total := 400,
    itv.relay.from_ := 1 }
def relayF (code version off : Nat) : Flit :=
  { kind := Kind.svc, src := 1, dk := true, sk := true, payload := relayPayload code version off [(16, zeros 192)] }
/-- Session 0 is open; a rack manager's, an operator's. -/
def inSession (x : Session) : State := { up with itv.mgmt.sessions := [(0, x)], itv.mgmt.nextSession := 1, now := 100000000000 }
def rackS : Session := { hello := true, rack := true }
def plainS : Session := { hello := true }
end Sys2Proof.Tests

namespace Sys2Proof.Tests
open Sys2Proof Sys2Proof.Machine

/-! ## States and operands that meet the hypotheses of each clause of the statements -/

/-! ReadCommandsAnswer -/

theorem test_met_ident :
    ∃ (s : State) (n : Fin 8),
      (posted s n 0x0001 []) :=
  ⟨post up 7 1 [], 7, by decide⟩
theorem test_met_linkStatus :
    ∃ (s : State) (n : Fin 8) (p : Bytes),
      (posted s n 0x0002 p) ∧
      (p.length = 8) ∧
      (1 ≤ byteAt p 1) ∧
      (byteAt p 1 ≤ 15) ∧
      (byteAt p 0 + byteAt p 1 ≤ 72) ∧
      (zeroAt p 2 6) :=
  ⟨post up 7 2 [57, 15, 0, 0, 0, 0, 0, 0], 7, [57, 15, 0, 0, 0, 0, 0, 0], by decide, by decide, by decide, by decide, by decide, by decide⟩
theorem test_met_paceRead :
    ∃ (s : State) (n : Fin 8),
      (posted s n 0x0403 []) :=
  ⟨post up 7 0x403 [], 7, by decide⟩
theorem test_met_runLengthRead :
    ∃ (s : State) (n : Fin 8),
      (posted s n 0x0404 []) :=
  ⟨post up 7 0x404 [], 7, by decide⟩
theorem test_met_countersRead :
    ∃ (s : State) (n : Fin 8) (p : Bytes),
      (posted s n 0x0405 p) ∧
      (p.length = 24) ∧
      (byteAt p 0 ≤ 7) ∧
      (byteAt p 1 ≤ 1) ∧
      (zeroAt p 2 6) ∧
      (hostRefCheck p 8 1 = none) ∧
      ((countersData s.itv (byteAt p 0)).length ≤ (hostRef p 8).len) ∧
      (s.itv.cb.busMaster = true) :=
  ⟨post up 7 0x405 ([7, 1, 0, 0, 0, 0, 0, 0] ++ zeros 9 ++ [1, 0, 0, 1, 0, 0, 0]), 7, [7, 1, 0, 0, 0, 0, 0, 0] ++ zeros 9 ++ [1, 0, 0, 1, 0, 0, 0], by decide, by decide, by decide, by decide, by decide, by decide, by decide, by decide⟩

/-! RouteCommandsStageCommitDrain -/

theorem test_met_seatingLoad :
    ∃ (s : State) (n : Fin 8) (p d : Bytes),
      (posted s n 0x0003 p) ∧
      (p.length = 24) ∧
      (hostRefCheck p 0 0 = none) ∧
      (zeroAt p 20 4) ∧
      (s.itv.cb.busMaster = true) ∧
      (chartRefused (natAt p 16 4) (pad (hostRef p 0).len d) = none) ∧
      ((parseChart (pad (hostRef p 0).len d)).serial = s.itv.fuse.serial) ∧
      ((match s.itv.routing.chart with
        | some c => decide (natAt p 16 4 ≤ c.version)
        | none => false) = false) ∧
      (s.itv.routing.drains = []) :=
  ⟨post up 0 3 goodLoad, 0, goodLoad, goodChart, by decide, by decide, by decide, by decide, by decide, by exact goodChart_good, by exact goodChart_serial, by decide, by decide⟩
theorem test_met_routeStage :
    ∃ (s : State) (n : Fin 8) (p d : Bytes),
      (posted s n 0x0004 p) ∧
      (p.length = 16) ∧
      (hostRefCheck p 0 0 = none) ∧
      ((hostRef p 0).len = 10752) ∧
      (s.itv.cb.busMaster = true) ∧
      (tablesRefused s.itv.routing.portClass (pad 10752 d) = none) ∧
      (s.itv.routing.drains = []) :=
  ⟨post up 0 4 (zeros 8 ++ leBytes 4 10752 ++ zeros 4), 0, zeros 8 ++ leBytes 4 10752 ++ zeros 4, [], by decide, by decide, by decide, by decide, by decide, by exact tablesRefused_empty, by decide⟩
theorem test_met_routeCommitStart :
    ∃ (s : State) (n : Fin 8),
      (posted s n 0x0005 []) ∧
      (s.itv.routing.stagedNew = true) ∧
      (s.itv.routing.drains = []) ∧
      (s.itv.routing.drained = false) :=
  ⟨post { up with itv.routing.stagedNew := true } 3 5 [], 3, by decide, by decide, by decide, by decide⟩
theorem test_met_routeCommitSwap :
    ∃ (s : State) (n : Fin 8),
      (posted s n 0x0005 []) ∧
      (s.itv.routing.stagedNew = true) ∧
      (s.itv.routing.drains = []) ∧
      (s.itv.routing.drained = true) :=
  ⟨post { up with itv.routing.stagedNew := true, itv.routing.drained := true } 3 5 [], 3, by decide, by decide, by decide, by decide⟩
theorem test_met_routeDrainEnd :
    ∃ (s : State) (d : Drain),
      (s.itv.routing.drains = [d]) ∧
      (d.why = .commit) ∧
      (passed s d.lastSent s.itv.routing.maxFlight = true) ∧
      (leavingRemain s = false) :=
  ⟨{ up with itv.routing.drains := [{ why := .commit, ports := 0, start := 0, lastSent := 0 }] }, { why := .commit, ports := 0, start := 0, lastSent := 0 }, by decide, by decide, by decide, by decide⟩

/-! CastListsAndCueSheetsAreKept -/

theorem test_met_castRemove :
    ∃ (s : State) (n : Fin 8) (p : Bytes),
      (posted s n 0x0101 p) ∧
      (p.length = 32) ∧
      (holdsChorus s.itv = true) ∧
      (natAt p 0 2 ≤ 4095) ∧
      (natAt p 2 2 = 0) ∧
      (zeroAt p 7 1) ∧
      (zeroAt p 14 2) ∧
      (∀ k, getCast s (natAt p 0 2) = some k → outstanding k = false ∧ s.itv.sec.struck.getLsbD k.part = false ∧ s.itv.dir.down.getLsbD k.part = false) :=
  ⟨post up 1 0x101 (leBytes 2 4095 ++ zeros 30), 1, leBytes 2 4095 ++ zeros 30, by decide, by decide, by decide, by decide, by decide, by decide, by decide, by (intro k h; simp [getCast, up, post, modSlot, State.reset, kget] at h)⟩
theorem test_met_castCreate :
    ∃ (s : State) (n : Fin 8) (p d : Bytes) (ts : List ExpertTable),
      (posted s n 0x0101 p) ∧
      (p.length = 32) ∧
      (holdsChorus s.itv = true) ∧
      (natAt p 0 2 ≤ 4095) ∧
      (1 ≤ natAt p 2 2) ∧
      (natAt p 2 2 ≤ 16384) ∧
      (BitVec.ofNat 24 (natAt p 4 3) ≠ 0) ∧
      (BitVec.ofNat 24 (natAt p 4 3) &&& ~~~ ((s.itv.routing.chart.map (·.planes)).getD (BitVec.ofNat 24 (natAt p 4 3))) = 0) ∧
      (zeroAt p 7 1) ∧
      (10 ≤ natAt p 8 4) ∧
      (natAt p 8 4 ≤ 1000000) ∧
      (byteAt p 12 ≤ 16) ∧
      (partExists s.itv (byteAt p 13) = true) ∧
      (zeroAt p 14 2) ∧
      (hostRefCheck p 16 0 = none) ∧
      (s.itv.cb.busMaster = true) ∧
      ((if byteAt p 12 = 0 then 2 * natAt p 2 2 else (2 * natAt p 2 2 + 63) / 64 * 64) ≤ (hostRef p 16).len) ∧
      (((List.range (natAt p 2 2)).map (fun i => BitVec.ofNat 16 (natAt (pad (hostRef p 16).len d) (2 * i) 2))).eraseDups.length = natAt p 2 2) ∧
      (((List.range (natAt p 2 2)).map (fun i => BitVec.ofNat 16 (natAt (pad (hostRef p 16).len d) (2 * i) 2))).all (memberSeat s.itv (byteAt p 13)) = true) ∧
      (expertTables (natAt p 2 2) (pad (hostRef p 16).len d) (hostRef p 16).len (byteAt p 12) ((2 * natAt p 2 2 + 63) / 64 * 64) = some ts) ∧
      (s.itv.sec.struck.getLsbD (byteAt p 13) = false) ∧
      (s.itv.dir.down.getLsbD (byteAt p 13) = false) ∧
      (((getCast s (natAt p 0 2)).map outstanding).getD false = false) :=
  ⟨post up 1 0x101 oneCast, 1, oneCast, [], [], by decide, by decide, by decide, by decide, by decide, by decide, by decide, by decide, by decide, by decide, by decide, by decide, by decide, by decide, by decide, by decide, by decide, by decide, by decide, by decide, by decide, by decide, by decide⟩
theorem test_met_cueSheetAdd :
    ∃ (s : State) (n : Fin 8) (p : Bytes) (k : Cast),
      (posted s n 0x0102 p) ∧
      (p.length = 40) ∧
      (1 ≤ byteAt p 8) ∧
      (byteAt p 8 ≤ 0x0B) ∧
      (holdsChorus s.itv = true) ∧
      ((byteAt p 8 != COp.kernel || holdsKernel s.itv) = true) ∧
      (natAt p 0 2 ≤ 4095) ∧
      (getCast s (natAt p 0 2) = some k) ∧
      ((k.nextSeq.map (· != natAt p 2 2)).getD false = false) ∧
      (zeroAt p 4 4) ∧
      (∀ x ∈ descChecks s k (slotCall n p), x.1 = false) ∧
      (s.itv.sec.struck.getLsbD k.part = false) ∧
      (s.itv.dir.down.getLsbD k.part = false) ∧
      ((k.sheet.filter (fun e => !e.ended)).length < 16) :=
  ⟨post withCast 1 0x102 addPayload, 1, addPayload, aCast, by decide, by decide, by decide, by decide, by decide, by decide, by decide, by decide, by decide, by decide, by decide, by decide, by decide, by decide⟩
theorem test_met_cueArm :
    ∃ (s : State) (n : Fin 8) (p : Bytes) (k : Cast),
      (posted s n 0x0103 p) ∧
      (p.length = 8) ∧
      (holdsChorus s.itv = true) ∧
      (natAt p 0 2 ≤ 4095) ∧
      (getCast s (natAt p 0 2) = some k) ∧
      ((natAt p 4 2 + 65536 - natAt p 2 2) % 65536 ≤ 15) ∧
      (∀ i ≤ (natAt p 4 2 + 65536 - natAt p 2 2) % 65536, k.sheet.any (fun e => e.seq == (natAt p 2 2 + i) % 65536 && !e.ended) = true) ∧
      (zeroAt p 6 2) ∧
      (s.itv.sec.struck.getLsbD k.part = false) ∧
      (s.itv.dir.down.getLsbD k.part = false) :=
  ⟨post withEntry 1 0x103 armPayload, 1, armPayload, { aCast with sheet := [anEntry], nextSeq := some 0 }, by decide, by decide, by decide, by decide, by decide, by decide, by decide, by decide, by decide, by decide⟩
theorem test_met_curtainSet :
    ∃ (s : State) (n : Fin 8) (p : Bytes) (k : Cast),
      (posted s n 0x0104 p) ∧
      (p.length = 8) ∧
      (holdsChorus s.itv = true) ∧
      (natAt p 0 2 ≤ 4095) ∧
      (getCast s (natAt p 0 2) = some k) ∧
      (64 ≤ natAt p 2 2) ∧
      (zeroAt p 4 4) ∧
      (s.itv.sec.struck.getLsbD k.part = false) ∧
      (s.itv.dir.down.getLsbD k.part = false) :=
  ⟨post withCast 1 0x104 (leBytes 2 4095 ++ [64, 0, 0, 0, 0, 0]), 1, leBytes 2 4095 ++ [64, 0, 0, 0, 0, 0], aCast, by decide, by decide, by decide, by decide, by decide, by decide, by decide, by decide, by decide⟩
theorem test_met_understudySwap :
    ∃ (s : State) (n : Fin 8) (p : Bytes) (k : Cast),
      (posted s n 0x0105 p) ∧
      (p.length = 8) ∧
      (holdsChorus s.itv = true) ∧
      (natAt p 0 2 ≤ 4095) ∧
      (getCast s (natAt p 0 2) = some k) ∧
      (natAt p 2 2 < k.nodes.length) ∧
      (memberSeat s.itv k.part (BitVec.ofNat 16 (natAt p 4 2)) = true) ∧
      (k.nodes.contains (BitVec.ofNat 16 (natAt p 4 2)) = false) ∧
      (zeroAt p 6 2) ∧
      (s.itv.sec.struck.getLsbD k.part = false) ∧
      (s.itv.dir.down.getLsbD k.part = false) ∧
      (outstanding k = false) :=
  ⟨post withCast 1 0x105 (leBytes 2 4095 ++ [0, 0, 1, 0, 0, 0]), 1, leBytes 2 4095 ++ [0, 0, 1, 0, 0, 0], aCast, by decide, by decide, by decide, by decide, by decide, by decide, by decide, by decide, by decide, by decide, by decide, by decide⟩

/-! BookAndKernelCommandsAnswer -/

theorem test_met_promptBookRead :
    ∃ (s : State) (n : Fin 8) (p : Bytes),
      (posted s n 0x0106 p) ∧
      (p.length = 32) ∧
      (holdsPool s.itv = true) ∧
      (natAt p 0 2 ≤ 4095) ∧
      (1 ≤ natAt p 8 4) ∧
      (natAt p 8 4 ≤ 2097152) ∧
      (byteAt p 12 ≤ 1) ∧
      (zeroAt p 13 3) ∧
      (hostRefCheck p 16 1 = none) ∧
      (32 * natAt p 8 4 ≤ (hostRef p 16).len) ∧
      (s.itv.cb.busMaster = true) ∧
      (s.itv.boot.bookDone = true) :=
  ⟨post { up with itv.boot.bookDone := true } 1 0x106 (leBytes 2 4095 ++ zeros 6 ++ [1, 0, 0, 0, 1, 0, 0, 0] ++ zeros 8 ++ [32, 0, 0, 0, 1, 0, 0, 0]), 1, leBytes 2 4095 ++ zeros 6 ++ [1, 0, 0, 0, 1, 0, 0, 0] ++ zeros 8 ++ [32, 0, 0, 0, 1, 0, 0, 0], by decide, by decide, by decide, by decide, by decide, by decide, by decide, by decide, by decide, by decide, by decide, by decide⟩
theorem test_met_entranceRead :
    ∃ (s : State) (n : Fin 8) (p : Bytes),
      (posted s n 0x0107 p) ∧
      (p.length = 32) ∧
      (holdsChorus s.itv = true) ∧
      (natAt p 0 2 ≤ 4095 ∨ natAt p 0 2 = 0xFFFF) ∧
      (byteAt p 4 ≤ 1) ∧
      (zeroAt p 5 11) ∧
      (hostRefCheck p 16 1 = none) ∧
      (2097152 ≤ (hostRef p 16).len) ∧
      (s.itv.cb.busMaster = true) :=
  ⟨post up 1 0x107 ([0xFF, 0xFF, 0, 0, 1] ++ zeros 19 ++ leBytes 4 2097152 ++ [1, 0, 0, 0]), 1, [0xFF, 0xFF, 0, 0, 1] ++ zeros 19 ++ leBytes 4 2097152 ++ [1, 0, 0, 0], by decide, by decide, by decide, by decide, by decide, by decide, by decide, by decide, by decide⟩
theorem test_met_chorusLoad :
    ∃ (s : State) (n : Fin 8) (p d : Bytes),
      (posted s n 0x0108 p) ∧
      (p.length = 32) ∧
      (holdsKernel s.itv = true) ∧
      (byteAt p 0 ≤ 63) ∧
      (zeroAt p 1 15) ∧
      (hostRefCheck p 16 0 = none) ∧
      ((hostRef p 16).len ≤ 721024) ∧
      (s.itv.cb.busMaster = true) ∧
      ((checkObject (pad (hostRef p 16).len d)).reason = 0) ∧
      (kernelNamed s (byteAt p 0) = false) ∧
      (s.itv.coll.resetting = 0) ∧
      (wordsLoaded s (byteAt p 0) + objWords (pad (hostRef p 16).len d) ≤ 65536) :=
  ⟨post up 1 0x108 ([63] ++ zeros 23 ++ leBytes 4 352 ++ zeros 4), 1, [63] ++ zeros 23 ++ leBytes 4 352 ++ zeros 4, clippedSum, by decide, by decide, by decide, by decide, by decide, by decide, by decide, by decide, by decide +kernel, by decide, by decide, by decide +kernel⟩
theorem test_met_chorusCheck :
    ∃ (s : State) (n : Fin 8) (p d : Bytes),
      (posted s n 0x0109 p) ∧
      (p.length = 32) ∧
      (zeroAt p 0 16) ∧
      (hostRefCheck p 16 0 = none) ∧
      ((hostRef p 16).len ≤ 721024) ∧
      (s.itv.cb.busMaster = true) :=
  ⟨post up 1 0x109 (zeros 24 ++ leBytes 4 721024 ++ zeros 4), 1, zeros 24 ++ leBytes 4 721024 ++ zeros 4, [], by decide, by decide, by decide, by decide, by decide, by decide⟩

/-! PoolCarveCommandsWriteOneCarve -/

theorem test_met_poolCarveCreate :
    ∃ (s : State) (n : Fin 8) (p : Bytes),
      (posted s n 0x0201 p) ∧
      (p.length = 32) ∧
      (byteAt p 1 = 0) ∧
      (holdsPool s.itv = true) ∧
      (kget s.itv.pool.carves (byteAt p 0) = none) ∧
      (partExists s.itv (byteAt p 2) = true) ∧
      (zeroAt p 3 1) ∧
      (s.itv.sec.parts = 0 → natAt p 4 2 = 0 ∧ natAt p 6 2 = 0) ∧
      (byteAt p 8 ≤ 7) ∧
      (byteAt p 9 ≤ 2) ∧
      (zeroAt p 10 6) ∧
      (natAt p 16 8 % 65536 = 0) ∧
      (natAt p 24 8 % 65536 = 0) ∧
      (1 ≤ natAt p 24 8) ∧
      (natAt p 16 8 + natAt p 24 8 ≤ poolSize s.itv) ∧
      (s.itv.pool.carves.any (fun x => overlaps (natAt p 16 8) (natAt p 24 8) x.2.base x.2.len) = false) ∧
      (s.itv.sec.struck.getLsbD (byteAt p 2) = false) ∧
      (s.itv.dir.down.getLsbD (byteAt p 2) = false) ∧
      (scrubBusy s.itv (byteAt p 9) = false) ∧
      (scrubbing s.itv (natAt p 16 8) (natAt p 24 8) = false) ∧
      (byteAt p 9 = 1 → pinnedStalls s.itv + natAt p 24 8 / 65536 ≤ stallsFrames) :=
  ⟨post pooled 1 0x201 carvePayload, 1, carvePayload, by decide, by decide, by decide, by decide, by decide, by decide, by decide, by decide, by decide, by decide, by decide, by decide, by decide, by decide, by decide, by decide, by decide, by decide, by decide, by decide, by decide⟩
theorem test_met_poolCarveRelease :
    ∃ (s : State) (n : Fin 8) (p : Bytes) (k : Carve),
      (posted s n 0x0201 p) ∧
      (p.length = 32) ∧
      (byteAt p 1 = 1) ∧
      (holdsPool s.itv = true) ∧
      (kget s.itv.pool.carves (byteAt p 0) = some k) ∧
      (k.ward = false) ∧
      (zeroAt p 3 1) ∧
      (zeroAt p 10 6) ∧
      (s.itv.sec.struck.getLsbD k.part = false) ∧
      (s.itv.dir.down.getLsbD k.part = false) :=
  ⟨post withCarve 1 0x201 ([255, 1] ++ zeros 30), 1, [255, 1] ++ zeros 30, aCarve, by decide, by decide, by decide, by decide, by decide, by decide, by decide, by decide, by decide, by decide⟩
theorem test_met_poolCarveWindow :
    ∃ (s : State) (n : Fin 8) (p : Bytes) (k : Carve),
      (posted s n 0x0201 p) ∧
      (p.length = 32) ∧
      (byteAt p 1 = 2) ∧
      (holdsPool s.itv = true) ∧
      (kget s.itv.pool.carves (byteAt p 0) = some k) ∧
      (k.len ≤ windowBytes) ∧
      (zeroAt p 2 30) :=
  ⟨post withCarve 1 0x201 ([255, 2] ++ zeros 30), 1, [255, 2] ++ zeros 30, aCarve, by decide, by decide, by decide, by decide, by decide, by decide, by decide⟩
theorem test_met_poolCarveClearWindow :
    ∃ (s : State) (n : Fin 8) (p : Bytes),
      (posted s n 0x0201 p) ∧
      (p.length = 32) ∧
      (byteAt p 1 = 3) ∧
      (holdsPool s.itv = true) ∧
      (zeroAt p 2 30) :=
  ⟨post up 1 0x201 ([255, 3] ++ zeros 30), 1, [255, 3] ++ zeros 30, by decide, by decide, by decide, by decide, by decide⟩

/-! TierAndWardrobeCommandsWriteTheirTables -/

theorem test_met_tierPolicySettings :
    ∃ (s : State) (n : Fin 8) (p : Bytes),
      (posted s n 0x0202 p) ∧
      (p.length = 16) ∧
      (byteAt p 0 = 0) ∧
      (holdsPool s.itv = true) ∧
      (byteAt p 3 ≤ 1) ∧
      (1 ≤ natAt p 4 2) ∧
      (natAt p 4 2 ≤ 1000) ∧
      (natAt p 8 2 < natAt p 6 2) ∧
      (1 ≤ byteAt p 10) ∧
      (byteAt p 10 ≤ 32) ∧
      (zeroAt p 11 1) ∧
      (16 ≤ natAt p 12 4) ∧
      (natAt p 12 4 ≤ 16384) :=
  ⟨post up 1 0x202 ([0, 0, 0, 1, 1, 0, 1, 0, 0, 0, 32, 0, 16, 0, 0, 0]), 1, [0, 0, 0, 1, 1, 0, 1, 0, 0, 0, 32, 0, 16, 0, 0, 0], by decide, by decide, by decide, by decide, by decide, by decide, by decide, by decide, by decide, by decide, by decide, by decide, by decide⟩
theorem test_met_tierPolicyClass :
    ∃ (s : State) (n : Fin 8) (p : Bytes) (k : Carve),
      (posted s n 0x0202 p) ∧
      (p.length = 16) ∧
      (byteAt p 0 = 1) ∧
      (holdsPool s.itv = true) ∧
      (kget s.itv.pool.carves (byteAt p 1) = some k) ∧
      (k.ward = false) ∧
      (byteAt p 2 ≤ 2) ∧
      (zeroAt p 11 1) ∧
      (byteAt p 2 = 1 → k.cls ≠ .stalls → pinnedStalls s.itv + k.len / 65536 ≤ stallsFrames) :=
  ⟨post withCarve 1 0x202 ([1, 255, 2] ++ zeros 13), 1, [1, 255, 2] ++ zeros 13, aCarve, by decide, by decide, by decide, by decide, by decide, by decide, by decide, by decide, by decide⟩
theorem test_met_wardrobeCarveCreate :
    ∃ (s : State) (n : Fin 8) (p : Bytes) (base carve : Nat),
      (posted s n 0x0203 p) ∧
      (p.length = 48) ∧
      (byteAt p 1 = 0) ∧
      (holdsPool s.itv = true) ∧
      (partExists s.itv (byteAt p 0) = true) ∧
      (byteAt p 8 ≤ 7) ∧
      (zeroAt p 9 7) ∧
      (s.itv.sec.struck.getLsbD (byteAt p 0) = false) ∧
      (s.itv.dir.down.getLsbD (byteAt p 0) = false) ∧
      (s.itv.pool.stallsScrubbed = true) ∧
      (kget s.itv.wards (byteAt p 0) = none) ∧
      (wardBase s.itv (wardLen ((List.range 8).map (fun k => natAt p (16 + 4 * k) 4))) = some base) ∧
      (wardCarve s.itv = some carve) ∧
      (wardFull s.itv (byteAt p 0) ((List.range 8).map (fun k => natAt p (16 + 4 * k) 4)) = false) ∧
      (stallsFull s.itv (wardLen ((List.range 8).map (fun k => natAt p (16 + 4 * k) 4)) / 65536) = false) :=
  ⟨post pooled 1 0x203 wardPayload, 1, wardPayload, 0, 255, by decide, by decide, by decide, by decide, by decide, by decide, by decide, by decide, by decide, by decide, by decide, by decide, by decide, by decide, by decide⟩
theorem test_met_wardrobeCarveRelease :
    ∃ (s : State) (n : Fin 8) (p : Bytes) (w : Wardrobe),
      (posted s n 0x0203 p) ∧
      (p.length = 48) ∧
      (byteAt p 1 = 1) ∧
      (holdsPool s.itv = true) ∧
      (partExists s.itv (byteAt p 0) = true) ∧
      (kget s.itv.wards (byteAt p 0) = some w) ∧
      (w.owners = []) ∧
      (zeroAt p 9 7) ∧
      (s.itv.sec.struck.getLsbD (byteAt p 0) = false) ∧
      (s.itv.dir.down.getLsbD (byteAt p 0) = false) :=
  ⟨post { up with itv.wards := [(0, {})] } 1 0x203 ([0, 1] ++ zeros 46), 1, [0, 1] ++ zeros 46, {}, by decide, by decide, by decide, by decide, by decide, by decide, by decide, by decide, by decide, by decide⟩
theorem test_met_wardrobeCarveReclaim :
    ∃ (s : State) (n : Fin 8) (p : Bytes) (w : Wardrobe),
      (posted s n 0x0203 p) ∧
      (p.length = 48) ∧
      (byteAt p 1 = 2) ∧
      (holdsPool s.itv = true) ∧
      (partExists s.itv (byteAt p 0) = true) ∧
      (kget s.itv.wards (byteAt p 0) = some w) ∧
      (zeroAt p 9 7) ∧
      (s.itv.sec.struck.getLsbD (byteAt p 0) = false) ∧
      (s.itv.dir.down.getLsbD (byteAt p 0) = false) :=
  ⟨post { up with itv.wards := [(0, {})] } 1 0x203 ([0, 2] ++ zeros 46), 1, [0, 2] ++ zeros 46, {}, by decide, by decide, by decide, by decide, by decide, by decide, by decide, by decide, by decide⟩

/-! PartitionAndKeyCommandsTakeTheirBlobs -/

theorem test_met_partitionSet :
    ∃ (s : State) (n : Fin 8) (p : Bytes),
      (posted s n 0x0301 p) ∧
      (p.length = 80) ∧
      (byteAt p 0 ≤ 16) ∧
      (zeroAt p 1 7) ∧
      (∀ i < 72, byteAt p (8 + i) = 0xFF ∨ byteAt p (8 + i) < byteAt p 0) ∧
      (s.itv.sec.strikes = []) ∧
      (∀ q < 16, partLoses s.itv.sec.parts (byteAt p 0) s.itv.sec.seatPart ((List.range 72).map (fun i => byteAt p (8 + i))) q = true → partHolds s.itv q = false) :=
  ⟨post up 1 0x301 ([16] ++ zeros 7 ++ List.replicate 72 15), 1, [16] ++ zeros 7 ++ List.replicate 72 15, by decide, by decide, by decide, by decide, by decide, by decide, by decide⟩
theorem test_met_keyInstallJobDone (hc : Config.onCurve (serviceKey jobBlob) = true) :
    ∃ (s : State) (n : Fin 8) (p : Bytes),
      (posted s n 0x0302 p) ∧
      (17 ≤ p.length) ∧
      (p.length ≤ 4032) ∧
      (byteAt p 1 = 0) ∧
      (holdsChorus s.itv = true) ∧
      (∀ x ∈ blobChecks s (slotCall n p) 0, x.1 = false) ∧
      (s.itv.sec.struck.getLsbD (byteAt p 0) = false) ∧
      (s.itv.dir.down.getLsbD (byteAt p 0) = false) ∧
      (s.itv.sec.jobKeys.length < 256) ∧
      (jobFirst (jobAccepted (taken s n) (byteAt p 0) (slice p 16 (natAt p 8 2))) (byteAt p 0) (slice p 16 (natAt p 8 2)) = []) :=
  ⟨post up 1 0x302 jobPayload, 1, jobPayload, by decide, by decide, by decide, by decide, by decide, by exact job_checks hc, by decide, by decide, by decide, by decide⟩
theorem test_met_keyInstallJobRuns (hc : Config.onCurve (serviceKey seatBlob) = true) :
    ∃ (s : State) (n : Fin 8) (p : Bytes) (f : Flit) (fs : List Flit),
      (posted s n 0x0302 p) ∧
      (17 ≤ p.length) ∧
      (p.length ≤ 4032) ∧
      (byteAt p 1 = 0) ∧
      (holdsChorus s.itv = true) ∧
      (∀ x ∈ blobChecks s (slotCall n p) 0, x.1 = false) ∧
      (s.itv.sec.struck.getLsbD (byteAt p 0) = false) ∧
      (s.itv.dir.down.getLsbD (byteAt p 0) = false) ∧
      (s.itv.sec.jobKeys.length < 256) ∧
      (jobFirst (jobAccepted (taken s n) (byteAt p 0) (slice p 16 (natAt p 8 2))) (byteAt p 0) (slice p 16 (natAt p 8 2)) = f :: fs) :=
  ⟨post seated 1 0x302 seatPayload, 1, seatPayload, seatPush, [], by decide, by decide, by decide, by decide, by decide, by exact seat_checks hc, by decide, by decide, by decide, by exact seat_first⟩
theorem test_met_keyInstallPool (hc : Config.onCurve (serviceKey poolBlob) = true) (hk : (Config.unwrapKey 0 (poolBlob.take 96) (zeros 40)).isNone = false) :
    ∃ (s : State) (n : Fin 8) (p : Bytes),
      (posted s n 0x0302 p) ∧
      (17 ≤ p.length) ∧
      (p.length ≤ 4032) ∧
      (byteAt p 1 = 1) ∧
      (holdsPool s.itv = true) ∧
      (∀ x ∈ blobChecks s (slotCall n p) 1, x.1 = false) ∧
      (s.itv.sec.struck.getLsbD (byteAt p 0) = false) ∧
      (s.itv.dir.down.getLsbD (byteAt p 0) = false) ∧
      (hasPoolKey s.itv (byteAt p 0) = false) :=
  ⟨post up 1 0x302 poolPayload, 1, poolPayload, by decide, by decide, by decide, by decide, by decide, by exact pool_checks hc hk, by decide, by decide, by decide⟩
theorem test_met_keyRotate (hc : Config.onCurve (serviceKey poolBlob) = true) (hk : (Config.unwrapKey 0 (poolBlob.take 96) (zeros 40)).isNone = false) :
    ∃ (s : State) (n : Fin 8) (p : Bytes),
      (posted s n 0x0303 p) ∧
      (17 ≤ p.length) ∧
      (p.length ≤ 4032) ∧
      (holdsPool s.itv = true) ∧
      (∀ x ∈ blobChecks s (slotCall n p) 1, x.1 = false) ∧
      (s.itv.sec.struck.getLsbD (byteAt p 0) = false) ∧
      (s.itv.dir.down.getLsbD (byteAt p 0) = false) ∧
      (s.itv.pool.sweeps.any (fun x => x.part == byteAt p 0) = false) ∧
      (hasPoolKey s.itv (byteAt p 0) = true) :=
  ⟨post { up with itv.sec.poolKeys := [(0, { key0 := some 1 })] } 1 0x303 poolPayload, 1, poolPayload, by decide, by decide, by decide, by decide, by exact rotate_checks hc hk, by decide, by decide, by decide, by decide⟩
theorem test_met_strike :
    ∃ (s : State) (n : Fin 8) (p : Bytes),
      (posted s n 0x0304 p) ∧
      (p.length = 8) ∧
      (partExists s.itv (byteAt p 0) = true) ∧
      (zeroAt p 1 7) ∧
      (s.itv.sec.struck.getLsbD (byteAt p 0) = false) :=
  ⟨post up 1 0x304 (zeros 8), 1, zeros 8, by decide, by decide, by decide, by decide, by decide⟩
theorem test_met_strikeAgain :
    ∃ (s : State) (n : Fin 8) (p : Bytes),
      (posted s n 0x0304 p) ∧
      (p.length = 8) ∧
      (partExists s.itv (byteAt p 0) = true) ∧
      (zeroAt p 1 7) ∧
      (s.itv.sec.struck.getLsbD (byteAt p 0) = true) :=
  ⟨post { up with itv.sec.struck := 1 } 1 0x304 (zeros 8), 1, zeros 8, by decide, by decide, by decide, by decide, by decide⟩

/-! PowerAndPeepholeCommandsTakeEffect -/

theorem test_met_powerCap :
    ∃ (s : State) (n : Fin 8) (p : Bytes),
      (posted s n 0x0401 p) ∧
      (p.length = 8) ∧
      (350 ≤ natAt p 0 2) ∧
      (natAt p 0 2 ≤ 1200) ∧
      (zeroAt p 2 6) :=
  ⟨post up 1 0x401 ([0xE8, 3] ++ zeros 6), 1, [0xE8, 3] ++ zeros 6, by decide, by decide, by decide, by decide, by decide⟩
theorem test_met_ghostSet :
    ∃ (s : State) (n : Fin 8) (p : Bytes),
      (posted s n 0x0402 p) ∧
      (p.length = 8) ∧
      (natAt p 0 2 ≤ 700) ∧
      (1 ≤ natAt p 2 2 ∧ natAt p 2 2 ≤ 500) ∧
      (1 ≤ natAt p 4 2 ∧ natAt p 4 2 ≤ 500) ∧
      (zeroAt p 6 2) ∧
      (natAt p 0 2 ≤ (setGhost (taken s n) (natAt p 0 2) (natAt p 2 2) (natAt p 4 2)).itv.pwr.cap) :=
  ⟨post up 1 0x402 [0x2C, 1, 10, 0, 10, 0, 0, 0], 1, [0x2C, 1, 10, 0, 10, 0, 0, 0], by decide, by decide, by decide, by decide, by decide, by decide, by decide⟩
theorem test_met_ghostSetAbove :
    ∃ (s : State) (n : Fin 8) (p : Bytes),
      (posted s n 0x0402 p) ∧
      (p.length = 8) ∧
      (natAt p 0 2 ≤ 700) ∧
      (1 ≤ natAt p 2 2 ∧ natAt p 2 2 ≤ 500) ∧
      (1 ≤ natAt p 4 2 ∧ natAt p 4 2 ≤ 500) ∧
      (zeroAt p 6 2) ∧
      ((setGhost (taken s n) (natAt p 0 2) (natAt p 2 2) (natAt p 4 2)).itv.pwr.cap < natAt p 0 2) :=
  ⟨post { up with itv.pwr.cap := 400 } 1 0x402 [0xBC, 2, 10, 0, 10, 0, 0, 0], 1, [0xBC, 2, 10, 0, 10, 0, 0, 0], by decide, by decide, by decide, by decide, by decide, by decide, by decide⟩
theorem test_met_peepholeSet :
    ∃ (s : State) (n : Fin 8) (p : Bytes),
      (posted s n 0x0406 p) ∧
      (p.length = 8) ∧
      (byteAt p 0 ≤ 71) ∧
      (byteAt p 1 ≤ 3) ∧
      (byteAt p 3 = 0 ∨ (4 ≤ byteAt p 3 ∧ byteAt p 3 ≤ 24)) ∧
      (byteAt p 4 ≤ 1) ∧
      (zeroAt p 5 3) :=
  ⟨post up 1 0x406 [5, 1, 255, 8, 0, 0, 0, 0], 1, [5, 1, 255, 8, 0, 0, 0, 0], by decide, by decide, by decide, by decide, by decide, by decide, by decide⟩
theorem test_met_peepholeSetAll :
    ∃ (s : State) (n : Fin 8) (p : Bytes),
      (posted s n 0x0406 p) ∧
      (p.length = 8) ∧
      (byteAt p 0 = 255) ∧
      (byteAt p 1 ≤ 3) ∧
      (byteAt p 3 = 0 ∨ (4 ≤ byteAt p 3 ∧ byteAt p 3 ≤ 24)) ∧
      (byteAt p 4 ≤ 1) ∧
      (zeroAt p 5 3) :=
  ⟨post up 1 0x406 [255, 1, 255, 8, 0, 0, 0, 0], 1, [255, 1, 255, 8, 0, 0, 0, 0], by decide, by decide, by decide, by decide, by decide, by decide, by decide⟩

/-! ResetPartialActsAtItsLevel -/

theorem test_met_resetPrompter :
    ∃ (s : State) (n : Fin 8) (p : Bytes),
      (posted s n 0x0501 p) ∧
      (p.length = 8) ∧
      (byteAt p 0 = 0) ∧
      (byteAt p 1 = 0) ∧
      (byteAt p 2 = 0) ∧
      (zeroAt p 3 5) :=
  ⟨post up 1 0x501 (zeros 8), 1, zeros 8, by decide, by decide, by decide, by decide, by decide, by decide⟩
theorem test_met_resetPortRehearseReady :
    ∃ (s : State) (n : Fin 8) (p : Bytes) (q : Fin 72),
      (posted s n 0x0501 p) ∧
      (p.length = 8) ∧
      (byteAt p 0 = 1) ∧
      (byteAt p 1 = q.val) ∧
      (byteAt p 2 = 0) ∧
      (zeroAt p 3 5) ∧
      ((itvPort s q.val).enabled = true) ∧
      ((itvPort s q.val).st = .ready) ∧
      (closing s.itv q.val = false) :=
  ⟨post { up with itv.ports := up.itv.ports.set 5 { (up.itv.ports.get 5) with st := .ready } } 1 0x501 [1, 5, 0, 0, 0, 0, 0, 0], 1, [1, 5, 0, 0, 0, 0, 0, 0], 5, by decide, by decide, by decide, by decide, by decide, by decide, by decide, by decide, by decide⟩
theorem test_met_resetPortRehearse :
    ∃ (s : State) (n : Fin 8) (p : Bytes) (q : Fin 72),
      (posted s n 0x0501 p) ∧
      (p.length = 8) ∧
      (byteAt p 0 = 1) ∧
      (byteAt p 1 = q.val) ∧
      (byteAt p 2 = 0) ∧
      (zeroAt p 3 5) ∧
      ((itvPort s q.val).enabled = true) ∧
      ((itvPort s q.val).st ≠ .ready) ∧
      (closing s.itv q.val = false) :=
  ⟨post up 1 0x501 [1, 5, 0, 0, 0, 0, 0, 0], 1, [1, 5, 0, 0, 0, 0, 0, 0], 5, by decide, by decide, by decide, by decide, by decide, by decide, by decide, by decide, by decide⟩
theorem test_met_resetPortDisableReady :
    ∃ (s : State) (n : Fin 8) (p : Bytes) (q : Fin 72),
      (posted s n 0x0501 p) ∧
      (p.length = 8) ∧
      (byteAt p 0 = 1) ∧
      (byteAt p 1 = q.val) ∧
      (byteAt p 2 = 1) ∧
      (zeroAt p 3 5) ∧
      ((itvPort s q.val).st = .ready) ∧
      (closing s.itv q.val = false) :=
  ⟨post { up with itv.ports := up.itv.ports.set 5 { (up.itv.ports.get 5) with st := .ready } } 1 0x501 [1, 5, 1, 0, 0, 0, 0, 0], 1, [1, 5, 1, 0, 0, 0, 0, 0], 5, by decide, by decide, by decide, by decide, by decide, by decide, by decide, by decide⟩
theorem test_met_resetPortDisable :
    ∃ (s : State) (n : Fin 8) (p : Bytes) (q : Fin 72),
      (posted s n 0x0501 p) ∧
      (p.length = 8) ∧
      (byteAt p 0 = 1) ∧
      (byteAt p 1 = q.val) ∧
      (byteAt p 2 = 1) ∧
      (zeroAt p 3 5) ∧
      ((itvPort s q.val).st ≠ .ready) ∧
      (closing s.itv q.val = false) :=
  ⟨post up 1 0x501 [1, 5, 1, 0, 0, 0, 0, 0], 1, [1, 5, 1, 0, 0, 0, 0, 0], 5, by decide, by decide, by decide, by decide, by decide, by decide, by decide, by decide⟩
theorem test_met_resetPortEnable :
    ∃ (s : State) (n : Fin 8) (p : Bytes) (q : Fin 72),
      (posted s n 0x0501 p) ∧
      (p.length = 8) ∧
      (byteAt p 0 = 1) ∧
      (byteAt p 1 = q.val) ∧
      (byteAt p 2 = 2) ∧
      (zeroAt p 3 5) ∧
      ((itvPort s q.val).enabled = false) :=
  ⟨post { up with itv.ports := up.itv.ports.set 5 { (up.itv.ports.get 5) with enabled := false } } 1 0x501 [1, 5, 2, 0, 0, 0, 0, 0], 1, [1, 5, 2, 0, 0, 0, 0, 0], 5, by decide, by decide, by decide, by decide, by decide, by decide, by decide⟩
theorem test_met_resetPortEnabled :
    ∃ (s : State) (n : Fin 8) (p : Bytes) (q : Fin 72),
      (posted s n 0x0501 p) ∧
      (p.length = 8) ∧
      (byteAt p 0 = 1) ∧
      (byteAt p 1 = q.val) ∧
      (byteAt p 2 = 2) ∧
      (zeroAt p 3 5) ∧
      ((itvPort s q.val).enabled = true) :=
  ⟨post up 1 0x501 [1, 5, 2, 0, 0, 0, 0, 0], 1, [1, 5, 2, 0, 0, 0, 0, 0], 5, by decide, by decide, by decide, by decide, by decide, by decide, by decide⟩
theorem test_met_resetCluster :
    ∃ (s : State) (n : Fin 8) (p : Bytes),
      (posted s n 0x0501 p) ∧
      (p.length = 8) ∧
      (byteAt p 0 = 2) ∧
      (byteAt p 1 < 18) ∧
      (byteAt p 2 = 0) ∧
      (zeroAt p 3 5) ∧
      (s.itv.coll.resetting.getLsbD (byteAt p 1) = false) :=
  ⟨post up 1 0x501 [2, 5, 0, 0, 0, 0, 0, 0], 1, [2, 5, 0, 0, 0, 0, 0, 0], by decide, by decide, by decide, by decide, by decide, by decide, by decide⟩
theorem test_met_resetCore :
    ∃ (s : State) (n : Fin 8) (p : Bytes),
      (posted s n 0x0501 p) ∧
      (p.length = 8) ∧
      (byteAt p 0 = 3) ∧
      (byteAt p 1 < 2) ∧
      (byteAt p 2 = 0) ∧
      (zeroAt p 3 5) :=
  ⟨post up 1 0x501 [3, 1, 0, 0, 0, 0, 0, 0], 1, [3, 1, 0, 0, 0, 0, 0, 0], by decide, by decide, by decide, by decide, by decide, by decide⟩
theorem test_met_resetPartition :
    ∃ (s : State) (n : Fin 8) (p : Bytes),
      (posted s n 0x0501 p) ∧
      (p.length = 8) ∧
      (byteAt p 0 = 4) ∧
      (byteAt p 1 < 16) ∧
      (byteAt p 2 = 0) ∧
      (zeroAt p 3 5) ∧
      (partExists s.itv (byteAt p 1) = true) ∧
      (s.itv.sec.strikes.any (fun x => x.part == byteAt p 1) = false) :=
  ⟨post up 1 0x501 [4, 0, 0, 0, 0, 0, 0, 0], 1, [4, 0, 0, 0, 0, 0, 0, 0], by decide, by decide, by decide, by decide, by decide, by decide, by decide, by decide⟩
theorem test_met_resetWholeChip :
    ∃ (s : State) (n : Fin 8) (p : Bytes),
      (posted s n 0x0501 p) ∧
      (p.length = 8) ∧
      (byteAt p 0 = 5) ∧
      (byteAt p 1 = 0) ∧
      (byteAt p 2 = 0) ∧
      (zeroAt p 3 5) :=
  ⟨post up 1 0x501 (5 :: zeros 7), 1, 5 :: zeros 7, by decide, by decide, by decide, by decide, by decide, by decide⟩

/-! FirmwareLicenceAndAttestationCommandsTakeEffect -/

theorem test_met_scriptStage (hs : imageSigned tinyImage = true) :
    ∃ (s : State) (n : Fin 8) (p d : Bytes),
      (posted s n 0x0601 p) ∧
      (p.length = 24) ∧
      (byteAt p 0 ≤ 1) ∧
      (byteAt p 0 ≠ s.itv.boot.slot) ∧
      (byteAt p 1 = 0) ∧
      (zeroAt p 2 2) ∧
      (hostRefCheck p 8 0 = none) ∧
      (s.itv.cb.busMaster = true) ∧
      (imageRefused s.itv (pad (hostRef p 8).len d) 0 = none) ∧
      (s.itv.boot.bowPending = false) ∧
      (s.itv.relay.sending = none) ∧
      (s.itv.relay.receiving = false) ∧
      (s.itv.relay.staging = none) :=
  ⟨post up 1 0x601 stagePayload, 1, stagePayload, tinyImage, by decide, by decide, by decide, by decide, by decide, by decide, by decide, by decide, by exact tiny_good hs, by decide, by decide, by decide, by decide⟩
theorem test_met_scriptSwitchStaged :
    ∃ (s : State) (n : Fin 8) (p : Bytes),
      (posted s n 0x0602 p) ∧
      (p.length = 8) ∧
      (byteAt p 0 ≤ 1) ∧
      (zeroAt p 1 7) ∧
      (s.itv.flash.trialSlot = none) ∧
      ((getImg s.itv.flash (byteAt p 0)).st = .staged) ∧
      ((getImg s.itv.flash (byteAt p 0)).configOldest ≤ s.itv.flash.store.format) :=
  ⟨post { up with itv.flash.img1 := { st := .staged } } 1 0x602 (1 :: zeros 7), 1, 1 :: zeros 7, by decide, by decide, by decide, by decide, by decide, by decide, by decide⟩
theorem test_met_scriptSwitch :
    ∃ (s : State) (n : Fin 8) (p : Bytes),
      (posted s n 0x0602 p) ∧
      (p.length = 8) ∧
      (byteAt p 0 ≤ 1) ∧
      (zeroAt p 1 7) ∧
      ((getImg s.itv.flash (byteAt p 0)).st = .active) :=
  ⟨post { up with itv.flash.img1 := { st := .active } } 1 0x602 (1 :: zeros 7), 1, 1 :: zeros 7, by decide, by decide, by decide, by decide, by decide⟩
theorem test_met_scriptBow :
    ∃ (s : State) (n : Fin 8) (t : Nat),
      (posted s n 0x0603 []) ∧
      (s.itv.flash.trialSlot = some t) ∧
      (s.itv.boot.bowPending = true) ∧
      (s.itv.boot.watchdogStopped = none) :=
  ⟨post { up with itv.flash.trialSlot := some 1, itv.boot.bowPending := true } 1 0x603 [], 1, 1, by decide, by decide, by decide, by decide⟩
theorem test_met_licenceApply (hv : Config.ecdsaVerify Config.licenceKey ((slice licPayload 16 136).take 40) (slice (slice licPayload 16 136) 40 96) = true) :
    ∃ (s : State) (n : Fin 8) (p : Bytes),
      (posted s n 0x0701 p) ∧
      (p.length = 152) ∧
      (natAt p 0 2 = 136) ∧
      (zeroAt p 2 14) ∧
      (natAt p 16 4 = 0x4E43494C) ∧
      (natAt p 20 2 = 1) ∧
      (1 ≤ byteAt p 22 ∧ byteAt p 22 ≤ 3) ∧
      (zeroAt p 23 1) ∧
      (zeroAt p 36 4) ∧
      (zeroAt p 48 8) ∧
      (Config.ecdsaVerify Config.licenceKey ((slice p 16 136).take 40) (slice (slice p 16 136) 40 96) = true) ∧
      (natAt (slice p 16 136) 8 8 = s.itv.fuse.serial.toNat) ∧
      (kget s.itv.flash.licences (byteAt p 22) = none) :=
  ⟨post up 1 0x701 licPayload, 1, licPayload, by decide, by decide, by decide, by decide, by decide, by decide, by decide, by decide, by decide, by decide, by exact hv, by decide, by decide⟩
theorem test_met_attestFetch (hc : Config.certChain.length ≤ 8192) :
    ∃ (s : State) (n : Fin 8) (p : Bytes),
      (posted s n 0x0702 p) ∧
      (p.length = 48) ∧
      (hostRefCheck p 32 1 = none) ∧
      (s.itv.cb.busMaster = true) ∧
      ((attestReport (taken s n).itv (p.take 32) (freeDigest (taken s n)).2).length ≤ (hostRef p 32).len) :=
  ⟨post up 1 0x702 attPayload, 1, attPayload, by decide, by decide, by decide, by decide, by exact att_fits hc⟩

/-! CallboardHardwareAnswersWithoutYalny -/

theorem test_met_unknownCommand :
    ∃ (s : State) (n : Fin 8),
      (waitsIn s n.val = true) ∧
      (accepting s = true) ∧
      (rowOf (getSlot s n.val).code.toNat = none) :=
  ⟨post up 3 0x777 [], 3, by decide, by decide, by decide⟩
theorem test_met_hwAnswerBusy :
    ∃ (s : State) (n : Fin 8),
      (waitsIn s n.val = true) ∧
      (s.itv.boot.mode = .switching ∨ (s.itv.boot.mode = .starting ∧ s.itv.boot.yalny = false)) :=
  ⟨post State.reset 3 1 [], 3, by decide, by decide⟩
theorem test_met_hwAnswerDenied :
    ∃ (s : State) (n : Fin 8),
      (waitsIn s n.val = true) ∧
      (s.itv.boot.mode = .greenroom) ∧
      (greenAllowed s n.val = false) :=
  ⟨post { State.reset with itv.boot.mode := .greenroom } 3 1 [], 3, by decide, by decide, by decide⟩
theorem test_met_commandTimeout :
    ∃ (s : State) (n : Fin 8) (applied : Bool) (t : Nat) (row : CmdRow),
      ((getSlot s n.val).running = some t) ∧
      (rowOf (getSlot s n.val).code.toNat = some row) ∧
      (t + row.bound * 1000000 ≤ s.now) :=
  ⟨{ taken (post up 3 1 []) 3 with now := 1000000 }, 3, true, 0, ⟨1, 0, 0, 1⟩, by decide, by decide, by decide⟩

/-! InterruptMirrorAndCxlRowsTakeEffect -/

theorem test_met_eventCauseWrite :
    ∃ (s : State) (v : Word),
      (s.itv.cb.eventCause &&& ~~~ (v.setWidth 8) ≠ 0 ∨ s.itv.cb.eventCause = 0) :=
  ⟨{ up with itv.cb.eventCause := 3 }, 1, by decide⟩
theorem test_met_eventCauseWriteLast :
    ∃ (s : State) (v : Word),
      (s.itv.cb.eventCause &&& ~~~ (v.setWidth 8) = 0) ∧
      (s.itv.cb.eventCause ≠ 0) :=
  ⟨{ up with itv.cb.eventCause := 3 }, 3, by decide, by decide⟩
theorem test_met_msixUnmaskSends :
    ∃ (s : State) (v : Fin 16),
      (s.itv.cb.pba.getLsbD v.val = true) ∧
      (s.itv.cb.cxlUp = true) ∧
      (s.itv.cb.busMaster = true) :=
  ⟨{ up with itv.cb.pba := 1, itv.cb.cxlUp := true }, 0, by decide, by decide, by decide⟩
theorem test_met_msixUnmask :
    ∃ (s : State) (v : Fin 16),
      (s.itv.cb.pba.getLsbD v.val = false) :=
  ⟨up, 0, by decide⟩
theorem test_met_mirrorRefresh :
    ∃ (s : State),
      (s.itv.boot.yalny = true) :=
  ⟨up, by decide⟩
theorem test_met_cxlLinkUp :
    ∃ (s : State) (rate width : Nat),
      (s.itv.cb.pba = 0) :=
  ⟨up, 5, 16, by decide⟩
theorem test_met_writeSlotSeq :
    ∃ (s : State) (n : Fin 8) (v : Word),
      ((getSlot s n.val).own = false) :=
  ⟨up, 3, 7, by decide⟩
theorem test_met_writeSlotOwned :
    ∃ (s : State) (n : Fin 8) (off : Nat) (v : Word),
      (off < 0x1000) ∧
      ((getSlot s n.val).own = true) :=
  ⟨post up 3 1 [], 3, 8, 7, by decide, by decide⟩

/-! CxlWindowAccessesReadAndWriteThePool -/

theorem test_met_cxlMemRead :
    ∃ (s : State) (o : Nat) (k : Carve) (a : Nat) (d : Bytes),
      (windowOpen s = true) ∧
      (windowAt s.itv (o / 64 * 64) = some (k, a)) ∧
      (windowOk s.itv k = true) ∧
      (blockRead (touch s a 64).itv k.part (a / 64) = .ok d) :=
  ⟨windowed, 64, aCarve, 64, zeros 64, by decide, by decide, by decide, by decide⟩
theorem test_met_cxlMemReadUnmapped :
    ∃ (s : State) (o : Nat) (hw : HomeHw),
      (windowOpen s = true) ∧
      (windowAt s.itv (o / 64 * 64) = none) :=
  ⟨{ windowed with itv.pool.window := none }, 64, .ok, by decide, by decide⟩
theorem test_met_cxlMemReadNokey :
    ∃ (s : State) (o : Nat) (hw : HomeHw) (k : Carve) (a : Nat),
      (windowOpen s = true) ∧
      (windowAt s.itv (o / 64 * 64) = some (k, a)) ∧
      (windowOk s.itv k = false) :=
  ⟨{ windowed with itv.sec.parts := 4 }, 64, .ok, aCarve, 64, by decide, by decide, by decide⟩
theorem test_met_cxlMemReadLost :
    ∃ (s : State) (o : Nat) (k : Carve) (a : Nat),
      (windowOpen s = true) ∧
      (windowAt s.itv (o / 64 * 64) = some (k, a)) ∧
      (windowOk s.itv k = true) :=
  ⟨windowed, 64, aCarve, 64, by decide, by decide, by decide⟩
theorem test_met_cxlMemWrite :
    ∃ (s : State) (o : Nat) (d : Bytes) (k : Carve) (a : Nat) (v : Itvos) (old : Bytes),
      (windowOpen s = true) ∧
      (windowAt s.itv (o / 64 * 64) = some (k, a)) ∧
      (windowOk s.itv k = true) ∧
      (poolWrite (touch s a 64).itv k.part a (pad 64 d) (fullMask 64) = (v, .ok old)) :=
  ⟨windowed, 64, zeros 64, aCarve, 64, (poolWrite (touch windowed 64 64).itv 0 64 (pad 64 (zeros 64)) (fullMask 64)).1, [], by decide +kernel, by decide +kernel, by decide +kernel, by decide +kernel⟩
theorem test_met_cxlMemWriteUnmapped :
    ∃ (s : State) (o : Nat) (d : Bytes),
      (windowOpen s = true) ∧
      (windowAt s.itv (o / 64 * 64) = none) :=
  ⟨{ windowed with itv.pool.window := none }, 64, [], by decide, by decide⟩
theorem test_met_cxlMemWriteNokey :
    ∃ (s : State) (o : Nat) (d : Bytes) (k : Carve) (a : Nat),
      (windowOpen s = true) ∧
      (windowAt s.itv (o / 64 * 64) = some (k, a)) ∧
      (windowOk s.itv k = false) :=
  ⟨{ windowed with itv.sec.parts := 4 }, 64, [], aCarve, 64, by decide, by decide, by decide⟩

/-! BelugRegistersTakeWrites -/

theorem test_met_intCauseWrite :
    ∃ (s : State) (v : Word),
      (s.blg.cause &&& s.blg.mask = 0 ∨ s.blg.cause &&& ~~~(v.setWidth 8) &&& s.blg.mask ≠ 0) :=
  ⟨{ up with blg.cause := 1 }, 1, by decide⟩
theorem test_met_intCauseWriteLast :
    ∃ (s : State) (v : Word),
      (s.blg.cause &&& s.blg.mask ≠ 0) ∧
      (s.blg.cause &&& ~~~(v.setWidth 8) &&& s.blg.mask = 0) :=
  ⟨{ up with blg.cause := 1, blg.mask := 1 }, 1, by decide, by decide⟩
theorem test_met_vcWeightWrite :
    ∃ (s : State) (v : Word),
      ((vcWeights v).sum = 64) ∧
      (0 ∉ vcWeights v) :=
  ⟨up, 0x0A090909090909, by decide, by decide⟩
theorem test_met_vcWeightRefused :
    ∃ (s : State) (v : Word),
      ((vcWeights v).sum ≠ 64 ∨ 0 ∈ vcWeights v) :=
  ⟨up, 1, by decide⟩
theorem test_met_belugReset :
    ∃ (s : State),
      (s.blg.cause &&& s.blg.mask = 0) :=
  ⟨up, by decide⟩
theorem test_met_belugResetAlert :
    ∃ (s : State),
      (s.blg.cause &&& s.blg.mask ≠ 0) :=
  ⟨{ up with blg.cause := 1, blg.mask := 1 }, by decide⟩
theorem test_met_belugStartWaitEnd :
    ∃ (s : State),
      (s.blg.startWait = true) ∧
      (s.blg.resetAt + 250000000 ≤ s.now) :=
  ⟨{ up with now := 250000000, blg.startWait := true }, by decide, by decide⟩
theorem test_met_writeCfg :
    ∃ (s : State) (ch : Fin 24) (tag : BitVec 16) (a : Nat) (v : Word),
      ((getCh s ch.val).up = true) ∧
      (a % 8 = 0) ∧
      (a < 0x10000) ∧
      (tag.toNat < 4096) ∧
      (a ≠ 0x128) :=
  ⟨{ up with blg.channels := up.blg.channels.set 2 { (up.blg.channels.get 2) with up := true } }, 2, 5, 0x108, 1, by decide, by decide, by decide, by decide, by decide⟩

/-! RehearsalGoesThroughItsStates -/

theorem test_met_portRetry :
    ∃ (s : State) (r : PortRef),
      ((getPort s r).st = .dark ∨ (getPort s r).st = .down) ∧
      ((getPort s r).enabled = true) ∧
      (mayRehearse s r = true) ∧
      (refDead s (refSide r) = false) ∧
      ((getPort s r).since + (getPort s r).waitMs * 1000000 ≤ s.now) :=
  ⟨{ up with itv.boot.held := false, itv.boot.started := true }, .itv 3, by decide, by decide, by decide, by decide, by decide⟩
theorem test_met_detectFacing :
    ∃ (s : State) (r : PortRef) (short : BitVec 9),
      ((getPort s r).st = .detect) :=
  ⟨atSt (.itv 3) .detect, .itv 3, 0, by decide⟩
theorem test_met_detect :
    ∃ (s : State) (r : PortRef) (o : DetectObs),
      ((getPort s r).st = .detect) ∧
      (o.term ≠ 0 ∨ o.signal = true) :=
  ⟨atSt (.itv 3) .detect, .itv 3, ⟨0, 0x1FF, true⟩, by decide, by decide⟩
theorem test_met_clock :
    ∃ (s : State) (r : PortRef),
      ((getPort s r).st = .clock) ∧
      ((getPort s r).clkTx ≠ 3) :=
  ⟨atSt (.itv 3) .clock, .itv 3, by decide, by decide⟩
theorem test_met_clockNone :
    ∃ (s : State) (r : PortRef) (tx : Bool),
      ((getPort s r).st = .clock) :=
  ⟨atSt (.itv 3) .clock, .itv 3, true, by decide⟩
theorem test_met_align :
    ∃ (s : State) (r : PortRef) (o : AlignObs),
      ((getPort s r).st = .align) ∧
      (((seenLanes o.order).all (fun x => x.2 == x.1) || (seenLanes o.order).all (fun x => x.2 == 7 - x.1)) = true) :=
  ⟨atSt (.itv 3) .align, .itv 3, ⟨(List.range 8).map some, 0, []⟩, by decide, by decide⟩
theorem test_met_alignOrder :
    ∃ (s : State) (r : PortRef) (o : AlignObs),
      ((getPort s r).st = .align) ∧
      ((seenLanes o.order).all (fun x => x.2 == x.1) = false) ∧
      ((seenLanes o.order).all (fun x => x.2 == 7 - x.1) = false) :=
  ⟨atSt (.itv 3) .align, .itv 3, ⟨[some 1, some 0], 0, []⟩, by decide, by decide, by decide⟩
theorem test_met_offerFrame :
    ∃ (s : State) (r : PortRef) (b : Bytes),
      (b.length = 64) ∧
      ((getPort s r).st = .offer ∨ (getPort s r).st = .names ∨ (getPort s r).st = .held) ∧
      (offerGood b = true) ∧
      (b ≠ (getPort s r).heard ∨ (getPort s r).copies + 1 ≠ 8) :=
  ⟨atSt (.itv 3) .offer, .itv 3, goodFrame, by decide, by decide, by decide +kernel, by decide⟩
theorem test_met_offerFrameEighth :
    ∃ (s : State) (r : PortRef) (b : Bytes),
      (b.length = 64) ∧
      ((getPort s r).st = .offer ∨ (getPort s r).st = .names ∨ (getPort s r).st = .held) ∧
      (offerGood b = true) ∧
      (b = (getPort s r).heard) ∧
      ((getPort s r).copies = 7) :=
  ⟨modPort (atSt (.itv 3) .offer) (.itv 3) (fun p => { p with heard := goodFrame, copies := 7 }), .itv 3, goodFrame, by decide, by decide, by decide +kernel, by rfl, by decide⟩
theorem test_met_offerFrameBad :
    ∃ (s : State) (r : PortRef) (b : Bytes),
      (b.length = 64) ∧
      ((getPort s r).st = .offer ∨ (getPort s r).st = .names ∨ (getPort s r).st = .held) ∧
      (offerGood b = false) :=
  ⟨atSt (.itv 3) .offer, .itv 3, zeros 64, by decide, by decide, by decide⟩
theorem test_met_namesPass :
    ∃ (s : State) (i : Fin 72) (o : Offer),
      ((getPort s (.itv i)).partner = some o) ∧
      ((getPort s (.itv i)).st = .names) ∧
      ((getPort s (.itv i)).verdict = 0) ∧
      (itvMatches s.itv i.val o = true) :=
  ⟨named, 3, aPartner, by decide, by decide, by decide, by decide⟩
theorem test_met_namesHeld :
    ∃ (s : State) (i : Fin 72) (o : Offer),
      ((getPort s (.itv i)).partner = some o) ∧
      ((getPort s (.itv i)).st = .names) ∧
      ((getPort s (.itv i)).verdict = 0) ∧
      (itvMatches s.itv i.val o = false) :=
  ⟨{ named with itv.routing.chart := none }, 3, aPartner, by decide, by decide, by decide, by decide⟩
theorem test_met_namesBelugFirst :
    ∃ (s : State) (i : Fin 24) (o : Offer),
      ((getPort s (.blg i)).partner = some o) ∧
      ((getPort s (.blg i)).st = .names) ∧
      ((getPort s (.blg i)).verdict = 0) ∧
      (blgMatches i.val o = true) ∧
      (s.blg.planes = none) :=
  ⟨modPort up (.blg 3) (fun p => { p with st := .names, partner := some { part := 1, ownId := 6144, planes := 24 } }), 3, { part := 1, ownId := 6144, planes := 24 }, by decide, by decide, by decide, by decide, by decide⟩
theorem test_met_shift :
    ∃ (s : State) (r : PortRef),
      ((getPort s r).st = .shift) :=
  ⟨atSt (.itv 3) .shift, .itv 3, by decide⟩

/-! IllFormedArrivalsFault -/

theorem test_met_offerFrameFaults :
    ∃ (s : State) (r : PortRef) (b : Bytes),
      (b.length ≠ 64) :=
  ⟨up, .itv 3, [], by decide⟩
theorem test_met_flitArrivalFaults :
    ∃ (s : State) (r : PortRef) (raw : Bytes),
      (raw.length ≠ 256) :=
  ⟨up, .itv 3, [], by decide⟩

/-! TuningDressAndServiceOfAPort -/

theorem test_met_tapRequest :
    ∃ (s : State) (r : PortRef) (l : Fin 9) (pre mid post : BitVec 2),
      ((getPort s r).st = .tune) :=
  ⟨atSt (.itv 3) .tune, .itv 3, 0, 1, 0, 2, by decide⟩
theorem test_met_tapStays :
    ∃ (v lim start : Nat) (req : BitVec 2),
      (v ≤ lim) ∧
      (start ≤ lim) :=
  ⟨4, 16, 4, 1, by decide, by decide⟩
theorem test_met_tuneDone :
    ∃ (s : State) (r : PortRef),
      ((getPort s r).st = .tune) :=
  ⟨atSt (.itv 3) .tune, .itv 3, by decide⟩
theorem test_met_tuneTimeout :
    ∃ (s : State) (r : PortRef),
      ((getPort s r).st = .tune) ∧
      ((getPort s r).since + 20000000 ≤ s.now) :=
  ⟨{ atSt (.itv 3) .tune with now := 20000000 }, .itv 3, by decide, by decide⟩
theorem test_met_dressPasses :
    ∃ (s : State) (r : PortRef) (own other : DressObs),
      ((getPort s r).st = .dress) ∧
      (dressPass (getPort s r).dressLog2 own = true) ∧
      (dressPass (getPort s r).dressLog2 other = true) :=
  ⟨atSt (.itv 3) .dress, .itv 3, ⟨0, 512, []⟩, ⟨0, 0, []⟩, by decide, by decide, by decide⟩
theorem test_met_dressFallsBack :
    ∃ (s : State) (r : PortRef) (own other : DressObs) (k : Nat),
      ((getPort s r).st = .dress) ∧
      (dressPass (getPort s r).dressLog2 own = false) ∧
      (fallbackLane ((getPort s r).modeRx.getD 11) own = none) ∧
      (dressPass (getPort s r).dressLog2 other = true) ∧
      (nextRate (getPort s r) (ownOffer s r) = some k) :=
  ⟨modPort (atSt (.itv 3) .dress) (.itv 3) (fun p => { p with modeTx := some 0, modeRx := some 0 }), .itv 3, ⟨1, 0, []⟩, ⟨0, 0, []⟩, 1, by decide, by decide, by decide, by decide, by decide⟩
theorem test_met_dressFails :
    ∃ (s : State) (r : PortRef) (own other : DressObs),
      ((getPort s r).st = .dress) ∧
      (dressPass (getPort s r).dressLog2 own = false) ∧
      (fallbackLane ((getPort s r).modeRx.getD 11) own = none) ∧
      (dressPass (getPort s r).dressLog2 other = true) ∧
      (nextRate (getPort s r) (ownOffer s r) = none) :=
  ⟨modPort (atSt (.itv 3) .dress) (.itv 3) (fun p => { p with modeTx := some 11, modeRx := some 11 }), .itv 3, ⟨1, 0, []⟩, ⟨0, 0, []⟩, by decide, by decide, by decide, by decide, by decide⟩
theorem test_met_rehearsalTimeout :
    ∃ (s : State) (r : PortRef) (t : Nat),
      (stateTimeout (getPort s r) = some t) ∧
      ((getPort s r).since + t ≤ s.now) :=
  ⟨{ atSt (.itv 3) .detect with now := 100000 }, .itv 3, 100000, by decide, by decide⟩
theorem test_met_runningMonitorLane :
    ∃ (s : State) (r : PortRef) (o : DressObs) (l : Nat),
      ((getPort s r).st = .ready) ∧
      (64 < o.crcFails) ∧
      (fallbackLane ((getPort s r).modeRx.getD 11) o = some l) :=
  ⟨modPort (atSt (.itv 3) .ready) (.itv 3) (fun p => { p with modeTx := some 0, modeRx := some 0 }), .itv 3, ⟨65, 0, [0, 4, 1]⟩, 1, by decide, by decide, by decide⟩
theorem test_met_runningMonitorRate :
    ∃ (s : State) (r : PortRef) (o : DressObs) (k : Nat),
      ((getPort s r).st = .ready) ∧
      (64 < o.crcFails) ∧
      (fallbackLane ((getPort s r).modeRx.getD 11) o = none) ∧
      (nextRate (getPort s r) (ownOffer s r) = some k) :=
  ⟨modPort (atSt (.itv 3) .ready) (.itv 3) (fun p => { p with modeTx := some 0, modeRx := some 0 }), .itv 3, ⟨65, 0, []⟩, 1, by decide, by decide, by decide, by decide⟩
theorem test_met_phaseRecentre :
    ∃ (s : State) (r : PortRef) (xs : List Int),
      ((getPort s r).st = .ready) :=
  ⟨atSt (.itv 3) .ready, .itv 3, [1, -1], by decide⟩
theorem test_met_shortProbe :
    ∃ (s : State) (r : PortRef) (l : Fin 9),
      ((getPort s r).shorted.getLsbD l.val = true) :=
  ⟨modPort up (.itv 3) (fun p => { p with shorted := 4 }), .itv 3, 2, by decide⟩
theorem test_met_clockLossReady :
    ∃ (s : State) (r : PortRef),
      ((getPort s r).st = .ready) ∧
      ((getPort s r).clockLost = false) ∧
      ((getPort (bumpPort s r .clockDiscard 1) r) = getPort s r) ∧
      ((getPort s r).standin = false) :=
  ⟨atSt (.itv 3) .ready, .itv 3, by decide, by decide, by decide, by decide⟩
theorem test_met_clockLossStandin :
    ∃ (s : State) (r : PortRef),
      ((getPort s r).st = .ready) ∧
      ((getPort s r).clockLost = false) ∧
      ((getPort s r).standin = true) :=
  ⟨modPort (atSt (.itv 3) .ready) (.itv 3) (fun p => { p with standin := true }), .itv 3, by decide, by decide, by decide⟩
theorem test_met_standinTimeout :
    ∃ (s : State) (r : PortRef),
      ((getPort s r).st = .ready) ∧
      ((getPort s r).clockLost = true) ∧
      ((getPort s r).lostAt + 100000 ≤ s.now) :=
  ⟨{ modPort (atSt (.itv 3) .ready) (.itv 3) (fun p => { p with clockLost := true }) with now := 100000 }, .itv 3, by decide, by decide, by decide⟩

/-! ReferenceClocksSwitchAndHoldOver -/

theorem test_met_refclkLossOne :
    ∃ (s : State),
      (s.blg.lostA = false) ∧
      (s.blg.lostB = false) ∧
      (s.blg.useB = false) :=
  ⟨up, by decide, by decide, by decide⟩
theorem test_met_refclkLossBoth :
    ∃ (s : State),
      (s.blg.lostA = true) ∧
      (s.blg.lostB = false) ∧
      (s.blg.bothLost = none) :=
  ⟨{ up with blg.lostA := true, blg.useB := true }, by decide, by decide, by decide⟩
theorem test_met_refclkLossItvos :
    ∃ (s : State),
      (s.itv.boot.lostA = false) ∧
      (s.itv.boot.lostB = false) :=
  ⟨up, by decide, by decide⟩
theorem test_met_refclkHoldoverEnd :
    ∃ (s : State) (d : Side) (t : Nat),
      ((getRef s d).2.2.2 = some t) ∧
      (t + 100000 ≤ s.now) :=
  ⟨{ up with blg.bothLost := some 0, now := 100000 }, .blg, 0, by decide, by decide⟩
theorem test_met_refclkReturnOne :
    ∃ (s : State),
      (s.blg.bothLost = none) :=
  ⟨{ up with blg.lostA := true }, by decide⟩
theorem test_met_refclkReturnBoth :
    ∃ (s : State) (t : Nat),
      (s.blg.bothLost = some t) :=
  ⟨{ up with blg.lostA := true, blg.lostB := true, blg.bothLost := some 0 }, 0, by decide⟩

/-! FlitArrivalsAreCorrectedCheckedAndLand -/

theorem test_met_flitArrivalLost :
    ∃ (s : State) (r : PortRef) (raw : Bytes),
      (raw.length = 256) ∧
      ((getPort s r).st = .ready) ∧
      ((getPort s r).clockLost = false) ∧
      (flitReceive (bypassOn (getPort s r)) raw = none) :=
  ⟨atSt (.itv 3) .ready, .itv 3, List.replicate 256 1, by decide +kernel, by decide +kernel, by decide +kernel, by decide +kernel⟩
theorem test_met_flitArrival :
    ∃ (s : State) (r : PortRef) (raw bytes : Bytes) (fixed three : Nat),
      (raw.length = 256) ∧
      ((getPort s r).st = .ready) ∧
      ((getPort s r).clockLost = false) ∧
      (flitReceive (bypassOn (getPort s r)) raw = some (bytes, fixed, three)) :=
  ⟨atSt (.itv 3) .ready, .itv 3, flitWire {}, (flitWire {}).take 240, 0, 0, by decide +kernel, by decide +kernel, by decide +kernel, by decide +kernel⟩
theorem test_met_arriveLinkCtl :
    ∃ (s : State) (r : PortRef) (f : Flit),
      (f.kind = Kind.linkCtl) ∧
      (f.e2e = 0 ∧ f.crv = 0 ∧ f.crn = 0) :=
  ⟨up, .itv 3, { kind := Kind.linkCtl }, by decide, by decide⟩
theorem test_met_arriveReserved :
    ∃ (s : State) (r : PortRef) (f : Flit) (mbz : Nat),
      (f.kind ≠ Kind.linkCtl) ∧
      (vcOf f.kind = none) :=
  ⟨up, .itv 3, { kind := 31 }, 0, by decide, by decide⟩
theorem test_met_landBelug :
    ∃ (s : State) (n : Fin 24) (f : Flit),
      ((blgPort s n.val).landing.countP (fun l => l.flit.vc == f.vc) < (getPort s (.blg n)).cred) ∧
      (f.cm = false) :=
  ⟨modPort up (.blg 3) (fun p => { p with cred := 64 }), 3, {}, by decide, by decide⟩
theorem test_met_landOverrun :
    ∃ (s : State) (r : PortRef) (f : Flit),
      ((getPort s r).cred = 0) :=
  ⟨modPort up (.itv 3) (fun p => { p with cred := 0 }), .itv 3, {}, by decide⟩

/-! FlitsArePlacedSentAndAged -/

theorem test_met_flitPlaceBelug :
    ∃ (s : State) (p : Fin 24) (i : Nat) (fate : CoreFate) (l : Landed),
      ((s.blg.ports.get p).landing[i]? = some l) ∧
      (l.flit.dk = false) :=
  ⟨modPort up (.blg 3) (fun p => { p with landing := [{ flit := {}, at_ := 0 }] }), 3, 0, .arrives, { flit := {}, at_ := 0 }, by rfl, by rfl⟩
theorem test_met_flitPlaceItvos :
    ∃ (s : State) (p : Fin 72) (i : Nat) (fate : CoreFate) (l : Landed) (t : State),
      ((s.itv.ports.get p).landing[i]? = some l) ∧
      (placeOne s p.val l fate = some (t, none)) :=
  ⟨landedIn, 3, 0, .arrives, { flit := landedFlit, at_ := 0 }, freeLanding (bumpDel landedIn .noRoute) 3 7, by rfl, by exact lost_flit⟩
theorem test_met_flitTransmitCtl :
    ∃ (s : State) (r : PortRef) (c : Nat) (cs : List Nat),
      ((getPort s r).st = .ready) ∧
      ((getPort s r).standin = false) ∧
      ((getPort s r).ctlDue = c :: cs) :=
  ⟨modPort (atSt (.itv 3) .ready) (.itv 3) (fun p => { p with ctlDue := [1] }), .itv 3, 1, [], by decide, by decide, by decide⟩
theorem test_met_flitTransmitVc0 :
    ∃ (s : State) (n : Fin 72) (e : QEntry) (rest : List QEntry),
      ((getPort s (.itv n)).st = .ready) ∧
      ((getPort s (.itv n)).standin = false) ∧
      ((getPort s (.itv n)).ctlDue = []) ∧
      (vc0Ready (.itv n) (getPort s (.itv n)) = true) ∧
      (takeFirst (fun e => e.released && e.flit.vc == 0) (getPort s (.itv n)).outq = some (e, rest)) :=
  ⟨modPort (atSt (.itv 3) .ready) (.itv 3) (fun p => { p with outq := [anOut], retGot := List.replicate 8 5 }), 3, anOut, [], by decide, by decide, by decide, by decide, by decide⟩
theorem test_met_flitTransmitIdle :
    ∃ (s : State) (r : PortRef),
      ((getPort s r).st = .ready) ∧
      ((getPort s r).standin = false) ∧
      ((getPort s r).ctlDue = []) ∧
      ((getPort s r).outq = []) :=
  ⟨atSt (.itv 3) .ready, .itv 3, by decide, by decide, by decide, by decide⟩
theorem test_met_reseqSkip :
    ∃ (s : State) (inp : Nat) (o : Fin 72) (v : Fin 8) (t : Nat),
      ((getStream s (streamKey inp o.val v.val)).holeAt = some t) ∧
      (8 * 256 * 1450 ≤ 7 * (s.now - t) * diePace (s.itv.core.dies.get (if o.val < 36 then 0 else 1))) :=
  ⟨{ up with now := 1000000, itv.core.streams := [(streamKey 1 2 3, { holeAt := some 0 })], itv.core.dies := Vector.replicate 2 { pace := 1450 } }, 1, 2, 3, 0, by decide, by decide⟩
theorem test_met_pathRetire :
    ∃ (s : State) (d : Fin 2) (k : Fin 8),
      (16 < (s.itv.core.dies.get d).drops.countP (fun x => x.1 == k.val && decide (s.now < x.2 + 1000000000))) :=
  ⟨{ up with itv.core.dies := up.itv.core.dies.set 0 { (up.itv.core.dies.get 0) with drops := List.replicate 17 (3, 0) } }, 0, 3, by decide⟩
theorem test_met_paceUpdateDie :
    ∃ (s : State) (d : Fin 2) (rs : List Nat),
      (paceLow s.itv = false) ∧
      (paceLow (modDie s d.val (fun x => { x with monitors := rs, pace := rs.min?.getD 0 })).itv = true) :=
  ⟨fast, 0, [1000, 1300], by decide, by decide⟩
theorem test_met_paceUpdateDieGood :
    ∃ (s : State) (d : Fin 2) (rs : List Nat),
      (paceLow (modDie s d.val (fun x => { x with monitors := rs, pace := rs.min?.getD 0 })).itv = false) :=
  ⟨fast, 0, [1400, 1300], by decide⟩
theorem test_met_flitAgedItvos :
    ∃ (s : State) (p : Fin 72) (i : Nat) (l : Landed),
      ((s.itv.ports.get p).landing[i]? = some l) ∧
      (l.at_ + ageLimit s.itv ≤ s.now) :=
  ⟨{ modPort up (.itv 3) (fun p => { p with landing := [{ flit := {}, at_ := 0 }] }) with now := 1000000000 }, 3, 0, { flit := {}, at_ := 0 }, by decide, by decide⟩
theorem test_met_flitAgedBelug :
    ∃ (s : State) (i : Nat) (f : Flit) (t k : Nat),
      (s.blg.inbox[i]? = some (f, t, k)) ∧
      (t + 50000 ≤ s.now) :=
  ⟨{ up with blg.inbox := [({}, 0, 0)], now := 50000 }, 0, {}, 0, 0, by decide, by decide⟩

/-! LinkControlAndTheTimeTree -/

theorem test_met_linkCtl :
    ∃ (s : State) (n : Fin 24) (f : Flit),
      ((getPort s (.blg n)).st = .ready) ∧
      ((getPort s (.blg n)).clockLost = false) ∧
      (byteAt f.payload 0 = 0) :=
  ⟨atSt (.blg 3) .ready, 3, {}, by decide, by decide, by decide⟩
theorem test_met_linkCtlNotReady :
    ∃ (s : State) (r : PortRef) (f : Flit),
      ((getPort s r).st ≠ .ready) :=
  ⟨up, .itv 3, {}, by decide⟩
theorem test_met_resyncReq :
    ∃ (s : State) (r : PortRef),
      ((getPort s r).st = .ready) :=
  ⟨atSt (.itv 3) .ready, .itv 3, by decide⟩
theorem test_met_resyncRepeat :
    ∃ (s : State) (r : PortRef),
      ((getPort s r).st = .ready) ∧
      ((getPort s r).resyncOut = true) ∧
      (8 * 64 ≤ 7 * (s.now - (getPort s r).resyncAt)) :=
  ⟨{ modPort (atSt (.itv 3) .ready) (.itv 3) (fun p => { p with resyncOut := true }) with now := 74 }, .itv 3, by decide, by decide, by decide⟩
theorem test_met_standinReq :
    ∃ (s : State) (r : PortRef),
      ((getPort s r).st = .ready) ∧
      (standinOf (getPort s r).txUse ≠ 3) :=
  ⟨atSt (.itv 3) .ready, .itv 3, by decide, by decide⟩
theorem test_met_standinReqNone :
    ∃ (s : State) (r : PortRef),
      ((getPort s r).st = .ready) ∧
      (standinOf (getPort s r).txUse = 3) :=
  ⟨modPort (atSt (.itv 3) .ready) (.itv 3) (fun p => { p with txUse := 0x7E }), .itv 3, by decide, by decide⟩
theorem test_met_standinDeskewed :
    ∃ (s : State) (r : PortRef) (lanes : BitVec 8) (m : Nat),
      ((getPort s r).st = .ready) ∧
      ((getPort s r).clockLost = true) ∧
      (modeAt (currentRate (getPort s r)) (usableLanes lanes (getPort s r).rxUse (standinOf (getPort s r).rxUse)) (getPort s r).minMode = some m) :=
  ⟨modPort (atSt (.itv 3) .ready) (.itv 3) (fun p => { p with clockLost := true, modeTx := some 0 }), .itv 3, 0xFF, 1, by decide, by decide, by decide⟩
theorem test_met_alignDone :
    ∃ (s : State) (r : PortRef) (f : Flit) (lanes : BitVec 8) (m : Nat),
      ((getPort s r).st = .ready) ∧
      ((getPort s r).standin = true) ∧
      (modeAt (currentRate (getPort s r)) (usableLanes lanes (getPort s r).txUse (getPort s r).clkTx) (getPort s r).minMode = some m) :=
  ⟨modPort (atSt (.itv 3) .ready) (.itv 3) (fun p => { p with standin := true, modeTx := some 0, clkTx := 1 }), .itv 3, {}, 0xFF, 1, by decide, by decide, by decide⟩
theorem test_met_alignDoneNoMode :
    ∃ (s : State) (r : PortRef) (f : Flit) (lanes : BitVec 8),
      ((getPort s r).st = .ready) ∧
      ((getPort s r).standin = true) ∧
      (modeAt (currentRate (getPort s r)) (usableLanes lanes (getPort s r).txUse (getPort s r).clkTx) (getPort s r).minMode = none) :=
  ⟨modPort (atSt (.itv 3) .ready) (.itv 3) (fun p => { p with standin := true, modeTx := some 0, clkTx := 1, minMode := 0 }), .itv 3, {}, 0xFF, by decide, by decide, by decide⟩
theorem test_met_cueStampTimer :
    ∃ (s : State) (r : PortRef),
      ((getPort s r).st = .ready) ∧
      (8 * 8192 ≤ 7 * (s.now - (getPort s r).ctlAt)) :=
  ⟨{ atSt (.itv 3) .ready with now := 10000 }, .itv 3, by decide, by decide⟩
theorem test_met_parentTimeout :
    ∃ (s : State) (d : Side) (i : Nat),
      ((getCue s d).parent = some i) ∧
      ((match d with
          | .itv => itvPort s i
          | .blg => blgPort s i).echoAt + 100000 ≤ s.now) :=
  ⟨{ up with itv.cue.parent := some 3, now := 100000 }, .itv, 3, by decide, by decide⟩
theorem test_met_rootClaim :
    ∃ (s : State) (t : Nat),
      (s.itv.cue.firstReady = some t) ∧
      (chartedRoot s.itv = true) ∧
      (s.itv.cue.root = false) ∧
      (t + 20000 ≤ s.now) ∧
      (s.itv.ports.toList.any (fun p => p.st == .ready && p.peerLocked && p.peerLevel.isSome) = false) :=
  ⟨{ named with itv.cue.firstReady := some 0, now := 20000 }, 0, by decide, by decide, by decide, by decide, by decide⟩

/-! PoolHomePerformsRequestsOnce -/

theorem test_met_poolLoad :
    ∃ (s : State) (f : Flit) (fresh : Bool) (c : Carve) (d : Bytes),
      (f.kind = Kind.load) ∧
      (f ∈ s.itv.dir.home) ∧
      (poolMeets (fromQueue s f) f fresh c) ∧
      (doorwayOf (arrived (fromQueue s f) .itv f).itv f.offset = none) ∧
      (poolRead (touch (arrived (fromQueue s f) .itv f) f.offset (accessLen f)).itv c.part f.offset (accessLen f) = .ok d) :=
  ⟨homed aLoad, aLoad, true, aCarve, zeros 8, by decide +kernel, by decide +kernel, by decide +kernel, by decide +kernel, by decide +kernel⟩
theorem test_met_poolStore :
    ∃ (s : State) (f : Flit) (c : Carve) (x : Bytes),
      (f.kind = Kind.store) ∧
      (f ∈ s.itv.dir.home) ∧
      (poolMeets (fromQueue s f) f true c) ∧
      (doorwayOf (arrived (fromQueue s f) .itv f).itv f.offset = none) ∧
      ((poolWrite (touch (arrived (fromQueue s f) .itv f) (storeBytes f).1 (storeBytes f).2.1.length).itv c.part (storeBytes f).1
        (storeBytes f).2.1 (storeBytes f).2.2).2 = .ok x) :=
  ⟨homed aStore, aStore, aCarve, [], by decide +kernel, by decide +kernel, by decide +kernel, by decide +kernel, by decide +kernel⟩
theorem test_met_poolStoreAgain :
    ∃ (s : State) (f : Flit) (c : Carve),
      (f.kind = Kind.store) ∧
      (f ∈ s.itv.dir.home) ∧
      (poolMeets (fromQueue s f) f false c) ∧
      (doorwayOf (arrived (fromQueue s f) .itv f).itv f.offset = none) :=
  ⟨{ arrived (homed aStore) .itv aStore with itv.dir.home := [aStore] }, aStore, aCarve, by decide +kernel, by decide +kernel, by decide +kernel, by decide +kernel⟩
theorem test_met_poolAtomic :
    ∃ (s : State) (f : Flit) (c : Carve) (d x : Bytes),
      (f.kind = Kind.atomic) ∧
      (f ∈ s.itv.dir.home) ∧
      (poolMeets (fromQueue s f) f true c) ∧
      (doorwayOf (arrived (fromQueue s f) .itv f).itv f.offset = none) ∧
      (atomicOk f.aop (accessLen f) f.offset = true) ∧
      (poolRead (touch (arrived (fromQueue s f) .itv f) f.offset (accessLen f)).itv c.part f.offset (accessLen f) = .ok d) ∧
      (f.aop ≠ 0x02 ∨ leNat d = f.opB % 2 ^ (8 * accessLen f)) ∧
      ((poolWrite (touch (arrived (fromQueue s f) .itv f) f.offset (accessLen f)).itv c.part f.offset
        (leBytes (accessLen f) (atomicNew f.aop (accessLen f) (leNat d) (f.opA % 2 ^ (8 * accessLen f)) (f.opB % 2 ^ (8 * accessLen f))))
        (fullMask (accessLen f))).2 = .ok x) :=
  ⟨homed anAtomic, anAtomic, aCarve, zeros 8, [], by decide +kernel, by decide +kernel, by decide +kernel, by decide +kernel, by decide +kernel, by decide +kernel, by decide +kernel, by decide +kernel⟩
theorem test_met_poolCasFails :
    ∃ (s : State) (f : Flit) (c : Carve) (d : Bytes),
      (f.kind = Kind.atomic) ∧
      (f ∈ s.itv.dir.home) ∧
      (poolMeets (fromQueue s f) f true c) ∧
      (doorwayOf (arrived (fromQueue s f) .itv f).itv f.offset = none) ∧
      (atomicOk f.aop (accessLen f) f.offset = true) ∧
      (poolRead (touch (arrived (fromQueue s f) .itv f) f.offset (accessLen f)).itv c.part f.offset (accessLen f) = .ok d) ∧
      (f.aop = 0x02) ∧
      (leNat d ≠ f.opB % 2 ^ (8 * accessLen f)) :=
  ⟨homed aCas, aCas, aCarve, zeros 8, by decide +kernel, by decide +kernel, by decide +kernel, by decide +kernel, by decide +kernel, by decide +kernel, by decide +kernel, by decide +kernel⟩
theorem test_met_poolRmem :
    ∃ (s : State) (f : Flit) (c : Carve) (d x : Bytes),
      (f.kind = Kind.rmem) ∧
      (f ∈ s.itv.dir.home) ∧
      (poolMeets (fromQueue s f) f true c) ∧
      (doorwayOf (arrived (fromQueue s f) .itv f).itv f.offset = none) ∧
      (rmemOk f = true) ∧
      (poolRead (touch (arrived (fromQueue s f) .itv f) f.offset (accessLen f)).itv c.part f.offset (accessLen f) = .ok d) ∧
      ((poolWrite (touch (arrived (fromQueue s f) .itv f) f.offset (accessLen f)).itv c.part f.offset (rmemNew f d) (fullMask (accessLen f))).2 = .ok x) :=
  ⟨homed anRmem, anRmem, aCarve, zeros 128, [], by decide +kernel, by decide +kernel, by decide +kernel, by decide +kernel, by decide +kernel, by decide +kernel, by decide +kernel⟩
theorem test_met_poolBulk :
    ∃ (s : State) (f : Flit) (c : Carve) (x : Bytes),
      (f.kind = Kind.bulk) ∧
      (f ∈ s.itv.core.inbox) ∧
      (poolMeets (takeInbox s .itv f) f true c) ∧
      (doorwayOf (arrived (takeInbox s .itv f) .itv f).itv f.offset = none) ∧
      ((poolWrite (touch (arrived (takeInbox s .itv f) .itv f) (storeBytes f).1 (storeBytes f).2.1.length).itv c.part (storeBytes f).1
        (storeBytes f).2.1 (storeBytes f).2.2).2 = .ok x) :=
  ⟨{ homed aLoad with itv.core.inbox := [aBulk] }, aBulk, aCarve, [], by decide +kernel, by decide +kernel, by decide +kernel, by decide +kernel, by decide +kernel⟩
theorem test_met_poolMessages :
    ∃ (s : State) (f : Flit) (fresh : Bool),
      (f.kind = Kind.bulkMsg) ∧
      (f ∈ s.itv.core.inbox) ∧
      ((arriveFlow (takeInbox s .itv f) .itv f).2 = some fresh) ∧
      ((arrived (takeInbox s .itv f) .itv f).itv.sec.struck = 0) :=
  ⟨{ homed aLoad with itv.core.inbox := [{ kind := Kind.bulkMsg, src := 5 }] }, { kind := Kind.bulkMsg, src := 5 }, true, by decide +kernel, by decide +kernel, by decide +kernel, by decide +kernel⟩
theorem test_met_poolPmsg :
    ∃ (s : State) (f : Flit) (fresh : Bool),
      (f.kind = Kind.pmsg) ∧
      (f ∈ s.itv.core.inbox) ∧
      ((arriveFlow (takeInbox s .itv f) .itv f).2 = some fresh) ∧
      ((arrived (takeInbox s .itv f) .itv f).itv.sec.struck = 0) :=
  ⟨{ homed aLoad with itv.core.inbox := [{ kind := Kind.pmsg, src := 5 }] }, { kind := Kind.pmsg, src := 5 }, true, by decide +kernel, by decide +kernel, by decide +kernel, by decide +kernel⟩

/-! WardrobeDoorwaysAllocateHandOnAndFree -/

theorem test_met_alloc :
    ∃ (s : State) (f : Flit) (c : Carve) (k : Nat) (w : Wardrobe) (p i : Nat),
      (f.kind = Kind.atomic) ∧
      (f ∈ s.itv.dir.home) ∧
      (doorwayOf s.itv f.offset = some k) ∧
      (kget s.itv.wards k = some w) ∧
      (doorAt w f = some .alloc) ∧
      (poolMeets (fromQueue s f) f true c) ∧
      (doorwayOf (arrived (fromQueue s f) .itv f).itv f.offset = some k) ∧
      (kget (arrived (fromQueue s f) .itv f).itv.wards k = some w) ∧
      (f.opA % 2 ^ 64 / 2 ^ 32 = 0) ∧
      (1 ≤ f.opA % 2 ^ 32 ∧ f.opA % 2 ^ 32 ≤ 4194304) ∧
      ((wardAlloc (touch (arrived (fromQueue s f) .itv f) f.offset (accessLen f)) k (f.opA % 2 ^ 32) (f.src, f.ctx)).2 = some (p, i)) :=
  ⟨warded anAlloc, anAlloc, aWardCarve, 0, aWard, 0, 0, by decide +kernel, by decide +kernel, by decide +kernel, by decide +kernel, by decide +kernel, by decide +kernel, by decide +kernel, by decide +kernel, by decide +kernel, by decide +kernel, by decide +kernel⟩
theorem test_met_allocEmpty :
    ∃ (s : State) (f : Flit) (c : Carve) (k : Nat) (w : Wardrobe),
      (f.kind = Kind.atomic) ∧
      (f ∈ s.itv.dir.home) ∧
      (doorwayOf s.itv f.offset = some k) ∧
      (kget s.itv.wards k = some w) ∧
      (doorAt w f = some .alloc) ∧
      (poolMeets (fromQueue s f) f true c) ∧
      (doorwayOf (arrived (fromQueue s f) .itv f).itv f.offset = some k) ∧
      (kget (arrived (fromQueue s f) .itv f).itv.wards k = some w) ∧
      (f.opA % 2 ^ 64 / 2 ^ 32 = 0) ∧
      (1 ≤ f.opA % 2 ^ 32 ∧ f.opA % 2 ^ 32 ≤ 4194304) ∧
      ((wardAlloc (touch (arrived (fromQueue s f) .itv f) f.offset (accessLen f)) k (f.opA % 2 ^ 32) (f.src, f.ctx)).2 = none) :=
  ⟨{ warded anAlloc with itv.wards := [(0, emptyWard)] }, anAlloc, aWardCarve, 0, emptyWard, by decide +kernel, by decide +kernel, by decide +kernel, by decide +kernel, by decide +kernel, by decide +kernel, by decide +kernel, by decide +kernel, by decide +kernel, by decide +kernel, by decide +kernel⟩
theorem test_met_handOn :
    ∃ (s : State) (f : Flit) (c : Carve) (k : Nat) (w : Wardrobe) (p i : Nat),
      (f.kind = Kind.atomic) ∧
      (f ∈ s.itv.dir.home) ∧
      (doorwayOf s.itv f.offset = some k) ∧
      (kget s.itv.wards k = some w) ∧
      (doorAt w f = some .handOn) ∧
      (poolMeets (fromQueue s f) f true c) ∧
      (doorwayOf (arrived (fromQueue s f) .itv f).itv f.offset = some k) ∧
      (kget (arrived (fromQueue s f) .itv f).itv.wards k = some w) ∧
      (f.opA % 2 ^ 64 / 2 ^ 48 = 0 ∧ f.opA / 2 ^ 96 = 0) ∧
      (ownerSeat (touch (arrived (fromQueue s f) .itv f) f.offset (accessLen f)).itv (BitVec.ofNat 16 (f.opA / 2 ^ 64)) = true) ∧
      ((touch (arrived (fromQueue s f) .itv f) f.offset (accessLen f)).itv.sec.parts = 0) ∧
      (doorBuffer w f = some (p, i, true)) :=
  ⟨{ warded aHandOn with itv.wards := [(0, ownedWard)] }, aHandOn, aWardCarve, 0, ownedWard, 0, 0, by decide +kernel, by decide +kernel, by decide +kernel, by decide +kernel, by decide +kernel, by decide +kernel, by decide +kernel, by decide +kernel, by decide +kernel, by decide +kernel, by decide +kernel, by decide +kernel⟩
theorem test_met_free :
    ∃ (s : State) (f : Flit) (c : Carve) (k : Nat) (w : Wardrobe) (p i : Nat),
      (f.kind = Kind.atomic) ∧
      (f ∈ s.itv.dir.home) ∧
      (doorwayOf s.itv f.offset = some k) ∧
      (kget s.itv.wards k = some w) ∧
      (doorAt w f = some .free) ∧
      (poolMeets (fromQueue s f) f true c) ∧
      (doorwayOf (arrived (fromQueue s f) .itv f).itv f.offset = some k) ∧
      (kget (arrived (fromQueue s f) .itv f).itv.wards k = some w) ∧
      (f.opA % 2 ^ 64 / 2 ^ 48 = 0) ∧
      (doorBuffer w f = some (p, i, true)) :=
  ⟨{ warded aFree with itv.wards := [(0, ownedWard)] }, aFree, aWardCarve, 0, ownedWard, 0, 0, by decide +kernel, by decide +kernel, by decide +kernel, by decide +kernel, by decide +kernel, by decide +kernel, by decide +kernel, by decide +kernel, by decide +kernel, by decide +kernel⟩
theorem test_met_freeForeign :
    ∃ (s : State) (f : Flit) (c : Carve) (k : Nat) (w : Wardrobe) (p i : Nat),
      (f.kind = Kind.atomic) ∧
      (f ∈ s.itv.dir.home) ∧
      (doorwayOf s.itv f.offset = some k) ∧
      (kget s.itv.wards k = some w) ∧
      (doorAt w f = some .free) ∧
      (poolMeets (fromQueue s f) f true c) ∧
      (doorwayOf (arrived (fromQueue s f) .itv f).itv f.offset = some k) ∧
      (kget (arrived (fromQueue s f) .itv f).itv.wards k = some w) ∧
      (f.opA % 2 ^ 64 / 2 ^ 48 = 0) ∧
      (doorBuffer w f = some (p, i, false)) :=
  ⟨{ warded aFree with itv.wards := [(0, { ownedWard with owners := [(0, (9, 0))] })] }, aFree, aWardCarve, 0, { ownedWard with owners := [(0, (9, 0))] }, 0, 0, by decide +kernel, by decide +kernel, by decide +kernel, by decide +kernel, by decide +kernel, by decide +kernel, by decide +kernel, by decide +kernel, by decide +kernel, by decide +kernel⟩
theorem test_met_freeCacheRefill :
    ∃ (s : State) (w : Fin 17) (p : Fin 8) (x : Wardrobe),
      (kget s.itv.wards w.val = some x) :=
  ⟨warded anAlloc, 0, 0, aWard, by decide⟩

/-! DirectoryFollowsItsTable -/

theorem test_met_loadShares :
    ∃ (s : State) (f : Flit) (t : Nat),
      (domainHit s f = false) ∧
      (((dirEntry s (flitLine f)).getD {}).st = .shared) ∧
      (f.kind = Kind.load) ∧
      (f.sizeCode = 4) ∧
      ((dirEntry s (flitLine f)).isSome = true ∨ (waysOf s (flitLine f)).length < 256) :=
  ⟨homed aLoad, ask Kind.load [(0, reqHead 0 4 0 0 0 0 0)], 0, by decide +kernel, by decide +kernel, by decide +kernel, by decide +kernel, by decide +kernel⟩
theorem test_met_loadForwarded :
    ∃ (s : State) (f : Flit) (t : Nat) (e : DirEntry) (o : Nat),
      (domainHit s f = false) ∧
      (dirEntry s (flitLine f) = some e) ∧
      (e.st = .owned) ∧
      (e.owner = some o) ∧
      (f.kind = Kind.load) ∧
      (f.sizeCode = 4) ∧
      (o ≠ nodeSeat f.src) :=
  ⟨{ homed aLoad with itv.dir.entries := [(0, { st := .owned, owner := some 9 })] }, ask Kind.load [(0, reqHead 0 4 0 0 0 0 0)], 0, { st := .owned, owner := some 9 }, 9, by decide +kernel, by decide +kernel, by decide +kernel, by decide +kernel, by decide +kernel, by decide +kernel, by decide +kernel⟩
theorem test_met_storeInvalidates :
    ∃ (s : State) (f : Flit) (t : Nat),
      (domainHit s f = false) ∧
      (((dirEntry s (flitLine f)).getD {}).st = .shared) ∧
      (f.kind = Kind.store) :=
  ⟨{ homed aLoad with itv.dir.entries := [(0, { sharers := 3 })] }, aStore, 0, by decide +kernel, by decide +kernel, by decide +kernel⟩
theorem test_met_claimOwns :
    ∃ (s : State) (f : Flit) (t : Nat),
      (domainHit s f = false) ∧
      (((dirEntry s (flitLine f)).getD {}).st = .shared) ∧
      (((dirEntry s (flitLine f)).getD {}).owner = none) ∧
      (isClaim f = true) ∧
      (claimStatus s f = St.ok) ∧
      ((dirEntry s (flitLine f)).isSome = true ∨ (waysOf s (flitLine f)).length < 256) :=
  ⟨homed aLoad, ask Kind.atomic [(0, reqHead 0 4 0 0x1F 0 0 0)], 0, by decide +kernel, by decide +kernel, by decide +kernel, by decide +kernel, by decide +kernel, by decide +kernel⟩
theorem test_met_downAnswered :
    ∃ (s : State) (f : Flit) (t : Nat),
      (domainHit s f = true) :=
  ⟨{ homed aLoad with itv.dir.down := 1 }, aLoad, 0, by decide +kernel⟩
theorem test_met_recallHolds :
    ∃ (s : State) (f : Flit) (t : Nat) (e : DirEntry),
      (domainHit s f = false) ∧
      (dirEntry s (flitLine f) = some e) ∧
      (e.st = .recall) ∧
      (f.kind ≠ Kind.store) :=
  ⟨{ homed aLoad with itv.dir.entries := [(0, { st := .recall, owner := some 9 })] }, aLoad, 0, { st := .recall, owner := some 9 }, by decide +kernel, by decide +kernel, by decide +kernel, by decide +kernel⟩

/-! DirectoryRowsActOnRequestsFencesAndInvs -/

theorem test_met_dirRequest :
    ∃ (s : State) (f : Flit),
      (landedAt s f = none) ∧
      (toOwnPool s.itv f = true) ∧
      (f.kind = Kind.load ∨ f.kind = Kind.store ∨ f.kind = Kind.atomic ∨ f.kind = Kind.rmem) ∧
      (f ∈ s.itv.core.inbox) ∧
      (poolTracked (takeInbox s .itv f).itv f = true) ∧
      (answeredOf (takeInbox s .itv f) f = none) ∧
      (carriedHere (takeInbox s .itv f) f = false) ∧
      ((dirAct (takeInbox s .itv f) f s.now).2 = true) :=
  ⟨{ homed aLoad with itv.core.inbox := [poolAsk] }, poolAsk, by decide +kernel, by decide +kernel, by decide +kernel, by decide +kernel, by decide +kernel, by decide +kernel, by decide +kernel, by decide +kernel⟩
theorem test_met_dirRequestUntracked :
    ∃ (s : State) (f : Flit),
      (landedAt s f = none) ∧
      (toOwnPool s.itv f = true) ∧
      (f.kind = Kind.load ∨ f.kind = Kind.store ∨ f.kind = Kind.atomic ∨ f.kind = Kind.rmem) ∧
      (f ∈ s.itv.core.inbox) ∧
      (poolTracked (takeInbox s .itv f).itv f = false) ∧
      (domainHit (takeInbox s .itv f) f = false) :=
  ⟨{ homed aLoad with itv.core.inbox := [poolAsk], itv.pool.carves := [] }, poolAsk, by decide +kernel, by decide +kernel, by decide +kernel, by decide +kernel, by decide +kernel, by decide +kernel⟩
theorem test_met_fence :
    ∃ (s : State) (f : Flit) (fresh : Bool),
      (f.kind = Kind.fence) ∧
      (f ∈ s.itv.core.inbox) ∧
      (s.itv.sec.struck = 0) ∧
      ((arriveFlow (takeInbox s .itv f) .itv f).2 = some fresh) ∧
      (domainHit (bumpCoh (arrived (takeInbox s .itv f) .itv f) .fences) f = false) ∧
      ((bumpCoh (arrived (takeInbox s .itv f) .itv f) .fences).itv.dir.groups.filter (fun g => g.seat == nodeSeat f.src) = []) :=
  ⟨{ homed aLoad with itv.core.inbox := [aFence] }, aFence, true, by decide +kernel, by decide +kernel, by decide +kernel, by decide +kernel, by decide +kernel, by decide +kernel⟩
theorem test_met_fenceWaits :
    ∃ (s : State) (f : Flit) (fresh : Bool) (g : InvGroup) (gs : List InvGroup),
      (f.kind = Kind.fence) ∧
      (f ∈ s.itv.core.inbox) ∧
      (s.itv.sec.struck = 0) ∧
      ((arriveFlow (takeInbox s .itv f) .itv f).2 = some fresh) ∧
      (domainHit (bumpCoh (arrived (takeInbox s .itv f) .itv f) .fences) f = false) ∧
      ((bumpCoh (arrived (takeInbox s .itv f) .itv f) .fences).itv.dir.groups.filter (fun g => g.seat == nodeSeat f.src) = g :: gs) :=
  ⟨{ homed aLoad with itv.core.inbox := [aFence], itv.dir.groups := [{ id := 4, seat := 5 }] }, aFence, true, { id := 4, seat := 5 }, [], by decide +kernel, by decide +kernel, by decide +kernel, by decide +kernel, by decide +kernel, by decide +kernel⟩
theorem test_met_invAck :
    ∃ (s : State) (f : Flit) (v : InvOut),
      (f.kind = Kind.invAck) ∧
      (f ∈ s.itv.core.inbox) ∧
      (s.itv.dir.invs.find? (fun v => v.seat == nodeSeat f.src && v.seq == f.seq.toNat && lineNo v.line == f.offset / 128) = some v) :=
  ⟨{ homed aLoad with itv.core.inbox := [anAck], itv.dir.invs := [anInv] }, anAck, anInv, by decide +kernel, by decide +kernel, by decide +kernel⟩
theorem test_met_invAckDup :
    ∃ (s : State) (f : Flit),
      (f.kind = Kind.invAck) ∧
      (f ∈ s.itv.core.inbox) ∧
      (s.itv.dir.invs.find? (fun v => v.seat == nodeSeat f.src && v.seq == f.seq.toNat && lineNo v.line == f.offset / 128) = none) :=
  ⟨{ homed aLoad with itv.core.inbox := [anAck] }, anAck, by decide +kernel, by decide +kernel, by decide +kernel⟩
theorem test_met_invResend :
    ∃ (s : State) (seat : Fin 72) (q : Nat) (v : InvOut),
      (findInv s seat q = some v) ∧
      (v.lastSend + itvE2E s.itv ≤ s.now) ∧
      (v.sends ≤ itvRetryMax s.itv) :=
  ⟨{ homed aLoad with now := 2000000, itv.dir.invs := [anInv] }, 5, 0, anInv, by decide +kernel, by decide +kernel, by decide +kernel⟩
theorem test_met_invOrphanSharer :
    ∃ (s : State) (seat : Fin 72) (q : Nat) (v : InvOut) (e : DirEntry),
      (findInv s seat q = some v) ∧
      (v.lastSend + itvE2E s.itv ≤ s.now) ∧
      (itvRetryMax s.itv < v.sends) ∧
      (v.toOwner = false) ∧
      (dirEntry s v.line = some e) :=
  ⟨{ homed aLoad with now := 2000000, itv.dir.invs := [{ anInv with sends := 9 }], itv.dir.entries := [(0, { sharers := 0x20 })] }, 5, 0, { anInv with sends := 9 }, { sharers := 0x20 }, by decide +kernel, by decide +kernel, by decide +kernel, by decide +kernel, by decide +kernel⟩
theorem test_met_invOrphanOwner :
    ∃ (s : State) (seat : Fin 72) (q : Nat) (v : InvOut),
      (findInv s seat q = some v) ∧
      (v.lastSend + itvE2E s.itv ≤ s.now) ∧
      (itvRetryMax s.itv < v.sends) ∧
      (v.toOwner = true) ∧
      (s.itv.dir.down.getLsbD (partOfSeat s v.seat) = false) :=
  ⟨{ homed aLoad with now := 2000000, itv.dir.invs := [{ anInv with sends := 9, toOwner := true }] }, 5, 0, { anInv with sends := 9, toOwner := true }, by decide +kernel, by decide +kernel, by decide +kernel, by decide +kernel, by decide +kernel⟩
theorem test_met_dirLate :
    ∃ (s : State) (line i : Nat) (e : DirEntry) (f : Flit) (t : Nat),
      (dirEntry s line = some e) ∧
      (e.held[i]? = some (f, t)) ∧
      (t + 200000 ≤ s.now) :=
  ⟨{ homed aLoad with now := 2000000, itv.dir.entries := [(0, { st := .recall, held := [(aLoad, 0)] })] }, 0, 0, { st := .recall, held := [(aLoad, 0)] }, aLoad, 0, by decide +kernel, by decide +kernel, by decide +kernel⟩
theorem test_met_domainDownNotice :
    ∃ (s : State) (p : Fin 16),
      (s.itv.dir.down.getLsbD p.val = false) :=
  ⟨homed aLoad, 3, by decide⟩
theorem test_met_domainDownAgain :
    ∃ (s : State) (p : Fin 16),
      (s.itv.dir.down.getLsbD p.val = true) :=
  ⟨{ homed aLoad with itv.dir.down := 8 }, 3, by decide⟩

/-! SeatHomePerformsRequests -/

theorem test_met_seatLoad :
    ∃ (s : State) (f : Flit) (t p : Nat) (rest : List (Flit × Nat × Nat)) (fresh : Bool) (hw : HomeHw),
      (f.kind = Kind.load) ∧
      (seatGets s f t p rest fresh) ∧
      (seatAdmit (arrived { s with blg.inbox := rest } .blg f).blg f = St.ok) ∧
      (lineBusy (beginServing (arrived { s with blg.inbox := rest } .blg f) .blg f) f = false) :=
  ⟨given aLoad, aLoad, 0, 0, [], true, .ok, by decide +kernel, by decide +kernel, by decide +kernel, by decide +kernel⟩
theorem test_met_seatStore :
    ∃ (s : State) (f : Flit) (t p : Nat) (rest : List (Flit × Nat × Nat)) (hw : HomeHw),
      (f.kind = Kind.store) ∧
      (seatGets s f t p rest true) ∧
      (seatAdmit (arrived { s with blg.inbox := rest } .blg f).blg f = St.ok) ∧
      (lineBusy (beginServing (arrived { s with blg.inbox := rest } .blg f) .blg f) f = false) :=
  ⟨given aStore, aStore, 0, 0, [], .ok, by decide +kernel, by decide +kernel, by decide +kernel, by decide +kernel⟩
theorem test_met_seatAtomic :
    ∃ (s : State) (f : Flit) (t p : Nat) (rest : List (Flit × Nat × Nat)) (hw : HomeHw),
      (f.kind = Kind.atomic) ∧
      (seatGets s f t p rest true) ∧
      (f.aop ≠ aopClaim) ∧
      (seatAdmit (arrived { s with blg.inbox := rest } .blg f).blg f = St.ok) ∧
      (lineBusy (beginServing (arrived { s with blg.inbox := rest } .blg f) .blg f) f = false) :=
  ⟨given anAtomic, anAtomic, 0, 0, [], .ok, by decide +kernel, by decide +kernel, by decide +kernel, by decide +kernel, by decide +kernel⟩
theorem test_met_seatRmem :
    ∃ (s : State) (f : Flit) (t p : Nat) (rest : List (Flit × Nat × Nat)),
      (f.kind = Kind.rmem) ∧
      (seatGets s f t p rest true) ∧
      (seatAdmit (arrived { s with blg.inbox := rest } .blg f).blg f = St.ok) ∧
      (lineBusy (beginServing (arrived { s with blg.inbox := rest } .blg f) .blg f) f = false) :=
  ⟨given anRmem, anRmem, 0, 0, [], by decide +kernel, by decide +kernel, by decide +kernel, by decide +kernel⟩
theorem test_met_seatBulk :
    ∃ (s : State) (f : Flit) (t p : Nat) (rest : List (Flit × Nat × Nat)) (hw : HomeHw),
      (f.kind = Kind.bulk) ∧
      (seatGets s f t p rest true) ∧
      (seatAdmit (arrived { s with blg.inbox := rest } .blg f).blg f = St.ok) ∧
      (lineBusy (beginServing (arrived { s with blg.inbox := rest } .blg f) .blg f) f = false) :=
  ⟨given aBulk, aBulk, 0, 0, [], .ok, by decide +kernel, by decide +kernel, by decide +kernel, by decide +kernel⟩
theorem test_met_seatBulkMsg :
    ∃ (s : State) (f : Flit) (t p : Nat) (rest : List (Flit × Nat × Nat)),
      (f.kind = Kind.bulkMsg) ∧
      (seatGets s f t p rest true) ∧
      (rdvAdmit (arrived { s with blg.inbox := rest } .blg f).blg f = some St.ok) :=
  ⟨armed (aMsg Kind.bulkMsg), aMsg Kind.bulkMsg, 0, 0, [], by decide +kernel, by decide +kernel, by decide +kernel⟩
theorem test_met_seatBulkMsgUnarmed :
    ∃ (s : State) (f : Flit) (t p : Nat) (rest : List (Flit × Nat × Nat)) (fresh : Bool),
      (f.kind = Kind.bulkMsg) ∧
      (seatGets s f t p rest fresh) ∧
      (rdvAdmit (arrived { s with blg.inbox := rest } .blg f).blg f = none) :=
  ⟨given (aMsg Kind.bulkMsg), aMsg Kind.bulkMsg, 0, 0, [], true, by decide +kernel, by decide +kernel, by decide +kernel⟩
theorem test_met_seatPmsg :
    ∃ (s : State) (f : Flit) (t p : Nat) (rest : List (Flit × Nat × Nat)) (fresh : Bool),
      (f.kind = Kind.pmsg) ∧
      (seatGets s f t p rest fresh) ∧
      (1 ≤ f.len ∧ f.len ≤ 64) :=
  ⟨given (aMsg Kind.pmsg), aMsg Kind.pmsg, 0, 0, [], true, by decide +kernel, by decide +kernel, by decide +kernel⟩

/-! RepliesAndTimeoutsEndRequests -/

theorem test_met_replyTaken :
    ∃ (s : State) (d : Side) (f : Flit) (o : Outst),
      (findOutst s d (f.src.toNat + 65536 * b2n f.sk) f.seq.toNat = some o) ∧
      (o.waiting = false) ∧
      (o.sealed_ = false) :=
  ⟨flown .itv anOutst aData, .itv, aData, anOutst, by decide +kernel, by decide +kernel, by decide +kernel⟩
theorem test_met_dataItv :
    ∃ (s : State) (f : Flit) (o : Outst),
      (f.kind = Kind.data) ∧
      (f ∈ s.itv.core.inbox) ∧
      ((acceptReply (takeInbox s .itv f) .itv f).2 = some o) :=
  ⟨flown .itv anOutst aData, aData, anOutst, by decide +kernel, by decide +kernel, by decide +kernel⟩
theorem test_met_dataBlg :
    ∃ (s : State) (f : Flit) (o : Outst),
      (f.kind = Kind.data) ∧
      (s.blg.inbox.any (fun x => x.1 == f) = true) ∧
      ((acceptReply (takeInbox s .blg f) .blg f).2 = some o) :=
  ⟨flown .blg anOutst aData, aData, anOutst, by decide +kernel, by decide +kernel, by decide +kernel⟩
theorem test_met_doneItv :
    ∃ (s : State) (f : Flit) (o : Outst),
      (f.kind = Kind.done) ∧
      (f ∈ s.itv.core.inbox) ∧
      ((acceptReply (takeInbox s .itv f) .itv f).2 = some o) :=
  ⟨flown .itv anOutst aDone, aDone, anOutst, by decide +kernel, by decide +kernel, by decide +kernel⟩
theorem test_met_doneBlg :
    ∃ (s : State) (f : Flit) (o : Outst),
      (f.kind = Kind.done) ∧
      (s.blg.inbox.any (fun x => x.1 == f) = true) ∧
      ((acceptReply (takeInbox s .blg f) .blg f).2 = some o) :=
  ⟨flown .blg anOutst aDone, aDone, anOutst, by decide +kernel, by decide +kernel, by decide +kernel⟩
theorem test_met_dupReply :
    ∃ (s : State) (f : Flit),
      (f.kind = Kind.done) ∧
      (f ∈ s.itv.core.inbox) ∧
      (findOutst (takeInbox s .itv f) .itv (f.src.toNat + 65536 * b2n f.sk) f.seq.toNat = none) :=
  ⟨{ given aDone with itv.core.inbox := [aDone] }, aDone, by decide +kernel, by decide +kernel, by decide +kernel⟩
theorem test_met_resendItv :
    ∃ (s : State) (node : BitVec 16) (seq : BitVec 20) (o : Outst),
      (findOutst s .itv node.toNat seq.toNat = some o) ∧
      (o.waiting = false) ∧
      (o.lastSend + itvE2E s.itv ≤ s.now) ∧
      (o.sends ≤ itvRetryMax s.itv) :=
  ⟨flown .itv anOutst aDone, 5, 0, anOutst, by decide +kernel, by decide +kernel, by decide +kernel, by decide +kernel⟩
theorem test_met_timeoutItv :
    ∃ (s : State) (node : BitVec 16) (seq : BitVec 20) (o : Outst),
      (findOutst s .itv node.toNat seq.toNat = some o) ∧
      (o.waiting = false) ∧
      (o.lastSend + itvE2E s.itv ≤ s.now) ∧
      (itvRetryMax s.itv < o.sends) :=
  ⟨flown .itv { anOutst with sends := 9 } aDone, 5, 0, { anOutst with sends := 9 }, by decide +kernel, by decide +kernel, by decide +kernel, by decide +kernel⟩
theorem test_met_timeoutBlg :
    ∃ (s : State) (node : BitVec 16) (seq : BitVec 20) (o : Outst),
      (findOutst s .blg node.toNat seq.toNat = some o) ∧
      (o.waiting = false) ∧
      (o.lastSend + blgE2E s.blg ≤ s.now) ∧
      (s.blg.retryMax.toNat < o.sends) :=
  ⟨flown .blg { anOutst with sends := 9 } aDone, 5, 0, { anOutst with sends := 9 }, by decide +kernel, by decide +kernel, by decide +kernel, by decide +kernel⟩
theorem test_met_homeWaitTimeout :
    ∃ (s : State) (node : BitVec 16) (seq : BitVec 20) (o : Outst),
      (findOutst s .blg node.toNat seq.toNat = some o) ∧
      (o.waiting = true) ∧
      (s.blg.startWait = false) ∧
      (o.born + (s.blg.retryMax.toNat + 1) * blgE2E s.blg ≤ s.now) :=
  ⟨{ flown .blg { anOutst with waiting := true } aDone with blg.startWait := false }, 5, 0, { anOutst with waiting := true }, by decide +kernel, by decide +kernel, by decide +kernel, by decide +kernel⟩
theorem test_met_serviceLateItv :
    ∃ (s : State) (node : BitVec 16) (seq : BitVec 20) (l : Landed) (rest : List Landed),
      (takeFirst (fun (l : Landed) => l.own && lateReply s node seq l.flit l.at_) s.itv.core.internal = some (l, rest)) :=
  ⟨{ given aDone with itv.core.internal := [{ flit := { aDone with dst := 5 }, at_ := 0, own := true }] }, 5, 0, { flit := { aDone with dst := 5 }, at_ := 0, own := true }, [], by decide +kernel⟩
theorem test_met_serviceLateBlg :
    ∃ (s : State) (node : BitVec 16) (seq : BitVec 20),
      ((kgetD s.blg.inflows node.toNat {}).serving.any (fun x => x.1 == seq.toNat && decide (x.2 + 200001 ≤ s.now)) = true) :=
  ⟨{ given aDone with blg.inflows := [(5, { serving := [(0, 0)] })] }, 5, 0, by decide +kernel⟩
theorem test_met_homeUsable :
    ∃ (s : State) (plane : Fin 24),
      ((s.blg.ports.get plane).st = .ready) ∧
      ((s.blg.ports.get plane).excluded = false) :=
  ⟨modPort (flown .blg anOutst aDone) (.blg 2) (fun p => { p with st := .ready }), 2, by decide +kernel, by decide +kernel⟩

/-! InvsAndFwdsMeetTheCachesOfASeat -/

theorem test_met_invAckAtOnce :
    ∃ (s : State) (f : Flit),
      (f.kind = Kind.inv) ∧
      (s.blg.inbox.any (fun x => x.1 == f) = true) ∧
      (kget (takeInbox s .blg f).blg.oc (f.offset / 128) = none) :=
  ⟨given aRead, aRead, by decide +kernel, by decide +kernel, by decide +kernel⟩
theorem test_met_invOwned :
    ∃ (s : State) (f : Flit) (e : OcLine),
      (f.kind = Kind.inv) ∧
      (s.blg.inbox.any (fun x => x.1 == f) = true) ∧
      (kget (takeInbox s .blg f).blg.oc (f.offset / 128) = some e) ∧
      (e.st = .owned) :=
  ⟨owning aLine aRead, aRead, aLine, by decide +kernel, by decide +kernel, by decide +kernel, by decide +kernel⟩
theorem test_met_fwdWhole :
    ∃ (s : State) (f : Flit) (e : OcLine),
      (f.kind = Kind.fwd) ∧
      (s.blg.inbox.any (fun x => x.1 == f) = true) ∧
      (kget (takeInbox s .blg f).blg.oc (f.offset / 128) = some e) ∧
      (e.filled = true) :=
  ⟨owning { aLine with filled := true } aFwd, aFwd, { aLine with filled := true }, by decide +kernel, by decide +kernel, by decide +kernel, by decide +kernel⟩
theorem test_met_fwdWaits :
    ∃ (s : State) (f : Flit) (e : OcLine),
      (f.kind = Kind.fwd) ∧
      (s.blg.inbox.any (fun x => x.1 == f) = true) ∧
      (kget (takeInbox s .blg f).blg.oc (f.offset / 128) = some e) ∧
      (e.filled = false) ∧
      (e.st = .claiming ∨ e.fillOut = true) :=
  ⟨owning { aLine with fillOut := true } aFwd, aFwd, { aLine with fillOut := true }, by decide +kernel, by decide +kernel, by decide +kernel, by decide +kernel, by decide +kernel⟩
theorem test_met_fwdStale :
    ∃ (s : State) (f : Flit) (e : OcLine),
      (f.kind = Kind.fwd) ∧
      (s.blg.inbox.any (fun x => x.1 == f) = true) ∧
      (kget (takeInbox s .blg f).blg.oc (f.offset / 128) = some e) ∧
      (e.filled = false) ∧
      (e.st ≠ .claiming) ∧
      (e.fillOut = false) :=
  ⟨owning aLine aFwd, aFwd, aLine, by decide +kernel, by decide +kernel, by decide +kernel, by decide +kernel, by decide +kernel, by decide +kernel⟩

/-! ApronOperationsAreTranslatedAndPerformed -/

theorem test_met_apronLoadOwn :
    ∃ (s : State) (ch : Fin 24) (m : ApronMsg) (phys : Word) (wire : BitVec 16) (nc : Bool) (u : State) (op : AOp),
      (apronMeets s ch m 1 phys wire nc) ∧
      (u = (apronXlated s ch m).1) ∧
      (op = { apronAOp s ch m with phys := phys, wire := wire, nocache := nc }) ∧
      (mayRun u op) ∧
      (opNode op = u.blg.node) :=
  ⟨paged 3, 0, amsg 1, pageAt 3, 0, false, _, _, by decide +kernel, by rfl, by rfl, by decide +kernel, by decide +kernel⟩
theorem test_met_apronLoadFar :
    ∃ (s : State) (ch : Fin 24) (m : ApronMsg) (phys : Word) (wire : BitVec 16) (u : State) (op : AOp) (c : FarLine),
      (apronMeets s ch m 1 phys wire false) ∧
      (u = (apronXlated s ch m).1) ∧
      (op = { apronAOp s ch m with phys := phys, wire := wire, nocache := false }) ∧
      (mayRun u op) ∧
      (opNode op ≠ u.blg.node) ∧
      (ocOf u op = none) ∧
      (kget u.blg.far (opLineId op) = some c) :=
  ⟨{ paged 5 with blg.far := [(5 * 2 ^ 41, { data := zeros 128 })] }, 0, amsg 1, pageAt 5, 0, _, _, { data := zeros 128 }, by decide +kernel, by rfl, by rfl, by decide +kernel, by decide +kernel, by decide +kernel, by decide +kernel⟩
theorem test_met_apronLoadUncached :
    ∃ (s : State) (ch : Fin 24) (m : ApronMsg) (phys : Word) (wire : BitVec 16) (u : State) (op : AOp),
      (apronMeets s ch m 1 phys wire true) ∧
      (u = (apronXlated s ch m).1) ∧
      (op = { apronAOp s ch m with phys := phys, wire := wire, nocache := true }) ∧
      (mayRun u op) ∧
      (opNode op ≠ u.blg.node) ∧
      (ocOf u op = none) :=
  ⟨{ paged 5 with blg.l1 := [(32, [{ ctx := 0, va := 0, sh := 16, leaf := pageAt 5 + 0x3F, wire := 0 }])] }, 0, amsg 1, pageAt 5, 0, _, _, by decide +kernel, by rfl, by rfl, by decide +kernel, by decide +kernel, by decide +kernel⟩
theorem test_met_apronLoadFill :
    ∃ (s : State) (ch : Fin 24) (m : ApronMsg) (phys : Word) (wire : BitVec 16) (u : State) (op : AOp),
      (apronMeets s ch m 1 phys wire false) ∧
      (u = (apronXlated s ch m).1) ∧
      (op = { apronAOp s ch m with phys := phys, wire := wire, nocache := false }) ∧
      (mayRun u op) ∧
      (opNode op ≠ u.blg.node) ∧
      (ocOf u op = none) ∧
      (kget u.blg.far (opLineId op) = none) ∧
      (fillSpoilt u (opLineId op) = false) ∧
      (fillOut u (opLineId op) = false) :=
  ⟨paged 5, 0, amsg 1, pageAt 5, 0, _, _, by decide +kernel, by rfl, by rfl, by decide +kernel, by decide +kernel, by decide +kernel, by decide +kernel, by decide +kernel, by decide +kernel⟩
theorem test_met_apronStoreOwn :
    ∃ (s : State) (ch : Fin 24) (m : ApronMsg) (phys : Word) (wire : BitVec 16) (nc : Bool) (u : State) (op : AOp),
      (apronMeets s ch m 2 phys wire nc) ∧
      (u = (apronXlated s ch m).1) ∧
      (op = { apronAOp s ch m with phys := phys, wire := wire, nocache := nc }) ∧
      (mayRun u op) ∧
      (opNode op = u.blg.node) :=
  ⟨paged 3, 0, aStoreMsg, pageAt 3, 0, false, _, _, by decide +kernel, by rfl, by rfl, by decide +kernel, by decide +kernel⟩
theorem test_met_apronStoreOwned :
    ∃ (s : State) (ch : Fin 24) (m : ApronMsg) (phys : Word) (wire : BitVec 16) (u : State) (op : AOp) (e : OcLine),
      (apronMeets s ch m 2 phys wire false) ∧
      (u = (apronXlated s ch m).1) ∧
      (op = { apronAOp s ch m with phys := phys, wire := wire, nocache := false }) ∧
      (mayRun u op) ∧
      (opNode op ≠ u.blg.node) ∧
      (kget u.blg.oc (opLine op) = some e) ∧
      (e.node = opNode op) ∧
      (e.st ≠ .publishing) :=
  ⟨pagedOwned, 0, aStoreMsg, pageAt 5, 0, _, _, { aLine with filled := true, data := zeros 128 }, by decide +kernel, by rfl, by rfl, by decide +kernel, by decide +kernel, by decide +kernel, by decide +kernel, by decide +kernel⟩
theorem test_met_apronAtomicOwn :
    ∃ (s : State) (ch : Fin 24) (m : ApronMsg) (phys : Word) (wire : BitVec 16) (nc : Bool) (u : State) (op : AOp),
      (apronMeets s ch m 3 phys wire nc) ∧
      (u = (apronXlated s ch m).1) ∧
      (op = { apronAOp s ch m with phys := phys, wire := wire, nocache := nc }) ∧
      (mayRun u op) ∧
      (opNode op = u.blg.node) ∧
      (atomicOk m.opt.toNat (opSize op) (opOff op) = true) :=
  ⟨paged 3, 0, { amsg 3 with opt := 3 }, pageAt 3, 0, false, _, _, by decide +kernel, by rfl, by rfl, by decide +kernel, by decide +kernel, by decide +kernel⟩
theorem test_met_apronAtomicOwned :
    ∃ (s : State) (ch : Fin 24) (m : ApronMsg) (phys : Word) (wire : BitVec 16) (nc : Bool) (u : State) (op : AOp) (e : OcLine),
      (apronMeets s ch m 3 phys wire nc) ∧
      (u = (apronXlated s ch m).1) ∧
      (op = { apronAOp s ch m with phys := phys, wire := wire, nocache := nc }) ∧
      (mayRun u op) ∧
      (opNode op ≠ u.blg.node) ∧
      (m.opt.toNat ≠ aopClaim) ∧
      (opScope op ≠ 2) ∧
      (atomicOk m.opt.toNat (opSize op) (opOff op) = true) ∧
      (kget u.blg.oc (opLine op) = some e) ∧
      (e.node = opNode op) ∧
      (e.st = .owned) ∧
      (ocCovers e op = true) :=
  ⟨pagedOwned, 0, { amsg 3 with opt := 3 }, pageAt 5, 0, false, _, _, { aLine with filled := true, data := zeros 128 }, by decide +kernel, by rfl, by rfl, by decide +kernel, by decide +kernel, by decide +kernel, by decide +kernel, by decide +kernel, by decide +kernel, by decide +kernel, by decide +kernel, by decide +kernel⟩
theorem test_met_apronAtomicHouse :
    ∃ (s : State) (ch : Fin 24) (m : ApronMsg) (phys : Word) (wire : BitVec 16) (nc : Bool) (u : State) (op : AOp),
      (apronMeets s ch m 3 phys wire nc) ∧
      (u = (apronXlated s ch m).1) ∧
      (op = { apronAOp s ch m with phys := phys, wire := wire, nocache := nc }) ∧
      (mayRun u op) ∧
      (opNode op ≠ u.blg.node) ∧
      (m.opt.toNat ≠ aopClaim) ∧
      (opScope op = 2) ∧
      (ocOf u op = none) :=
  ⟨paged 5, 0, { amsg 3 with opt := 3, b7 := 2 }, pageAt 5, 0, false, _, _, by decide +kernel, by rfl, by rfl, by decide +kernel, by decide +kernel, by decide +kernel, by decide +kernel, by decide +kernel⟩
theorem test_met_apronRmemOwn :
    ∃ (s : State) (ch : Fin 24) (m : ApronMsg) (phys : Word) (wire : BitVec 16) (nc : Bool) (u : State) (op : AOp),
      (apronMeets s ch m 13 phys wire nc) ∧
      (u = (apronXlated s ch m).1) ∧
      (op = { apronAOp s ch m with phys := phys, wire := wire, nocache := nc }) ∧
      (mayRun u op) ∧
      (opNode op = u.blg.node) ∧
      (rmemPlainOk m.b7.toNat m.opt.toNat = true) ∧
      (u.blg.rmemBusy.contains (opLine op) = false) :=
  ⟨paged 3, 0, anRmemMsg, pageAt 3, 0, false, _, _, by decide +kernel, by rfl, by rfl, by decide +kernel, by decide +kernel, by decide +kernel, by decide +kernel⟩
theorem test_met_apronRmemHouse :
    ∃ (s : State) (ch : Fin 24) (m : ApronMsg) (phys : Word) (wire : BitVec 16) (nc : Bool) (u : State) (op : AOp),
      (apronMeets s ch m 13 phys wire nc) ∧
      (u = (apronXlated s ch m).1) ∧
      (op = { apronAOp s ch m with phys := phys, wire := wire, nocache := nc }) ∧
      (mayRun u op) ∧
      (opNode op ≠ u.blg.node) ∧
      (ocOf u op = none) :=
  ⟨paged 5, 0, anRmemMsg, pageAt 5, 0, false, _, _, by decide +kernel, by rfl, by rfl, by decide +kernel, by decide +kernel, by decide +kernel⟩
theorem test_met_lmemRsp :
    ∃ (s : State) (ch : Fin 24) (m : ApronMsg) (r : LReq) (rest : List LReq),
      (m.typ = 0x18) ∧
      ((getCh s ch.val).up = true) ∧
      (takeFirst (fun (r : LReq) => r.tag == m.tag.toNat && r.ch == ch.val) (takeWords s ch.val m).blg.lmem = some (r, rest)) :=
  ⟨{ paged 3 with blg.lmem := [{ tag := 0, ch := 0, msg := amsg 0x31, why := .faultRecord }] }, 0, amsg 0x18, { tag := 0, ch := 0, msg := amsg 0x31, why := .faultRecord }, [], by decide +kernel, by decide +kernel, by decide +kernel⟩

/-! ApronFencesPostsAndTalliesTakeEffect -/

theorem test_met_apronFence :
    ∃ (s : State) (ch : Fin 24) (m : ApronMsg),
      (apronGets s ch m 4) :=
  ⟨paged 3, 0, amsg 4, by decide +kernel⟩
theorem test_met_kstart :
    ∃ (s : State) (ch : Fin 24) (m : ApronMsg),
      (apronGets s ch m 9) :=
  ⟨paged 3, 0, amsg 9, by decide +kernel⟩
theorem test_met_fenceAcquires :
    ∃ (s : State) (f : FenceRun),
      (f.phase = 3) ∧
      (earlierOpen s f 0 = false) ∧
      ((invsHere s.blg).any f.invs.contains = false) :=
  ⟨paged 3, { id := 0, ch := 0, tag := 0, scope := 0, rel := false, acq := true, barrier := 0, phase := 3 }, by decide +kernel, by decide +kernel, by decide +kernel⟩
theorem test_met_fenceReleases :
    ∃ (s : State) (f : FenceRun),
      (f.phase = 0) ∧
      (f.scope = 2) ∧
      (earlierOpen s f 1 = false) :=
  ⟨paged 3, { id := 0, ch := 0, tag := 0, scope := 2, rel := true, acq := true, barrier := 0 }, by decide +kernel, by decide +kernel, by decide +kernel⟩
theorem test_met_fenceSends :
    ∃ (s : State) (f : FenceRun),
      (f.phase = 1) ∧
      (f.lines.any (fun id => (findOc s id).isSome) = false) :=
  ⟨paged 3, { id := 0, ch := 0, tag := 0, scope := 2, rel := true, acq := true, barrier := 0, phase := 1 }, by decide +kernel, by decide +kernel⟩
theorem test_met_invRange :
    ∃ (s : State) (ch : Fin 24) (m : ApronMsg),
      (apronGets s ch m 5) :=
  ⟨paged 5, 0, amsg 5, by decide +kernel⟩
theorem test_met_slotPost :
    ∃ (s : State) (ch : Fin 24) (m : ApronMsg),
      (apronGets s ch m 6) ∧
      ((getHand (takeWords s ch.val m) m.opt.toNat).resetting = false) ∧
      ((getSH (takeWords s ch.val m) m.opt.toNat m.size.toNat).own = false) ∧
      (descOk (m.data.take 64) = true) :=
  ⟨paged 3, 0, { amsg 6 with data := putDesc }, by decide +kernel, by decide +kernel, by decide +kernel, by decide +kernel⟩
theorem test_met_collPost :
    ∃ (s : State) (ch : Fin 24) (m : ApronMsg) (i : Nat) (d : CtxDesc),
      (apronGets s ch m 7) ∧
      (groupEntry (takeWords s ch.val m).blg (postGroup m) = some i) ∧
      (bitOf (m.field 47 1) 1 = false) ∧
      (descWell (m.data.take 32) = true) ∧
      (regionsMeet (memberJob (postGroup m) (entryField (takeWords s ch.val m).blg i 4 2 % 32768) (parseDesc (m.data.take 32)))
        (entryField (takeWords s ch.val m).blg i 2 2 % 16384) (m.field 16 8) (m.field 24 8) = false) ∧
      (findColl (takeWords s ch.val m) (postGroup m) (postSeq m) = none) ∧
      (descOf (takeWords s ch.val m) m.ctx.toNat = some d) ∧
      (wireStruck (takeWords s ch.val m) d.wire = false) :=
  ⟨grouped, 0, aPost, 0, { root := 0, wire := 0 }, by decide +kernel, by decide +kernel, by decide +kernel, by decide +kernel, by decide +kernel, by decide +kernel, by decide +kernel, by decide +kernel⟩
theorem test_met_tallyReadNow :
    ∃ (s : State) (ch : Fin 24) (m : ApronMsg),
      (apronGets s ch m 8) ∧
      (m.opt = 0 ∨ tallyMet (tallyWord (takeWords s ch.val m).blg (m.field 16 2)) (BitVec.ofNat 32 (m.field 20 4)) = true) :=
  ⟨paged 3, 0, amsg 8, by decide +kernel, by decide +kernel⟩
theorem test_met_tallyReadWaits :
    ∃ (s : State) (ch : Fin 24) (m : ApronMsg),
      (apronGets s ch m 8) ∧
      (m.opt ≠ 0) ∧
      (tallyMet (tallyWord (takeWords s ch.val m).blg (m.field 16 2)) (BitVec.ofNat 32 (m.field 20 4)) = false) ∧
      ((takeWords s ch.val m).blg.waits.length < 256) :=
  ⟨paged 3, 0, { amsg 8 with opt := 1, tail := zeros 4 ++ leBytes 4 9 ++ zeros 40 }, by decide +kernel, by decide +kernel, by decide +kernel, by decide +kernel⟩
theorem test_met_tallyWaitTimeout :
    ∃ (s : State) (i : Nat) (w : TallyWait),
      (s.blg.waits[i]? = some w) ∧
      (w.since + 10000000 ≤ s.now) :=
  ⟨{ paged 3 with blg.waits := [{ ch := 0, tag := 0, tally := 0, target := 9, since := 0 }] }, 0, { ch := 0, tag := 0, tally := 0, target := 9, since := 0 }, by decide +kernel, by decide +kernel⟩
theorem test_met_apronReservedType :
    ∃ (s : State) (ch : Fin 24) (m : ApronMsg),
      (msgOk m = false) ∧
      (m.typ.toNat ≠ 0x18) ∧
      ((getCh s ch.val).up = true) :=
  ⟨paged 3, 0, amsg 0x55, by decide +kernel, by decide +kernel, by decide +kernel⟩

/-! ApronWordsAreHeldAcknowledgedAndReplayed -/

theorem test_met_apronRetryReplays :
    ∃ (s : State) (ch : Fin 24),
      ((getCh s ch.val).up = true) ∧
      ((getCh s ch.val).retraining = false) ∧
      ((getCh s ch.val).retries < 7) :=
  ⟨held, 0, by decide, by decide, by decide⟩
theorem test_met_apronRetryRetrains :
    ∃ (s : State) (ch : Fin 24),
      ((getCh s ch.val).up = true) ∧
      ((getCh s ch.val).retraining = false) ∧
      (7 ≤ (getCh s ch.val).retries) :=
  ⟨modCh held 0 (fun c => { c with retries := 7 }), 0, by decide, by decide, by decide⟩
theorem test_met_apronReplayTimeout :
    ∃ (s : State) (ch : Fin 24),
      ((getCh s ch.val).up = true) ∧
      ((getCh s ch.val).retraining = false) ∧
      ((getCh s ch.val).held.isEmpty = false) ∧
      ((getCh s ch.val).lastAck + 16 ≤ s.now) :=
  ⟨held, 0, by decide, by decide, by decide, by decide⟩
theorem test_met_apronRetrainOk :
    ∃ (s : State) (ch : Fin 24),
      ((getCh s ch.val).up = true) ∧
      ((getCh s ch.val).retraining = true) :=
  ⟨modCh held 0 (fun c => { c with retraining := true }), 0, by decide, by decide⟩
theorem test_met_apronRetrainFails :
    ∃ (s : State) (ch : Fin 24),
      ((getCh s ch.val).up = true) ∧
      ((getCh s ch.val).retraining = true) ∧
      ((getCh s ch.val).fails < 2) :=
  ⟨modCh held 0 (fun c => { c with retraining := true }), 0, by decide, by decide, by decide⟩
theorem test_met_apronGoesDown :
    ∃ (s : State) (ch : Fin 24),
      ((getCh s ch.val).up = true) ∧
      ((getCh s ch.val).retraining = true) ∧
      (2 ≤ (getCh s ch.val).fails) :=
  ⟨modCh held 0 (fun c => { c with retraining := true, fails := 2 }), 0, by decide, by decide, by decide⟩
theorem test_met_apronCrcError :
    ∃ (s : State) (ch : Fin 24) (word : Bytes) (ctl : BitVec 24),
      ((getCh s ch.val).up = true) ∧
      (wordBad word ctl = true) :=
  ⟨held, 0, zeros 64, 0x800001, by decide +kernel, by decide +kernel⟩

/-! TranslationsAreInvalidatedAndStagehandsCut -/

theorem test_met_xlatInvRange :
    ∃ (s : State) (n : Fin 4) (q : Sel),
      ((s.blg.invSlots.get n).own = true) ∧
      ((s.blg.invSlots.get n).removed = false) ∧
      ((s.blg.invSlots.get n).typ.toNat = 0) ∧
      (selOf s.blg (s.blg.invSlots.get n) = some q) :=
  ⟨slotted 0, 1, { ctx := some 0, lo := 0, hi := 65536, descs := false }, by decide, by decide, by decide, by rfl⟩
theorem test_met_xlatInvContext :
    ∃ (s : State) (n : Fin 4) (q : Sel),
      ((s.blg.invSlots.get n).own = true) ∧
      ((s.blg.invSlots.get n).removed = false) ∧
      ((s.blg.invSlots.get n).typ.toNat = 1) ∧
      (selOf s.blg (s.blg.invSlots.get n) = some q) :=
  ⟨slotted 1, 1, { ctx := some 0, lo := 0, hi := 2 ^ 57, descs := true }, by decide, by decide, by decide, by rfl⟩
theorem test_met_xlatInvAll :
    ∃ (s : State) (n : Fin 4) (q : Sel),
      ((s.blg.invSlots.get n).own = true) ∧
      ((s.blg.invSlots.get n).removed = false) ∧
      ((s.blg.invSlots.get n).typ.toNat = 2) ∧
      (selOf s.blg (s.blg.invSlots.get n) = some q) :=
  ⟨slotted 2, 1, { ctx := none, lo := 0, hi := 2 ^ 57, descs := true }, by decide, by decide, by decide, by rfl⟩
theorem test_met_xlatInvRefused :
    ∃ (s : State) (n : Fin 4),
      ((s.blg.invSlots.get n).own = true) ∧
      ((s.blg.invSlots.get n).removed = false) ∧
      ((s.blg.invSlots.get n).typ.toNat = 0) ∧
      (selOf s.blg (s.blg.invSlots.get n) = none) :=
  ⟨{ slotted 0 with blg.ctxCount := 0 }, 1, by decide, by decide, by decide, by rfl⟩
theorem test_met_invSlotComplete :
    ∃ (s : State) (n : Fin 4),
      ((s.blg.invSlots.get n).own = true) ∧
      ((s.blg.invSlots.get n).removed = true) ∧
      ((s.blg.invSlots.get n).typ ≠ 3) ∧
      ((s.blg.invSlots.get n).irq = false) ∧
      ((s.blg.invSlots.get n).ops.all (fun id => !isOpen s id) = true) :=
  ⟨modInvSlot (slotted 2) 1 (fun x => { x with removed := true }), 1, by decide, by decide, by decide, by decide, by decide⟩
theorem test_met_stagehandPmsg :
    ∃ (s : State) (n : Fin 32) (k : Nat),
      ((getHand s n.val).resetting = false) ∧
      (pmsgReady (getHand s n.val) = some k) :=
  ⟨handed, 0, 0, by decide +kernel, by decide +kernel⟩
theorem test_met_stagehandNext :
    ∃ (s : State) (n : Fin 32) (k : Nat) (ks : List Nat),
      ((getHand s n.val).resetting = false) ∧
      (pmsgReady (getHand s n.val) = none) ∧
      (s.blg.hands.toList.any (fun g => (pmsgReady g).isSome) = false) ∧
      ((getHand s n.val).current = none) ∧
      (readySlots (getHand s n.val) = k :: ks) :=
  ⟨handedPut, 0, 0, [], by decide +kernel, by decide +kernel, by decide +kernel, by decide +kernel, by decide +kernel⟩

/-! MembersLaunchResendAndComplete -/

theorem test_met_cueLaunch :
    ∃ (s : State) (g : Nat) (q : BitVec 16) (input : Bytes) (m : MColl),
      (findColl (judgeLate s) g q.toNat = some m) ∧
      (m.status = none) ∧
      (m.launched = false) ∧
      (m.late = some false) ∧
      ((judgeLate s).blg.cue.st ≠ .unset) ∧
      (m.launch.toNat ≤ (judgeLate s).blg.cue.count.toNat) ∧
      (m.desc.op ≠ COp.index) ∧
      (m.desc.op ≠ COp.dispatch) :=
  ⟨staged aMColl aLoad, 7, 0, zeros 192, aMColl, by decide +kernel, by decide +kernel, by decide +kernel, by decide +kernel, by decide +kernel, by decide +kernel, by decide +kernel, by decide +kernel⟩
theorem test_met_collResend :
    ∃ (s : State) (g : Nat) (q : BitVec 16) (k : Nat) (m : MColl) (x : MStripe),
      (findColl s g q.toNat = some m) ∧
      (m.stripes.find? (fun x => x.stripe == k) = some x) ∧
      (running m = true) ∧
      (x.sent = true) ∧
      (x.done = false) ∧
      (x.lastSend + memberTR m ≤ s.now) ∧
      (bpOpen s x.plane = true) :=
  ⟨modPort { staged { going aMColl with stripes := [{ stripe := 0, sent := true }] } aLoad with now := 1000 + 2 * Config.seatMaxFlight } (.blg 0) (fun p => { p with st := .ready }), 7, 0, 0, { going aMColl with stripes := [{ stripe := 0, sent := true }] }, { stripe := 0, sent := true }, by rfl, by rfl, by rfl, by rfl, by rfl, by (show 0 + max (1000 / 8) (2 * Config.seatMaxFlight) ≤ 1000 + 2 * Config.seatMaxFlight; omega), by rfl⟩
theorem test_met_collMemberTimeout :
    ∃ (s : State) (g : Nat) (q : BitVec 16) (m : MColl),
      (findColl s g q.toNat = some m) ∧
      (running m = true) ∧
      (m.lastSeen + (m.hold + 2 * Config.seatMaxFlight) ≤ s.now) :=
  ⟨{ staged (going aMColl) aLoad with now := 1000 + 2 * Config.seatMaxFlight }, 7, 0, going aMColl, by rfl, by rfl, by (show 0 + (1000 + 2 * Config.seatMaxFlight) ≤ 1000 + 2 * Config.seatMaxFlight; omega)⟩
theorem test_met_curtainRelease :
    ∃ (s : State) (g : Nat) (q : BitVec 16) (m : MColl) (c : Word),
      (findColl s g q.toNat = some m) ∧
      (m.release = some c) ∧
      (m.status = none) ∧
      (c.toNat ≤ s.blg.cue.count.toNat) :=
  ⟨staged { going aMColl with release := some 0 } aLoad, 7, 0, { going aMColl with release := some 0 }, 0, by decide +kernel, by decide +kernel, by decide +kernel, by decide +kernel⟩
theorem test_met_result :
    ∃ (s : State) (f : Flit) (t p : Nat) (m : MColl),
      (f.kind = Kind.result) ∧
      (isControl f = false) ∧
      (s.blg.inbox.find? (fun x => x.1 == f) = some (f, t, p)) ∧
      (forMember (takeInbox s .blg f) f = true) ∧
      (findColl (noteSeen (takeInbox s .blg f) f) (cHead f).group (cHead f).cueSeq = some m) ∧
      (running m = true) ∧
      (m.desc.op ≠ COp.curtain) :=
  ⟨staged (going aMColl) (collF Kind.result 0), collF Kind.result 0, 0, 0, { going aMColl with lastSeen := 10000000 }, by decide +kernel, by decide +kernel, by decide +kernel, by decide +kernel, by decide +kernel, by decide +kernel, by decide +kernel⟩
theorem test_met_mcast :
    ∃ (s : State) (f : Flit) (t p : Nat) (m : MColl),
      (f.kind = Kind.mcast) ∧
      (isControl f = false) ∧
      (s.blg.inbox.find? (fun x => x.1 == f) = some (f, t, p)) ∧
      (forMember (takeInbox s .blg f) f = true) ∧
      (findColl (noteSeen (takeInbox s .blg f) f) (cHead f).group (cHead f).cueSeq = some m) ∧
      (running m = true) ∧
      (m.desc.op ≠ COp.curtain) :=
  ⟨staged (going aMColl) (collF Kind.mcast 0), collF Kind.mcast 0, 0, 0, { going aMColl with lastSeen := 10000000 }, by decide +kernel, by decide +kernel, by decide +kernel, by decide +kernel, by decide +kernel, by decide +kernel, by decide +kernel⟩
theorem test_met_resultKept :
    ∃ (s : State) (m : MColl) (kind : BitVec 5) (h : CHead) (data : Bytes) (port : Nat) (x : MStripe),
      (m.desc.op ≠ COp.dispatch) ∧
      (m.stripes.find? (fun x => !x.done && planeOf m.planes (memberLive s m.group) x.stripe == some port &&
        belongs m (jobOf m) x.stripe kind h.chunk h.valid &&
        !m.got.any (fun y => y.who == x.stripe && y.chunk == h.chunk && y.valid == h.valid)) = some x) ∧
      (stripeHeld { m with got := m.got ++ [{ who := x.stripe, chunk := h.chunk, valid := h.valid, data := data }] } (jobOf m) x.stripe
        (m.got ++ [{ who := x.stripe, chunk := h.chunk, valid := h.valid, data := data }]) = true) :=
  ⟨staged (going aMColl) aLoad, going aMColl, Kind.result, collHead 0, zeros 192, 0, { stripe := 0 }, by decide +kernel, by decide +kernel, by decide +kernel⟩
theorem test_met_abortAtMember :
    ∃ (s : State) (f : Flit) (t p : Nat) (m : MColl),
      (f.kind = Kind.result) ∧
      ((cHead f).step = 0xFF) ∧
      (s.blg.inbox.find? (fun x => x.1 == f) = some (f, t, p)) ∧
      (forMember (takeInbox s .blg f) f = true) ∧
      (findColl (takeInbox s .blg f) (cHead f).group (cHead f).cueSeq = some m) ∧
      (m.status = none) :=
  ⟨staged (going aMColl) (collF Kind.result 0xFF), collF Kind.result 0xFF, 0, 0, going aMColl, by decide +kernel, by decide +kernel, by decide +kernel, by decide +kernel, by decide +kernel, by decide +kernel⟩
theorem test_met_remapAtMember :
    ∃ (s : State) (f : Flit) (t p : Nat),
      (f.kind = Kind.result) ∧
      ((cHead f).step = 0xFE) ∧
      (s.blg.inbox.find? (fun x => x.1 == f) = some (f, t, p)) ∧
      (forMember (takeInbox s .blg f) f = true) ∧
      ((memberLive (takeInbox s .blg f) (cHead f).group).getLsbD (ctlPlane f) = true) ∧
      (p ≠ ctlPlane f) :=
  ⟨{ staged (going aMColl) (collF Kind.result 0xFE) with blg.inbox := [(collF Kind.result 0xFE, 0, 2)] }, collF Kind.result 0xFE, 0, 2, by decide +kernel, by decide +kernel, by decide +kernel, by decide +kernel, by decide +kernel, by decide +kernel⟩

/-! ReducersMergeAbortRemapAndKeep -/

theorem test_met_contribMerged :
    ∃ (s : State) (f : Flit) (bad : Bool) (c : Cast) (r : Nat) (e : CueEntry) (t : State),
      (f.kind = Kind.contrib) ∧
      (isControl f = false) ∧
      (f ∈ s.itv.core.inbox) ∧
      (getCast (takeInbox s .itv f) (cHead f).group = some c) ∧
      (senderOf (takeInbox s .itv f) c f (stripeOf (cHead f).chunk) = some (.member r)) ∧
      (c.live.getLsbD (myPlane (takeInbox s .itv f)) = true) ∧
      (findEntry c (cHead f).cueSeq = some e) ∧
      (e.armed = true) ∧
      (findRun (takeInbox s .itv f) (cHead f).group (cHead f).cueSeq = none) ∧
      ((cHead f).digest = e.digest) ∧
      (((findRun (modRun (ensureRun (takeInbox s .itv f) (cHead f).group (cHead f).cueSeq f.ctx) (cHead f).group (cHead f).cueSeq
        (fun x => if x.compared.contains r then x else { x with compared := x.compared ++ [r] })) (cHead f).group (cHead f).cueSeq).bind (·.mism)) = none) ∧
      ((cHead f).step < 0x48) ∧
      (chunkOk (castJob c e.desc) (cHead f).chunk = true) ∧
      (mergeChunk (modRun (ensureRun (takeInbox s .itv f) (cHead f).group (cHead f).cueSeq f.ctx) (cHead f).group (cHead f).cueSeq
        (fun x => if x.compared.contains r then x else { x with compared := x.compared ++ [r] })) c e (cHead f).group (cHead f).cueSeq
        (.member r) f bad = some t) :=
  ⟨staged aMColl (collF Kind.contrib 0), collF Kind.contrib 0, false, { nodes := [3], planes := 1, live := 1, hold := 1000, sheet := [armedEntry] }, 0, armedEntry, _, by rfl, by decide +kernel, by decide +kernel, by decide +kernel, by decide +kernel, by decide +kernel, by decide +kernel, by rfl, by decide +kernel, by decide +kernel, by decide +kernel, by decide +kernel, by decide +kernel, by exact (Option.some_get (show Option.isSome _ = true by decide +kernel)).symm⟩
theorem test_met_contribNotCast :
    ∃ (s : State) (f : Flit) (bad : Bool),
      (f.kind = Kind.contrib) ∧
      (isControl f = false) ∧
      (f ∈ s.itv.core.inbox) ∧
      (getCast (takeInbox s .itv f) (cHead f).group = none) :=
  ⟨{ given (collF Kind.contrib 0) with itv.core.inbox := [collF Kind.contrib 0] }, collF Kind.contrib 0, false, by decide +kernel, by decide +kernel, by decide +kernel, by decide +kernel⟩
theorem test_met_report :
    ∃ (s : State) (f : Flit) (c : Cast) (e : CueEntry) (k : Nat) (ranks : List Nat),
      (f.kind = Kind.contrib) ∧
      ((cHead f).step = 0xFD) ∧
      (f ∈ s.itv.core.inbox) ∧
      (getCast (takeInbox s .itv f) (cHead f).group = some c) ∧
      (senderOf (takeInbox s .itv f) c f 0 = some (.kid k ranks)) ∧
      (c.live.getLsbD (myPlane (takeInbox s .itv f)) = true) ∧
      (findEntry c (cHead f).cueSeq = some e) ∧
      (e.ended = false) :=
  ⟨{ staged aMColl aReport with itv.routing.chart := some { aChart with form := 1, swid := 512 } }, aReport, { nodes := [3], planes := 1, live := 1, hold := 1000, sheet := [armedEntry] }, armedEntry, 0, [0], by decide +kernel, by decide +kernel, by decide +kernel, by decide +kernel, by decide +kernel, by decide +kernel, by decide +kernel, by decide +kernel⟩
theorem test_met_abortAtReducer :
    ∃ (s : State) (f : Flit) (c : Cast) (e : CueEntry) (w : Sender),
      (f.kind = Kind.contrib) ∧
      ((cHead f).step = 0xFF) ∧
      (f ∈ s.itv.core.inbox) ∧
      (getCast (takeInbox s .itv f) (cHead f).group = some c) ∧
      (senderOf (takeInbox s .itv f) c f 0 = some w) ∧
      (c.live.getLsbD (myPlane (takeInbox s .itv f)) = true) ∧
      (findEntry c (cHead f).cueSeq = some e) ∧
      (e.ended = false) :=
  ⟨staged aMColl (collF Kind.contrib 0xFF), collF Kind.contrib 0xFF, { nodes := [3], planes := 1, live := 1, hold := 1000, sheet := [armedEntry] }, armedEntry, .member 0, by decide +kernel, by decide +kernel, by decide +kernel, by decide +kernel, by decide +kernel, by decide +kernel, by decide +kernel, by decide +kernel⟩
theorem test_met_remapAtReducer :
    ∃ (s : State) (f : Flit) (c : Cast) (w : Sender),
      (f.kind = Kind.contrib) ∧
      ((cHead f).step = 0xFE) ∧
      (f ∈ s.itv.core.inbox) ∧
      (getCast (takeInbox s .itv f) (cHead f).group = some c) ∧
      (senderOf (takeInbox s .itv f) c f 0 = some w) ∧
      (c.live.getLsbD (myPlane (takeInbox s .itv f)) = true) ∧
      (c.live.getLsbD (ctlPlane f) = true) :=
  ⟨staged aMColl (collF Kind.contrib 0xFE), collF Kind.contrib 0xFE, { nodes := [3], planes := 1, live := 1, hold := 1000, sheet := [armedEntry] }, .member 0, by decide +kernel, by decide +kernel, by decide +kernel, by decide +kernel, by decide +kernel, by decide +kernel, by decide +kernel⟩
theorem test_met_holdExpiry :
    ∃ (s : State) (g : Nat) (q : BitVec 16) (t : Nat) (c : Cast) (run : Run) (e : CueEntry) (x : StepRun) (r : Nat) (rs : List Nat),
      (getCast s g = some c) ∧
      (findRun s g q.toNat = some run) ∧
      (findEntry c q.toNat = some e) ∧
      (run.steps.find? (fun x => x.step == t && !x.ended) = some x) ∧
      (x.opened + c.hold ≤ s.now) ∧
      (run.mism = none) ∧
      (missingAt s c (castJob c e.desc) run t = r :: rs) :=
  ⟨stagedRun aLoad { stripe := 0 }, 7, 0, 0, { nodes := [3], planes := 1, live := 1, hold := 1000, sheet := [armedEntry] }, { group := 7, seq := 0, stripes := [{ stripe := 0 }], steps := [{ step := 0, opened := 0, first := 0 }] }, armedEntry, { step := 0, opened := 0, first := 0 }, 0, [], by decide +kernel, by decide +kernel, by decide +kernel, by decide +kernel, by decide +kernel, by decide +kernel, by decide +kernel⟩
theorem test_met_resultKeepExpiry :
    ∃ (s : State) (g : Nat) (q : BitVec 16) (k : Nat) (c : Cast) (x : StripeRun) (t : Nat),
      (getCast s g = some c) ∧
      ((findRun s g q.toNat).bind (findStripe · k) = some x) ∧
      (x.complete = some t) ∧
      (t + c.hold ≤ s.now) :=
  ⟨stagedRun aLoad { stripe := 0, complete := some 0 }, 7, 0, 0, { nodes := [3], planes := 1, live := 1, hold := 1000, sheet := [armedEntry] }, { stripe := 0, complete := some 0 }, 0, by decide +kernel, by decide +kernel, by decide +kernel, by decide +kernel⟩
theorem test_met_mirrorWrite :
    ∃ (s : State) (f : Flit),
      (f.kind = Kind.svc) ∧
      (f.svc = Config.svcMirrorWrite.toNat) ∧
      (f ∈ s.itv.core.inbox) :=
  ⟨{ given aLoad with itv.core.inbox := [svcFlit Config.svcMirrorWrite] }, svcFlit Config.svcMirrorWrite, by rfl, by exact svcFlit_svc _, by exact List.mem_singleton.mpr rfl⟩
theorem test_met_restoreFromMirror :
    ∃ (s : State) (f : Flit),
      (f.kind = Kind.svc) ∧
      (f.svc = Config.svcRestore.toNat) ∧
      (f ∈ s.itv.core.inbox) ∧
      (swPlane f.src ≠ myPlane (takeInbox s .itv f)) ∧
      (nextPlane (takeInbox s .itv f) = some (swPlane f.src)) ∧
      (((onesOf (((takeInbox s .itv f).itv.routing.chart.map (·.planes)).getD 0)).reverse.find? (fun x => decide (x < myPlane (takeInbox s .itv f)))) = some (swPlane f.src)) :=
  ⟨{ given aLoad with itv.core.inbox := [svcFlit Config.svcRestore], itv.routing.chart := some { aChart with planes := 3, swid := 2048 } }, svcFlit Config.svcRestore, by rfl, by exact svcFlit_svc _, by exact List.mem_singleton.mpr rfl, by decide, by decide, by decide⟩
theorem test_met_promptBookRestored :
    ∃ (s : State) (own mirror : List Bytes),
      (s.itv.boot.started = true) ∧
      (s.itv.boot.bookDone = false) ∧
      (s.itv.boot.stallsTrained = true ∨ s.itv.boot.stallsFailed = true) ∧
      ((nextPlane s).isSome = true) :=
  ⟨{ given aLoad with itv.boot.started := true, itv.boot.stallsTrained := true, itv.boot.bookDone := false, itv.routing.chart := some { aChart with planes := 3 } }, [], [], by decide, by decide, by decide, by decide⟩

/-! ChorusEntriesRunMergeAndFinish -/

theorem test_met_merge :
    ∃ (s : State) (f : Flit) (b : StateBuf) (r : Nat) (c : Cast) (e : CueEntry),
      (s.itv.coll.bufs.find? (fun b => b.waiting.any (fun w => w.2.1 == f)) = some b) ∧
      (b.waiting.find? (fun w => w.2.1 == f) = some (r, f, none)) ∧
      (b.waiting.head?.map (·.2.1) = some f) ∧
      (getCast s b.group = some c) ∧
      (findEntry c b.seq = some e) ∧
      (objOrdered (kernelObj s e.desc) = false) ∧
      (coreFree s b.core = true) ∧
      (((findRun s b.group b.seq).map (fun r => !r.aborted)).getD false = true) :=
  ⟨buffered { aBuf with waiting := [(0, aLoad, none)] } aLoad, aLoad, { aBuf with waiting := [(0, aLoad, none)] }, 0, { nodes := [3], planes := 1, live := 1, hold := 1000, sheet := [armedEntry] }, armedEntry, by decide +kernel, by decide +kernel, by decide +kernel, by decide +kernel, by decide +kernel, by decide +kernel, by decide +kernel, by decide +kernel⟩
theorem test_met_finish :
    ∃ (s : State) (g : Nat) (q : BitVec 16) (ch : Nat) (b : StateBuf) (c : Cast) (e : CueEntry),
      (s.itv.coll.bufs.find? (isBuf g q.toNat ch) = some b) ∧
      (getCast s g = some c) ∧
      (findEntry c q.toNat = some e) ∧
      (coreFree s b.core = true) ∧
      (b.waiting.isEmpty = true) ∧
      (b.merged.length = c.nodes.length) ∧
      (b.finished = none) :=
  ⟨buffered { aBuf with merged := [0] } aLoad, 7, 0, 0, { aBuf with merged := [0] }, { nodes := [3], planes := 1, live := 1, hold := 1000, sheet := [armedEntry] }, armedEntry, by decide +kernel, by decide +kernel, by decide +kernel, by decide +kernel, by decide +kernel, by decide +kernel, by decide +kernel⟩
theorem test_met_chorusWord :
    ∃ (s : State) (i : Fin 72) (e : CoreEnv),
      ((coreAt s i.val).active = true) ∧
      ((coreAt s i.val).dead = false) ∧
      (e = coreEnv s i) ∧
      (wordOk e = true) ∧
      ((stepWord e).2.2 = false) :=
  ⟨chorusRun, 0, _, by rfl, by rfl, by rfl, by decide +kernel, by decide +kernel⟩
theorem test_met_chorusWordFault :
    ∃ (s : State) (i : Fin 72),
      ((coreAt s i.val).active = true) :=
  ⟨chorusRun, 0, by decide⟩
theorem test_met_clusterSelfTestPasses :
    ∃ (s : State) (k : Fin 18),
      (s.itv.coll.resetting.getLsbD k.val = true) :=
  ⟨{ given aLoad with itv.coll.resetting := 1 }, 0, by decide⟩

/-! TheMoverTheSweepsAndTheScrubsRun -/

theorem test_met_decay :
    ∃ (s : State),
      (s.itv.pool.decayAt + s.itv.pool.decayMs * 1000000 ≤ s.now) :=
  ⟨tiered [(0, { gallery := false, carve := 255, frame := 0, access := 9 })] .auto, by decide⟩
theorem test_met_decayTooSoon :
    ∃ (s : State),
      (s.now < s.itv.pool.decayAt + s.itv.pool.decayMs * 1000000) :=
  ⟨{ tiered [] .auto with now := 0 }, by decide⟩
theorem test_met_moveMisplaced :
    ∃ (s : State) (p f : Nat) (e : TierEntry),
      (s.itv.pool.enable = true) ∧
      (s.itv.pool.moves.length < 16) ∧
      (s.itv.pool.galleryOff = 0) ∧
      (misplaced s.itv = some (p, e)) ∧
      (e.gallery = false) ∧
      (freeFrame s.itv true = some f) :=
  ⟨tiered [(0, { gallery := false, carve := 255, frame := 0 })] .gallery, 0, 0, { gallery := false, carve := 255, frame := 0 }, by decide +kernel, by decide +kernel, by decide +kernel, by decide +kernel, by decide +kernel, by decide +kernel⟩
theorem test_met_movePromotes :
    ∃ (s : State) (p f : Nat) (q : List Nat) (e : TierEntry),
      (s.itv.pool.enable = true) ∧
      (s.itv.pool.moves.length < 16) ∧
      (s.itv.pool.galleryOff = 0) ∧
      (misplaced s.itv = none) ∧
      (s.itv.pool.queue = p :: q) ∧
      (kget s.itv.pool.tier p = some e) ∧
      (e.gallery = true) ∧
      (e.moving = false) ∧
      (e.pin = false) ∧
      (sweptNow s.itv p = false) ∧
      (freeFrame s.itv false = some f) :=
  ⟨{ tiered [(0, { gallery := true, carve := 255, frame := 0 })] .auto with itv.pool.queue := [0] }, 0, 0, [], { gallery := true, carve := 255, frame := 0 }, by decide +kernel, by decide +kernel, by decide +kernel, by decide +kernel, by decide +kernel, by decide +kernel, by decide +kernel, by decide +kernel, by decide +kernel, by decide +kernel, by decide +kernel⟩
theorem test_met_moveComplete :
    ∃ (s : State) (page : Nat) (m : Move) (rest : List Move) (e : TierEntry),
      (takeFirst (fun (m : Move) => m.page == page) s.itv.pool.moves = some (m, rest)) ∧
      (kget s.itv.pool.tier page = some e) ∧
      (m.next = none) :=
  ⟨{ tiered [(0, { gallery := false, carve := 255, frame := 0, moving := true })] .gallery with itv.pool.moves := [{ page := 0, toGallery := true, frame := 5 }] }, 0, { page := 0, toGallery := true, frame := 5 }, [], { gallery := false, carve := 255, frame := 0, moving := true }, by decide +kernel, by decide +kernel, by decide +kernel⟩
theorem test_met_sweepRekeys :
    ∃ (s : State) (part : Fin 16) (x : Sweep) (p : Nat) (rest : List Nat),
      (s.itv.pool.sweeps.find? (fun x => x.part == part.val) = some x) ∧
      ((sweepNext s.itv x).left = p :: rest) ∧
      ((sweepNext s.itv x).block + 1 < 1024) ∧
      ((kget s.itv.pool.tier p).any (·.moving) = false) ∧
      ((kget s.itv.pool.blocks (p * 1024 + (sweepNext s.itv x).block)).any (·.poison) = false) :=
  ⟨{ tiered [] .auto with itv.pool.sweeps := [{ part := 2, left := [0] }] }, 2, { part := 2, left := [0] }, 0, [], by decide +kernel, by decide +kernel, by decide +kernel, by decide +kernel, by decide +kernel⟩
theorem test_met_sweepEnds :
    ∃ (s : State) (part : Fin 16) (x : Sweep) (hw : HomeHw),
      (s.itv.pool.sweeps.find? (fun x => x.part == part.val) = some x) ∧
      ((sweepNext s.itv x).left = []) :=
  ⟨{ tiered [] .auto with itv.pool.sweeps := [{ part := 2, left := [] }] }, 2, { part := 2, left := [] }, .ok, by decide +kernel, by decide +kernel⟩
theorem test_met_scrubDone :
    ∃ (s : State) (i : Nat) (x : Scrub),
      (s.itv.pool.scrubs[i]? = some x) ∧
      (x.tier = none) :=
  ⟨{ tiered [] .auto with itv.pool.scrubs := [{ lo := 0, hi := 4 }] }, 0, { lo := 0, hi := 4 }, by decide, by decide⟩
theorem test_met_startScrubDone :
    ∃ (s : State) (i : Nat) (x : Scrub),
      (s.itv.pool.scrubs[i]? = some x) ∧
      (x.tier = some false) :=
  ⟨{ tiered [] .auto with itv.pool.scrubs := [{ lo := 0, hi := 4, tier := some false }] }, 0, { lo := 0, hi := 4, tier := some false }, by decide, by decide⟩

/-! SramErrorsDoWhatTheirBudgetSays -/

theorem test_met_sramEntryLost :
    ∃ (s : State) (d : Fin 2) (key : Nat) (e : DirEntry) (part : Nat),
      (dirEntry (bump s (coreIdx d.val 13) 1) key = some e) ∧
      (partOfLine (bumpCoh (bump s (coreIdx d.val 13) 1) .dirUe) key = some part) ∧
      (e.owner = none) ∧
      (e.st ≠ .recall) :=
  ⟨{ withCarve with itv.dir.entries := [(0, { st := .shared })] }, 0, 0, { st := .shared }, 0, by decide +kernel, by decide +kernel, by decide +kernel, by decide +kernel⟩

/-! KeysGoInForceAndAreErased -/

theorem test_met_keyPush (key : BitVec 256) (hc : Config.onCurve (serviceKey (slice aPush.payload 16 96)) = true) (hk : Config.unwrapKey 0 ((slice aPush.payload 16 96).take 96) (slice (slice aPush.payload 112 48) 8 40) = some key) :
    ∃ (s : State) (r : Fin 24) (f : Flit) (t : Nat) (key : BitVec 256),
      (s.blg.inbox.find? (fun x => x.1 == f) = some (f, t, r.val)) ∧
      (f.kind = Kind.svc ∧ f.svc = 0x0301) ∧
      ((takeInbox s .blg f).blg.struck ≠ some (byteAt f.payload 2)) ∧
      (natAt (slice f.payload 16 96) 16 8 = ((blgPort (takeInbox s .blg f) r.val).partner.map (·.serial.toNat)).getD 0) ∧
      (kget (takeInbox s .blg f).blg.keyEpochs (blobJob (slice f.payload 16 96)) = none) ∧
      (blobHeadOk (slice f.payload 16 96) 0 false = true) ∧
      (blobPart (slice f.payload 16 96) = byteAt f.payload 2) ∧
      (natAt (slice f.payload 112 48) 0 8 = (takeInbox s .blg f).blg.fuse.serial.toNat) ∧
      (openEntry (takeInbox s .blg f).blg.fuse.serial (slice f.payload 16 96) (slice f.payload 112 48) = some key) ∧
      ((takeInbox s .blg f).blg.keys.length < 64) :=
  ⟨{ given aPush with blg.fuse.serial := 0 }, 0, aPush, 0, key, by decide +kernel, by decide, by decide, by decide, by decide, by (unfold blobHeadOk; rw [hc]; decide), by decide, by decide, by exact hk, by decide⟩
theorem test_met_keyRevoke :
    ∃ (s : State) (f : Flit) (x : Flit × Nat × Nat),
      (f.kind = Kind.svc ∧ f.svc = 0x0302) ∧
      (s.blg.inbox.find? (fun x => x.1 == f) = some x) ∧
      ((takeInbox s .blg f).blg.struck = none) :=
  ⟨given (seatSvc 0x302), seatSvc 0x302, (seatSvc 0x302, 0, 0), by decide +kernel, by decide +kernel, by decide +kernel⟩
theorem test_met_keyRevokeAgain :
    ∃ (s : State) (f : Flit) (x : Flit × Nat × Nat),
      (f.kind = Kind.svc ∧ f.svc = 0x0302) ∧
      (s.blg.inbox.find? (fun x => x.1 == f) = some x) ∧
      ((takeInbox s .blg f).blg.struck.isSome = true) :=
  ⟨{ given (seatSvc 0x302) with blg.struck := some 0 }, seatSvc 0x302, (seatSvc 0x302, 0, 0), by decide +kernel, by decide +kernel, by decide +kernel⟩
theorem test_met_partitionClear :
    ∃ (s : State) (f : Flit) (x : Flit × Nat × Nat),
      (f.kind = Kind.svc ∧ f.svc = 0x0303) ∧
      (s.blg.inbox.find? (fun x => x.1 == f) = some x) ∧
      ((takeInbox s .blg f).blg.cleared = false) :=
  ⟨{ given (seatSvc 0x303) with blg.cleared := false }, seatSvc 0x303, (seatSvc 0x303, 0, 0), by decide +kernel, by decide +kernel, by decide +kernel⟩
theorem test_met_pushRepeats :
    ∃ (s : State) (i : Nat) (x : Push),
      (s.itv.sec.pushes[i]? = some x) ∧
      (x.lastSend + itvE2E s.itv ≤ s.now) ∧
      (x.sends ≤ itvRetryMax s.itv) :=
  ⟨{ given aPush with itv.sec.pushes := [{ port := 0, flit := aPush }] }, 0, { port := 0, flit := aPush }, by decide +kernel, by decide +kernel, by decide +kernel⟩
theorem test_met_pushGivesUp :
    ∃ (s : State) (i : Nat) (x : Push),
      (s.itv.sec.pushes[i]? = some x) ∧
      (x.lastSend + itvE2E s.itv ≤ s.now) ∧
      (itvRetryMax s.itv < x.sends) :=
  ⟨{ given aPush with itv.sec.pushes := [{ port := 0, flit := aPush, sends := 9 }] }, 0, { port := 0, flit := aPush, sends := 9 }, by decide +kernel, by decide +kernel, by decide +kernel⟩
theorem test_met_keyUseAfter :
    ∃ (s : State) (d : Side) (ctx : BitVec 16) (k : JobKey),
      (kget (keysOf s d) ctx.toNat = some k) ∧
      (k.useAfter ≤ cueCount s d) :=
  ⟨{ given aPush with blg.keys := [(0, aKey)] }, .blg, 0, aKey, by decide +kernel, by decide +kernel⟩
theorem test_met_previousKeyErase :
    ∃ (s : State) (d : Side) (ctx : BitVec 16) (k : JobKey),
      (kget (keysOf s d) ctx.toNat = some k) ∧
      (k.inForce = true) ∧
      (k.useAfter + (sideRetry s d + 2) * sideE2E s d ≤ cueCount s d) :=
  ⟨{ given aPush with blg.keys := [(0, { aKey with inForce := true, prev := some 1 })], blg.cue := { count := 100000000 } }, .blg, 0, { aKey with inForce := true, prev := some 1 }, by decide +kernel, by decide +kernel, by decide +kernel⟩
theorem test_met_strikeSettle :
    ∃ (s : State) (p : Fin 16) (x : StrikeRun),
      (s.itv.sec.strikes.find? (fun x => x.part == p.val) = some x) ∧
      (x.lastDrop + 2 * s.itv.routing.maxFlight ≤ s.now) :=
  ⟨{ given aPush with itv.sec.strikes := [{ part := 2, slot := none, lastDrop := 0 }] }, 2, { part := 2, slot := none, lastDrop := 0 }, by decide +kernel, by decide +kernel⟩
theorem test_met_debugUnlock (token : Bytes) (ht : Config.debugTokenGood up.itv.fuse.serial token = true) :
    ∃ (s : State) (token : Bytes),
      (Config.debugTokenGood s.itv.fuse.serial token = true) :=
  ⟨up, token, by exact ht⟩

/-! SamplesGovernPowerAndGhostLight -/

theorem test_met_powerSample :
    ∃ (s : State) (real : Nat),
      (s.itv.boot.held = false) :=
  ⟨up, 500, by decide⟩
theorem test_met_powerSampleHeld :
    ∃ (s : State) (real : Nat),
      (s.itv.boot.held = true) :=
  ⟨{ up with itv.boot.held := true }, 500, by decide⟩
theorem test_met_ghostFloor :
    ∃ (p : Power) (r : Nat),
      (floorActive p = true) :=
  ⟨{ up.itv.pwr with therm := .floor }, 100, by decide⟩
theorem test_met_ghostTarget :
    ∃ (p : Power) (r : Nat),
      (floorActive p = false) ∧
      (p.beatMissing = false) :=
  ⟨{ up.itv.pwr with beatMissing := false }, 100, by decide +kernel, by decide +kernel⟩
theorem test_met_sprintAccount :
    ∃ (s : State),
      (s.itv.pwr.sprinting = false) :=
  ⟨up, by decide⟩
theorem test_met_sprintEnds :
    ∃ (s u : State),
      (u = { s with itv.pwr.sprint := if drawOf s.itv.pwr > 900 then s.itv.pwr.sprint - 10 else min (s.itv.pwr.sprint + 1) 20 }) ∧
      (s.itv.pwr.sprinting = true) ∧
      (sprintAllowed u = false) :=
  ⟨{ up with itv.pwr.sprinting := true }, _, by rfl, by rfl, by decide +kernel⟩
theorem test_met_capMissed :
    ∃ (s : State),
      (s.itv.pwr.capJudge = true) ∧
      (s.itv.pwr.capAt + 5000000 ≤ s.now) ∧
      (s.itv.pwr.cap < drawOf s.itv.pwr) :=
  ⟨{ up with itv.pwr.capJudge := true, now := 5000000, itv.pwr.samples := List.replicate 100 1300 }, by decide +kernel, by decide +kernel, by decide +kernel⟩
theorem test_met_capMet :
    ∃ (s : State),
      (s.itv.pwr.capJudge = true) ∧
      (s.itv.pwr.capAt + 5000000 ≤ s.now) ∧
      (drawOf s.itv.pwr ≤ s.itv.pwr.cap) :=
  ⟨{ up with itv.pwr.capJudge := true, now := 5000000 }, by decide +kernel, by decide +kernel, by decide +kernel⟩
theorem test_met_floorEnd :
    ∃ (s : State) (t : Nat),
      (s.itv.pwr.shedUntil = some t) ∧
      (t ≤ s.now) :=
  ⟨{ up with itv.pwr.shedUntil := some 0 }, 0, by decide, by decide⟩
theorem test_met_floorLeft :
    ∃ (s u : State),
      (floorActive s.itv.pwr = true) ∧
      (floorActive u.itv.pwr = false) :=
  ⟨{ up with itv.pwr.therm := .floor }, up, by decide, by decide⟩
theorem test_met_floorEntered :
    ∃ (s u : State),
      (floorActive u.itv.pwr = true) :=
  ⟨up, { up with itv.pwr.therm := .floor }, by decide⟩
theorem test_met_heartbeatLost :
    ∃ (s : State),
      (s.itv.pwr.beatMissing = false) ∧
      (s.itv.boot.yalny = true) ∧
      (s.itv.pwr.beatAt + 10000000000 ≤ s.now) :=
  ⟨{ up with now := 10000000000, itv.pwr.beatMissing := false, itv.pwr.beatAt := 0 }, by decide, by decide, by decide⟩
theorem test_met_coolantIn :
    ∃ (s : State) (v : Nat),
      (s.itv.pwr.sprinting = false) :=
  ⟨up, 300, by decide⟩
theorem test_met_coolantStaleEndsSprint :
    ∃ (s : State),
      (s.itv.pwr.sprinting = true) ∧
      (sprintAllowed s = false) :=
  ⟨{ up with itv.pwr.sprinting := true }, by decide +kernel, by decide +kernel⟩

/-! ThermalLimitsPinsAndRailsAct -/

theorem test_met_tjFloor :
    ∃ (s : State) (tj : Nat),
      (s.itv.boot.held = false) ∧
      (1050 ≤ tj ∧ tj < 1200) ∧
      (s.itv.pwr.therm = .normal ∨ s.itv.pwr.therm = .hot) :=
  ⟨up, 1050, by decide, by decide, by decide⟩
theorem test_met_tjHot :
    ∃ (s : State) (tj : Nat),
      (s.itv.boot.held = false) ∧
      (1000 ≤ tj ∧ tj < 1050) ∧
      (s.itv.pwr.therm = .normal) :=
  ⟨up, 1000, by decide, by decide, by decide⟩
theorem test_met_tjNormal :
    ∃ (s : State) (tj : Nat),
      (s.itv.boot.held = false) ∧
      (tj < 1000) ∧
      (s.itv.pwr.therm = .normal) :=
  ⟨up, 650, by decide, by decide, by decide⟩
theorem test_met_tjTrip :
    ∃ (s : State) (tj : Nat),
      (s.itv.boot.held = false) ∧
      (1200 ≤ tj) :=
  ⟨up, 1200, by decide, by decide⟩
theorem test_met_pwrShedN :
    ∃ (s : State),
      (s.itv.pwr.pinSince = none) :=
  ⟨up, by decide⟩
theorem test_met_pwrShedAgain :
    ∃ (s : State),
      (s.itv.pwr.pinSince.isSome = true) :=
  ⟨{ up with itv.pwr.pinSince := some 0 }, by decide⟩
theorem test_met_pwrShedRelease :
    ∃ (s : State) (t : Nat),
      (s.itv.pwr.pinSince = some t) :=
  ⟨{ up with itv.pwr.pinSince := some 0 }, 0, by decide⟩
theorem test_met_estimatorUpdate :
    ∃ (s : State) (e : EstInputs),
      (s.itv.boot.yalny = true) ∧
      (s.itv.mgmt.estAt + 3600000000000 ≤ s.now) :=
  ⟨{ up with now := 3600000000000, itv.mgmt.estAt := 0 }, { paceDrift := 0, serdesTrend := 0, correctedPerDay := 0, vddHigh := false }, by decide, by decide⟩

/-! StartUpGoesFromResetToReady -/

theorem test_met_resetReleased :
    ∃ (s : State) (strap : Bool),
      (s.itv.boot.held = true) ∧
      (s.itv.pwr.tripPin = false) :=
  ⟨{ State.reset with itv.boot.held := true }, false, by decide, by decide⟩
theorem test_met_resetHeldByTrip :
    ∃ (s : State) (strap : Bool),
      (s.itv.pwr.tripPin = true) :=
  ⟨{ State.reset with itv.pwr.tripPin := true }, false, by decide⟩
theorem test_met_romPasses :
    ∃ (s : State),
      (s.itv.boot.held = false) ∧
      (s.itv.boot.romDone = false) ∧
      (s.itv.boot.mode = .starting) ∧
      (s.itv.boot.lostA = false ∨ s.itv.boot.lostB = false) ∧
      (s.itv.boot.strapLow = false) :=
  ⟨booting, by decide, by decide, by decide, by decide, by decide⟩
theorem test_met_romGreenroom :
    ∃ (s : State) (ok : Bool),
      (s.itv.boot.held = false) ∧
      (s.itv.boot.romDone = false) ∧
      (s.itv.boot.mode = .starting) ∧
      (s.itv.boot.lostA = false ∨ s.itv.boot.lostB = false) ∧
      (s.itv.boot.strapLow = true ∨ ok = false) :=
  ⟨booting, false, by decide, by decide, by decide, by decide, by decide⟩
theorem test_met_loaderStarts :
    ∃ (s : State) (chk : SlotCheck) (f : Flash) (k : Nat),
      (s.itv.boot.held = false) ∧
      (s.itv.boot.romDone = true) ∧
      (s.itv.boot.loaderDone = false) ∧
      (s.itv.boot.mode = .starting) ∧
      (chooseSlot s.itv.flash chk = (f, some k, false)) :=
  ⟨romRun, { slot0 := true, slot1 := true }, romRun.itv.flash, 0, by decide +kernel, by decide +kernel, by decide +kernel, by decide +kernel, by decide +kernel⟩
theorem test_met_loaderFails :
    ∃ (s : State) (chk : SlotCheck) (f : Flash),
      (s.itv.boot.held = false) ∧
      (s.itv.boot.romDone = true) ∧
      (s.itv.boot.loaderDone = false) ∧
      (s.itv.boot.mode = .starting) ∧
      (chooseSlot s.itv.flash chk = (f, none, false)) :=
  ⟨romRun, { slot0 := false, slot1 := false }, romRun.itv.flash, by decide +kernel, by decide +kernel, by decide +kernel, by decide +kernel, by decide +kernel⟩
theorem test_met_slotChosen :
    ∃ (f : Flash) (chk : SlotCheck),
      (f.trialSlot = none) ∧
      (slotPasses f chk f.activeSlot = true) :=
  ⟨romRun.itv.flash, { slot0 := true, slot1 := true }, by decide, by decide⟩
theorem test_met_trialChosen :
    ∃ (f : Flash) (chk : SlotCheck) (t : Nat),
      (f.trialSlot = some t) ∧
      (f.trialArmed = true) ∧
      (slotPasses { f with trialArmed := false } chk t = true) :=
  ⟨{ romRun.itv.flash with trialSlot := some 0, trialArmed := true }, { slot0 := true, slot1 := true }, 0, by decide, by decide, by decide⟩
theorem test_met_yalnyStart :
    ∃ (s : State),
      (s.itv.boot.held = false) ∧
      (s.itv.boot.loaderDone = true) ∧
      (s.itv.boot.started = false) ∧
      (s.itv.boot.mode = .starting) :=
  ⟨loaded, by decide, by decide, by decide, by decide⟩
theorem test_met_stallsTrained :
    ∃ (s : State),
      (s.itv.boot.started = true) ∧
      (s.itv.boot.stallsTrained = false) ∧
      (s.itv.boot.stallsFailed = false) :=
  ⟨begun, by decide, by decide, by decide⟩
theorem test_met_stallsFail :
    ∃ (s : State),
      (s.itv.boot.started = true) ∧
      (s.itv.boot.stallsTrained = false) ∧
      (s.itv.boot.stallsFailed = false) :=
  ⟨begun, by decide, by decide, by decide⟩
theorem test_met_galleryTrained :
    ∃ (s : State) (p : Population),
      (s.itv.boot.started = true) ∧
      (s.itv.boot.galleryDone = false) ∧
      (supported p = true) :=
  ⟨begun, { perChannel := 1, mrdimm := false, gib := 32, mts := 6400 }, by decide, by decide, by decide⟩
theorem test_met_becomesReady :
    ∃ (s : State),
      (s.itv.boot.mode = .starting) ∧
      (s.itv.boot.yalny = true) ∧
      (s.itv.boot.stallsTrained = true ∧ s.itv.pool.stallsScrubbed = true ∨ s.itv.boot.stallsFailed = true) ∧
      (s.itv.boot.galleryDone = true) ∧
      (s.itv.boot.bookDone = true) :=
  ⟨{ begun with itv.boot.yalny := true, itv.boot.stallsFailed := true, itv.boot.galleryDone := true, itv.boot.bookDone := true }, by decide, by decide, by decide, by decide, by decide⟩
theorem test_met_originateAllowed :
    ∃ (s : State),
      (s.itv.boot.held = false) ∧
      (s.itv.boot.releasedAt + 200000000 ≤ s.now) :=
  ⟨{ begun with now := 200000000 }, by decide, by decide⟩
theorem test_met_originateTooSoon :
    ∃ (s : State),
      (s.now < s.itv.boot.releasedAt + 200000000) :=
  ⟨begun, by decide⟩

/-! PromptersRestartAndTrialsEnd -/

theorem test_met_watchdogExpiry :
    ∃ (s : State),
      (s.itv.boot.yalny = true) :=
  ⟨up, by decide⟩
theorem test_met_prompterRestart :
    ∃ (s : State) (chk : SlotCheck) (f : Flash) (k : Nat),
      (s.itv.boot.restarting = true) ∧
      (s.itv.boot.restartSlot = none) ∧
      (chooseSlot s.itv.flash chk = (f, some k, false)) ∧
      (s.itv.boot.mode ≠ .greenroom) :=
  ⟨{ up with itv.boot.restarting := true, itv.boot.mode := .switching }, { slot0 := true, slot1 := true }, up.itv.flash, 0, by decide +kernel, by decide +kernel, by decide +kernel, by decide +kernel⟩
theorem test_met_bowDeadline :
    ∃ (s : State),
      (s.itv.boot.bowPending = true) ∧
      (s.itv.boot.watchdogStopped = none) ∧
      (s.itv.boot.bowAt + 120000000000 ≤ s.now) :=
  ⟨{ up with itv.boot.bowPending := true, now := 120000000000 }, by decide, by decide, by decide⟩

/-! TheScriptRelayPassesImagesOn -/

theorem test_met_offerAgain :
    ∃ (s : State) (img : Img) (w : BitVec 16),
      (s.itv.relay.sending = some img) ∧
      (relayNext s.itv s.itv.relay.hop = some w) ∧
      (s.itv.relay.flowing = false) ∧
      (s.itv.relay.offerAt + 10000000000 ≤ s.now) :=
  ⟨relaying aLoad, anImg, 1, by decide, by decide, by decide, by decide⟩
theorem test_met_relaySkip :
    ∃ (s : State) (img : Img),
      (s.itv.relay.sending = some img) ∧
      (s.itv.relay.answerAt + 600000000000 ≤ s.now) :=
  ⟨relaying aLoad, anImg, by decide, by decide⟩
theorem test_met_windowAgain :
    ∃ (s : State) (img : Img) (w : BitVec 16),
      (s.itv.relay.sending = some img) ∧
      (relayNext s.itv s.itv.relay.hop = some w) ∧
      (s.itv.relay.flowing = true) ∧
      (s.itv.relay.windowAt + itvE2E s.itv ≤ s.now) :=
  ⟨{ relaying aLoad with itv.relay.flowing := true }, anImg, 1, by decide, by decide, by decide, by decide⟩
theorem test_met_ackGoesOn :
    ∃ (s : State) (f : Flit) (img : Img) (w : BitVec 16),
      (f ∈ s.itv.core.inbox) ∧
      (fromSuccessor (takeInbox s .itv f) f = some (img, w)) ∧
      (natAt f.payload 8 4 < img.body.length) :=
  ⟨relaying (relayF 0x403 7 0), relayF 0x403 7 0, anImg, 1, by decide +kernel, by decide +kernel, by decide +kernel⟩
theorem test_met_ackEnds :
    ∃ (s : State) (f : Flit) (img : Img) (w : BitVec 16),
      (f ∈ s.itv.core.inbox) ∧
      (fromSuccessor (takeInbox s .itv f) f = some (img, w)) ∧
      (img.body.length ≤ natAt f.payload 8 4) :=
  ⟨relaying (relayF 0x403 7 1), relayF 0x403 7 1, anImg, 1, by decide +kernel, by decide +kernel, by decide +kernel⟩
theorem test_met_haveEnds :
    ∃ (s : State) (f : Flit) (img : Img) (w : BitVec 16),
      (f ∈ s.itv.core.inbox) ∧
      (fromSuccessor (takeInbox s .itv f) f = some (img, w)) ∧
      (slice f.payload 16 48 = pad 48 img.digest) :=
  ⟨relaying (relayF 0x404 7 0), relayF 0x404 7 0, anImg, 1, by decide +kernel, by decide +kernel, by decide +kernel⟩
theorem test_met_refused :
    ∃ (s : State) (f : Flit),
      (f ∈ s.itv.core.inbox) :=
  ⟨relaying (relayF 0x405 7 0), relayF 0x405 7 0, by decide +kernel⟩
theorem test_met_offerTaken :
    ∃ (s : State) (f : Flit),
      (f ∈ s.itv.core.inbox) ∧
      (holdsDigest (takeInbox s .itv f).itv (slice f.payload 16 48) = none) ∧
      ((takeInbox s .itv f).itv.relay.receiving = false) ∧
      ((takeInbox s .itv f).itv.relay.sending = none) ∧
      ((takeInbox s .itv f).itv.relay.staging = none) ∧
      ((takeInbox s .itv f).itv.boot.bowPending = false) :=
  ⟨{ relaying (relayF 0x401 7 1) with itv.relay.sending := none, itv.flash.img0.st := .empty }, relayF 0x401 7 1, by decide +kernel, by decide +kernel, by decide +kernel, by decide +kernel, by decide +kernel, by decide +kernel⟩
theorem test_met_offerBusy :
    ∃ (s : State) (f : Flit),
      (f ∈ s.itv.core.inbox) ∧
      (holdsDigest (takeInbox s .itv f).itv (slice f.payload 16 48) = none) ∧
      ((takeInbox s .itv f).itv.relay.receiving = false) ∧
      ((takeInbox s .itv f).itv.boot.bowPending = true ∨ (takeInbox s .itv f).itv.relay.sending.isSome = true ∨
        (takeInbox s .itv f).itv.relay.staging.isSome = true) :=
  ⟨{ relaying (relayF 0x401 7 1) with itv.flash.img0.st := .empty }, relayF 0x401 7 1, by decide +kernel, by decide +kernel, by decide +kernel, by decide +kernel⟩
theorem test_met_dataTaken :
    ∃ (s : State) (f : Flit),
      (f ∈ s.itv.core.inbox) ∧
      (s.itv.relay.receiving = true) ∧
      (s.itv.relay.from_ = f.src) ∧
      (natAt f.payload 8 4 = s.itv.relay.got.length) ∧
      (s.itv.relay.got.length + 192 < s.itv.relay.total) ∧
      ((s.itv.relay.got ++ slice f.payload 16 192).length % 786432 ≠ 0) ∧
      ((s.itv.relay.got ++ slice f.payload 16 192).length < s.itv.relay.total) :=
  ⟨receiving (relayF 0x402 7 0), relayF 0x402 7 0, by decide +kernel, by decide +kernel, by decide +kernel, by decide +kernel, by decide +kernel, by decide +kernel, by decide +kernel⟩
theorem test_met_scriptStaged :
    ∃ (s : State) (slot : Nat) (img : Img),
      (s.itv.relay.staging = some (slot, img)) ∧
      (slot < 2) ∧
      (s.itv.relay.byRelay = false) :=
  ⟨{ relaying aLoad with itv.relay.staging := some (1, anImg) }, 1, anImg, by decide, by decide, by decide⟩
theorem test_met_stagingFails :
    ∃ (s : State) (slot : Nat) (img : Img),
      (s.itv.relay.staging = some (slot, img)) :=
  ⟨{ relaying aLoad with itv.relay.staging := some (1, anImg) }, 1, anImg, by decide⟩

/-! SessionsCarryCommandsAndSettings -/

theorem test_met_sessionOpens :
    ∃ (s : State),
      (mgmtServed s = true) ∧
      (s.itv.mgmt.sessions.length < 4) ∧
      (s.itv.flash.anchor.isSome = true ∨ inGreen s = true) :=
  ⟨{ up with itv.boot.held := false, itv.flash.anchor := some [] }, by decide +kernel, by decide +kernel, by decide +kernel⟩
theorem test_met_fifthCloses :
    ∃ (s : State) (ok : Bool),
      (mgmtServed s = true) ∧
      (4 ≤ s.itv.mgmt.sessions.length) :=
  ⟨{ up with itv.boot.held := false, itv.mgmt.sessions := [(0, {}), (1, {}), (2, {}), (3, {})] }, true, by decide +kernel, by decide +kernel⟩
theorem test_met_helloClaims :
    ∃ (s : State) (k : Nat) (seq : Word) (body : Bytes) (x : Session),
      (getSess s k = some x) ∧
      (x.hello = false) ∧
      (byteAt body 0 ≤ 1) ∧
      (firstSet body 1 7 = none) ∧
      (byteAt body 0 = 0 ∨ s.itv.mgmt.sessions.any (fun y => y.2.rack) = false) :=
  ⟨inSession {}, 0, 9, [1, 0, 0, 0, 0, 0, 0, 0], {}, by decide, by decide, by decide, by decide, by decide⟩
theorem test_met_secondRackCloses :
    ∃ (s : State) (k : Nat) (seq : Word) (body : Bytes) (x : Session),
      (getSess s k = some x) ∧
      (x.hello = false) ∧
      (byteAt body 0 = 1) ∧
      (firstSet body 1 7 = none) ∧
      (s.itv.mgmt.sessions.any (fun y => y.2.rack) = true) :=
  ⟨{ inSession {} with itv.mgmt.sessions := [(0, {}), (1, rackS)] }, 0, 9, [1, 0, 0, 0, 0, 0, 0, 0], {}, by decide, by decide, by decide, by decide, by decide⟩
theorem test_met_commandRuns :
    ∃ (s : State) (k : Nat) (seq : Word) (body : Bytes) (x : Session) (f : Cmd) (row : CmdRow),
      (getSess s k = some x) ∧
      (x.hello = true) ∧
      (8 + natAt body 4 4 ≤ body.length) ∧
      (natAt body 2 2 = 0) ∧
      (mgmtCmd (natAt body 0 2) (slice body 8 (natAt body 4 4)) = some f) ∧
      (rowOf (natAt body 0 2) = some row) ∧
      (inGreen s = false) ∧
      (mgmtServed s = true) ∧
      (x.cmds.length < 8) :=
  ⟨inSession plainS, 0, 9, [1, 0, 0, 0, 0, 0, 0, 0], plainS, identCmd, _, by rfl, by rfl, by decide, by decide, by rfl, by rfl, by decide, by decide +kernel, by decide⟩
theorem test_met_commandDenied :
    ∃ (s : State) (k : Nat) (seq : Word) (body : Bytes) (x : Session),
      (getSess s k = some x) ∧
      (x.hello = true) ∧
      (8 + natAt body 4 4 ≤ body.length) ∧
      (natAt body 2 2 = 0) ∧
      (mgmtCmd (natAt body 0 2) (slice body 8 (natAt body 4 4)) = none) :=
  ⟨inSession plainS, 0, 9, [1, 3, 0, 0, 0, 0, 0, 0], plainS, by rfl, by rfl, by decide, by decide, by rfl⟩
theorem test_met_heartbeat :
    ∃ (s : State) (k : Nat) (x : Session),
      (getSess s k = some x) ∧
      (x.hello = true) ∧
      (x.rack = true) ∧
      (s.itv.pwr.beatMissing = false) :=
  ⟨{ inSession rackS with itv.pwr.beatMissing := false }, 0, rackS, by decide, by decide, by decide, by decide⟩
theorem test_met_powerSet :
    ∃ (s : State) (k : Nat) (seq : Word) (body : Bytes) (x : Session) (v c : Option Nat),
      (getSess s k = some x) ∧
      (x.hello = true) ∧
      (x.rack = true) ∧
      (inGreen s = false) ∧
      (powerSetBad body = none) ∧
      (powerSetParts body = (v, c, none)) ∧
      (v.isSome = true ∨ c.isSome = true) :=
  ⟨inSession rackS, 0, 9, [2, 0, 0, 0] ++ leBytes 2 800 ++ zeros 10, rackS, none, some 800, by decide +kernel, by decide +kernel, by decide +kernel, by decide +kernel, by decide +kernel, by decide +kernel, by decide +kernel⟩
theorem test_met_powerSetRole :
    ∃ (s : State) (k : Nat) (seq : Word) (body : Bytes) (x : Session),
      (getSess s k = some x) ∧
      (x.hello = true) ∧
      (x.rack = false) :=
  ⟨inSession plainS, 0, 9, [], plainS, by decide, by decide, by decide⟩
theorem test_met_subscribe :
    ∃ (s : State) (k : Nat) (seq : Word) (body : Bytes) (x : Session),
      (getSess s k = some x) ∧
      (x.hello = true) ∧
      (inGreen s = false) ∧
      (subscribeBad body = none) :=
  ⟨inSession plainS, 0, 9, [1, 1, 0, 0, 100, 0, 0, 0], plainS, by decide +kernel, by decide +kernel, by decide +kernel, by decide +kernel⟩
theorem test_met_telemetrySnapshot :
    ∃ (s : State) (k : Nat) (x : Session),
      (getSess s k = some x) ∧
      (x.streams.getLsbD 4 = true) ∧
      (x.snapAt + x.period * 1000000 ≤ s.now) :=
  ⟨inSession { plainS with streams := 16, sets := 1, period := 100 }, 0, { plainS with streams := 16, sets := 1, period := 100 }, by decide, by decide, by decide⟩
theorem test_met_resultUnread :
    ∃ (s : State) (k : Nat) (t : Nat),
      ((getSess s k).bind (·.unread) = some t) ∧
      (t + 10000000000 ≤ s.now) :=
  ⟨inSession { plainS with unread := some 0 }, 0, 0, by decide, by decide⟩
theorem test_met_spdmBus :
    ∃ (s : State) (msg : Bytes),
      (mgmtServed s = true) :=
  ⟨{ up with itv.boot.held := false }, [], by decide +kernel⟩
theorem test_met_spdmSession :
    ∃ (s : State) (k : Nat) (msg : Bytes) (x : Session),
      (getSess s k = some x) ∧
      (x.hello = true) :=
  ⟨inSession plainS, 0, [], plainS, by decide, by decide⟩
theorem test_met_anchorSet (cert : Bytes) (hc : Config.isAnchorCert cert = true) :
    ∃ (s : State) (k : Nat) (seq : Word) (cert : Bytes) (x : Session),
      (getSess s k = some x) ∧
      (x.hello = true) ∧
      (inGreen s = false ∨ s.itv.flash.anchor = none) ∧
      (Config.isAnchorCert cert = true) :=
  ⟨inSession plainS, 0, 9, cert, plainS, by rfl, by rfl, by exact Or.inl rfl, by exact hc⟩
theorem test_met_unknownType :
    ∃ (s : State) (k typ : Nat) (seq : Word) (x : Session),
      (getSess s k = some x) ∧
      (x.hello = true) :=
  ⟨inSession plainS, 0, 0x77, 9, plainS, by decide, by decide⟩

/-! OnAnEmptyQueueOneNanosecondPasses -/

theorem test_met_idles :
    ∃ (s : State),
      (s.pending = []) :=
  ⟨State.reset, by decide⟩

/-! EveryStepKeepsTheFusesTheClockAndTheQueue -/

theorem test_met_keeps :
    ∃ (s t : State),
      (step s = .next t) :=
  ⟨State.reset, idle State.reset, by rfl⟩

/-! PoolMemoryReadsBackWhatIsWritten -/

theorem test_met_canonical :
    ∃ (m : Mem) (a n : Nat) (d : Bytes),
      (Memory.wf m = true) :=
  ⟨[(3, 7)], 2, 2, [1, 2], by decide⟩

/-! AFeatureNeedsTheOfferOfBothEnds -/

theorem test_met_enabled :
    ∃ (s : State) (r : PortRef) (o : Offer) (k : Nat),
      ((getPort s r).st = .offer) ∧
      ((getPort s r).features = 0) ∧
      ((getPort (modeChoice s r o) r).features.getLsbD k = true) :=
  ⟨{ named with itv.ports := named.itv.ports.set 3 { st := .offer } }, .itv 3, { aPartner with features := 7 }, 0, by decide +kernel, by decide +kernel, by decide +kernel⟩

/-! TheBowMakesTheTrialScriptActive -/

theorem test_met_bowEffect :
    ∃ (s : State) (t : Nat),
      (t < 2) ∧
      (s.itv.flash.activeSlot < 2) ∧
      (s.itv.flash.activeSlot ≠ t) :=
  ⟨up, 1, by decide, by decide, by decide⟩
theorem test_met_bowCallboard :
    ∃ (s : State) (n : Fin 8) (t : Nat),
      (posted s n 0x0603 []) ∧
      (s.itv.flash.trialSlot = some t) ∧
      (s.itv.boot.bowPending = true) ∧
      (s.itv.boot.watchdogStopped = none) :=
  ⟨post { up with itv.flash.trialSlot := some 1, itv.boot.bowPending := true } 1 0x603 [], 1, 1, by decide, by decide, by decide, by decide⟩
theorem test_met_bowSession :
    ∃ (s : State) (k : Nat) (seq : Word) (x : Session) (t : Nat),
      (getSess s k = some x) ∧
      (x.hello = true) ∧
      (inGreen s = false) ∧
      (mgmtServed s = true) ∧
      (x.cmds.length < 8) ∧
      (s.itv.flash.trialSlot = some t) ∧
      (s.itv.boot.bowPending = true) ∧
      (s.itv.boot.watchdogStopped = none) :=
  ⟨{ inSession plainS with itv.flash.trialSlot := some 1, itv.boot.bowPending := true }, 0, 9, plainS, 1, by rfl, by rfl, by decide +kernel, by decide +kernel, by decide, by rfl, by rfl, by rfl⟩

/-! AnEnabledCauseSendsOneIntr -/

theorem test_met_sends :
    ∃ (s : State) (i : Nat),
      (s.blg.cause.getLsbD i = false) ∧
      (s.blg.mask.getLsbD i = true) :=
  ⟨{ State.reset with blg.mask := 1 }, 0, by decide, by decide⟩
theorem test_met_repeats :
    ∃ (s : State) (i : Nat),
      (s.blg.cause.getLsbD i = true) :=
  ⟨{ State.reset with blg.cause := 1 }, 0, by decide⟩
theorem test_met_ownChannel :
    ∃ (s : State) (n : Nat),
      (n < 24) ∧
      ((getCh s n).up = true) :=
  ⟨given aLoad, 3, by decide, by decide⟩
theorem test_met_nextChannel :
    ∃ (s : State) (n j : Nat),
      (j < 24) ∧
      ((getCh s ((n + j) % 24)).up = true) ∧
      (∀ i < j, (getCh s ((n + i) % 24)).up = false) :=
  ⟨modCh (given aLoad) 3 (fun c => { c with up := false }), 3, 1, by decide +kernel, by decide +kernel, by decide +kernel⟩


/-! ## Terms that are not well formed, one for each check of WellFormed -/

theorem test_wf_flit : Instr.wf (.flitArrival (.itv 0) (zeros 255)) = false ∧ Instr.wf (.flitArrival (.itv 0) (zeros 256)) = true := by
  decide +kernel
theorem test_wf_frame : Instr.wf (.offerFrame (.blg 0) (zeros 65)) = false ∧ Instr.wf (.offerFrame (.blg 0) (zeros 64)) = true := by
  decide
theorem test_wf_payload : Instr.wf (.fence { kind := Kind.fence, payload := zeros 223 }) = false ∧
    Instr.wf (.fence { kind := Kind.fence, payload := zeros 224 }) = true := by decide
theorem test_wf_apron_tail : Instr.wf (.kstart 0 { typ := 9, tail := zeros 47 }) = false ∧ Instr.wf (.kstart 0 { typ := 9 }) = true := by
  decide
theorem test_wf_apron_data : Instr.wf (.apronStore 0 { typ := 2, data := zeros 32 }) = false ∧
    Instr.wf (.apronStore 0 { typ := 2, data := zeros 128 }) = true := by decide
theorem test_wf_word : Instr.wf (.apronCrcError 0 (zeros 63) 0) = false := by decide
theorem test_wf_block : Instr.wf (.cxlMemWrite 0 (zeros 63)) = false := by decide
theorem test_wf_align : Instr.wf (.align (.itv 0) { order := [], inverted := 0, skew := List.replicate 9 0 }) = false ∧
    Instr.wf (.align (.itv 0) { order := List.replicate 8 none, inverted := 0, skew := [] }) = false := by decide
theorem test_wf_dress : Instr.wf (.dressRehearsal (.itv 0) { crcFails := 0, threeCorr := 0, laneErrs := [] }
    { crcFails := 0, threeCorr := 0, laneErrs := List.replicate 8 0 }) = false := by decide
theorem test_wf_dress_partner : Instr.wf (.dressRehearsal (.itv 0) { crcFails := 0, threeCorr := 0, laneErrs := List.replicate 8 0 }
    { crcFails := 0, threeCorr := 0, laneErrs := [] }) = false := by decide
theorem test_wf_monitor : Instr.wf (.runningMonitor (.itv 0) { crcFails := 0, threeCorr := 0, laneErrs := [] }) = false := by decide
theorem test_wf_phase : Instr.wf (.phaseRecentre (.itv 0) [0]) = false := by decide
theorem test_wf_pace : Instr.wf (.paceUpdate (.die 0) [1]) = false ∧ Instr.wf (.paceUpdate .belug []) = false := by decide
theorem test_queue_wf : queueWf { State.reset with pending := [.flitArrival (.itv 0) []] } = false := by decide

/-! ## The manual's worked examples -/

/-- R29's example: plane 5, tier 2, index 82 is switch ID 0x2A52. -/
theorem test_swid_example : swidOf 5 1 82 = 0x2A52 ∧ swidOf 5 0 3 = 0x2803 ∧ swidOf 5 1 2 = 0x2A02 := by decide
/-- The chart entry of 22_management_plane.md for port 50, and the 318 credits of R102's example. -/
theorem test_chart_entry : parseChartPort (zeros 1728 ++ [1, 1, 2, 0x2A, 3, 0x1C, 3, 0, 0xB8, 0x0B, 8, 8] ++ zeros 20) 50 =
    { part := 1, up := true, peerId := 0x2A02, peerPort := 3, dressLog2 := 28, minMode := 3, length := 3000, modNear := 8, modFar := 8,
      weights := List.replicate 7 0 } := by decide +kernel
theorem test_credits : credOf { up with itv.routing.chart := some { aChart with
    ports := [{ part := 1, length := 3000, modNear := 8, modFar := 8 }] } } (.itv 0) = 318 := by decide +kernel
/-- 04_switch_core.md: 1,450 and 1,250 with one path retired. -/
theorem test_pace_retired : diePace { pace := 1450, retired := 1 } = 1268 ∧ diePace { pace := 1250, retired := 0x80 } = 1093 := by decide
/-- 09_collectives.md: 342 stripes; plane 7's stripe 175 moves to plane 8 when plane 7 leaves LIVE, and stripe 174 stays. -/
theorem test_stripes : stripeCount { d := { op := 1, opr := 1, fmt := 4, ofmt := 4, count := 33554432 }, n := 72 } = 342 ∧
    planeOf 0xFFFFFF 0xFFFFFF 175 = some 7 ∧ planeOf 0xFFFFFF 0xFFFF7F 175 = some 8 ∧ planeOf 0xFFFFFF 0xFFFF7F 174 = some 6 := by decide
/-- 10_reduction_arithmetic.md: 1 + 3 times 2^-9 in BF16, in both orders, and in FP32. -/
theorem test_bf16_sum :
    let l := ([0x3F80, 0x3B00, 0x3B00, 0x3B00].map (decodeFloat bf16)).foldl ledgerAdd (emptyLedger 320)
    let r := ([0x3B00, 0x3B00, 0x3B00, 0x3F80].map (decodeFloat bf16)).foldl ledgerAdd (emptyLedger 320)
    encodeFloat bf16 0 false (ledgerNum 0 l) = 0x3F81 ∧ encodeFloat bf16 0 false (ledgerNum 0 r) = 0x3F81 ∧
      encodeFloat fp32 0 false (ledgerNum 0 l) = 0x3F80C000 := by decide +kernel
/-- 10_reduction_arithmetic.md: 256 + 320 overflows E4M3; 460 does not. -/
theorem test_e4m3_overflow :
    let l := ([0x78, 0x7A].map (decodeFloat e4m3)).foldl ledgerAdd (emptyLedger 320)
    [encodeFloat e4m3 0 false (ledgerNum 0 l), encodeFloat e4m3 0 true (ledgerNum 0 l), encodeFloat e4m3 0 false (dyadic 460 0),
      encodeFloat e4m3 0 true (dyadic 460 0)] = [0x7E, 0x7F, 0x7E, 0x7E] := by decide +kernel
/-- 10_reduction_arithmetic.md: an MXFP8_E4M3 block of 1,000, 3 and -0.01. -/
theorem test_mx_block : mxBlock 0x08 0 [dyadic 1000 0, dyadic 3 0, dyadic (-10486) (-20), .zero false] =
    (0x80, [0x7E, 0x3C, 0x83, 0]) := by decide +kernel
/-- 10_reduction_arithmetic.md: the merge of m 3, s 2, o 1 with m 1, s 4, o -1. -/
theorem test_lse_merge :
    let d : Desc := { op := COp.lse, opr := 1, fmt := 2, ofmt := 2, count := 1 }
    let a := leBytes 4 0x40400000 ++ leBytes 4 0x40000000 ++ leBytes 4 0x3F800000
    let b := leBytes 4 0x3F800000 ++ leBytes 4 0x40800000 ++ leBytes 4 0xBF800000
    let M := maxNum (lseMax a) (lseMax b)
    let accs := List.zipWith ledgerMerge (lseAccs d M 1 a) (lseAccs d M 1 b)
    let r := lseResult d M accs 0 1
    [natAt r 0 4, natAt r 4 4, natAt r 8 4] = [0x40400000, 0x40400000, 0x3EAAAAAB] := by decide +kernel
/-- 12_wardrobe.md: the carve of 2,289 pages, its control page, pool 2's buffer 3, and the pool that serves 3,000 bytes. -/
theorem test_wardrobe :
    let c := [4096, 2048, 1024, 512, 256, 64, 32, 16]
    let w := newWardrobe 0x1000000000 0 c
    wardLen c = 2289 * 65536 ∧ controlPage w = 0x1008F00000 ∧ bufOffset w 2 3 = 0x1008803000 ∧ poolFor 3000 = 2 := by decide +kernel
/-- 14_belug_apron.md: a PUT to an address ending in 0x1050 of 1,000 bytes is 9 pieces. -/
theorem test_pieces : pieceCount ([1] ++ zeros 15 ++ leBytes 8 0x1050 ++ leBytes 8 1000 ++ zeros 32) = 9 := by decide +kernel
/-- 17_security.md: IV and associated data of seat 4's BULK_MSG to seat 17. -/
theorem test_iv :
    let f : Flit := { kind := Kind.bulkMsg, src := 4, dst := 17, ctx := 0x3007, seq := 0x01A2B }
    ivOf f 3 = [0x04, 0x00, 0x11, 0x00, 0x15, 0x2B, 0x1A, 0x00, 0x03, 0x00, 0x00, 0x00] ∧
      aadOf f = [0x07, 0x30, 0x04, 0x00, 0x11, 0x00, 0xD4, 0x15, 0x0D, 0x00] := by decide
/-- 17_security.md: the tweak of the block at offset 0x8_4031_4540 of pool node 0x0065. -/
theorem test_tweak : tweakOf { up.itv with routing.chart := some { aChart with swid := swidOf 5 0 0 } } (0x840314540 / 64) =
    0x194002100C515 := by decide +kernel
/-- 01_the_house.md: the node ID of that pool. -/
theorem test_pool_node : poolNode { up.itv with routing.chart := some { aChart with swid := swidOf 5 0 0 } } = 0x0065 := by decide +kernel
/-- 08_cue_and_curtain.md: stamp 5,000,000,000, echo residence 400, LINK_CTL at 5,000,000,412 received at 5,000,000,420: offset +2. -/
theorem test_cue_example :
    let s : State := { modPort up (.itv 0) (fun p => { p with stamps := [(61952, 5000000000, 0)], peerLevel := some 1 }) with
      itv.cue.count := 5000000420, itv.cue.parent := some 0, itv.cue.level := some 2, itv.cue.st := .locked }
    let f : Flit := { kind := Kind.svc,
                      payload := [0, 6, 1] ++ leBytes 3 400 ++ leBytes 2 61952 ++ leBytes 8 5000000412 ++ zeros 208 }
    (getPort (cueArrival s (.itv 0) f) (.itv 0)).offset = 2 := by decide +kernel

/-! ## One step each, on the rows a test can say something small about -/

/-- R36: the command at the front runs, and the queue keeps its rest. -/
theorem test_step_front : (match step { up with pending := [.resetN false true, .rootClaim] } with
    | .next t => t.pending
    | _ => []) = [.rootClaim] := by decide +kernel
/-- R681: a command handed over before Yalny starts is answered BUSY with SEQ_ECHO. -/
theorem test_busy_before_yalny : (match exec (.callboardHwAnswer 2) (post State.reset 2 1 []) with
    | .next t => ((getSlot t 2).stCode, (getSlot t 2).own)
    | _ => (0, true)) = (9, false) := by decide +kernel
/-- R562: an unknown CODE ends with BADARG and DETAIL 0xFFFF. -/
theorem test_unknown_code : (match exec (.unknownCommand 1) (post up 1 0x0999 []) with
    | .next t => ((getSlot t 1).stCode, (getSlot t 1).detail)
    | _ => (0, 0)) = (2, 0xFFFF) := by decide +kernel
/-- R12: IDENT takes no payload; LEN 1 ends with BADARG at offset 0. -/
theorem test_ident_len : (match exec (.ident 1) (post up 1 1 [0]) with
    | .next t => ((getSlot t 1).stCode, (getSlot t 1).detail)
    | _ => (0, 0)) = (2, 0) := by decide +kernel
/-- R543: EVENT_CAUSE is write-one-to-clear. -/
theorem test_event_cause : (match exec (.eventCauseWrite 1) { up with itv.cb.eventCause := 3 } with
    | .next t => t.itv.cb.eventCause
    | _ => 0) = 2 := by decide +kernel
/-- R525: weights that do not sum to 64 are refused. -/
theorem test_weights_refused : (match exec (.vcWeightWrite 1) up with
    | .next t => t.blg.vcWeight
    | _ => 0) = 0x040C0A0A040E0A := by decide +kernel
/-- R679: RESET_N low holds the chip. -/
theorem test_reset_n : (match exec (.resetN false true) up with
    | .next t => (t.itv.boot.held, t.itv.boot.yalny)
    | _ => (false, true)) = (true, false) := by decide +kernel
/-- The table gives no row bits: no word spells a command, and the state stands. -/
theorem test_no_bits : decodeTableWord 8 0 = none ∧ State.reset.withFetchWord 8 0 = State.reset := by decide +kernel

end Sys2Proof.Tests
end

section
/-! The house (01_the_house.md): what one step of the block does to its clock, its queue and the fuses of both chips. -/

namespace Sys2Proof.Machine

open Sys2Proof

/-! ## The two cases of a step -/

theorem step_of_pending_nil {s : State} (h : s.pending = []) : step s = .next (idle s) := by
  unfold step
  rw [h]

theorem step_of_pending_cons {s : State} {c : Instr} {cs : List Instr} (h : s.pending = c :: cs) :
    step s = exec c { s with pending := cs } := by
  unfold step
  rw [h]

/-! ## The key after a step -/

theorem idle_key_of_pending_nil {s : State} (h : s.pending = []) :
    (idle s).key = (s.now + 1, [], s.itv.fuse, s.blg.fuse) := by
  rw [idle_key, State.key, h]

/-- A command runs on the queue's rest and keeps it (`exec_key`), so it cannot write its own successor. -/
theorem exec_rest_key {s t : State} {c : Instr} {cs : List Instr} (h : exec c { s with pending := cs } = .next t) :
    t.key = (s.now, cs, s.itv.fuse, s.blg.fuse) := exec_key h

theorem step_key {s t : State} (h : step s = .next t) :
    t.key = (s.now + (if s.pending = [] then 1 else 0), s.pending.tail, s.itv.fuse, s.blg.fuse) := by
  cases hp : s.pending with
  | nil =>
    rw [step_of_pending_nil hp] at h
    obtain rfl : idle s = t := Host.Outcome.next.inj h
    exact idle_key_of_pending_nil hp
  | cons c cs =>
    rw [step_of_pending_cons hp] at h
    exact exec_rest_key h

/-! ## The statements -/

/-- Settles O45: the second case of a step. -/
theorem aStepRunsTheCommandAtTheFront : Obligations.AStepRunsTheCommandAtTheFront :=
  fun _ _ _ => step_of_pending_cons rfl

/-- Settles O47: the parts of `step_key`, by the two cases of a step. The tick of 1 ns on an empty queue is the model's choice
(log 1). The fuses are the fused maps, serials and fitted ports; ROLLBACK is a field of flash in this model (log 34). -/
theorem everyStepKeepsTheFusesTheClockAndTheQueue : Obligations.EveryStepKeepsTheFusesTheClockAndTheQueue := by
  intro s t h
  have hkey := step_key h
  simp only [State.key, Prod.mk.injEq] at hkey
  obtain ⟨hnow, hqueue, hitv, hblg⟩ := hkey
  exact ⟨hitv, hblg, hqueue, hnow⟩

end Sys2Proof.Machine
end

section
/-! The links (02_links.md): the rehearsal of a port, what each end offers, a port in service and the reference clocks. -/

namespace Sys2Proof.Machine

open Sys2Proof

/-! ## Guards, and a port under the shared operations -/

/-- A meaning whose guard holds does what it does. -/
theorem whenever_of {c : Bool} {s t : State} {f : State → State} (hc : c = true) (ht : f s = t) : whenever c s f = t :=
  (if_pos hc).trans ht

theorem next_congr {s t : State} (h : s = t) : (.next s : Res) = .next t := congrArg _ h

theorem passed_of_le {s : State} {t n : Nat} (h : t + n ≤ s.now) : passed s t n = true := decide_eq_true h

@[simp] theorem bumpPort_now (s : State) (r : PortRef) (c : PortCtr) (n : Nat) : (bumpPort s r c n).now = s.now := by
  cases r with
  | itv i => exact bump_now s _ n
  | blg i => exact bumpB_now s _ n

@[simp] theorem getPort_modPort (s : State) (r : PortRef) (f : Port → Port) : getPort (modPort s r f) r = f (getPort s r) :=
  getPort_setPort s r _

@[simp] theorem getPort_emit (s : State) (o : Out) (r : PortRef) : getPort (emit s o) r = getPort s r := by
  cases r <;> rfl

@[simp] theorem getPort_sendOffer (s : State) (r q : PortRef) : getPort (sendOffer s r) q = getPort s q := getPort_emit s _ q

theorem getPort_bumpB (s : State) (i n : Nat) (r : PortRef) : getPort (bumpB s i n) r = getPort s r := by
  unfold bumpB
  exact port_ite rfl (by cases r <;> rfl)

@[simp] theorem getPort_bumpPort (s : State) (q : PortRef) (c : PortCtr) (n : Nat) (r : PortRef) :
    getPort (bumpPort s q c n) r = getPort s r := by
  cases q with
  | itv i => exact bump_port s _ n r
  | blg i => exact getPort_bumpB s _ n r

/-- A change of state writes ST, REASON and the time; the count and the report of it leave the ports alone. -/
@[simp] theorem getPort_setSt (s : State) (r : PortRef) (st : LinkState) (why : Reason) :
    getPort (setSt s r st why) r = { getPort s r with st := st, reason := why, since := s.now } := by
  have hset := getPort_setPort s r { getPort s r with st := st, reason := why, since := s.now }
  unfold setSt
  refine ite_obs (getPort · r) hset ?_
  cases r with
  | itv i => exact (port_ite (event_port _ _ _) rfl).trans ((bump_port _ _ _ _).trans hset)
  | blg i => exact (port_ite (irq_port _ _ _) rfl).trans hset

/-! ## DARK to ALIGN -/

/-- An enabled port whose wait has passed leaves for DETECT (R48). -/
theorem portRetryOp_of_waited {s : State} {r : PortRef} (hst : (getPort s r).st = .dark ∨ (getPort s r).st = .down)
    (hen : (getPort s r).enabled = true) (hmay : mayRehearse s r = true) (href : refDead s (refSide r) = false)
    (hwait : (getPort s r).since + (getPort s r).waitMs * 1000000 ≤ s.now) :
    portRetryOp s r = setSt (modPort s r beginRehearsal) r .detect (getPort s r).reason := by
  unfold portRetryOp
  dsimp only
  refine whenever_of ?_ rfl
  rcases hst with h | h <;> simp [h, hen, hmay, href, passed_of_le hwait]

/-- Nothing sensed and no signal: no far end (R65). -/
theorem detectOp_of_nothing {s : State} {r : PortRef} (short : BitVec 9) (hst : (getPort s r).st = .detect) :
    detectOp s r ⟨short, 0, false⟩ =
      failTo (modPort s r (fun p => countLanes { p with shorted := short } short)) r .down .facing :=
  whenever_of (by rw [hst]; rfl) rfl

theorem detectOp_of_sensed {s : State} {r : PortRef} {o : DetectObs} (hst : (getPort s r).st = .detect)
    (hfar : o.term ≠ 0 ∨ o.signal = true) :
    detectOp s r o =
      (let bad := o.short ||| ~~~ o.term
       setSt (modPort s r (fun p => countLanes { p with shorted := o.short, txUse := ~~~ (bad.extractLsb' 0 8),
                                                        clkTx := if bad.getLsbD 8 then 3 else 0 } bad))
         r .clock (if o.short != 0 then .short else if bad != 0 then .opened else .none)) := by
  have hsensed : ¬ (decide (o.term = 0) && !o.signal) = true := by
    rcases hfar with h | h
    · rw [decide_eq_false h]
      exact Bool.false_ne_true
    · rw [h, Bool.not_true, Bool.and_false]
      exact Bool.false_ne_true
  unfold detectOp
  exact whenever_of (by rw [hst]; rfl) (if_neg hsensed)

/-- Both directions on their clock lane (R47). -/
theorem clockOp_of_clockLanes {s : State} {r : PortRef} (hst : (getPort s r).st = .clock) (htx : (getPort s r).clkTx ≠ 3) :
    clockOp s r ⟨true, true, true, true⟩ =
      setSt (modPort s r (fun p => countLanes { p with clkRx := 0, clkTx := 0 } 0)) r .align (getPort s r).reason := by
  unfold clockOp
  dsimp only
  refine whenever_of (by rw [hst]; rfl) ?_
  simp [htx]

/-- No edge on any lane of the receive direction: no clock source (R42). -/
theorem clockOp_of_noSource {s : State} {r : PortRef} (tx : Bool) (hst : (getPort s r).st = .clock) :
    clockOp s r ⟨false, false, false, tx⟩ =
      (let c := if tx && (getPort s r).clkTx != 3 then 0 else standinOf (getPort s r).txUse
       failTo (modPort s r (fun p => countLanes { p with clkRx := 3, clkTx := c } 0x100)) r .down .clockLane) := by
  unfold clockOp
  dsimp only
  exact whenever_of (by rw [hst]; rfl) rfl

theorem alignOp_of_order {s : State} {r : PortRef} {o : AlignObs} (hst : (getPort s r).st = .align)
    (hord : ((seenLanes o.order).all (fun x => x.2 == x.1) || (seenLanes o.order).all (fun x => x.2 == 7 - x.1)) = true) :
    alignOp s r o =
      (let seen := seenLanes o.order
       let use : BitVec 8 := seen.foldl (fun m x => setBit m x.2 true) 0
       let lost : BitVec 9 := (~~~ use).setWidth 9
       let t := modPort s r (fun p => countLanes
         { p with rxUse := use &&& ~~~ p.rxOut, inverted := o.inverted,
                  reversed := (!seen.all (fun x => x.2 == x.1) && seen.all (fun x => x.2 == 7 - x.1)),
                  skew := o.skew, heard := [], copies := 0, ackSent := false, ackSeen := false } lost)
       sendOffer (setSt t r .offer (if use != 0xFF then .opened else (getPort s r).reason)) r) := by
  unfold alignOp
  dsimp only
  refine whenever_of (by rw [hst]; rfl) (if_neg ?_)
  rw [← Bool.not_or, hord]
  exact Bool.false_ne_true

theorem alignOp_of_noOrder {s : State} {r : PortRef} {o : AlignObs} (hst : (getPort s r).st = .align)
    (hstraight : (seenLanes o.order).all (fun x => x.2 == x.1) = false)
    (hrev : (seenLanes o.order).all (fun x => x.2 == 7 - x.1) = false) :
    alignOp s r o = failTo s r .dark .laneOrder := by
  unfold alignOp
  dsimp only
  refine whenever_of (by rw [hst]; rfl) (if_pos ?_)
  rw [hstraight, hrev]
  rfl

/-! ## OFFER and NAMES -/

/-- A frame of 64 bytes (R51). -/
theorem exec_offerFrame {s : State} {r : PortRef} {b : Bytes} (hlen : b.length = 64) :
    exec (.offerFrame r b) s = .next (offerFrameOp s r b) := if_pos hlen

/-- A frame of another length is no command of the block (log 59). -/
theorem exec_offerFrame_illFormed {s : State} {r : PortRef} {b : Bytes} (hlen : b.length ≠ 64) :
    exec (.offerFrame r b) s = .fault .illFormed := if_neg hlen

/-- A flit of another length is no command of the block (log 59). -/
theorem exec_flitArrival_illFormed {s : State} {r : PortRef} {raw : Bytes} (hlen : raw.length ≠ 256) :
    exec (.flitArrival r raw) s = .fault .illFormed := if_neg hlen

/-- The states in which a port hears offer frames (R51, R769). -/
theorem hearsFrames_of {st : LinkState} (h : st = .offer ∨ st = .names ∨ st = .held) :
    (st == .offer || st == .names || st == .held) = true := by
  rcases h with rfl | rfl | rfl <;> rfl

section
variable {s : State} {r : PortRef} {b : Bytes}
  (hst : (getPort s r).st = .offer ∨ (getPort s r).st = .names ∨ (getPort s r).st = .held)
include hst

theorem offerFrameOp_of_bad (hbad : offerGood b = false) :
    offerFrameOp s r b = modPort s r (fun p => { p with heard := [], copies := 0 }) := by
  unfold offerFrameOp
  dsimp only
  exact whenever_of (hearsFrames_of hst) (if_pos (by rw [hbad]; rfl))

/-- A good copy is counted, and the eighth identical one is accepted. -/
theorem offerFrameOp_of_good (hgood : offerGood b = true) :
    offerFrameOp s r b =
      (let n := if b = (getPort s r).heard then (getPort s r).copies + 1 else 1
       let t := modPort s r (fun p => { p with heard := b, copies := n })
       if n = 8 then acceptOffer t r (parseOffer b) else t) := by
  unfold offerFrameOp
  dsimp only
  exact whenever_of (hearsFrames_of hst) (if_neg (by rw [hgood]; exact Bool.false_ne_true))

theorem offerFrameOp_of_counted (hgood : offerGood b = true) (hcount : b ≠ (getPort s r).heard ∨ (getPort s r).copies + 1 ≠ 8) :
    offerFrameOp s r b = modPort s r (fun p =>
      { p with heard := b, copies := if b = (getPort s r).heard then (getPort s r).copies + 1 else 1 }) := by
  refine (offerFrameOp_of_good hst hgood).trans (if_neg ?_)
  split
  · next hsame => exact hcount.resolve_left (not_not_intro hsame)
  · decide

theorem offerFrameOp_of_eighth (hgood : offerGood b = true) (hsame : b = (getPort s r).heard) (hseven : (getPort s r).copies = 7) :
    offerFrameOp s r b = acceptOffer (modPort s r (fun p => { p with heard := b, copies := 8 })) r (parseOffer b) := by
  have hn : (if b = (getPort s r).heard then (getPort s r).copies + 1 else 1) = 8 := by rw [if_pos hsame, hseven]
  refine (offerFrameOp_of_good hst hgood).trans ((if_pos hn).trans ?_)
  rw [hn]

end

/-- Without a chart no partner matches (R58). -/
theorem chart_loaded_of_itvMatches {v : Itvos} {n : Nat} {o : Offer} (h : itvMatches v n o = true) :
    v.routing.chart.isNone = false := by
  cases hc : v.routing.chart with
  | none => simp [itvMatches, chartPort, hc] at h
  | some c => rfl

/-- The check of the names at an Itvos port (R58, R59, R769). -/
theorem namesOp_itv {s : State} {i : Fin 72} {o : Offer} (hp : (getPort s (.itv i)).partner = some o)
    (hst : (getPort s (.itv i)).st = .names) (hv : (getPort s (.itv i)).verdict = 0) :
    namesOp s (.itv i) =
      if s.itv.routing.chart.isNone then holdPort s (.itv i) .noChart
      else if itvMatches s.itv i.val o then passNames (namesHook s i.val o) (.itv i)
      else holdPort s (.itv i) .miswired := by
  unfold namesOp
  simp only [hp]
  exact whenever_of (by rw [hst, hv]; rfl) rfl

theorem namesOp_itv_of_match {s : State} {i : Fin 72} {o : Offer} (hp : (getPort s (.itv i)).partner = some o)
    (hst : (getPort s (.itv i)).st = .names) (hv : (getPort s (.itv i)).verdict = 0) (hm : itvMatches s.itv i.val o = true) :
    namesOp s (.itv i) = passNames (namesHook s i.val o) (.itv i) := by
  rw [namesOp_itv hp hst hv, chart_loaded_of_itvMatches hm, hm]
  rfl

theorem namesOp_itv_of_mismatch {s : State} {i : Fin 72} {o : Offer} (hp : (getPort s (.itv i)).partner = some o)
    (hst : (getPort s (.itv i)).st = .names) (hv : (getPort s (.itv i)).verdict = 0) (hm : itvMatches s.itv i.val o = false) :
    namesOp s (.itv i) = holdPort s (.itv i) (if s.itv.routing.chart.isNone then .noChart else .miswired) := by
  rw [namesOp_itv hp hst hv, hm]
  split <;> rfl

/-- The first port of Belug to pass its names fixes the node ID, the plane count and FORM (R60). -/
theorem namesOp_blg_of_first {s : State} {i : Fin 24} {o : Offer} (hp : (getPort s (.blg i)).partner = some o)
    (hst : (getPort s (.blg i)).st = .names) (hv : (getPort s (.blg i)).verdict = 0) (hm : blgMatches i.val o = true)
    (hfirst : s.blg.planes = none) :
    namesOp s (.blg i) = passNames { s with blg := adopt s.blg o } (.blg i) := by
  unfold namesOp
  simp only [hp]
  refine whenever_of (by rw [hst, hv]; rfl) ?_
  simp only [hm, hfirst, Bool.not_true, Bool.false_eq_true, if_false]

theorem shiftOp_of_shift {s : State} {r : PortRef} (hst : (getPort s r).st = .shift) :
    shiftOp s r = setSt s r .tune (getPort s r).reason := whenever_of (by rw [hst]; rfl) rfl

/-! ## What each end offers -/

@[simp] theorem ownOffer_blg_features (s : State) (q : Fin 24) : (ownOffer s (.blg q)).features = 7 := rfl

/-- FEC_BYPASS of the chart's entry for port `n`, off without one (R53). -/
def chartBypass (v : Itvos) (n : Nat) : Bool := ((chartPort v n).map (·.fecBypass)).getD false

theorem chartBypass_eq (v : Itvos) (n : Nat) : ((chartPort v n).getD {}).fecBypass = chartBypass v n := by
  unfold chartBypass
  cases chartPort v n <;> rfl

/-- The four feature bits of an Itvos port, from bit 0 up: ENC, CHORUS, PRINCIPAL, FEC_BYPASS. -/
theorem ownOffer_itv_features (s : State) (p : Fin 72) :
    (ownOffer s (.itv p)).features =
      0#4 ++ BitVec.ofBool (chartBypass s.itv p.val) ++ 1#1 ++ BitVec.ofBool (holdsChorus s.itv) ++ 1#1 := by
  have hval : (ownOffer s (.itv p)).features =
      BitVec.ofNat 8 (1 + 2 * b2n (holdsChorus s.itv) + 4 + 8 * b2n ((chartPort s.itv p.val).getD {}).fecBypass) := rfl
  rw [hval, chartBypass_eq]
  cases holdsChorus s.itv <;> cases chartBypass s.itv p.val <;> rfl

/-! ## The features of a link -/

theorem failAttempt_features (s : State) (r : PortRef) (st : LinkState) (why : Reason) :
    (getPort (failAttempt s r st why) r).features = (getPort s r).features := by
  simp [failAttempt]

/-- An attempt that fails outside READY leaves the features of the port. -/
theorem failTo_features {s : State} {r : PortRef} (st : LinkState) (why : Reason) (h : (getPort s r).st ≠ .ready) :
    (getPort (failTo s r st why) r).features = (getPort s r).features := by
  rw [failTo, if_neg h, failAttempt_features]

/-- The end of OFFER enables what both ends offer, or the attempt fails and the features stay (R53). -/
theorem modeChoice_features {s : State} {r : PortRef} (o : Offer) (h : (getPort s r).st ≠ .ready) :
    (getPort (modeChoice s r o) r).features = (getPort s r).features ∨
      (getPort (modeChoice s r o) r).features = BitVec.ofNat 4 ((ownOffer s r).features.toNat &&& o.features.toNat) := by
  unfold modeChoice
  extract_lets p own minM rates uTx uRx rev
  split
  · exact .inl (failTo_features _ _ h)
  · split
    · extract_lets rate
      split
      · refine .inr ?_
        cases r with
        | blg i => simp [own]
        | itv i =>
          dsimp only
          split <;> simp [own]
      · exact .inl (failTo_features _ _ h)
    · exact .inl (failTo_features _ _ h)

/-- A bit of what both ends offer is a bit of each offer. -/
theorem bits_of_bothOffer {a b : BitVec 8} {k : Nat} (h : (BitVec.ofNat 4 (a.toNat &&& b.toNat)).getLsbD k = true) :
    a.getLsbD k = true ∧ b.getLsbD k = true := by
  rw [BitVec.getLsbD_ofNat, Nat.testBit_and, BitVec.testBit_toNat, BitVec.testBit_toNat, Bool.and_eq_true, Bool.and_eq_true] at h
  exact h.2

/-! ## SHIFT to READY -/

theorem tapRequestOp_of_tune {s : State} {r : PortRef} (l : Fin 9) (pre post : BitVec 2) (hst : (getPort s r).st = .tune) :
    tapRequestOp s r l pre post =
      (let t := (getPort s r).taps.getD l.val (4, 8)
       let a := tapStep t.1 16 4 pre
       let c := tapStep t.2 24 8 post
       emit (modPort s r (fun p => { p with taps := p.taps.set l.val (a.1, c.1) })) (.tapAnswer r l.val a.2 0 c.2)) := by
  unfold tapRequestOp
  dsimp only
  exact whenever_of (by rw [hst]; rfl) rfl

/-- A tap stays within its range (R44). -/
theorem tapStep_le {v lim start : Nat} (req : BitVec 2) (hv : v ≤ lim) (hstart : start ≤ lim) :
    (tapStep v lim start req).1 ≤ lim := by
  unfold tapStep
  split_ifs <;> simp only <;> omega

theorem tuneDoneOp_of_tune {s : State} {r : PortRef} (hst : (getPort s r).st = .tune) :
    tuneDoneOp s r = setSt s r .dress (getPort s r).reason := whenever_of (by rw [hst]; rfl) rfl

theorem tuneTimeoutOp_of_late {s : State} {r : PortRef} (hst : (getPort s r).st = .tune)
    (hlate : (getPort s r).since + 20000000 ≤ s.now) : tuneTimeoutOp s r = setSt s r .dress (getPort s r).reason := by
  unfold tuneTimeoutOp
  dsimp only
  exact whenever_of (by rw [hst, passed_of_le hlate]; rfl) rfl

theorem dressOp_of_pass {s : State} {r : PortRef} {own other : DressObs} (hst : (getPort s r).st = .dress)
    (hrx : dressPass (getPort s r).dressLog2 own = true) (htx : dressPass (getPort s r).dressLog2 other = true) :
    dressOp s r own other = enterReady s r := by
  unfold dressOp
  dsimp only
  exact whenever_of (by rw [hst]; rfl) (if_pos (by rw [hrx, htx]; rfl))

section
variable {s : State} {r : PortRef} {own other : DressObs} (hst : (getPort s r).st = .dress)
  (hrx : dressPass (getPort s r).dressLog2 own = false) (hlane : fallbackLane ((getPort s r).modeRx.getD 11) own = none)
  (htx : dressPass (getPort s r).dressLog2 other = true)
include hst hrx hlane htx

/-- This receiver fails with no lane to blame: the next lower rate (R63). -/
theorem dressOp_of_lowerRate {k : Nat} (hrate : nextRate (getPort s r) (ownOffer s r) = some k) :
    dressOp s r own other = refit s r k := by
  unfold dressOp
  dsimp only
  refine whenever_of (by rw [hst]; rfl) ?_
  simp [hrx, hlane, htx, hrate]

/-- The same at the lowest rate of both ends (R63). -/
theorem dressOp_of_lowestRate (hrate : nextRate (getPort s r) (ownOffer s r) = none) :
    dressOp s r own other = failTo s r .down .dress := by
  unfold dressOp
  dsimp only
  refine whenever_of (by rw [hst]; rfl) ?_
  simp [hrx, hlane, htx, hrate]

end

/-- A state's timeout takes the port to DARK (R47). -/
theorem rehearsalTimeoutOp_of_late {s : State} {r : PortRef} {t : Nat} (ht : stateTimeout (getPort s r) = some t)
    (hlate : (getPort s r).since + t ≤ s.now) : rehearsalTimeoutOp s r = failTo s r .dark (getPort s r).reason := by
  unfold rehearsalTimeoutOp
  simp only [ht]
  exact whenever_of (passed_of_le hlate) rfl

/-! ## In service -/

section
variable {s : State} {r : PortRef} {o : DressObs} (hst : (getPort s r).st = .ready) (hfails : 64 < o.crcFails)
include hst hfails

/-- More than 64 failed flits in 1 s with a lane to blame: from ALIGN at the present rate without it (R64). -/
theorem runningMonitorOp_of_worstLane {l : Nat} (hlane : fallbackLane ((getPort s r).modeRx.getD 11) o = some l) :
    runningMonitorOp s r o =
      modPort (realign (laneRetired s r) r (currentRate (getPort s r))) r (fun p =>
        { p with rxUse := setBit p.rxUse l false, rxOut := setBit p.rxOut l true }) := by
  unfold runningMonitorOp
  dsimp only
  refine whenever_of (by simp [hst, hfails]) ?_
  simp only [hlane]

/-- More than 64 failed flits in 1 s with no lane to blame: from ALIGN at the next lower rate (R64). -/
theorem runningMonitorOp_of_lowerRate {k : Nat} (hlane : fallbackLane ((getPort s r).modeRx.getD 11) o = none)
    (hrate : nextRate (getPort s r) (ownOffer s r) = some k) : runningMonitorOp s r o = realign s r k := by
  unfold runningMonitorOp
  dsimp only
  refine whenever_of (by simp [hst, hfails]) ?_
  simp only [hlane, hrate]

end

theorem phaseRecentreOp_of_ready {s : State} {r : PortRef} (xs : List Int) (hst : (getPort s r).st = .ready) :
    phaseRecentreOp s r xs =
      modPort s r (fun p => { p with phase := (List.range 8).map (fun i => p.phase.getD i 0 + xs.getD i 0) }) :=
  whenever_of (by rw [hst]; rfl) rfl

theorem shortProbeOp_of_clear {s : State} {r : PortRef} {l : Fin 9} (hshort : (getPort s r).shorted.getLsbD l.val = true) :
    shortProbeOp s r l false = modPort s r (fun p => { p with shorted := setBit p.shorted l.val false }) :=
  congrArg (setPort s r) (if_pos (by rw [hshort]; rfl))

/-- The loss of the clock lane in READY: the first is waited out, one on a stand-in ends READY (R168). -/
theorem clockLossOp_of_ready {s : State} {r : PortRef} (hst : (getPort s r).st = .ready) (hlost : (getPort s r).clockLost = false) :
    clockLossOp s r =
      if (getPort s r).standin then leaveReady (bumpPort s r .clockDiscard 1) r .dark .clockLane
      else modPort (bumpPort s r .clockDiscard 1) r (fun p => countLanes
        { p with clockLost := true, lostAt := s.now, excluded := true, ctlDue := p.ctlDue ++ [2] } 0x100#9) := by
  unfold clockLossOp
  simp only [hst, hlost, Bool.false_eq_true, if_false, bumpPort_now]

theorem standinTimeoutOp_of_late {s : State} {r : PortRef} (hst : (getPort s r).st = .ready)
    (hlost : (getPort s r).clockLost = true) (hlate : (getPort s r).lostAt + 100000 ≤ s.now) :
    standinTimeoutOp s r = leaveReady s r .dark .clockLane := by
  unfold standinTimeoutOp
  dsimp only
  exact whenever_of (by rw [hst, hlost, passed_of_le hlate]; rfl) rfl

/-! ## Reference clocks -/

/-- With both inputs lost for 100 µs, every enabled port goes DOWN with REFCLK (R72). -/
theorem refclkHoldoverEndOp_of_late {s : State} {d : Side} {t : Nat} (ht : (getRef s d).2.2.2 = some t) (hlate : t + 100000 ≤ s.now) :
    refclkHoldoverEndOp s d =
      (sideRefs d).foldl (fun t r => if (getPort t r).enabled then moveTo t r .down .refclk else t) s := by
  unfold refclkHoldoverEndOp
  simp only [ht]
  exact whenever_of (passed_of_le hlate) rfl

/-- Input A of Belug lost while the PLLs run on it and B is there (R70). -/
theorem refclkLossOp_blg_of_inUse {s : State} (ha : s.blg.lostA = false) (hb : s.blg.lostB = false) (hu : s.blg.useB = false) :
    refclkLossOp s .blg false = { s with blg.lostA := true, blg.lostB := false, blg.useB := true, blg.bothLost := none } := by
  simp [refclkLossOp, getRef, setRef, ha, hb, hu]

/-- Input B of Belug lost after A: holdover, on the input in use (R72). -/
theorem refclkLossOp_blg_of_last {s : State} (ha : s.blg.lostA = true) (hb : s.blg.lostB = false) (hboth : s.blg.bothLost = none) :
    refclkLossOp s .blg true = { s with blg.lostA := true, blg.lostB := true, blg.bothLost := some s.now } := by
  simp [refclkLossOp, getRef, setRef, ha, hb, hboth]

/-- Input A of Itvos lost while B is there: counted, and CLOCK follows (R70). -/
theorem refclkLossOp_itv_of_first {s : State} (ha : s.itv.boot.lostA = false) (hb : s.itv.boot.lostB = false) :
    refclkLossOp s .itv false =
      (let t := { s with itv.boot.lostA := true, itv.boot.lostB := false, itv.boot.useB := true, itv.boot.bothLost := none }
       noteState s (bump t (coreIdx 0 19) 1)) := by
  simp [refclkLossOp, getRef, setRef, ha, hb]

/-- The return of input A outside holdover: no switch back (R71). -/
theorem refclkReturnOp_blg_of_one {s : State} (hboth : s.blg.bothLost = none) :
    refclkReturnOp s .blg false = { s with blg.lostA := false, blg.bothLost := none } := by
  simp [refclkReturnOp, getRef, setRef, hboth]

/-- The return of input A in holdover: the PLLs take it, and the ports that went DOWN for REFCLK begin again (R72). -/
theorem refclkReturnOp_blg_of_holdover {s : State} {t : Nat} (hboth : s.blg.bothLost = some t) :
    refclkReturnOp s .blg false =
      blgRefs.foldl (fun t r =>
        let p := getPort t r
        if p.st = .down ∧ p.reason = .refclk then modPort (setSt t r .dark .none) r (fun p => { p with waitMs := 0 }) else t)
        { s with blg.lostA := false, blg.useB := false, blg.bothLost := none } := by
  simp [refclkReturnOp, getRef, setRef, sideRefs, hboth]

/-! ## The state right after reset -/

theorem reset_itv_port (p : Fin 72) : State.reset.itv.ports.get p = { tokens := 6 } := Vector.getElem_replicate p.isLt

theorem reset_blg_port (p : Fin 24) : State.reset.blg.ports.get p = {} := Vector.getElem_replicate p.isLt

/-! ## The statements -/

/-- Settles O15: one lemma for each state a rehearsal goes through. A DOWN port retries as a DARK one does (log 37). -/
theorem rehearsalGoesThroughItsStates : Obligations.RehearsalGoesThroughItsStates := by
  refine ⟨?retry, ?facing, ?sensed, ?locked, ?noClock, ?aligned, ?misordered, ?counted, ?accepted, ?bad, ?named,
    ?held, ?adopted, ?shifted⟩
  case retry => exact fun _ _ hst hen hmay href hwait => next_congr (portRetryOp_of_waited hst hen hmay href hwait)
  case facing => exact fun _ _ short hst => next_congr (detectOp_of_nothing short hst)
  case sensed => exact fun _ _ _ hst hfar => next_congr (detectOp_of_sensed hst hfar)
  case locked => exact fun _ _ hst htx => next_congr (clockOp_of_clockLanes hst htx)
  case noClock => exact fun _ _ tx hst => next_congr (clockOp_of_noSource tx hst)
  case aligned => exact fun _ _ _ hst hord => next_congr (alignOp_of_order hst hord)
  case misordered => exact fun _ _ _ hst hstraight hrev => next_congr (alignOp_of_noOrder hst hstraight hrev)
  case counted =>
    exact fun _ _ _ hlen hst hgood hcount => (exec_offerFrame hlen).trans (next_congr (offerFrameOp_of_counted hst hgood hcount))
  case accepted =>
    exact fun _ _ _ hlen hst hgood hsame hseven =>
      (exec_offerFrame hlen).trans (next_congr (offerFrameOp_of_eighth hst hgood hsame hseven))
  case bad => exact fun _ _ _ hlen hst hbad => (exec_offerFrame hlen).trans (next_congr (offerFrameOp_of_bad hst hbad))
  case named => exact fun _ _ _ hp hst hv hm => next_congr (namesOp_itv_of_match hp hst hv hm)
  case held => exact fun _ _ _ hp hst hv hm => next_congr (namesOp_itv_of_mismatch hp hst hv hm)
  case adopted => exact fun _ _ _ hp hst hv hm hfirst => next_congr (namesOp_blg_of_first hp hst hv hm hfirst)
  case shifted => exact fun _ _ hst => next_congr (shiftOp_of_shift hst)

/-- Settles O16: the guard of each of the two arrivals (log 59). -/
theorem illFormedArrivalsFault : Obligations.IllFormedArrivalsFault :=
  ⟨fun _ _ _ => exec_offerFrame_illFormed, fun _ _ _ => exec_flitArrival_illFormed⟩

/-- Settles O17: one lemma for each row from TUNE on. The third tap answer, and a clock loss that fails no attempt, are
the model's (log 37). -/
theorem tuningDressAndServiceOfAPort : Obligations.TuningDressAndServiceOfAPort := by
  refine ⟨?tap, ?tapRange, ?tuned, ?tuneLate, ?passed, ?lowerRate, ?lowestRate, ?timeout, ?laneOut, ?monitorRate, ?phase, ?probe,
    ?clockLost, ?standinLost, ?standinLate⟩
  case tap => exact fun _ _ l pre _ post hst => next_congr (tapRequestOp_of_tune l pre post hst)
  case tapRange => exact fun _ _ _ req hv hstart => tapStep_le req hv hstart
  case tuned => exact fun _ _ hst => next_congr (tuneDoneOp_of_tune hst)
  case tuneLate => exact fun _ _ hst hlate => next_congr (tuneTimeoutOp_of_late hst hlate)
  case passed => exact fun _ _ _ _ hst hrx htx => next_congr (dressOp_of_pass hst hrx htx)
  case lowerRate => exact fun _ _ _ _ _ hst hrx hlane htx hrate => next_congr (dressOp_of_lowerRate hst hrx hlane htx hrate)
  case lowestRate => exact fun _ _ _ _ hst hrx hlane htx hrate => next_congr (dressOp_of_lowestRate hst hrx hlane htx hrate)
  case timeout => exact fun _ _ _ ht hlate => next_congr (rehearsalTimeoutOp_of_late ht hlate)
  case laneOut => exact fun _ _ _ _ hst hfails hlane => next_congr (runningMonitorOp_of_worstLane hst hfails hlane)
  case monitorRate => exact fun _ _ _ _ hst hfails hlane hrate => next_congr (runningMonitorOp_of_lowerRate hst hfails hlane hrate)
  case phase => exact fun _ _ xs hst => next_congr (phaseRecentreOp_of_ready xs hst)
  case probe => exact fun _ _ _ hshort => next_congr (shortProbeOp_of_clear hshort)
  case clockLost =>
    exact fun _ _ hst hlost _ hstandin => next_congr ((clockLossOp_of_ready hst hlost).trans (if_neg (ne_true_of_eq_false hstandin)))
  case standinLost => exact fun _ _ hst hlost hstandin => next_congr ((clockLossOp_of_ready hst hlost).trans (if_pos hstandin))
  case standinLate => exact fun _ _ hst hlost hlate => next_congr (standinTimeoutOp_of_late hst hlost hlate)

/-- Settles O18: the two losses at Belug, the loss at Itvos, the end of holdover and the two returns. -/
theorem referenceClocksSwitchAndHoldOver : Obligations.ReferenceClocksSwitchAndHoldOver :=
  ⟨fun _ ha hb hu => next_congr (refclkLossOp_blg_of_inUse ha hb hu),
   fun _ ha hb hboth => next_congr (refclkLossOp_blg_of_last ha hb hboth),
   fun _ ha hb => next_congr (refclkLossOp_itv_of_first ha hb),
   fun _ _ _ ht hlate => next_congr (refclkHoldoverEndOp_of_late ht hlate),
   fun _ hboth => next_congr (refclkReturnOp_blg_of_one hboth),
   fun _ _ hboth => next_congr (refclkReturnOp_blg_of_holdover hboth)⟩

/-- Settles O51: the offered bits by their places; at the end of OFFER a link's features are 0 still or the bits of both
offers (`modeChoice_features`). -/
theorem aFeatureNeedsTheOfferOfBothEnds : Obligations.AFeatureNeedsTheOfferOfBothEnds := by
  refine ⟨fun s p q => ?_, fun s r o k hst hzero hbit => ?_⟩
  · rw [ownOffer_itv_features, ownOffer_blg_features, ← chartBypass]
    cases holdsChorus s.itv <;> cases chartBypass s.itv p.val <;> decide
  · have hnotReady : (getPort s r).st ≠ .ready := by rw [hst]; decide
    rcases modeChoice_features o hnotReady with hsame | hboth
    · simp [hsame, hzero] at hbit
    · rw [hboth] at hbit
      exact bits_of_bothOffer hbit

/-- Settles O48: every port by `Vector.replicate`, every other field by its default. -/
theorem resetLeavesWhatTheManualGives : Obligations.ResetLeavesWhatTheManualGives := by
  refine ⟨fun p => ?_, fun p => ?_, ?_⟩
  · rw [reset_itv_port]
    exact ⟨rfl, rfl, rfl⟩
  · rw [reset_blg_port]
    exact ⟨rfl, rfl, rfl⟩
  · refine ⟨rfl, rfl, rfl, rfl, rfl, rfl, rfl, rfl, rfl, rfl, rfl, rfl, rfl, rfl, rfl, rfl, rfl, rfl, rfl, rfl, rfl, rfl⟩

end Sys2Proof.Machine
end

section
/-! Flits and credits (03_flits_and_credits.md): the hop CRC of a flit, LINK_CTL flits and what they ask for, and the cue's
parent and root. -/

namespace Sys2Proof.Machine

open Sys2Proof

/-! ## The hop CRC: from the reflected arithmetic of the model to the shift register of R88 -/

/-- What stands above the low bit does not decide a step: it comes down one place. -/
theorem crcBit_xor_two_mul (poly x y : Nat) : crcBit poly (x ^^^ 2 * y) = crcBit poly x ^^^ y := by
  have hlow : (x ^^^ 2 * y) % 2 = x % 2 := by rw [Nat.xor_mod_two_eq]; omega
  have hhigh : (x ^^^ 2 * y) / 2 = x / 2 ^^^ y := by rw [Nat.xor_div_two, Nat.mul_div_cancel_left y (by decide)]
  unfold crcBit
  rw [hlow, hhigh]
  split
  · exact Nat.xor_right_comm ..
  · rfl

theorem shiftRight_eq_testBit_xor (b n : Nat) : b >>> n = (b.testBit n).toNat ^^^ 2 * (b >>> (n + 1)) := by
  have hbit : (b.testBit n).toNat = b >>> n % 2 := by rw [Nat.toNat_testBit, Nat.shiftRight_eq_div_pow]
  have hrest : b >>> (n + 1) = b >>> n / 2 := Nat.shiftRight_succ b n
  rw [hbit, hrest]
  apply Nat.eq_of_testBit_eq
  intro i
  cases i with
  | zero => simp [Nat.testBit_zero]
  | succ i => simp [Nat.testBit_succ, Nat.xor_div_two]

/-- A whole number taken up before `n` steps is its bits taken up one before each step, and the rest of it on top. -/
theorem iterate_crcBit_xor (poly c b n : Nat) :
    (crcBit poly)^[n] (c ^^^ b) = (List.range n).foldl (fun c i => crcBit poly (c ^^^ (b.testBit i).toNat)) c ^^^ b >>> n := by
  induction n with
  | zero => rfl
  | succ n ih =>
    rw [Function.iterate_succ_apply', ih, shiftRight_eq_testBit_xor b n, ← Nat.xor_assoc, crcBit_xor_two_mul, List.range_succ,
      List.foldl_append]
    rfl

/-- A byte is taken from bit 0 up: its input is reflected. -/
theorem crcByte_eq_foldl (poly c : Nat) (b : Byte) :
    crcByte poly c b = (List.range 8).foldl (fun c i => crcBit poly (c ^^^ (b.getLsbD i).toNat)) c := by
  have hgone : b.toNat >>> 8 = 0 := Nat.shiftRight_eq_zero _ _ b.isLt
  have h := iterate_crcBit_xor poly c b.toNat 8
  rw [hgone, Nat.xor_zero] at h
  exact h

/-- One bit into the shift register of R88: it meets the top bit, and the register moves up and is divided by 0x04C1_1DB7. -/
def crcShift (c : BitVec 32) (b : Bool) : BitVec 32 :=
  if (c.msb ^^ b) = true then (c <<< 1) ^^^ 0x04C11DB7#32 else c <<< 1

theorem reverse_shiftLeft_one (c : BitVec 32) : (c <<< 1).reverse = c.reverse >>> 1 := by
  ext i hi
  simp only [BitVec.getElem_reverse, BitVec.getElem_ushiftRight, BitVec.getLsbD_reverse, BitVec.getMsbD_shiftLeft, Nat.add_comm]

theorem reverse_xor (x y : BitVec 32) : (x ^^^ y).reverse = x.reverse ^^^ y.reverse := by
  ext i hi
  simp only [BitVec.getElem_reverse, BitVec.getElem_xor, BitVec.getMsbD_xor]

theorem reverse_odd_iff_msb (c : BitVec 32) : c.reverse.toNat % 2 = 1 ↔ c.msb = true := by
  have hbit : c.reverse.toNat.testBit 0 = c.msb := BitVec.getLsbD_reverse
  rw [← hbit, Nat.testBit_zero, decide_eq_true_iff]

/-- A step of the model is a step of the register, read reflected; 0xEDB8_8320 is 0x04C1_1DB7 reflected. -/
theorem reverse_crcShift (c : BitVec 32) (b : Bool) :
    (crcShift c b).reverse.toNat = crcBit 0xEDB88320 (c.reverse.toNat ^^^ b.toNat) := by
  have hlow : (c.reverse.toNat ^^^ b.toNat) % 2 = 1 ↔ (c.msb ^^ b) = true := by
    rw [Nat.xor_mod_two_eq_one, reverse_odd_iff_msb]
    cases c.msb <;> cases b <;> decide
  have hhigh : (c.reverse.toNat ^^^ b.toNat) / 2 = (c <<< 1).reverse.toNat := by
    have hgone : b.toNat / 2 = 0 := Nat.div_eq_of_lt b.toNat_lt
    rw [reverse_shiftLeft_one, BitVec.toNat_ushiftRight, Nat.xor_div_two, hgone, Nat.xor_zero]
    rfl
  have hpoly : (0x04C11DB7#32).reverse.toNat = 0xEDB88320 := by decide +kernel
  unfold crcShift crcBit
  rw [hhigh, apply_ite BitVec.reverse, apply_ite BitVec.toNat, reverse_xor, BitVec.toNat_xor, hpoly]
  exact (if_congr hlow rfl rfl).symm

theorem crcByte_reverse (c : BitVec 32) (b : Byte) :
    crcByte 0xEDB88320 c.reverse.toNat b = ((List.range 8).foldl (fun c i => crcShift c (b.getLsbD i)) c).reverse.toNat := by
  rw [crcByte_eq_foldl]
  exact List.foldl_hom (fun c : BitVec 32 => c.reverse.toNat) fun c i => (reverse_crcShift c (b.getLsbD i)).symm

/-- The hop CRC-32 is the register's content, reflected and XORed (R88). -/
theorem crc32_eq_crcShift (bs : Bytes) :
    crc32 bs =
      (bs.foldl (fun c b => (List.range 8).foldl (fun c i => crcShift c (b.getLsbD i)) c) 0xFFFFFFFF#32).reverse ^^^ 0xFFFFFFFF#32 := by
  have hinit : (0xFFFFFFFF#32).reverse.toNat = 0xFFFFFFFF := by decide +kernel
  have hfold := List.foldl_hom (fun c : BitVec 32 => c.reverse.toNat) (l := bs) (init := 0xFFFFFFFF#32) crcByte_reverse
  rw [hinit] at hfold
  unfold crc32 crc32Refl
  rw [hfold, BitVec.ofNat_xor, BitVec.ofNat_toNat, BitVec.setWidth_eq]

/-! ## The bytes of a flit as sent -/

@[simp] theorem headerBytes_length (f : Flit) : (headerBytes f).length = 16 := leBytes_length 16 _

@[simp] theorem flitBody_length (f : Flit) : (flitBody f).length = 240 := by
  rw [flitBody, List.length_append, headerBytes_length, pad_length]

/-- The body, its CRC-32, and the parity of the two codewords (R77, R88, R90). -/
theorem flitWire_eq (f : Flit) : ∃ parity, flitWire f = flitBody f ++ (leBytes 4 (crc32 (flitBody f)).toNat ++ parity) := by
  unfold flitWire
  simp only [List.append_assoc]
  exact ⟨_, rfl⟩

theorem flitWire_take (f : Flit) : (flitWire f).take 240 = flitBody f := by
  obtain ⟨parity, h⟩ := flitWire_eq f
  rw [h, List.take_left' (flitBody_length f)]

theorem flitWire_crc (f : Flit) : slice (flitWire f) 240 4 = leBytes 4 (crc32 (flitBody f)).toNat := by
  obtain ⟨parity, h⟩ := flitWire_eq f
  rw [slice, h, List.drop_left' (flitBody_length f), List.take_left' (leBytes_length 4 _)]

/-! ## LINK_CTL and resync -/

theorem beatsPassed_of_le {s : State} {t n : Nat} (h : 8 * n ≤ 7 * (s.now - t)) : beatsPassed s t n = true := decide_eq_true h

/-- A LINK_CTL on a port that has left READY only leaves the queue of arrivals. -/
theorem linkCtlOp_of_notReady {s : State} {r : PortRef} (f : Flit) (hst : (getPort s r).st ≠ .ready) :
    linkCtlOp s r f = modPort s r (fun p => { p with ctlIn := p.ctlIn.erase f }) := if_pos (.inl hst)

/-- A LINK_CTL of CODE NONE at Belug: the counts, then the cue fields (R95, R296). -/
theorem linkCtlOp_blg_of_none {s : State} {n : Fin 24} {f : Flit} (hst : (getPort s (.blg n)).st = .ready)
    (hclk : (getPort s (.blg n)).clockLost = false) (hcode : byteAt f.payload 0 = 0) :
    linkCtlOp s (.blg n) f = cueArrival
      (modPort (modPort s (.blg n) (fun p => { p with ctlIn := p.ctlIn.erase f })) (.blg n) (fun p =>
        { (List.range 8).foldl (resyncVc f) p with resyncOut := false })) (.blg n) f := by
  have hlive : ¬ ((getPort s (.blg n)).st ≠ .ready ∨ (getPort s (.blg n)).clockLost = true) := by simp [hst, hclk]
  unfold linkCtlOp
  dsimp only
  rw [if_neg hlive, hcode]
  rfl

section
variable {s : State} {r : PortRef} (hst : (getPort s r).st = .ready)
include hst

/-- A RESYNC_REQ makes one LINK_CTL due (R94). -/
theorem resyncReqOp_of_ready : resyncReqOp s r = modPort s r (fun p => { p with ctlDue := p.ctlDue ++ [0] }) := if_pos hst

/-- 64 beats without an answer (R94). -/
theorem resyncRepeatOp_of_due (hout : (getPort s r).resyncOut = true) (hlate : 8 * 64 ≤ 7 * (s.now - (getPort s r).resyncAt)) :
    resyncRepeatOp s r = modPort s r (fun p => { p with ctlDue := p.ctlDue ++ [1], resyncAt := s.now }) :=
  if_pos ⟨hst, hout, beatsPassed_of_le hlate⟩

/-- 8,192 beats without a LINK_CTL (R297). -/
theorem cueStampTimerOp_of_due (hlate : 8 * 8192 ≤ 7 * (s.now - (getPort s r).ctlAt)) :
    cueStampTimerOp s r = modPort s r (fun p => { p with ctlDue := p.ctlDue ++ [0] }) := if_pos ⟨hst, beatsPassed_of_le hlate⟩

/-! ## The stand-in -/

/-- The clock pattern moves to lane 7 or 0, or with neither the port goes to DARK (R42, R68, R69). -/
theorem standinReqOp_of_ready :
    standinReqOp s r =
      if standinOf (getPort s r).txUse = 3 then leaveReady s r .dark .clockLane
      else emit (modPort s r (fun p => { p with standin := true, clkTx := standinOf (getPort s r).txUse }))
        (.standin r (standinOf (getPort s r).txUse)) := if_neg (not_not_intro hst)

/-- The receiver runs on the stand-in at the width its lanes give, and ALIGN_DONE is due (R68). -/
theorem standinDeskewedOp_of_mode {lanes : BitVec 8} {m : Nat} (hlost : (getPort s r).clockLost = true)
    (hmode : modeAt (currentRate (getPort s r)) (usableLanes lanes (getPort s r).rxUse (standinOf (getPort s r).rxUse))
      (getPort s r).minMode = some m) :
    standinDeskewedOp s r lanes = modPort s r (fun p =>
      { p with clockLost := false, excluded := false, clkRx := standinOf (getPort s r).rxUse, rxUse := lanes &&& p.rxUse,
               modeRx := some m, ctlDue := p.ctlDue ++ [3] }) := by
  unfold standinDeskewedOp
  dsimp only
  rw [if_pos ⟨hst, hlost⟩, hmode]

section
variable (f : Flit) {lanes : BitVec 8} (hstandin : (getPort s r).standin = true)
include hstandin

/-- ALIGN_DONE: flits resume at the width the lanes give, the counts start again, credits are CRED less HELD (R68, R100). -/
theorem alignDoneOp_of_mode {m : Nat}
    (hmode : modeAt (currentRate (getPort s r)) (usableLanes lanes (getPort s r).txUse (getPort s r).clkTx)
      (getPort s r).minMode = some m) :
    alignDoneOp s r f lanes = modPort (modPort s r (fun p => { p with ctlIn := p.ctlIn.erase f })) r (fun p =>
      { p with standin := false, txUse := lanes &&& p.txUse, modeTx := some m, txCount := List.replicate 8 0,
               retGot := (List.range 8).map (fun v => lget p.peerCred v - countAt f 48 v) }) := by
  unfold alignDoneOp
  dsimp only
  rw [if_pos ⟨hst, hstandin⟩, hmode]

/-- ALIGN_DONE with no mode for the lanes left: the port is DOWN (R68). -/
theorem alignDoneOp_of_noMode
    (hmode : modeAt (currentRate (getPort s r)) (usableLanes lanes (getPort s r).txUse (getPort s r).clkTx)
      (getPort s r).minMode = none) :
    alignDoneOp s r f lanes = failTo (modPort s r (fun p => { p with ctlIn := p.ctlIn.erase f })) r .down .minMode := by
  unfold alignDoneOp
  dsimp only
  rw [if_pos ⟨hst, hstandin⟩, hmode]
  rfl

end

end

/-! ## The cue's parent and root -/

/-- The port a chip's parent is heard on. -/
def parentPort (s : State) (d : Side) (i : Nat) : Port :=
  match d with
  | .itv => itvPort s i
  | .blg => blgPort s i

/-- A parent silent for 100 µs is lost (R302). -/
theorem parentTimeoutOp_of_late {s : State} {d : Side} {i : Nat} (hparent : (getCue s d).parent = some i)
    (hlate : (parentPort s d i).echoAt + 100000 ≤ s.now) : parentTimeoutOp s d = loseParent s d := by
  unfold parentTimeoutOp
  simp only [hparent]
  exact if_pos (passed_of_le hlate)

/-- The charted root takes its role 20 µs after its first READY port where no READY partner is locked (R303). -/
theorem rootClaimOp_of_late {s : State} {t : Nat} (hfirst : s.itv.cue.firstReady = some t) (hchart : chartedRoot s.itv = true)
    (hroot : s.itv.cue.root = false) (hlate : t + 20000 ≤ s.now)
    (hnone : s.itv.ports.toList.any (fun p => p.st == .ready && p.peerLocked && p.peerLevel.isSome) = false) :
    rootClaimOp s = takeRoot s := by
  unfold rootClaimOp
  simp only [hfirst]
  exact if_pos (by rw [hchart, hroot, passed_of_le hlate, hnone]; rfl)

/-! ## The statements -/

/-- Settles O50: `crc32_eq_crcShift`, and the places of the body and of its CRC in the flit as sent. -/
theorem theHopCrcIsTheOneOfTheManual : Obligations.TheHopCrcIsTheOneOfTheManual :=
  ⟨crc32_eq_crcShift, fun f => ⟨flitWire_take f, (flitWire_take f).symm ▸ flitWire_crc f⟩⟩

/-- Settles O21: one lemma for each row. LINK_CTL is stated at Belug for CODE NONE; that one RESYNC_REQ makes one LINK_CTL due,
and what ALIGN_DONE restarts, are the model's (log 37), as is the reading of a locked partner in the root's claim (log 74). -/
theorem linkControlAndTheTimeTree : Obligations.LinkControlAndTheTimeTree := by
  refine ⟨?linkCtl, ?notReady, ?resyncReq, ?resyncRepeat, ?standin, ?noStandin, ?deskewed, ?aligned, ?alignedNoMode, ?stampTimer,
    ?parent, ?root⟩
  case linkCtl => exact fun _ _ _ hst hclk hcode => next_congr (linkCtlOp_blg_of_none hst hclk hcode)
  case notReady => exact fun _ _ f hst => next_congr (linkCtlOp_of_notReady f hst)
  case resyncReq => exact fun _ _ hst => next_congr (resyncReqOp_of_ready hst)
  case resyncRepeat => exact fun _ _ hst hout hlate => next_congr (resyncRepeatOp_of_due hst hout hlate)
  case standin => exact fun _ _ hst hlane => next_congr ((standinReqOp_of_ready hst).trans (if_neg hlane))
  case noStandin => exact fun _ _ hst hlane => next_congr ((standinReqOp_of_ready hst).trans (if_pos hlane))
  case deskewed => exact fun _ _ _ _ hst hlost hmode => next_congr (standinDeskewedOp_of_mode hst hlost hmode)
  case aligned => exact fun _ _ f _ _ hst hstandin hmode => next_congr (alignDoneOp_of_mode hst f hstandin hmode)
  case alignedNoMode => exact fun _ _ f _ hst hstandin hmode => next_congr (alignDoneOp_of_noMode hst f hstandin hmode)
  case stampTimer => exact fun _ _ hst hlate => next_congr (cueStampTimerOp_of_due hst hlate)
  case parent => exact fun _ _ _ hparent hlate => next_congr (parentTimeoutOp_of_late hparent hlate)
  case root => exact fun _ _ hfirst hchart hroot hlate hnone => next_congr (rootClaimOp_of_late hfirst hchart hroot hlate hnone)

end Sys2Proof.Machine
end

section
/-! The apron's channels (04_switch_core.md and 14_belug_apron.md): words acknowledged, replayed and found bad, the retraining of a
channel, and the VC0 bucket of a port. -/

namespace Sys2Proof.Machine

open Sys2Proof

/-! ## A channel UP and not retraining -/

section
variable {s : State} {ch : Nat} (hup : (getCh s ch).up = true) (hin : (getCh s ch).retraining = false)
include hup hin

/-- A RETRY counts, and which of replay and retrain follows turns on the count it makes (R504). -/
theorem apronRetryOp_of_up :
    apronRetryOp s ch =
      (let t := modCh s ch (fun c => { c with retries := c.retries + 1 })
       if (getCh s ch).retries + 1 < 8 then replay t ch else modCh t ch (fun c => { c with retraining := true })) :=
  if_neg (by rw [hup, hin]; exact Bool.false_ne_true)

/-- A RETRY that is not the eighth without an ACK between them (R504). -/
theorem apronRetryOp_of_below (hfew : (getCh s ch).retries < 7) :
    apronRetryOp s ch = replay (modCh s ch (fun c => { c with retries := c.retries + 1 })) ch :=
  (apronRetryOp_of_up hup hin).trans (if_pos (Nat.succ_lt_succ hfew))

/-- The eighth RETRY without an ACK between them (R504). -/
theorem apronRetryOp_of_eighth (hmany : 7 ≤ (getCh s ch).retries) :
    apronRetryOp s ch =
      modCh (modCh s ch (fun c => { c with retries := c.retries + 1 })) ch (fun c => { c with retraining := true }) :=
  (apronRetryOp_of_up hup hin).trans (if_neg (Nat.not_lt.mpr (Nat.succ_le_succ hmany)))

/-- 64 word times without an ACK while words are held (R504). -/
theorem apronReplayTimeoutOp_of_late (hheld : (getCh s ch).held.isEmpty = false) (hlate : (getCh s ch).lastAck + 16 ≤ s.now) :
    apronReplayTimeoutOp s ch = replay s ch :=
  if_pos (by rw [hup, hin, hheld, passed_of_le hlate]; rfl)

end

/-! ## A channel in retraining -/

section
variable {s : State} {ch : Nat} (hup : (getCh s ch).up = true) (hout : (getCh s ch).retraining = true)
include hup hout

/-- The end of a retrain is counted and sets the APRON bit of INT_CAUSE; then it is good, or a failure among three (R504). -/
theorem apronRetrainOp_of_retraining (ok : Bool) :
    apronRetrainOp s ch ok =
      (let t := raiseIrq (bumpB s (408 + ch) 1) Irq.apron
       if ok then replay (modCh t ch (fun c => { c with retraining := false, retries := 0, fails := 0 })) ch
       else if (getCh s ch).fails + 1 < 3 then modCh t ch (fun c => { c with fails := c.fails + 1 })
       else channelDown t ch) :=
  if_neg (by rw [hup, hout]; exact Bool.false_ne_true)

theorem apronRetrainOp_of_good :
    apronRetrainOp s ch true =
      replay (modCh (raiseIrq (bumpB s (408 + ch) 1) Irq.apron) ch
        (fun c => { c with retraining := false, retries := 0, fails := 0 })) ch :=
  (apronRetrainOp_of_retraining hup hout true).trans (if_pos rfl)

/-- A failed retrain, judged by the count of failures it makes. -/
theorem apronRetrainOp_of_failed :
    apronRetrainOp s ch false =
      (let t := raiseIrq (bumpB s (408 + ch) 1) Irq.apron
       if (getCh s ch).fails + 1 < 3 then modCh t ch (fun c => { c with fails := c.fails + 1 }) else channelDown t ch) :=
  (apronRetrainOp_of_retraining hup hout false).trans (if_neg Bool.false_ne_true)

/-- A failure with fewer than two before it leaves the channel retraining (R504). -/
theorem apronRetrainOp_of_earlyFailure (hfew : (getCh s ch).fails < 2) :
    apronRetrainOp s ch false =
      modCh (raiseIrq (bumpB s (408 + ch) 1) Irq.apron) ch (fun c => { c with fails := c.fails + 1 }) :=
  (apronRetrainOp_of_failed hup hout).trans (if_pos (Nat.succ_lt_succ hfew))

/-- The third failure in a row takes the channel DOWN (R504). -/
theorem apronRetrainOp_of_thirdFailure (hmany : 2 ≤ (getCh s ch).fails) :
    apronRetrainOp s ch false = channelDown (raiseIrq (bumpB s (408 + ch) 1) Irq.apron) ch :=
  (apronRetrainOp_of_failed hup hout).trans (if_neg (Nat.not_lt.mpr (Nat.succ_le_succ hmany)))

end

/-! ## A bad word, and the VC0 bucket -/

/-- RETRY is asked for by the first bad word only; the rest are counted (R503, log 73). -/
theorem apronCrcErrorOp_of_bad {s : State} {ch : Nat} {word : Bytes} {ctl : BitVec 24} (hup : (getCh s ch).up = true)
    (hbad : wordBad word ctl = true) :
    apronCrcErrorOp s ch word ctl =
      if (getCh s ch).discarding then bumpB s (384 + ch) 1
      else emit (modCh (bumpB s (384 + ch) 1) ch (fun c => { c with discarding := true })) (.ak ch 12) :=
  if_neg (by rw [hup, hbad]; exact Bool.false_ne_true)

/-- The port's bucket as `bucket` fills it, with at most 4 tokens (R137). -/
theorem principalTokenOp_eq (s : State) (p : Fin 24) :
    principalTokenOp s p = setPort s (.blg p) { s.blg.ports.get p with
      tokens := (bucket s (s.blg.ports.get p) 4).1, tokenAt := (bucket s (s.blg.ports.get p) 4).2 } := rfl

/-! ## The statement -/

/-- Settles O31: one lemma for each row and outcome. That every bad word is counted while words are discarded, and that a good
retrain clears the count of failures, are the model's (log 73). -/
theorem apronWordsAreHeldAcknowledgedAndReplayed : Obligations.ApronWordsAreHeldAcknowledgedAndReplayed := by
  refine ⟨?ack, ?retry, ?eighthRetry, ?timeout, ?retrained, ?failed, ?down, ?badWord, ?token⟩
  case ack => exact fun _ _ => rfl
  case retry => exact fun _ _ hup hin hfew => next_congr (apronRetryOp_of_below hup hin hfew)
  case eighthRetry => exact fun _ _ hup hin hmany => next_congr (apronRetryOp_of_eighth hup hin hmany)
  case timeout => exact fun _ _ hup hin hheld hlate => next_congr (apronReplayTimeoutOp_of_late hup hin hheld hlate)
  case retrained => exact fun _ _ hup hout => next_congr (apronRetrainOp_of_good hup hout)
  case failed => exact fun _ _ hup hout hfew => next_congr (apronRetrainOp_of_earlyFailure hup hout hfew)
  case down => exact fun _ _ hup hout hmany => next_congr (apronRetrainOp_of_thirdFailure hup hout hmany)
  case badWord => exact fun _ _ _ _ hup hbad => next_congr (apronCrcErrorOp_of_bad hup hbad)
  case token => exact fun s p => next_congr (principalTokenOp_eq s p)

end Sys2Proof.Machine
end

section
/-! The seat as a home (05_routing_and_delivery.md): what a request delivered to Belug asks of the accelerator's memory. -/

namespace Sys2Proof.Machine

open Sys2Proof

/-- A flit has one KIND. -/
theorem kind_ne {f : Flit} {k j : BitVec 5} (hk : f.kind = k) (hne : k ≠ j := by decide) : f.kind ≠ j := hk ▸ hne

/-! ## A request whose lines are free, by its kind -/

section
variable {s : State} {f : Flit} (port : Nat) (hfree : lineBusy s f = false)
include hfree

/-- No RMEM holds a line of the request: it does not wait (R513). -/
theorem performHere_of_free :
    performHere s f port =
      if f.kind = Kind.load then lmemRead s f.offset f.sizeCode (.serve f port 0)
      else if f.kind = Kind.atomic then
        lmemAtomic s f.offset (BitVec.ofNat 8 f.aop) (BitVec.ofNat 8 f.sizeCode) 2 f.opA f.opB (.serve f port 0)
      else if f.kind = Kind.rmem then
        lmemReadLine { s with blg.rmemBusy := s.blg.rmemBusy ++ [f.offset / 128] } f.offset (.rmemRead f port)
      else if f.kind = Kind.store then
        lmemWriteLine s (f.offset / 128) (zeros (f.offset % 128) ++ (storeBytes f).2.1)
          ((storeBytes f).2.2 * 2 ^ (f.offset % 128)) (.serve f port 0)
      else lmemWrite s f.offset (slice f.payload 16 f.len) (.serve f port 0) :=
  if_neg (by rw [hfree]; exact Bool.false_ne_true)

theorem performHere_of_load (hk : f.kind = Kind.load) :
    performHere s f port = lmemRead s f.offset f.sizeCode (.serve f port 0) := by
  rw [performHere_of_free port hfree, if_pos hk]

theorem performHere_of_atomic (hk : f.kind = Kind.atomic) :
    performHere s f port =
      lmemAtomic s f.offset (BitVec.ofNat 8 f.aop) (BitVec.ofNat 8 f.sizeCode) 2 f.opA f.opB (.serve f port 0) := by
  rw [performHere_of_free port hfree, if_neg (kind_ne hk : f.kind ≠ Kind.load), if_pos hk]

theorem performHere_of_rmem (hk : f.kind = Kind.rmem) :
    performHere s f port =
      lmemReadLine { s with blg.rmemBusy := s.blg.rmemBusy ++ [f.offset / 128] } f.offset (.rmemRead f port) := by
  rw [performHere_of_free port hfree, if_neg (kind_ne hk : f.kind ≠ Kind.load), if_neg (kind_ne hk : f.kind ≠ Kind.atomic),
    if_pos hk]

theorem performHere_of_store (hk : f.kind = Kind.store) :
    performHere s f port =
      lmemWriteLine s (f.offset / 128) (zeros (f.offset % 128) ++ (storeBytes f).2.1)
        ((storeBytes f).2.2 * 2 ^ (f.offset % 128)) (.serve f port 0) := by
  rw [performHere_of_free port hfree, if_neg (kind_ne hk : f.kind ≠ Kind.load), if_neg (kind_ne hk : f.kind ≠ Kind.atomic),
    if_neg (kind_ne hk : f.kind ≠ Kind.rmem), if_pos hk]

theorem performHere_of_bulk (hk : f.kind = Kind.bulk) :
    performHere s f port = lmemWrite s f.offset (slice f.payload 16 f.len) (.serve f port 0) := by
  rw [performHere_of_free port hfree, if_neg (kind_ne hk : f.kind ≠ Kind.load), if_neg (kind_ne hk : f.kind ≠ Kind.atomic),
    if_neg (kind_ne hk : f.kind ≠ Kind.rmem), if_neg (kind_ne hk : f.kind ≠ Kind.store)]

end

/-! ## A request taken up by its flow -/

/-- An admitted request is in service and performed where it is new; of the duplicates a LOAD alone is performed again (R192). A
CLAIM and an RMEM whose arithmetic fails its check are not performed. -/
theorem serveMem_of_admitted {s : State} {f : Flit} {fresh : Bool} {hw : HomeHw} (port : Nat)
    (hadmit : seatAdmit s.blg f = St.ok) (hnew : fresh = true ∨ f.kind = Kind.load)
    (hclaim : f.kind = Kind.atomic → f.aop ≠ aopClaim) (harith : f.kind = Kind.rmem → hw ≠ .arithMismatch) :
    serveMem s f port fresh hw = performHere (beginServing s .blg f) f port := by
  have hload : (!fresh) = true → f.kind = Kind.load := fun hdup =>
    hnew.resolve_left (fun hfresh => by simp [hfresh] at hdup)
  have hring : ¬ (f.kind = Kind.atomic ∧ (!fresh) = true) := fun h => absurd h.1 (kind_ne (hload h.2))
  have hdone : ¬ ((!fresh) = true ∧ f.kind ≠ Kind.load) := fun h => h.2 (hload h.1)
  unfold serveMem
  dsimp only
  rw [if_neg hring, if_neg (not_not_intro hadmit), if_neg (fun h => hclaim h.1 h.2), if_neg hdone, if_neg (fun h => harith h.1 h.2)]

section
variable {s : State} {f : Flit} {k : BitVec 5} {t p : Nat} {rest : List (Flit × Nat × Nat)} {fresh : Bool}
  (hgets : seatGets s f t p rest fresh)
include hgets

/-- An admitted request of a kind that goes to the memory. What the kind `k` alone settles is left to its default proof. -/
theorem seatRequest_of_admitted {hw : HomeHw} (hk : f.kind = k)
    (hadmit : seatAdmit (arrived { s with blg.inbox := rest } .blg f).blg f = St.ok) (hnew : fresh = true ∨ f.kind = Kind.load)
    (hmem : k ≠ Kind.bulkMsg ∧ k ≠ Kind.pmsg := by decide)
    (hclaim : k = Kind.atomic → f.aop ≠ aopClaim := by exact (absurd · (by decide)))
    (harith : k = Kind.rmem → hw ≠ .arithMismatch := by exact (absurd · (by decide))) :
    seatRequest s f k hw = performHere (beginServing (arrived { s with blg.inbox := rest } .blg f) .blg f) f p := by
  rw [seatRequest_taken hgets hk]
  dsimp only
  rw [if_neg hmem.1, if_neg hmem.2,
    serveMem_of_admitted p hadmit hnew (fun h => hclaim (hk.symm.trans h)) (fun h => harith (hk.symm.trans h))]

/-- A BULK_MSG meets the rendezvous table in place of the export table (R521). -/
theorem seatRequest_bulkMsg {hw : HomeHw} (hk : f.kind = Kind.bulkMsg) :
    seatRequest s f Kind.bulkMsg hw = serveBulkMsg (arrived { s with blg.inbox := rest } .blg f) f p fresh :=
  (seatRequest_taken hgets hk).trans (if_pos rfl)

theorem seatRequest_pmsg {hw : HomeHw} (hk : f.kind = Kind.pmsg) :
    seatRequest s f Kind.pmsg hw = servePmsg (arrived { s with blg.inbox := rest } .blg f) f p fresh :=
  (seatRequest_taken hgets hk).trans ((if_neg (by decide)).trans (if_pos rfl))

end

/-! ## Messages -/

theorem serveBulkMsg_of_admitted {s : State} {f : Flit} (port : Nat) (hadmit : rdvAdmit s.blg f = some St.ok) :
    serveBulkMsg s f port true =
      lmemWrite (beginServing s .blg f) (rdvBase s.blg (rdvOf f) + msgOffset f) (slice f.payload 16 f.len) (.serve f port 0) := by
  unfold serveBulkMsg
  rw [hadmit]
  exact if_neg (by decide)

theorem serveBulkMsg_of_unarmed {s : State} {f : Flit} (port : Nat) (fresh : Bool) (hunarmed : rdvAdmit s.blg f = none) :
    serveBulkMsg s f port fresh = unmark (bumpBC s .rdvUnarmed) .blg f := by
  unfold serveBulkMsg
  rw [hunarmed]

theorem servePmsg_of_len {s : State} {f : Flit} (port : Nat) (fresh : Bool) (hlen : 1 ≤ f.len ∧ f.len ≤ 64) :
    servePmsg s f port fresh = blgSend (if fresh then pmsgIn s f else s) port (doneFor f St.ok) := if_neg (by omega)

/-! ## The statement -/

/-- Settles O26: the memory kinds by `seatRequest_of_admitted` and what each kind asks of the memory, the messages by their own
lemmas. That a STORE's mask counts only within its access (log 66), that a write goes as whole lines under a mask and that a PMSG
leaves on the next UP channel (log 69) are the model's. -/
theorem seatHomePerformsRequests : Obligations.SeatHomePerformsRequests := by
  refine ⟨?load, ?store, ?atomic, ?rmem, ?bulk, ?bulkMsg, ?unarmed, ?pmsg⟩
  case load =>
    intro s f t p rest fresh hw hk hgets hadmit hfree
    exact next_congr (congrArg settle
      ((seatRequest_of_admitted hgets hk hadmit (.inr hk)).trans (performHere_of_load p hfree hk)))
  case store =>
    intro s f t p rest hw hk hgets hadmit hfree
    exact next_congr (congrArg settle
      ((seatRequest_of_admitted hgets hk hadmit (.inl rfl)).trans (performHere_of_store p hfree hk)))
  case atomic =>
    intro s f t p rest hw hk hgets hclaim hadmit hfree
    exact next_congr (congrArg settle
      ((seatRequest_of_admitted hgets hk hadmit (.inl rfl) (hclaim := fun _ => hclaim)).trans (performHere_of_atomic p hfree hk)))
  case rmem =>
    intro s f t p rest hk hgets hadmit hfree
    have harith : HomeHw.ok ≠ .arithMismatch := by decide
    exact next_congr (congrArg settle
      ((seatRequest_of_admitted hgets hk hadmit (.inl rfl) (harith := fun _ => harith)).trans (performHere_of_rmem p hfree hk)))
  case bulk =>
    intro s f t p rest hw hk hgets hadmit hfree
    exact next_congr (congrArg settle
      ((seatRequest_of_admitted hgets hk hadmit (.inl rfl)).trans (performHere_of_bulk p hfree hk)))
  case bulkMsg =>
    intro s f t p rest hk hgets hadmit
    exact next_congr (congrArg settle ((seatRequest_bulkMsg hgets hk).trans (serveBulkMsg_of_admitted p hadmit)))
  case unarmed =>
    intro s f t p rest fresh hk hgets hunarmed
    exact next_congr (congrArg settle ((seatRequest_bulkMsg hgets hk).trans (serveBulkMsg_of_unarmed p fresh hunarmed)))
  case pmsg =>
    intro s f t p rest fresh hk hgets hlen
    exact next_congr (congrArg settle ((seatRequest_pmsg hgets hk).trans (servePmsg_of_len p fresh hlen)))

end Sys2Proof.Machine
end

section
/-! The source of a request (05_routing_and_delivery.md): the reply that ends it, its re-sends and timeouts, its wait for a port,
and the replies too late to be sent. -/

namespace Sys2Proof.Machine

open Sys2Proof

/-! ## Replies -/

/-- The reply to an outstanding request that went out plain: the request leaves its flow, the window follows the mark, and the
queue moves up. A sealed one advances G_OK besides (R606). -/
theorem acceptReply_of_plain {s : State} {d : Side} {f : Flit} {o : Outst}
    (hout : findOutst s d (f.src.toNat + 65536 * b2n f.sk) f.seq.toNat = some o) (hsent : o.waiting = false)
    (hplain : o.sealed_ = false) :
    acceptReply s d f = (
      let k := f.src.toNat + 65536 * b2n f.sk
      (drainQueue (modOut (dropOutst s d k o.seq) d k (fun fl => windowAfter s.now fl f.cm)) d k 4096, some o)) := by
  unfold acceptReply
  simp only [hout, hsent, hplain, Bool.false_eq_true, if_false]

theorem acceptReply_of_notOutstanding {s : State} {d : Side} {f : Flit}
    (hnone : findOutst s d (f.src.toNat + 65536 * b2n f.sk) f.seq.toNat = none) :
    acceptReply s d f = (countFlow s d .dupReply .dupReply, none) := by
  unfold acceptReply
  simp only [hnone]

section
variable {s : State} {f : Flit} {k : BitVec 5} {o : Outst}

/-- An accepted reply of either kind ends at Itvos what its request was for. -/
theorem itvReply_of_accepted (hk : f.kind = k) (hin : f ∈ s.itv.core.inbox)
    (hacc : (acceptReply (takeInbox s .itv f) .itv f).2 = some o) :
    itvReply s f k = itvComplete (acceptReply (takeInbox s .itv f) .itv f).1 o.purpose f.status (some f) := by
  have hpair : acceptReply (takeInbox s .itv f) .itv f = ((acceptReply (takeInbox s .itv f) .itv f).1, some o) := Prod.ext rfl hacc
  unfold itvReply
  rw [if_pos hk, fromInbox_itv hin, hpair]

theorem itvReply_of_notOutstanding (hk : f.kind = k) (hin : f ∈ s.itv.core.inbox)
    (hnone : findOutst (takeInbox s .itv f) .itv (f.src.toNat + 65536 * b2n f.sk) f.seq.toNat = none) :
    itvReply s f k = bumpDel (takeInbox s .itv f) .dupReply := by
  unfold itvReply
  rw [if_pos hk, fromInbox_itv hin, acceptReply_of_notOutstanding hnone]
  rfl

/-- The same at Belug. -/
theorem blgReply_of_accepted (hk : f.kind = k) (hin : s.blg.inbox.any (fun x => x.1 == f) = true)
    (hacc : (acceptReply (takeInbox s .blg f) .blg f).2 = some o) :
    blgReply s f k = blgComplete (acceptReply (takeInbox s .blg f) .blg f).1 o f.status (some f) := by
  have hpair : acceptReply (takeInbox s .blg f) .blg f = ((acceptReply (takeInbox s .blg f) .blg f).1, some o) := Prod.ext rfl hacc
  unfold blgReply
  rw [if_pos hk, fromInbox_blg hin, hpair]

end

/-! ## A request not answered in E2E_TIMEOUT -/

theorem resend_due {s : State} {d : Side} {o : Outst} (hsent : o.waiting = false) (hlate : o.lastSend + sideE2E s d ≤ s.now) :
    ¬ (o.waiting || !passed s o.lastSend (sideE2E s d)) = true := by
  rw [hsent, passed_of_le hlate]
  exact Bool.false_ne_true

/-- After its last re-send the request leaves its flow and ends (R189). -/
theorem resendOrEnd_of_last {s : State} {d : Side} {k seq : Nat} {o : Outst} (hout : findOutst s d k seq = some o)
    (hsent : o.waiting = false) (hlate : o.lastSend + sideE2E s d ≤ s.now) (hlast : sideRetry s d < o.sends) :
    resendOrEnd s d k seq = (drainQueue (countFlow (dropOutst s d k seq) d .timeout .timeout) d k 4096, some o) := by
  unfold resendOrEnd
  rw [hout]
  dsimp only
  rw [if_neg (resend_due hsent hlate), if_pos hlast]

/-- Before that it is sent again; Itvos has no choice of port (R188). -/
theorem resendOrEnd_itv_of_more {s : State} {k seq : Nat} {o : Outst} (hout : findOutst s .itv k seq = some o)
    (hsent : o.waiting = false) (hlate : o.lastSend + itvE2E s.itv ≤ s.now) (hmore : o.sends ≤ itvRetryMax s.itv) :
    resendOrEnd s .itv k seq = (sendOut (bumpDel s .resend) .itv k o 0, none) := by
  have hkept : ¬ sideRetry s .itv < o.sends := Nat.not_lt.mpr hmore
  unfold resendOrEnd
  rw [hout]
  dsimp only
  rw [if_neg (resend_due (d := .itv) hsent hlate), if_neg hkept]

section
variable {s : State} {node : BitVec 16} {seq : BitVec 20} {o : Outst}

theorem resendTimeoutOp_itv_of_more (hout : findOutst s .itv node.toNat seq.toNat = some o) (hsent : o.waiting = false)
    (hlate : o.lastSend + itvE2E s.itv ≤ s.now) (hmore : o.sends ≤ itvRetryMax s.itv) :
    resendTimeoutOp s .itv node seq = sendOut (bumpDel s .resend) .itv node.toNat o 0 := by
  unfold resendTimeoutOp
  rw [resendOrEnd_itv_of_more hout hsent hlate hmore]

theorem resendTimeoutOp_itv_of_last (hout : findOutst s .itv node.toNat seq.toNat = some o) (hsent : o.waiting = false)
    (hlate : o.lastSend + itvE2E s.itv ≤ s.now) (hlast : itvRetryMax s.itv < o.sends) :
    resendTimeoutOp s .itv node seq =
      itvComplete (drainQueue (bumpDel (dropOutst s .itv node.toNat seq.toNat) .timeout) .itv node.toNat 4096) o.purpose St.timeout
        none := by
  unfold resendTimeoutOp
  rw [resendOrEnd_of_last hout hsent hlate hlast]
  rfl

theorem resendTimeoutOp_blg_of_last (hout : findOutst s .blg node.toNat seq.toNat = some o) (hsent : o.waiting = false)
    (hlate : o.lastSend + blgE2E s.blg ≤ s.now) (hlast : s.blg.retryMax.toNat < o.sends) :
    resendTimeoutOp s .blg node seq =
      settle (blgComplete (drainQueue (bumpBC (dropOutst s .blg node.toNat seq.toNat) .timeout) .blg node.toNat 4096) o St.timeout
        none) := by
  unfold resendTimeoutOp
  rw [resendOrEnd_of_last hout hsent hlate hlast]
  rfl

/-! ## A request that waits for its port -/

/-- The wait ends as the last re-send does, of a request that was never sent (R156). -/
theorem homeWaitTimeoutOp_of_late (hout : findOutst s .blg node.toNat seq.toNat = some o) (hwaits : o.waiting = true)
    (hstarted : s.blg.startWait = false) (hlate : o.born + (s.blg.retryMax.toNat + 1) * blgE2E s.blg ≤ s.now) :
    homeWaitTimeoutOp s node seq =
      settle (blgComplete (drainQueue (bumpBC (dropOutst s .blg node.toNat seq.toNat) .timeout) .blg node.toNat 4096) o St.timeout
        none) := by
  have hend : waitOrEnd s node.toNat seq.toNat =
      (drainQueue (bumpBC (dropOutst s .blg node.toNat seq.toNat) .timeout) .blg node.toNat 4096, some o) := by
    unfold waitOrEnd
    rw [hout]
    exact if_pos (by rw [hwaits, hstarted, passed_of_le hlate]; rfl)
  unfold homeWaitTimeoutOp
  rw [hend]

theorem homeUsableOp_of_usable {plane : Fin 24} (hready : (s.blg.ports.get plane).st = .ready)
    (hkept : (s.blg.ports.get plane).excluded = false) : homeUsableOp s plane = sendWaiting s :=
  if_pos (by rw [hready, hkept]; rfl)

/-! ## Replies held 200 µs -/

theorem serviceLateOp_itv_of_late {l : Landed} {rest : List Landed}
    (hlate : takeFirst (fun (l : Landed) => l.own && lateReply s node seq l.flit l.at_) s.itv.core.internal = some (l, rest)) :
    serviceLateOp s .itv node seq = bumpDel { s with itv.core.internal := rest } .serviceLate := by
  unfold serviceLateOp
  simp only [hlate]

/-- At Belug the request leaves service, so that no reply to it is formed (`answerHere`). -/
theorem serviceLateOp_blg_of_late
    (hlate : (kgetD s.blg.inflows node.toNat {}).serving.any (fun x => x.1 == seq.toNat && passed s x.2 200001) = true) :
    serviceLateOp s .blg node seq = setInflows s .blg (kset s.blg.inflows node.toNat {
      kgetD s.blg.inflows node.toNat {} with
      serving := (kgetD s.blg.inflows node.toNat {}).serving.filter (fun x => x.1 != seq.toNat) }) := if_pos hlate

end

/-! ## The statement -/

/-- Settles O27: one lemma for each row and outcome. Belug has no SERVICE_LATE counter (log 73). -/
theorem repliesAndTimeoutsEndRequests : Obligations.RepliesAndTimeoutsEndRequests := by
  refine ⟨?accepted, ?dataItv, ?dataBlg, ?doneItv, ?doneBlg, ?dupReply, ?resend, ?timeoutItv, ?timeoutBlg, ?homeWait, ?lateItv,
    ?lateBlg, ?homeUsable⟩
  case accepted => exact fun _ _ _ _ hout hsent hplain => acceptReply_of_plain hout hsent hplain
  case dataItv => exact fun _ _ _ hk hin hacc => next_congr (itvReply_of_accepted hk hin hacc)
  case dataBlg => exact fun _ _ _ hk hin hacc => next_congr (congrArg settle (blgReply_of_accepted hk hin hacc))
  case doneItv => exact fun _ _ _ hk hin hacc => next_congr (itvReply_of_accepted hk hin hacc)
  case doneBlg => exact fun _ _ _ hk hin hacc => next_congr (congrArg settle (blgReply_of_accepted hk hin hacc))
  case dupReply => exact fun _ _ hk hin hnone => next_congr (itvReply_of_notOutstanding hk hin hnone)
  case resend => exact fun _ _ _ _ hout hsent hlate hmore => next_congr (resendTimeoutOp_itv_of_more hout hsent hlate hmore)
  case timeoutItv => exact fun _ _ _ _ hout hsent hlate hlast => next_congr (resendTimeoutOp_itv_of_last hout hsent hlate hlast)
  case timeoutBlg => exact fun _ _ _ _ hout hsent hlate hlast => next_congr (resendTimeoutOp_blg_of_last hout hsent hlate hlast)
  case homeWait =>
    exact fun _ _ _ _ hout hwaits hstarted hlate => next_congr (homeWaitTimeoutOp_of_late hout hwaits hstarted hlate)
  case lateItv => exact fun _ _ _ _ _ hlate => next_congr (serviceLateOp_itv_of_late hlate)
  case lateBlg => exact fun _ _ _ hlate => next_congr (serviceLateOp_blg_of_late hlate)
  case homeUsable => exact fun _ _ hready hkept => next_congr (homeUsableOp_of_usable hready hkept)

end Sys2Proof.Machine
end

section
/-! Address translation (06_address_translation.md): what a LOAD, STORE, ATOMIC or RMEM of the apron does once its translation is at
hand, and how the accelerator's memory answers. -/

namespace Sys2Proof.Machine

open Sys2Proof

/-! ## Where a translated operation goes (R217) -/

section
variable {s : State} {ch : Fin 24} {m : ApronMsg} {t : Nat} {phys : Word} {wire : BitVec 16} {nc : Bool} {u : State} {op : AOp}
  (hmeets : apronMeets s ch m t phys wire nc) (hu : u = (apronXlated s ch m).1)
  (hop : op = { apronAOp s ch m with phys := phys, wire := wire, nocache := nc }) (hrun : mayRun u op)
include hmeets hop

/-- The operation keeps the type of its message. -/
theorem typ_of_apronMeets : op.m.typ.toNat = t := by
  obtain ⟨⟨htyp, -, -⟩, -, -⟩ := hmeets
  rw [hop]
  exact htyp

include hu hrun

/-- A page of the seat itself: `v` is what the operation, of its type, makes of `u`. -/
theorem apronOp_of_own {v : State} (hown : opNode op = u.blg.node) (hdoes : op.m.typ.toNat = t → localOp u op = v) :
    apronOp s ch m t = settle v := by
  rw [apronOp_meets hmeets, ← hop, ← hu, performApron_runs hrun, if_pos hown, hdoes (typ_of_apronMeets hmeets hop)]

/-- A page of another node, likewise. -/
theorem apronOp_of_remote {v : State} (hremote : opNode op ≠ u.blg.node) (hdoes : op.m.typ.toNat = t → remoteOp u op = v) :
    apronOp s ch m t = settle v := by
  rw [apronOp_meets hmeets, ← hop, ← hu, performApron_runs hrun, if_neg hremote, hdoes (typ_of_apronMeets hmeets hop)]

end

section
variable {s : State} {op : AOp}

/-! ## In the seat's own memory (R217, R513) -/

theorem localOp_of_load (htyp : op.m.typ.toNat = 1) :
    localOp s op = lmemRead s (opOff op) op.m.size.toNat (.apronLocal op) := by
  unfold localOp
  rw [htyp]
  rfl

theorem localOp_of_store (htyp : op.m.typ.toNat = 2) :
    localOp s op = lmemWriteLine s (opLine op) (opBytes op) (opMask op) (.apronLocal op) := by
  unfold localOp
  rw [htyp]
  rfl

theorem localOp_of_atomic (htyp : op.m.typ.toNat = 3) (hok : atomicOk op.m.opt.toNat (opSize op) (opOff op) = true) :
    localOp s op = lmemAtomic s (opOff op) op.m.opt op.m.size op.m.b7 (opA op) (opB op) (.apronLocal op) := by
  unfold localOp
  rw [htyp]
  exact if_pos hok

/-- No RMEM holds the line. -/
theorem localOp_of_rmem (htyp : op.m.typ.toNat = 13) (hplain : rmemPlainOk op.m.b7.toNat op.m.opt.toNat = true)
    (hfree : s.blg.rmemBusy.contains (opLine op) = false) :
    localOp s op =
      lmemReadLine { s with blg.rmemBusy := s.blg.rmemBusy ++ [opLine op] } (opOff op) (.ownRmemRead op) := by
  unfold localOp ownRmem
  rw [htyp, hplain, hfree]
  rfl

/-! ## At another node, by its type -/

theorem remoteOp_of_load (htyp : op.m.typ.toNat = 1) : remoteOp s op = loadOp s op := by
  unfold remoteOp
  rw [htyp]
  rfl

theorem remoteOp_of_store (htyp : op.m.typ.toNat = 2) : remoteOp s op = storeOp s op := by
  unfold remoteOp
  rw [htyp]
  rfl

theorem remoteOp_of_rmem (htyp : op.m.typ.toNat = 13) : remoteOp s op = remoteRmem s op := by
  unfold remoteOp
  rw [htyp]
  rfl

section
variable (htyp : op.m.typ.toNat = 3) (hclaim : op.m.opt.toNat ≠ aopClaim)
include htyp hclaim

theorem remoteOp_of_houseAtomic (hscope : opScope op = 2) : remoteOp s op = houseAtomic s op := by
  unfold remoteOp
  rw [htyp]
  exact (if_neg hclaim).trans (if_pos hscope)

theorem remoteOp_of_narrowAtomic (hscope : opScope op ≠ 2) (hok : atomicOk op.m.opt.toNat (opSize op) (opOff op) = true) :
    remoteOp s op = narrowAtomic s op := by
  unfold remoteOp
  rw [htyp]
  exact (if_neg hclaim).trans ((if_neg hscope).trans (if_pos hok))

end

/-! ## What the caches hold of its line (R243, R247 to R249, R263, R264) -/

section
variable (hoc : ocOf s op = none)
include hoc

theorem loadOp_of_uncached (hnc : op.nocache = true) :
    loadOp s op = sendLoad s (opNode op) op.wire (opOff op) op.m.size.toNat (.apron op) := by
  unfold loadOp
  rw [hoc]
  exact if_pos hnc

theorem loadOp_of_farHit {c : FarLine} (hnc : op.nocache = false) (hfar : kget s.blg.far (opLineId op) = some c) :
    loadOp s op = serveLoad s op c.data := by
  unfold loadOp
  rw [hoc]
  dsimp only
  rw [hnc, hfar]
  rfl

/-- A miss with no fill of its line out: the load waits for the fill it asks for. -/
theorem loadOp_of_miss (hnc : op.nocache = false) (hfar : kget s.blg.far (opLineId op) = none)
    (hspoilt : fillSpoilt s (opLineId op) = false) (hout : fillOut s (opLineId op) = false) :
    loadOp s op = sendLoad { s with blg.fillWait := s.blg.fillWait ++ [(opLineId op, op)] } (opNode op) op.wire (opLine op * 128) 4
      (.fill (opLineId op)) := by
  unfold loadOp
  rw [hoc]
  dsimp only
  rw [hnc, hfar, hspoilt, hout]
  rfl

/-- The seat's own line is not in the way of a request to the home. -/
theorem afterPublish_of_notHeld (send : State → State) : afterPublish s op send = send s := by
  unfold afterPublish
  rw [hoc]

end

section
variable {e : OcLine} (hoc : kget s.blg.oc (opLine op) = some e) (hnode : e.node = opNode op)
include hoc hnode

/-- The entry of the line is this node's and is not leaving. -/
theorem ownerEntry_of_held (hst : e.st ≠ .publishing) : ownerEntry s op = (s, some e) := by
  unfold ownerEntry
  rw [hoc]
  dsimp only
  rw [if_pos hnode, if_neg hst]

theorem storeOp_of_held (hnc : op.nocache = false) (hst : e.st ≠ .publishing) :
    storeOp s op = endApron (mergeOc (useOc s (opLine op)) (opLine op) (opBytes op) (opMask op)) op St.ok 0 [] := by
  unfold storeOp
  rw [hnc, ownerEntry_of_held hoc hnode hst]
  rfl

theorem narrowAtomic_of_owned (hst : e.st = .owned) (hcovers : ocCovers e op = true) : narrowAtomic s op = atomicOc s op e := by
  have hstays : e.st ≠ .publishing := by rw [hst]; decide
  unfold narrowAtomic
  rw [ownerEntry_of_held hoc hnode hstays]
  exact if_pos ⟨hst, hcovers⟩

end

end

/-! ## The answer of the accelerator's memory (R511) -/

theorem lmemRspOp_of_answer {s : State} {ch : Fin 24} {m : ApronMsg} {r : LReq} {rest : List LReq} (htyp : m.typ = 0x18)
    (hup : (getCh s ch.val).up = true)
    (hreq : takeFirst (fun (r : LReq) => r.tag == m.tag.toNat && r.ch == ch.val) (takeWords s ch.val m).blg.lmem = some (r, rest)) :
    lmemRspOp s ch m =
      settle (lmemDone { takeWords s ch.val m with blg.lmem := rest } r.why (lmemStatus m) (pad 128 m.data)) := by
  have hmine : ¬ (m.typ ≠ 0x18 ∨ (!(getCh s ch.val).up) = true) := by simp [htyp, hup]
  unfold lmemRspOp
  rw [if_neg hmine]
  dsimp only
  rw [hreq]

/-! ## The statement -/

/-- Settles O29: by the node of the page (`apronOp_of_own`, `apronOp_of_remote`), then by type and by what the caches hold. -/
theorem apronOperationsAreTranslatedAndPerformed : Obligations.ApronOperationsAreTranslatedAndPerformed := by
  refine ⟨?loadOwn, ?loadFar, ?loadUncached, ?loadFill, ?storeOwn, ?storeOwned, ?atomicOwn, ?atomicOwned, ?atomicHouse, ?rmemOwn,
    ?rmemHouse, ?lmemRsp⟩
  case loadOwn =>
    rintro s ch m phys wire nc _ _ hmeets rfl rfl hrun hown
    exact next_congr (apronOp_of_own hmeets rfl rfl hrun hown localOp_of_load)
  case loadFar =>
    rintro s ch m phys wire _ _ c hmeets rfl rfl hrun hremote hoc hfar
    exact next_congr (apronOp_of_remote hmeets rfl rfl hrun hremote fun htyp =>
      (remoteOp_of_load htyp).trans (loadOp_of_farHit hoc rfl hfar))
  case loadUncached =>
    rintro s ch m phys wire _ _ hmeets rfl rfl hrun hremote hoc
    exact next_congr (apronOp_of_remote hmeets rfl rfl hrun hremote fun htyp =>
      (remoteOp_of_load htyp).trans (loadOp_of_uncached hoc rfl))
  case loadFill =>
    rintro s ch m phys wire _ _ hmeets rfl rfl hrun hremote hoc hfar hspoilt hout
    exact next_congr (apronOp_of_remote hmeets rfl rfl hrun hremote fun htyp =>
      (remoteOp_of_load htyp).trans (loadOp_of_miss hoc rfl hfar hspoilt hout))
  case storeOwn =>
    rintro s ch m phys wire nc _ _ hmeets rfl rfl hrun hown
    exact next_congr (apronOp_of_own hmeets rfl rfl hrun hown localOp_of_store)
  case storeOwned =>
    rintro s ch m phys wire _ _ e hmeets rfl rfl hrun hremote hoc hnode hst
    exact next_congr (apronOp_of_remote hmeets rfl rfl hrun hremote fun htyp =>
      (remoteOp_of_store htyp).trans (storeOp_of_held hoc hnode rfl hst))
  case atomicOwn =>
    rintro s ch m phys wire nc _ _ hmeets rfl rfl hrun hown hok
    exact next_congr (apronOp_of_own hmeets rfl rfl hrun hown fun htyp => localOp_of_atomic htyp hok)
  case atomicOwned =>
    rintro s ch m phys wire nc _ _ e hmeets rfl rfl hrun hremote hclaim hscope hok hoc hnode hst hcovers
    exact next_congr (apronOp_of_remote hmeets rfl rfl hrun hremote fun htyp =>
      (remoteOp_of_narrowAtomic htyp hclaim hscope hok).trans (narrowAtomic_of_owned hoc hnode hst hcovers))
  case atomicHouse =>
    rintro s ch m phys wire nc _ _ hmeets rfl rfl hrun hremote hclaim hscope hoc
    exact next_congr (apronOp_of_remote hmeets rfl rfl hrun hremote fun htyp =>
      (remoteOp_of_houseAtomic htyp hclaim hscope).trans (afterPublish_of_notHeld hoc _))
  case rmemOwn =>
    rintro s ch m phys wire nc _ _ hmeets rfl rfl hrun hown hplain hfree
    exact next_congr (apronOp_of_own hmeets rfl rfl hrun hown fun htyp => localOp_of_rmem htyp hplain hfree)
  case rmemHouse =>
    rintro s ch m phys wire nc _ _ hmeets rfl rfl hrun hremote hoc
    exact next_congr (apronOp_of_remote hmeets rfl rfl hrun hremote fun htyp =>
      (remoteOp_of_rmem htyp).trans (afterPublish_of_notHeld hoc _))
  case lmemRsp => exact fun _ _ _ _ _ htyp hup hreq => next_congr (lmemRspOp_of_answer htyp hup hreq)

end Sys2Proof.Machine
end

section
/-! The directory (07_memory_model.md): the table of R255, and the rows DIR_REQUEST, FENCE, INV_ACK, INV_RESEND, INV_ORPHAN, DIR_LATE
and DOMAIN_DOWN_NOTICE. -/

namespace Sys2Proof.Machine

open Sys2Proof

/-! ## The table of R255, by the state of the line's entry -/

theorem isClaim_of_kind {f : Flit} (hk : f.kind ≠ Kind.atomic) : isClaim f = false := by
  simp [isClaim, hk]

theorem kind_of_isClaim {f : Flit} (hclaim : isClaim f = true) : f.kind = Kind.atomic := by
  simp only [isClaim, Bool.and_eq_true, beq_iff_eq] at hclaim
  exact hclaim.1

/-- A line with an entry, or a set with a free way, has room (R262). -/
theorem haveWay_of_room {s : State} {key : Nat} (f : Flit) (t : Nat)
    (hroom : (dirEntry s key).isSome = true ∨ (waysOf s key).length < 256) : haveWay s key f t = (s, true) := by
  unfold haveWay
  by_cases hentry : (dirEntry s key).isSome = true
  · exact if_pos hentry
  · exact (if_neg hentry).trans (if_pos (hroom.resolve_left hentry))

section
variable {s : State} {f : Flit}

theorem dirAct_of_down (t : Nat) (hdown : domainHit s f = true) : dirAct s f t = (answer s f St.domainDown, false) :=
  if_pos hdown

variable (t : Nat) {e : DirEntry} (hup : domainHit s f = false) (hentry : (dirEntry s (flitLine f)).getD {} = e)
include hup hentry

/-- In RECALL every request but the owner's publish is held (R256). -/
theorem dirAct_of_recall (hst : e.st = .recall) (hother : ¬ (f.kind = Kind.store ∧ e.owner = some (nodeSeat f.src))) :
    dirAct s f t = (holdIn s (flitLine f) e f t, false) := by
  unfold dirAct
  dsimp only
  rw [hentry, hup]
  exact (if_neg Bool.false_ne_true).trans ((if_pos hst).trans (if_neg hother))

/-- A LOAD of a line that another seat owns goes to the owner as a FWD; a full one makes its seat a sharer (R255, R260). -/
theorem dirAct_of_ownedLoad {o : Nat} (hst : e.st = .owned) (howner : e.owner = some o) (hk : f.kind = Kind.load)
    (hother : o ≠ nodeSeat f.src) :
    dirAct s f t =
      (sendFwd (if f.sizeCode == 4 then putEntry s (flitLine f) { e with sharers := setBit e.sharers (nodeSeat f.src) true } else s) f o,
        false) := by
  unfold dirAct
  dsimp only
  rw [hentry, hup, hst, howner]
  exact (if_neg Bool.false_ne_true).trans ((if_neg (by decide)).trans ((if_pos hk).trans (if_neg hother)))

/-- The row of a line that no seat owns. -/
theorem dirAct_of_shared (hst : e.st = .shared) :
    dirAct s f t = (
      let key := flitLine f
      let S := nodeSeat f.src
      let room := haveWay s key f t
      if f.kind = Kind.load then
        if f.sizeCode == 4 then
          if room.2 then (putEntry room.1 key { e with sharers := setBit e.sharers S true }, true) else (room.1, false)
        else (s, true)
      else if isClaim f then
        if claimStatus s f ≠ St.ok then (answer s f (claimStatus s f), false)
        else if room.2 then
          (answer (putEntry room.1 key { e with st := .owned, owner := some S, sharers := setBit e.sharers S false }) f
            (claimStatus s f), false)
        else (room.1, false)
      else if f.kind = Kind.store then
        (putEntry (openGroup s S key ((onesOf e.sharers).filter (fun x => x != S))) key
          { e with sharers := if e.sharers.getLsbD S then BitVec.ofNat 72 (2 ^ S) else 0 }, true)
      else
        let u := putEntry (openGroup s S key (onesOf e.sharers)) key { e with sharers := 0 }
        if f.kind = Kind.atomic ∧ !toOwnPool u.itv f then combineOrPass u f else (u, true)) := by
  unfold dirAct
  dsimp only
  rw [hentry, hup, hst]
  exact (if_neg Bool.false_ne_true).trans (if_neg (by decide))

theorem dirAct_of_sharedLoad (hst : e.st = .shared) (hk : f.kind = Kind.load) (hfull : f.sizeCode = 4)
    (hroom : (dirEntry s (flitLine f)).isSome = true ∨ (waysOf s (flitLine f)).length < 256) :
    dirAct s f t = (putEntry s (flitLine f) { e with sharers := setBit e.sharers (nodeSeat f.src) true }, true) := by
  rw [dirAct_of_shared t hup hentry hst]
  dsimp only
  rw [if_pos hk, hfull, haveWay_of_room f t hroom]
  rfl

theorem dirAct_of_sharedStore (hst : e.st = .shared) (hk : f.kind = Kind.store) :
    dirAct s f t =
      (putEntry (openGroup s (nodeSeat f.src) (flitLine f) ((onesOf e.sharers).filter (fun x => x != nodeSeat f.src))) (flitLine f)
        { e with sharers := if e.sharers.getLsbD (nodeSeat f.src) then BitVec.ofNat 72 (2 ^ nodeSeat f.src) else 0 }, true) := by
  rw [dirAct_of_shared t hup hentry hst]
  dsimp only
  rw [if_neg (kind_ne hk : f.kind ≠ Kind.load), isClaim_of_kind (kind_ne hk : f.kind ≠ Kind.atomic), if_neg Bool.false_ne_true,
    if_pos hk]

theorem dirAct_of_sharedClaim (hst : e.st = .shared) (hclaim : isClaim f = true) (hok : claimStatus s f = St.ok)
    (hroom : (dirEntry s (flitLine f)).isSome = true ∨ (waysOf s (flitLine f)).length < 256) :
    dirAct s f t =
      (answer (putEntry s (flitLine f) { e with
        st := .owned, owner := some (nodeSeat f.src), sharers := setBit e.sharers (nodeSeat f.src) false }) f St.ok, false) := by
  rw [dirAct_of_shared t hup hentry hst]
  dsimp only
  rw [if_neg (kind_ne (kind_of_isClaim hclaim) : f.kind ≠ Kind.load), if_pos hclaim, hok, if_neg (not_not_intro rfl),
    haveWay_of_room f t hroom]
  rfl

end

/-! ## DIR_REQUEST -/

section
variable {s : State} {f : Flit}

/-- A request that is no duplicate of one combined or merged meets the table; a way it leaves free is taken up (R192, R194, R262). -/
theorem directoryOp_of_new (t : Nat) (hnew : answeredOf s f = none) (hcarried : carriedHere s f = false) :
    directoryOp s f t = (tryWays (dirAct s f t).1 (flitLine f), (dirAct s f t).2) := by
  unfold directoryOp
  rw [hnew]
  exact if_neg (by rw [hcarried]; exact Bool.false_ne_true)

section
variable (hland : landedAt s f = none) (hown : toOwnPool s.itv f = true)
  (hk : f.kind = Kind.load ∨ f.kind = Kind.store ∨ f.kind = Kind.atomic ∨ f.kind = Kind.rmem) (hin : f ∈ s.itv.core.inbox)
include hland hown hk hin

/-- A request for the pool is taken from what was delivered here; the directory has a say in the lines it tracks (R252). -/
theorem dirRequestOp_of_pool :
    dirRequestOp s f = (
      let u := takeInbox s .itv f
      if poolTracked u.itv f then
        if (directoryOp u f s.now).2 then passOn (directoryOp u f s.now).1 f else (directoryOp u f s.now).1
      else if domainHit u f then answer u f St.domainDown
      else passOn u f) := by
  have hcoherent : [0x02, 0x03, 0x04, 0x06].contains f.kind.toNat = true := by
    rcases hk with hk | hk | hk | hk <;> (rw [hk]; rfl)
  unfold dirRequestOp
  rw [hland]
  dsimp only
  rw [hown, hcoherent, fromInbox_itv hin]
  rfl

theorem dirRequestOp_of_passed (htracked : poolTracked (takeInbox s .itv f).itv f = true)
    (hnew : answeredOf (takeInbox s .itv f) f = none)
    (hcarried : carriedHere (takeInbox s .itv f) f = false) (hgo : (dirAct (takeInbox s .itv f) f s.now).2 = true) :
    dirRequestOp s f = passOn (tryWays (dirAct (takeInbox s .itv f) f s.now).1 (flitLine f)) f := by
  rw [dirRequestOp_of_pool hland hown hk hin]
  dsimp only
  rw [if_pos htracked, directoryOp_of_new s.now hnew hcarried]
  exact if_pos hgo

theorem dirRequestOp_of_untracked (huntracked : poolTracked (takeInbox s .itv f).itv f = false)
    (hup : domainHit (takeInbox s .itv f) f = false) :
    dirRequestOp s f = passOn (takeInbox s .itv f) f := by
  rw [dirRequestOp_of_pool hland hown hk hin]
  dsimp only
  rw [huntracked, hup]
  rfl

end

/-! ## FENCE (R268) -/

section
variable {fresh : Bool} (hk : f.kind = Kind.fence) (hin : f ∈ s.itv.core.inbox) (hstruck : s.itv.sec.struck = 0)
  (htaken : (arriveFlow (takeInbox s .itv f) .itv f).2 = some fresh)
  (hup : domainHit (bumpCoh (arrived (takeInbox s .itv f) .itv f) .fences) f = false)
include hk hin hstruck htaken hup

/-- A FENCE taken up by its flow: what it waits for are the groups of its seat not yet closed. -/
theorem fenceOp_of_taken :
    fenceOp s f = (
      let t := bumpCoh (arrived (takeInbox s .itv f) .itv f) .fences
      let gs := (t.itv.dir.groups.filter (fun g => g.seat == nodeSeat f.src)).map (·.id)
      if gs.isEmpty then itvSend t (doneFor f St.ok)
      else modDir t (fun d => { d with fences := d.fences.filter (fun x => !sameReq x.1 f) ++ [(f, gs)] })) := by
  have hpair : arriveFlow (takeInbox s .itv f) .itv f = (arrived (takeInbox s .itv f) .itv f, some fresh) := Prod.ext rfl htaken
  have hthere : (takeInbox s .itv f).itv.sec.struck.getLsbD (partOfSeat (takeInbox s .itv f) (nodeSeat f.src)) = false := by
    rw [takeInbox_itv_itv_sec, hstruck]
    exact BitVec.getLsbD_zero
  unfold fenceOp
  rw [if_pos hk, fromInbox_itv hin, hpair]
  dsimp only
  rw [hthere, hup]
  rfl

theorem fenceOp_of_closed
    (hgroups : (bumpCoh (arrived (takeInbox s .itv f) .itv f) .fences).itv.dir.groups.filter (fun g => g.seat == nodeSeat f.src) = []) :
    fenceOp s f = itvSend (bumpCoh (arrived (takeInbox s .itv f) .itv f) .fences) (doneFor f St.ok) := by
  rw [fenceOp_of_taken hk hin hstruck htaken hup]
  dsimp only
  rw [hgroups]
  rfl

theorem fenceOp_of_open {g : InvGroup} {gs : List InvGroup}
    (hgroups : (bumpCoh (arrived (takeInbox s .itv f) .itv f) .fences).itv.dir.groups.filter (fun g => g.seat == nodeSeat f.src) =
      g :: gs) :
    fenceOp s f = modDir (bumpCoh (arrived (takeInbox s .itv f) .itv f) .fences) (fun d =>
      { d with fences := d.fences.filter (fun x => !sameReq x.1 f) ++ [(f, (g :: gs).map (·.id))] }) := by
  rw [fenceOp_of_taken hk hin hstruck htaken hup]
  dsimp only
  rw [hgroups]
  rfl

end

/-! ## INV_ACK (R257) -/

theorem invAckOp_of_outstanding {v : InvOut} (hk : f.kind = Kind.invAck) (hin : f ∈ s.itv.core.inbox)
    (hinv : s.itv.dir.invs.find? (fun v => v.seat == nodeSeat f.src && v.seq == f.seq.toNat && lineNo v.line == f.offset / 128) =
      some v) :
    invAckOp s f = closeInv (takeInbox s .itv f) v := by
  unfold invAckOp
  rw [if_pos hk, fromInbox_itv hin, takeInbox_itv_itv_dir, hinv]

theorem invAckOp_of_other (hk : f.kind = Kind.invAck) (hin : f ∈ s.itv.core.inbox)
    (hnone : s.itv.dir.invs.find? (fun v => v.seat == nodeSeat f.src && v.seq == f.seq.toNat && lineNo v.line == f.offset / 128) =
      none) :
    invAckOp s f = bumpCoh (takeInbox s .itv f) .dupAck := by
  unfold invAckOp
  rw [if_pos hk, fromInbox_itv hin, takeInbox_itv_itv_dir, hnone]

end

/-! ## An INV not acknowledged in E2E_TIMEOUT -/

theorem domainDown_of_down {s : State} {part : Nat} (hdown : s.itv.dir.down.getLsbD part = true) : domainDown s part = s :=
  if_pos hdown

theorem domainDown_of_up {s : State} {part : Nat} (hup : s.itv.dir.down.getLsbD part = false) :
    domainDown s part = (
      let x := takeHeld (bumpCoh (modDir s (fun d => { d with down := setBit d.down part true })) .domainEvents) part
      noteState s (raiseEvent (x.2.foldl (fun s f => answer s f St.domainDown) (freePart x.1 part)) Ev.domain)) :=
  if_neg (by rw [hup]; exact Bool.false_ne_true)

theorem deadOwner_of_up {s : State} {seat : Nat} (hup : s.itv.dir.down.getLsbD (partOfSeat s seat) = false) :
    deadOwner s seat = sendNotices (domainDown s (partOfSeat s seat)) (partOfSeat s seat) :=
  if_neg (by rw [hup]; exact Bool.false_ne_true)

section
variable {s : State} {seat : Fin 72} {q : Nat} {v : InvOut} (hinv : findInv s seat q = some v)
  (hlate : v.lastSend + itvE2E s.itv ≤ s.now)
include hinv hlate

theorem invResendOp_of_more (hmore : v.sends ≤ itvRetryMax s.itv) :
    invResendOp s seat q = (
      let t := modDir s (fun d => { d with invs := d.invs.map (fun x =>
        if x.seat == v.seat && x.seq == v.seq then { x with sends := x.sends + 1, lastSend := s.now } else x) })
      itvSend t { dst := seatNode s.itv v.seat, src := poolNode s.itv, kind := Kind.inv, seq := BitVec.ofNat 20 v.seq,
                  payload := payloadOf [(0, leBytes 6 (lineNo v.line * 128))] }) := by
  unfold invResendOp
  rw [hinv]
  exact if_pos (by rw [passed_of_le hlate, decide_eq_true hmore]; rfl)

section
variable (hlast : itvRetryMax s.itv < v.sends)
include hlast

theorem invOrphanOp_of_sharer {e : DirEntry} (hsharer : v.toOwner = false) (hentry : dirEntry s v.line = some e) :
    invOrphanOp s seat q =
      closeInv (bumpCoh (putEntry s v.line { e with sharers := setBit e.sharers v.seat false }) .invOrphan) v := by
  unfold invOrphanOp
  rw [hinv]
  dsimp only
  rw [if_pos (by rw [passed_of_le hlate, decide_eq_true hlast]; rfl), hsharer, hentry]
  rfl

theorem invOrphanOp_of_owner (howner : v.toOwner = true) (hup : s.itv.dir.down.getLsbD (partOfSeat s v.seat) = false) :
    invOrphanOp s seat q = sendNotices (domainDown s (partOfSeat s v.seat)) (partOfSeat s v.seat) := by
  unfold invOrphanOp
  rw [hinv]
  dsimp only
  rw [if_pos (by rw [passed_of_le hlate, decide_eq_true hlast]; rfl), if_pos howner, deadOwner_of_up hup]

end

end

/-! ## DIR_LATE (R256) -/

theorem dirLateOp_of_held {s : State} {line i : Nat} {e : DirEntry} {f : Flit} {t : Nat} (hentry : dirEntry s line = some e)
    (hheld : e.held[i]? = some (f, t)) (hlate : t + 200000 ≤ s.now) :
    dirLateOp s line i =
      bumpCoh (modDir s (fun d => { d with entries := kset d.entries line { e with held := e.held.eraseIdx i } })) .dirLate := by
  have hholds : (!e.held.isEmpty) = true := by
    cases hlist : e.held with
    | nil => simp [hlist] at hheld
    | cons x xs => rfl
  unfold dirLateOp
  rw [hentry, Option.filter_some_pos (p := fun (e : DirEntry) => !e.held.isEmpty) hholds]
  dsimp only
  rw [hheld]
  exact if_pos (passed_of_le hlate)

/-! ## The statements -/

/-- Settles O24: one lemma for each row of the table. What a CLAIM to the pool is checked for is the model's (log 66). -/
theorem directoryFollowsItsTable : Obligations.DirectoryFollowsItsTable := by
  refine ⟨?load, ?forwarded, ?store, ?claim, ?down, ?recalled⟩
  case load => exact fun _ _ t hup hst hk hfull hroom => dirAct_of_sharedLoad t hup rfl hst hk hfull hroom
  case forwarded =>
    intro s f t e o hup hentry hst howner hk hfull hother
    rw [dirAct_of_ownedLoad t hup (congrArg (·.getD {}) hentry) hst howner hk hother, hfull]
    rfl
  case store => exact fun _ _ t hup hst hk => dirAct_of_sharedStore t hup rfl hst hk
  case claim => exact fun _ _ t hup hst _ hclaim hok hroom => dirAct_of_sharedClaim t hup rfl hst hclaim hok hroom
  case down => exact fun _ _ t hdown => dirAct_of_down t hdown
  case recalled =>
    exact fun _ _ t _ hup hentry hst hk => dirAct_of_recall t hup (congrArg (·.getD {}) hentry) hst fun h => hk h.1

/-- Settles O25: one lemma for each row and outcome. The code and layout of a domain-down notice to the other switches are the
model's (log 50). -/
theorem directoryRowsActOnRequestsFencesAndInvs : Obligations.DirectoryRowsActOnRequestsFencesAndInvs := by
  refine ⟨?passed, ?untracked, ?fence, ?fenceWaits, ?ack, ?dupAck, ?resend, ?orphanSharer, ?orphanOwner, ?late, ?down, ?downAgain⟩
  case passed =>
    exact fun _ _ hland hown hk hin htracked hnew hcarried hgo =>
      next_congr (dirRequestOp_of_passed hland hown hk hin htracked hnew hcarried hgo)
  case untracked =>
    exact fun _ _ hland hown hk hin huntracked hup => next_congr (dirRequestOp_of_untracked hland hown hk hin huntracked hup)
  case fence =>
    exact fun _ _ _ hk hin hstruck htaken hup hgroups => next_congr (fenceOp_of_closed hk hin hstruck htaken hup hgroups)
  case fenceWaits =>
    exact fun _ _ _ _ _ hk hin hstruck htaken hup hgroups => next_congr (fenceOp_of_open hk hin hstruck htaken hup hgroups)
  case ack => exact fun _ _ _ hk hin hinv => next_congr (invAckOp_of_outstanding hk hin hinv)
  case dupAck => exact fun _ _ hk hin hnone => next_congr (invAckOp_of_other hk hin hnone)
  case resend => exact fun _ _ _ _ hinv hlate hmore => next_congr (invResendOp_of_more hinv hlate hmore)
  case orphanSharer =>
    exact fun _ _ _ _ _ hinv hlate hlast hsharer hentry => next_congr (invOrphanOp_of_sharer hinv hlate hlast hsharer hentry)
  case orphanOwner =>
    exact fun _ _ _ _ hinv hlate hlast howner hup => next_congr (invOrphanOp_of_owner hinv hlate hlast howner hup)
  case late => exact fun _ _ _ _ _ _ hentry hheld hlate => next_congr (dirLateOp_of_held hentry hheld hlate)
  case down => exact fun _ _ hup => next_congr (domainDown_of_up hup)
  case downAgain => exact fun _ _ hdown => next_congr (domainDown_of_down hdown)

end Sys2Proof.Machine
end

section
/-! The caches of a seat (07_memory_model.md): INV and FWD. -/

namespace Sys2Proof.Machine

open Sys2Proof

section
variable {s : State} {f : Flit}

/-! ## The flit is taken -/

theorem invOp_of_taken (hk : f.kind = Kind.inv) (hin : s.blg.inbox.any (fun x => x.1 == f) = true) :
    invOp s f = settle (applyInv (takeInbox s .blg f) f) := by
  unfold invOp
  rw [if_pos hk, fromInbox_blg hin]

theorem fwdOp_of_taken (hk : f.kind = Kind.fwd) (hin : s.blg.inbox.any (fun x => x.1 == f) = true) :
    fwdOp s f = settle (applyFwd (takeInbox s .blg f) f) := by
  unfold fwdOp
  rw [if_pos hk, fromInbox_blg hin]

/-! ## INV: what the owner cache holds of its line (R258, R259) -/

/-- Far copies and fills of a line, of whichever home, meet an INV. -/
def withoutFarCopies (s : State) (line : Nat) : State :=
  spoilFills { s with blg.far := s.blg.far.filter (fun e => e.1 % 2 ^ 41 != line) } (fun k => k % 2 ^ 41 == line)

theorem applyInv_of_notHeld (hoc : kget s.blg.oc (f.offset / 128) = none) :
    applyInv s f = invAck (withoutFarCopies s (f.offset / 128)) f := by
  have hkept : kget (withoutFarCopies s (f.offset / 128)).blg.oc (f.offset / 128) = none := hoc
  unfold withoutFarCopies at hkept ⊢
  unfold applyInv
  dsimp only
  rw [hkept]

theorem applyInv_of_owned {e : OcLine} (hoc : kget s.blg.oc (f.offset / 128) = some e) (hst : e.st = .owned) :
    applyInv s f =
      publish (modOc (withoutFarCopies s (f.offset / 128)) (f.offset / 128) (fun e => { e with invs := e.invs ++ [f] }))
        (f.offset / 128) := by
  have hkept : kget (withoutFarCopies s (f.offset / 128)).blg.oc (f.offset / 128) = some e := hoc
  unfold withoutFarCopies at hkept ⊢
  unfold applyInv
  dsimp only
  rw [hkept]
  dsimp only
  rw [hst]

/-! ## FWD: how whole the line is (R260) -/

section
variable {e : OcLine} (hoc : kget s.blg.oc (f.offset / 128) = some e)
include hoc

theorem applyFwd_of_held :
    applyFwd s f =
      if e.filled then fwdData s f e.node e.data
      else if e.st = .claiming ∨ e.fillOut then modOc s (f.offset / 128) (fun e => { e with fwds := e.fwds ++ [f] })
      else bumpBC s .fwdStale := by
  unfold applyFwd
  dsimp only
  rw [hoc]

theorem applyFwd_of_filled (hfilled : e.filled = true) : applyFwd s f = fwdData s f e.node e.data :=
  (applyFwd_of_held hoc).trans (if_pos hfilled)

section
variable (hpart : e.filled = false)
include hpart

theorem applyFwd_of_filling (hfilling : e.st = .claiming ∨ e.fillOut = true) :
    applyFwd s f = modOc s (f.offset / 128) (fun e => { e with fwds := e.fwds ++ [f] }) := by
  rw [applyFwd_of_held hoc, hpart]
  exact if_pos hfilling

theorem applyFwd_of_notFilling (hclaimed : e.st ≠ .claiming) (hidle : e.fillOut = false) : applyFwd s f = bumpBC s .fwdStale := by
  rw [applyFwd_of_held hoc, hpart, hidle]
  exact if_neg (not_or.mpr ⟨hclaimed, Bool.false_ne_true⟩)

end

end

end

/-! ## The statement -/

/-- Settles O28: by what the owner cache holds of the line. -/
theorem invsAndFwdsMeetTheCachesOfASeat : Obligations.InvsAndFwdsMeetTheCachesOfASeat := by
  refine ⟨?invNotHeld, ?invOwned, ?fwdWhole, ?fwdFilling, ?fwdStale⟩
  case invNotHeld =>
    exact fun _ _ hk hin hoc => next_congr ((invOp_of_taken hk hin).trans (congrArg settle (applyInv_of_notHeld hoc)))
  case invOwned =>
    exact fun _ _ _ hk hin hoc hst => next_congr ((invOp_of_taken hk hin).trans (congrArg settle (applyInv_of_owned hoc hst)))
  case fwdWhole =>
    exact fun _ _ _ hk hin hoc hfilled =>
      next_congr ((fwdOp_of_taken hk hin).trans (congrArg settle (applyFwd_of_filled hoc hfilled)))
  case fwdFilling =>
    exact fun _ _ _ hk hin hoc hpart hfilling =>
      next_congr ((fwdOp_of_taken hk hin).trans (congrArg settle (applyFwd_of_filling hoc hpart hfilling)))
  case fwdStale =>
    exact fun _ _ _ hk hin hoc hpart hclaimed hidle =>
      next_congr ((fwdOp_of_taken hk hin).trans (congrArg settle (applyFwd_of_notFilling hoc hpart hclaimed hidle)))

end Sys2Proof.Machine
end

section
/-! Fences, posts and tallies of the apron (07_memory_model.md): FENCE, KSTART, INV_RANGE, SLOT_POST, COLL_POST, TALLY_READ and
messages that R505 refuses. -/

namespace Sys2Proof.Machine

open Sys2Proof

/-! ## A fence in progress, by its phase (R267 to R270) -/

section
variable {s : State} {f : FenceRun}

/-- A release waits for the stores before it; then that of a house publishes every line owned. -/
theorem advance_of_houseRelease (hphase : f.phase = 0) (hscope : f.scope = 2) (hdone : earlierOpen s f 1 = false) :
    advance s f = (modFence s f.id (fun x => { x with phase := 1, lines := s.blg.oc.map (fun e => e.2.id) })).blg.oc.foldl
      (fun s e => publish s e.1) (modFence s f.id (fun x => { x with phase := 1, lines := s.blg.oc.map (fun e => e.2.id) })) := by
  unfold advance
  rw [hphase, hdone]
  exact (if_neg Bool.false_ne_true).trans (if_pos hscope)

theorem advance_of_published (hphase : f.phase = 1) (hgone : f.lines.any (fun id => (findOc s id).isSome) = false) :
    advance s f = sendFences s f := by
  unfold advance
  rw [hphase, hgone]
  exact if_neg Bool.false_ne_true

theorem advance_of_acquired (hphase : f.phase = 3) (hdone : earlierOpen s f 0 = false)
    (hmet : (invsHere s.blg).any f.invs.contains = false) : advance s f = endFence s f := by
  unfold advance
  rw [hphase, hdone, hmet]
  exact if_neg Bool.false_ne_true

end

/-! ## Operations in progress -/

theorem isOpen_openOp (s : State) (engine kind ctx : Nat) (vas : List Nat) :
    isOpen (openOp s engine kind ctx vas).1 (openOp s engine kind ctx vas).2 = true := by
  simp [isOpen, openOp]

/-! ## Messages of the apron -/

section
variable {s : State} {ch : Fin 24} {m : ApronMsg}

theorem apronFenceOp_of_gets (hgets : apronGets s ch m 4) :
    apronFenceOp s ch m = settle (beginFence (takeWords s ch.val m) ch.val m.tag.toNat (m.opt.toNat / 4) (m.opt.toNat % 4 != 1)
      (m.opt.toNat % 4 != 0)) :=
  onApron_takes hgets

theorem kstartOp_of_gets (hgets : apronGets s ch m 9) :
    kstartOp s ch m = settle (beginFence (takeWords s ch.val m) ch.val m.tag.toNat 2 false true) :=
  onApron_takes hgets

theorem invRangeOp_of_gets (hgets : apronGets s ch m 5) :
    invRangeOp s ch m = settle (
      let x := openOp (takeWords s ch.val m) (32 + ch.val) 3 m.ctx.toNat [m.addr.toNat]
      let op : AOp := { id := x.2, ch := ch.val, m := m }
      rangeFrom x.1 op m.addr.toNat (rangeFuel op)) :=
  onApron_takes hgets

theorem apronReservedTypeOp_of_malformed (hbad : msgOk m = false) (hreq : m.typ.toNat ≠ 0x18) (hup : (getCh s ch.val).up = true) :
    apronReservedTypeOp s ch m = respond (takeWords s ch.val m) ch.val m St.badarg 0 [] :=
  if_neg (by simp [hbad, hreq, hup])

end

section
variable {s : State} {ch : Nat} {m : ApronMsg}

/-! ## SLOT_POST (R514) -/

theorem slotPost_of_free (hready : (getHand s m.opt.toNat).resetting = false) (hfree : (getSH s m.opt.toNat m.size.toNat).own = false)
    (hok : descOk (m.data.take 64) = true) :
    slotPost s ch m = respond (modSH s m.opt.toNat m.size.toNat (fun _ =>
      { own := true, desc := m.data.take 64, msg := slice m.data 64 64, total := pieceCount (m.data.take 64) })) ch m St.ok 0 [] := by
  unfold slotPost
  dsimp only
  rw [hready, hfree, hok]
  rfl

/-! ## COLL_POST (R326, R519) -/

/-- The context is known, of no struck tenant, and the collective is new: it is posted. -/
theorem postXlat_of_ok {op : AOp} {x : XWait} {phys : Word} {wire : BitVec 16} {nc : Bool} {i : Nat} (hopen : isOpen s op.id = true)
    (hstruck : wireStruck s wire = false) (hgroup : groupEntry s.blg (postGroup op.m) = some i)
    (hnew : findColl s (postGroup op.m) (postSeq op.m) = none) :
    postXlat s op x (.ok phys wire nc) = postColl (closeOp s op.id) op.ch op.m i wire := by
  have hclosedStruck : wireStruck (closeOp s op.id) wire = false := hstruck
  have hclosedGroup : groupEntry (closeOp s op.id).blg (postGroup op.m) = some i := hgroup
  have hclosedNew : findColl (closeOp s op.id) (postGroup op.m) (postSeq op.m) = none := hnew
  unfold postXlat
  dsimp only
  rw [hopen, hclosedStruck, hclosedGroup, hclosedNew]
  rfl

theorem acceptPost_of_new {i : Nat} {d : CtxDesc} (hgroup : groupEntry s.blg (postGroup m) = some i)
    (hfirst : bitOf (m.field 47 1) 1 = false) (hwell : descWell (m.data.take 32) = true)
    (hapart : regionsMeet (memberJob (postGroup m) (entryField s.blg i 4 2 % 32768) (parseDesc (m.data.take 32)))
      (entryField s.blg i 2 2 % 16384) (m.field 16 8) (m.field 24 8) = false)
    (hnew : findColl s (postGroup m) (postSeq m) = none) (hctx : descOf s m.ctx.toNat = some d)
    (hstruck : wireStruck s d.wire = false) :
    acceptPost s ch m = (
      let x := openOp s (32 + ch) 9 m.ctx.toNat []
      postColl (closeOp x.1 x.2) ch m i d.wire) := by
  have hopenedCtx : descOf (openOp s (32 + ch) 9 m.ctx.toNat []).1 m.ctx.toNat = some d := hctx
  unfold acceptPost
  rw [hgroup]
  dsimp only
  rw [hfirst, hwell, hapart, hnew, translate_ctx hopenedCtx]
  simp only [Bool.false_eq_true, Bool.not_true, Option.isSome_none, if_false]
  exact postXlat_of_ok (isOpen_openOp s _ _ _ _) hstruck hgroup hnew

/-! ## TALLY_READ (R517) -/

theorem tallyReadMsg_of_met
    (hmet : m.opt = 0 ∨ tallyMet (tallyWord s.blg (m.field 16 2)) (BitVec.ofNat 32 (m.field 20 4)) = true) :
    tallyReadMsg s ch m = respond s ch m St.ok 0 (leBytes 8 (tallyWord s.blg (m.field 16 2)).toNat) :=
  if_pos hmet

theorem tallyReadMsg_of_unmet (hwait : m.opt ≠ 0)
    (hunmet : tallyMet (tallyWord s.blg (m.field 16 2)) (BitVec.ofNat 32 (m.field 20 4)) = false) (hroom : s.blg.waits.length < 256) :
    tallyReadMsg s ch m = { s with
      blg.waits := s.blg.waits ++ [{ ch := ch, tag := m.tag.toNat, tally := m.field 16 2,
                                     target := BitVec.ofNat 32 (m.field 20 4), since := s.now }] } :=
  (if_neg (not_or.mpr ⟨hwait, by rw [hunmet]; exact Bool.false_ne_true⟩)).trans (if_neg (Nat.not_le.mpr hroom))

end

theorem tallyWaitTimeoutOp_of_late {s : State} {i : Nat} {w : TallyWait} (hwait : s.blg.waits[i]? = some w)
    (hlate : w.since + 10000000 ≤ s.now) :
    tallyWaitTimeoutOp s i = rspData { s with blg.waits := s.blg.waits.eraseIdx i } w.ch w.tag St.timeout 0
      (leBytes 8 (tallyWord s.blg w.tally).toNat) := by
  unfold tallyWaitTimeoutOp
  rw [hwait]
  exact if_pos (passed_of_le hlate)

/-! ## The statement -/

/-- Settles O30: a well-formed message runs its meaning (`onApron_takes`), which one lemma for each outcome gives; a fence goes on by
its phase. Which pages and lines INV_RANGE drops (log 70), how far a release reaches (log 71), what a post of a collective is judged
by (log 61) and that a slot in use is looked for before the descriptor's checks (log 72) are the model's. -/
theorem apronFencesPostsAndTalliesTakeEffect : Obligations.ApronFencesPostsAndTalliesTakeEffect := by
  refine ⟨?fence, ?kstart, ?acquired, ?release, ?published, ?invRange, ?rangePage, ?slotPost, ?collPost, ?tallyNow, ?tallyWaits,
    ?tallyTimeout, ?reserved⟩
  case fence => exact fun _ _ _ hgets => next_congr (apronFenceOp_of_gets hgets)
  case kstart => exact fun _ _ _ hgets => next_congr (kstartOp_of_gets hgets)
  case acquired => exact fun _ _ hphase hdone hmet => advance_of_acquired hphase hdone hmet
  case release => exact fun _ _ hphase hscope hdone => advance_of_houseRelease hphase hscope hdone
  case published => exact fun _ _ hphase hgone => advance_of_published hphase hgone
  case invRange => exact fun _ _ _ hgets => next_congr (invRangeOp_of_gets hgets)
  case rangePage => exact fun _ _ _ _ _ _ => rfl
  case slotPost =>
    exact fun _ _ _ hgets hready hfree hok => next_congr ((onApron_takes hgets).trans (slotPost_of_free hready hfree hok))
  case collPost =>
    exact fun _ _ _ _ _ hgets hgroup hfirst hwell hapart hnew hctx hstruck =>
      next_congr ((onApron_takes hgets).trans
        (congrArg settle (acceptPost_of_new hgroup hfirst hwell hapart hnew hctx hstruck)))
  case tallyNow => exact fun _ _ _ hgets hmet => next_congr ((onApron_takes hgets).trans (tallyReadMsg_of_met hmet))
  case tallyWaits =>
    exact fun _ _ _ hgets hwait hunmet hroom => next_congr ((onApron_takes hgets).trans (tallyReadMsg_of_unmet hwait hunmet hroom))
  case tallyTimeout => exact fun _ _ _ hwait hlate => next_congr (tallyWaitTimeoutOp_of_late hwait hlate)
  case reserved => exact fun _ _ _ hbad hreq hup => next_congr (apronReservedTypeOp_of_malformed hbad hreq hup)

end Sys2Proof.Machine
end

section
/-! The cue (08_cue_and_curtain.md): a tick of the clock on an empty queue, and a collective at its member from its launch to its
completion. -/

namespace Sys2Proof.Machine

open Sys2Proof

section
variable {s : State} {g q : Nat} {m : MColl}

/-! ## Launch (R304, R305) -/

/-- The launch: the collective has its input, and its wait for an arrival begins now (R337). -/
def launchColl (s : State) (g q : Nat) (input : Bytes) : State :=
  modColl s g q (fun m => { m with launched := true, input := input, lastSeen := s.now })

/-- Planes found lost at the launch get their REMAP first; then the stripes go (R347). -/
def sendLaunched (s : State) (g : Nat) : State :=
  pump ((onesOf (memberLive s g)).foldl (fun s p => memberLost s g p) s)

/-- A launch in time of an operation whose region needs no check and drops no route. -/
theorem cueLaunchOp_of_due (input : Bytes) (hfind : findColl (judgeLate s) g q = some m) (hopen : m.status = none)
    (hnew : m.launched = false) (htime : m.late = some false) (hset : (judgeLate s).blg.cue.st ≠ .unset)
    (hdue : m.launch.toNat ≤ (judgeLate s).blg.cue.count.toNat) (hindex : m.desc.op ≠ COp.index)
    (hdispatch : m.desc.op ≠ COp.dispatch) :
    cueLaunchOp s g q input = sendLaunched (bumpB (launchColl (judgeLate s) g q input) BCtr.moeDrop.idx 0) g := by
  have hgoes : ¬ (m.status.isSome || (judgeLate s).blg.cue.st == .unset ||
      decide ((judgeLate s).blg.cue.count.toNat < m.launch.toNat)) = true := by
    simp [hopen, hset, hdue]
  unfold cueLaunchOp
  dsimp only
  rw [hfind]
  dsimp only
  rw [if_neg hgoes, hnew, htime, if_neg Bool.false_ne_true, if_neg (fun h => hindex h.1), if_neg hdispatch]
  rfl

/-! ## The timers of a collective launched (R335, R337) -/

theorem collResendOp_of_due {k : Nat} {x : MStripe} (hfind : findColl s g q = some m)
    (hstripe : m.stripes.find? (fun x => x.stripe == k) = some x) (hrun : running m = true) (hsent : x.sent = true)
    (hwaits : x.done = false) (hlate : x.lastSend + memberTR m ≤ s.now) (hport : bpOpen s x.plane = true) :
    collResendOp s g q k = sendStripe s m k x.plane := by
  unfold collResendOp
  rw [hfind]
  dsimp only
  rw [hstripe]
  exact if_pos (by simp [hrun, hsent, hwaits, passed_of_le hlate, hport])

theorem collMemberTimeoutOp_of_late (hfind : findColl s g q = some m) (hrun : running m = true)
    (hlate : m.lastSeen + (m.hold + 2 * Config.seatMaxFlight) ≤ s.now) :
    collMemberTimeoutOp s g q = pump (endColl s g q St.timeout) := by
  unfold collMemberTimeoutOp
  rw [hfind]
  exact if_pos (by rw [hrun, passed_of_le hlate]; rfl)

/-! ## The release of a curtain (R307) -/

theorem curtainReleaseOp_of_due {c : Word} (hfind : findColl s g q = some m) (hrelease : m.release = some c)
    (hopen : m.status = none) (hdue : c.toNat ≤ s.blg.cue.count.toNat) : curtainReleaseOp s g q = releaseCurtain s g q := by
  unfold curtainReleaseOp
  rw [hfind]
  dsimp only
  rw [hrelease]
  exact if_pos (by rw [hopen, decide_eq_true hdue]; rfl)

end

/-! ## A flit taken from the seat's inbox -/

section
variable {s : State} {f : Flit} {t p : Nat} (hin : s.blg.inbox.find? (fun x => x.1 == f) = some (f, t, p))
include hin

theorem fromSeatInbox_of_found (act : State → Nat → State) : fromSeatInbox s f act = settle (act (takeInbox s .blg f) p) := by
  unfold fromSeatInbox
  rw [hin]

/-- A data flit of the kind the row is for. -/
theorem resultOp_of_found {k : BitVec 5} (hk : f.kind = k) (hdata : isControl f = false) :
    resultOp s f k = settle (memberResult (takeInbox s .blg f) f p) :=
  (if_pos ⟨hk, by rw [hdata]; rfl⟩).trans (fromSeatInbox_of_found hin _)

/-- A control flit of the step the row is for (R338). -/
theorem seatControl_of_found {step : Nat} (act : State → Nat → State) (hk : f.kind = Kind.result) (hstep : (cHead f).step = step) :
    seatControl s f step act = settle (act (takeInbox s .blg f) p) :=
  (if_pos ⟨hk, hstep⟩).trans (fromSeatInbox_of_found hin _)

end

/-! ## Results and multicast chunks (R319, R337, R340) -/

section
variable {s : State} {f : Flit} {m : MColl}

theorem memberResult_of_running (port : Nat) (hmine : forMember s f = true)
    (hfind : findColl (noteSeen s f) (cHead f).group (cHead f).cueSeq = some m) (hrun : running m = true)
    (hop : m.desc.op ≠ COp.curtain) :
    memberResult s f port = takeResult (noteSeen s f) m f.kind (cHead f) (elemBytes f) port := by
  unfold memberResult
  rw [hmine]
  dsimp only
  rw [hfind]
  dsimp only
  rw [hrun, if_neg hop]
  rfl

/-- A chunk of a collective in progress, of the kind the row is for. -/
theorem resultOp_of_running {t p : Nat} {k : BitVec 5} (hk : f.kind = k) (hdata : isControl f = false)
    (hin : s.blg.inbox.find? (fun x => x.1 == f) = some (f, t, p)) (hmine : forMember (takeInbox s .blg f) f = true)
    (hfind : findColl (noteSeen (takeInbox s .blg f) f) (cHead f).group (cHead f).cueSeq = some m) (hrun : running m = true)
    (hop : m.desc.op ≠ COp.curtain) :
    resultOp s f k = settle (takeResult (noteSeen (takeInbox s .blg f) f) m k (cHead f) (elemBytes f) p) := by
  rw [resultOp_of_found hin hk hdata, memberResult_of_running p hmine hfind hrun hop, hk]

/-! ## ABORT (R339) -/

theorem memberAbort_of_open (port : Nat) (hmine : forMember s f = true)
    (hfind : findColl s (cHead f).group (cHead f).cueSeq = some m) (hopen : m.status = none) :
    memberAbort s f port =
      pump (endColl (ctlOthers s m stepAbort port (elemBytes f)) (cHead f).group (cHead f).cueSeq (abortStatus (ctlStatus f))) := by
  unfold memberAbort
  rw [hmine]
  dsimp only
  rw [hfind]
  dsimp only
  rw [hopen]
  rfl

/-! ## REMAP (R347) -/

/-- A REMAP that did not come from the plane it names is applied without a relay. -/
theorem memberRemapFlit_of_otherPlane {port : Nat} (hmine : forMember s f = true)
    (hlive : (memberLive s (cHead f).group).getLsbD (ctlPlane f) = true) (hport : port ≠ ctlPlane f) :
    memberRemapFlit s f port = memberRemap (noteSeen s f) (cHead f).group (ctlPlane f) := by
  have htakes : ¬ (!forMember s f || !(memberLive s (cHead f).group).getLsbD (ctlPlane f)) = true := by
    rw [hmine, hlive]
    exact Bool.false_ne_true
  unfold memberRemapFlit
  dsimp only
  rw [if_neg htakes]
  simp only [if_neg hport]
  split <;> rfl

end

/-! ## The chunk that makes a stripe whole -/

section
variable {s : State} {m : MColl} {kind : BitVec 5} {h : CHead} {data : Bytes} {port : Nat} {x : MStripe}

/-- The collective with a chunk held for stripe `x`. -/
def keepChunk (m : MColl) (x : MStripe) (h : CHead) (data : Bytes) : MColl :=
  { m with got := m.got ++ [{ who := x.stripe, chunk := h.chunk, valid := h.valid, data := data }] }

/-- Only MOE_DISPATCH asks for the record's own stripe and counts tokens. -/
theorem takeResult_of_whole (hop : m.desc.op ≠ COp.dispatch)
    (hfits : m.stripes.find? (fun x => !x.done && planeOf m.planes (memberLive s m.group) x.stripe == some port &&
      belongs m (jobOf m) x.stripe kind h.chunk h.valid &&
      !m.got.any (fun y => y.who == x.stripe && y.chunk == h.chunk && y.valid == h.valid)) = some x)
    (hheld : stripeHeld (keepChunk m x h data) (jobOf m) x.stripe (keepChunk m x h data).got = true) :
    takeResult s m kind h data port =
      stripeWhole (modColl s m.group m.seq (fun _ => keepChunk m x h data)) (keepChunk m x h data) x.stripe := by
  have hother : (m.desc.op != COp.dispatch) = true := bne_iff_ne.mpr hop
  have hplain : (m.desc.op == COp.dispatch) = false := beq_eq_false_iff_ne.mpr hop
  unfold takeResult
  simp only [hother, hplain, Bool.true_or, Bool.and_true, Bool.false_and, Bool.false_eq_true, if_false, hfits]
  exact if_pos hheld

end

/-! ## The statements -/

/-- Settles O46: the first case of a step, and the parts of the key that `idle` leaves. That 1 ns passes on an empty queue is the
model's choice (log 1). -/
theorem onAnEmptyQueueOneNanosecondPasses : Obligations.OnAnEmptyQueueOneNanosecondPasses := by
  intro s hqueue
  have hkey := idle_key_of_pending_nil hqueue
  simp only [State.key, Prod.mk.injEq] at hkey
  exact ⟨idle s, step_of_pending_nil hqueue, hkey⟩

/-- Settles O33: one lemma for each outcome of a row, reached for a flit through the seat's inbox. That the input region comes with
CUE_LAUNCH (log 52), that MAX_FLIGHT is opaque at a Belug (log 57), that a curtain completes at its release (log 60) and who relays a
REMAP (log 62) are the model's. -/
theorem membersLaunchResendAndComplete : Obligations.MembersLaunchResendAndComplete := by
  refine ⟨?launch, ?resend, ?timeout, ?curtain, ?result, ?mcast, ?whole, ?abort, ?remap⟩
  case launch =>
    exact fun _ _ _ input _ hfind hopen hnew htime hset hdue hindex hdispatch =>
      next_congr (cueLaunchOp_of_due input hfind hopen hnew htime hset hdue hindex hdispatch)
  case resend =>
    exact fun _ _ _ _ _ _ hfind hstripe hrun hsent hwaits hlate hport =>
      next_congr (collResendOp_of_due hfind hstripe hrun hsent hwaits hlate hport)
  case timeout => exact fun _ _ _ _ hfind hrun hlate => next_congr (collMemberTimeoutOp_of_late hfind hrun hlate)
  case curtain =>
    exact fun _ _ _ _ _ hfind hrelease hopen hdue => next_congr (curtainReleaseOp_of_due hfind hrelease hopen hdue)
  case result =>
    exact fun _ _ _ _ _ hk hdata hin hmine hfind hrun hop => next_congr (resultOp_of_running hk hdata hin hmine hfind hrun hop)
  case mcast =>
    exact fun _ _ _ _ _ hk hdata hin hmine hfind hrun hop => next_congr (resultOp_of_running hk hdata hin hmine hfind hrun hop)
  case whole => exact fun _ _ _ _ _ _ _ hop hfits hheld => takeResult_of_whole hop hfits hheld
  case abort =>
    exact fun _ _ _ _ _ hk hstep hin hmine hfind hopen =>
      next_congr ((seatControl_of_found hin _ hk hstep).trans (congrArg settle (memberAbort_of_open _ hmine hfind hopen)))
  case remap =>
    exact fun _ _ _ _ hk hstep hin hmine hlive hport =>
      next_congr ((seatControl_of_found hin _ hk hstep).trans (congrArg settle (memberRemapFlit_of_otherPlane hmine hlive hport)))

end Sys2Proof.Machine
end

section
/-! The cast list of a group (09_collectives.md): cast-set, cue-sheet-add, cue-arm, curtain-set and understudy-swap as commands of
the callboard. -/

namespace Sys2Proof.Machine

open Sys2Proof

section
variable {s : State} {n : Fin 8} {p : Bytes} {k : Cast}

/-! ## Checks that the commands share -/

theorem unlicensed_fst {held : Bool} (h : held = true) : (unlicensed held).1 = false := congrArg (!·) h

theorem partState_pass {v : Itvos} {part : Nat} (hstruck : v.sec.struck.getLsbD part = false)
    (hdown : v.dir.down.getLsbD part = false) : ∀ x ∈ partState v part, x.1 = false :=
  pass_cons hstruck (pass_cons hdown pass_nil)

theorem natAt_two_lt (p : Bytes) (a : Nat) : natAt p a 2 < 65536 := leNat_lt2 _ (List.length_take_le _ _)

/-- A command whose payload has one length, posted and ending with OK. Acceptance writes the callboard's slots alone, so what is known
of `s` is known, by computation, of the state in which the command runs. -/
theorem posted_endsOk {code len ms : Nat} {host : HostRead} {f : Cmd} {t : State} (hpost : posted s n code p)
    (hlen : p.length = len) (hrow : rowOf code = some ⟨code, len, len, ms⟩)
    (hplain : len ≤ 4032 ∧ code ≠ 0x0108 ∧ code ≠ 0x0109)
    (hf : ∀ v, taken s n = { s with itv.cb.slots := v } →
      f (taken s n) (slotCall n p host) = (t, some { status := St.ok })) :
    (.next (cmdRow s n code anyPayload false host true f) : Res) = .next (endsOk t n) := by
  obtain ⟨v, hv⟩ := exists_taken s n
  exact row_ok s n code p anyPayload false host true f _ t [] hpost rfl hrow ⟨hlen.ge, hlen.le, hlen.trans_le hplain.1⟩ hplain.2
    (hf v hv)

/-! ## cast-set (R317, R318, R569) -/

/-- The checks of a cast-set that its payload alone decides. -/
def castFieldChecks (v : Itvos) (c : Call) : List (Bool × Nat × Nat) :=
  let g := natAt c.payload 0 2
  let n := natAt c.payload 2 2
  let planes : BitVec 24 := BitVec.ofNat 24 (natAt c.payload 4 3)
  let hold := natAt c.payload 8 4
  let k := byteAt c.payload 12
  let gone := n == 0
  [unlicensed (holdsChorus v), (decide (g > 4095), St.badarg, 0), (decide (n > 16384), St.badarg, 2),
    (!gone && (planes == 0 || planes &&& ~~~((v.routing.chart.map (·.planes)).getD planes) != 0), St.badarg, 4), mbz c 7 1,
    (!gone && (decide (hold < 10) || decide (hold > 1000000)), St.badarg, 8), (!gone && decide (k > 16), St.badarg, 12),
    (!gone && !partExists v (byteAt c.payload 13), St.badarg, 13), mbz c 14 2,
    (if gone then (false, St.badarg, 16) else refCheck c 16 0),
    (!gone && decide (bufLen c 16 < (if k = 0 then 2 * n else (2 * n + 63) / 64 * 64)), St.badarg, 24)]

/-- The ranks' nodes that a cast-set's buffer lists. -/
def castNodes (c : Call) (buf : Bytes) : List (BitVec 16) :=
  (List.range (natAt c.payload 2 2)).map (fun i => BitVec.ofNat 16 (natAt buf (2 * i) 2))

/-- The expert tables that follow them. -/
def castTables (c : Call) (buf : Bytes) : Option (List ExpertTable) :=
  expertTables (natAt c.payload 2 2) buf (bufLen c 16) (byteAt c.payload 12) ((2 * natAt c.payload 2 2 + 63) / 64 * 64)

def castBusy (s : State) (g : Nat) : Bool := ((getCast s g).map outstanding).getD false

/-- The checks of a cast-set after its buffer is read. -/
def castMemberChecks (s : State) (c : Call) (buf : Bytes) : List (Bool × Nat × Nat) :=
  [((castNodes c buf).eraseDups.length != natAt c.payload 2 2 ||
      !(castNodes c buf).all (memberSeat s.itv (byteAt c.payload 13)) || (castTables c buf).isNone, St.badarg, 16)] ++
    partState s.itv (byteAt c.payload 13) ++ [(castBusy s (natAt c.payload 0 2), St.busy, 0)]

/-- The cast list that a cast-set asks for. CURTAIN_LEAD stands where the group has one (log 25). -/
def castAsked (s : State) (c : Call) (buf : Bytes) (ts : List ExpertTable) : Cast :=
  { nodes := castNodes c buf, planes := BitVec.ofNat 24 (natAt c.payload 4 3), live := BitVec.ofNat 24 (natAt c.payload 4 3),
    hold := natAt c.payload 8 4 * 1000, tables := ts, part := byteAt c.payload 13,
    lead := ((getCast s (natAt c.payload 0 2)).map (·.lead)).getD 256 }

theorem castSetCmd_eq (s : State) (c : Call) :
    castSetCmd s c =
      let g := natAt c.payload 0 2
      checked s (castFieldChecks s.itv c) (fun _ =>
        if natAt c.payload 2 2 == 0 then
          checked s (groupState s (getCast s g) ++ [(castBusy s g, St.busy, 0)]) (fun _ =>
            (dropRuns { s with itv.coll.casts := kdel s.itv.coll.casts g } g, some { status := St.ok }))
        else withHost s c 16 (fun buf => checked s (castMemberChecks s c buf) (fun _ =>
          (dropRuns { s with itv.coll.casts := kset s.itv.coll.casts g (castAsked s c buf ((castTables c buf).getD [])) } g,
            some { status := St.ok })))) := rfl

theorem castSetCmd_remove {c : Call} (hzero : natAt c.payload 2 2 = 0) (hfields : ∀ x ∈ castFieldChecks s.itv c, x.1 = false)
    (hgroup : ∀ x ∈ groupState s (getCast s (natAt c.payload 0 2)), x.1 = false)
    (hfree : castBusy s (natAt c.payload 0 2) = false) :
    castSetCmd s c =
      (dropRuns { s with itv.coll.casts := kdel s.itv.coll.casts (natAt c.payload 0 2) } (natAt c.payload 0 2),
        some { status := St.ok }) := by
  rw [castSetCmd_eq]
  dsimp only
  rw [checked_pass _ _ _ hfields, if_pos (beq_iff_eq.mpr hzero), checked_pass _ _ _ (pass_append hgroup (pass_cons hfree pass_nil))]

theorem castSetCmd_make {c : Call} {d : Bytes} {ts : List ExpertTable} (hsome : natAt c.payload 2 2 ≠ 0)
    (hfields : ∀ x ∈ castFieldChecks s.itv c, x.1 = false) (hhost : c.host = .ok d) (hreach : hostReach s c = true)
    (hmember : ∀ x ∈ castMemberChecks s c (pad (bufLen c 16) d), x.1 = false)
    (htables : castTables c (pad (bufLen c 16) d) = some ts) :
    castSetCmd s c =
      (dropRuns { s with itv.coll.casts := kset s.itv.coll.casts (natAt c.payload 0 2) (castAsked s c (pad (bufLen c 16) d) ts) }
        (natAt c.payload 0 2), some { status := St.ok }) := by
  rw [castSetCmd_eq]
  dsimp only
  rw [checked_pass _ _ _ hfields, if_neg (fun h => hsome (beq_iff_eq.mp h)), withHost_ok hhost hreach, checked_pass _ _ _ hmember,
    htables]
  rfl

/-- With N 0 only the group and the zero bytes are judged (log 25). -/
theorem castFieldChecks_pass_of_remove {v : Itvos} {host : HostRead} (hlic : holdsChorus v = true) (hg : natAt p 0 2 ≤ 4095)
    (hzero : natAt p 2 2 = 0) (hz7 : zeroAt p 7 1) (hz14 : zeroAt p 14 2) :
    ∀ x ∈ castFieldChecks v (slotCall n p host), x.1 = false := by
  unfold castFieldChecks
  dsimp only
  rw [hzero]
  exact pass_cons (unlicensed_fst hlic) <| pass_cons (decide_eq_false (Nat.not_lt.mpr hg)) <| pass_cons rfl <| pass_cons rfl <|
    pass_cons (mbz_fst hz7) <| pass_cons rfl <| pass_cons rfl <| pass_cons rfl <| pass_cons (mbz_fst hz14) <| pass_cons rfl <|
    pass_cons rfl pass_nil

theorem castFieldChecks_pass_of_make {v : Itvos} {host : HostRead} (hlic : holdsChorus v = true) (hg : natAt p 0 2 ≤ 4095)
    (hmost : natAt p 2 2 ≤ 16384) (hplane : BitVec.ofNat 24 (natAt p 4 3) ≠ 0)
    (hfitted : BitVec.ofNat 24 (natAt p 4 3) &&&
      ~~~ ((v.routing.chart.map (·.planes)).getD (BitVec.ofNat 24 (natAt p 4 3))) = 0)
    (hz7 : zeroAt p 7 1) (hhold : 10 ≤ natAt p 8 4 ∧ natAt p 8 4 ≤ 1000000) (hk : byteAt p 12 ≤ 16)
    (hpart : partExists v (byteAt p 13) = true) (hz14 : zeroAt p 14 2) (href : hostRefCheck p 16 0 = none)
    (hbuf : (if byteAt p 12 = 0 then 2 * natAt p 2 2 else (2 * natAt p 2 2 + 63) / 64 * 64) ≤ (hostRef p 16).len) :
    ∀ x ∈ castFieldChecks v (slotCall n p host), x.1 = false := by
  have hand : ∀ {a b : Bool}, b = false → (a && b) = false := fun h => by rw [h, Bool.and_false]
  have hplanes := Bool.or_eq_false_iff.mpr ⟨beq_eq_false_iff_ne.mpr hplane, bne_eq_false_iff_eq.mpr hfitted⟩
  have hrefs : ∀ {a : Bool}, (if a = true then (false, St.badarg, 16) else refCheck (slotCall n p host) 16 0).1 = false :=
    ite_obs Prod.fst rfl (refCheck_fst href)
  exact pass_cons (unlicensed_fst hlic) <| pass_cons (decide_eq_false (Nat.not_lt.mpr hg)) <|
    pass_cons (decide_eq_false (Nat.not_lt.mpr hmost)) <| pass_cons (hand hplanes) <| pass_cons (mbz_fst hz7) <|
    pass_cons (hand (by simp [hhold])) <| pass_cons (hand (decide_eq_false (Nat.not_lt.mpr hk))) <|
    pass_cons (hand (by simp [hpart])) <| pass_cons (mbz_fst hz14) <| pass_cons hrefs <|
    pass_cons (hand (decide_eq_false (Nat.not_lt.mpr hbuf))) pass_nil

theorem castMemberChecks_pass {c : Call} {buf : Bytes} {ts : List ExpertTable}
    (hapart : (castNodes c buf).eraseDups.length = natAt c.payload 2 2)
    (hseats : (castNodes c buf).all (memberSeat s.itv (byteAt c.payload 13)) = true) (htables : castTables c buf = some ts)
    (hopen : ∀ x ∈ partState s.itv (byteAt c.payload 13), x.1 = false) (hfree : castBusy s (natAt c.payload 0 2) = false) :
    ∀ x ∈ castMemberChecks s c buf, x.1 = false :=
  pass_append (pass_append (pass_cons (by simp [hapart, hseats, htables]) pass_nil) hopen) (pass_cons hfree pass_nil)

/-! ## The commands of a group that has its cast list -/

/-- What every command of a group's cast list asks: a held CHORUS licence, a group with a cast list, and a partition neither
struck nor down. -/
structure CastOpen (s : State) (p : Bytes) (k : Cast) : Prop where
  licence : holdsChorus s.itv = true
  group : natAt p 0 2 ≤ 4095
  cast : getCast s (natAt p 0 2) = some k
  notStruck : s.itv.sec.struck.getLsbD k.part = false
  notDown : s.itv.dir.down.getLsbD k.part = false

theorem CastOpen.named (h : CastOpen s p k) (n : Fin 8) : castNamed s (slotCall n p) = some k := castNamed_some h.group h.cast

theorem CastOpen.partState_pass (h : CastOpen s p k) : ∀ x ∈ partState s.itv k.part, x.1 = false :=
  Machine.partState_pass h.notStruck h.notDown

section
variable (hopen : CastOpen s p k)
include hopen

/-- cue-sheet-add (R321 to R324, R570). -/
theorem cueSheetAddCmd_of_met (hop : 1 ≤ byteAt p 8 ∧ byteAt p 8 ≤ 0x0B)
    (hkernel : (byteAt p 8 != COp.kernel || holdsKernel s.itv) = true)
    (hseq : (k.nextSeq.map (· != natAt p 2 2)).getD false = false) (hz : zeroAt p 4 4)
    (hdesc : ∀ x ∈ descChecks s k (slotCall n p), x.1 = false) (hroom : (k.sheet.filter (fun e => !e.ended)).length < 16) :
    cueSheetAddCmd s (slotCall n p) =
      (pruneSheet (modCast (cueSheetAddCmd.dropEnded s (natAt p 0 2) (natAt p 2 2)) (natAt p 0 2) (fun k' =>
         { k' with sheet := k'.sheet ++ [{ seq := natAt p 2 2, ext := if k.nextSeq.isNone then natAt p 2 2 else k.lastExt + 1,
                                           desc := parseDesc (slice p 8 32), digest := descDigest (slice p 8 32) }],
                   nextSeq := some ((natAt p 2 2 + 1) % 65536),
                   lastExt := if k.nextSeq.isNone then natAt p 2 2 else k.lastExt + 1 })) (natAt p 0 2), some { status := St.ok }) := by
  have hknown : (byteAt p 8 == 0 || decide (byteAt p 8 > 0x0B)) = false := by simp; omega
  unfold cueSheetAddCmd
  dsimp only
  rw [hopen.named n,
    checked_pass _ _ _ (pass_cons hknown <| pass_cons (unlicensed_fst hopen.licence) <| pass_cons (unlicensed_fst hkernel) <|
      pass_cons rfl pass_nil)]
  exact checked_pass _ _ _ (pass_append (pass_append (pass_append (pass_cons hseq <| pass_cons (mbz_fst hz) pass_nil) hdesc)
    hopen.partState_pass) (pass_cons (decide_eq_false (Nat.not_le.mpr hroom)) pass_nil))

/-- cue-arm (R571): the sequences from the first to the last, in the sheet's arithmetic modulo 65,536. -/
theorem cueArmCmd_of_met (hspan : (natAt p 4 2 + 65536 - natAt p 2 2) % 65536 ≤ 15)
    (hwaits : ∀ i ≤ (natAt p 4 2 + 65536 - natAt p 2 2) % 65536,
      k.sheet.any (fun e => e.seq == (natAt p 2 2 + i) % 65536 && !e.ended) = true) (hz : zeroAt p 6 2) :
    cueArmCmd s (slotCall n p) =
      (((List.range ((natAt p 4 2 + 65536 - natAt p 2 2) % 65536 + 1)).map (fun i => (natAt p 2 2 + i) % 65536)).foldl
        (fun s q => armEntry s (natAt p 0 2) q) s, some { status := St.ok }) := by
  have hfirst : k.sheet.any (fun e => e.seq == natAt p 2 2 && !e.ended) = true := by
    simpa only [Nat.add_zero, Nat.mod_eq_of_lt (natAt_two_lt p 2)] using hwaits 0 (Nat.zero_le _)
  unfold cueArmCmd
  dsimp only
  rw [hopen.named n, Nat.min_eq_left (Nat.succ_le_succ hspan)]
  generalize (natAt p 4 2 + 65536 - natAt p 2 2) % 65536 = last at hspan hwaits ⊢
  have hall : ((List.range (last + 1)).map (fun i => (natAt p 2 2 + i) % 65536)).all
      (fun q => k.sheet.any (fun e => e.seq == q && !e.ended)) = true := by
    simp only [List.all_map, List.all_eq_true, List.mem_range]
    exact fun i hi => hwaits i (Nat.le_of_lt_succ hi)
  refine checked_pass _ _ _ (pass_append (pass_cons (unlicensed_fst hopen.licence) <| pass_cons rfl <|
    pass_cons (congrArg (!·) hfirst) <| pass_cons ?_ <| pass_cons (mbz_fst hz) pass_nil) hopen.partState_pass)
  exact Bool.or_eq_false_iff.mpr ⟨decide_eq_false (by omega), congrArg (!·) hall⟩

/-- curtain-set (R572). -/
theorem curtainSetCmd_of_met (hlead : 64 ≤ natAt p 2 2) (hz : zeroAt p 4 4) :
    curtainSetCmd s (slotCall n p) =
      (modCast s (natAt p 0 2) (fun k => { k with lead := natAt p 2 2 }), some { status := St.ok }) := by
  unfold curtainSetCmd
  dsimp only
  rw [hopen.named n]
  exact checked_pass _ _ _ (pass_append (pass_cons (unlicensed_fst hopen.licence) <| pass_cons rfl <|
    pass_cons (decide_eq_false (Nat.not_lt.mpr hlead)) <| pass_cons (mbz_fst hz) pass_nil) hopen.partState_pass)

/-- understudy-swap (R349, R573). -/
theorem understudySwapCmd_of_met (hrank : natAt p 2 2 < k.nodes.length)
    (hseat : memberSeat s.itv k.part (BitVec.ofNat 16 (natAt p 4 2)) = true)
    (hnew : k.nodes.contains (BitVec.ofNat 16 (natAt p 4 2)) = false) (hz : zeroAt p 6 2) (hfree : outstanding k = false) :
    understudySwapCmd s (slotCall n p) =
      (modCast s (natAt p 0 2) (fun k => { k with nodes := k.nodes.set (natAt p 2 2) (BitVec.ofNat 16 (natAt p 4 2)) }),
        some { status := St.ok }) := by
  have hfits : (!memberSeat s.itv k.part (BitVec.ofNat 16 (natAt p 4 2)) ||
      k.nodes.contains (BitVec.ofNat 16 (natAt p 4 2))) = false := by
    rw [hseat, hnew]
    rfl
  unfold understudySwapCmd
  dsimp only
  rw [hopen.named n]
  exact checked_pass _ _ _ (pass_append (pass_append (pass_cons (unlicensed_fst hopen.licence) <| pass_cons rfl <|
    pass_cons (decide_eq_false (Nat.not_le.mpr hrank)) <| pass_cons hfits <| pass_cons (mbz_fst hz) pass_nil)
    hopen.partState_pass) (pass_cons hfree pass_nil))

end

end

/-! ## The statement -/

/-- Settles O3: each command passes its checks and writes its cast list, whatever the callboard's slots hold. What cast-set with N 0
reads and that CURTAIN_LEAD stands when a group is set again (log 25), that an ended entry of the same sequence and old ended entries
leave the sheet, and the swap in one step (log 26) are the model's; cast-set also drops the group's runs. -/
theorem castListsAndCueSheetsAreKept : Obligations.CastListsAndCueSheetsAreKept := by
  refine ⟨?remove, ?make, ?add, ?arm, ?curtain, ?swap⟩
  case remove =>
    intro s n p hpost hlen hlic hg hzero hz7 hz14 hgroup
    have hopen : ∀ x ∈ groupState s (getCast s (natAt p 0 2)), x.1 = false := by
      cases hc : getCast s (natAt p 0 2) with
      | none => exact pass_nil
      | some k => exact partState_pass (hgroup k hc).2.1 (hgroup k hc).2.2
    have hfree : castBusy s (natAt p 0 2) = false := by
      unfold castBusy
      cases hc : getCast s (natAt p 0 2) with
      | none => rfl
      | some k => exact (hgroup k hc).1
    exact posted_endsOk hpost hlen rfl (by decide) (fun v hv => by
      rw [hv]
      exact castSetCmd_remove hzero (castFieldChecks_pass_of_remove hlic hg hzero hz7 hz14) hopen hfree)
  case make =>
    intro s n p d ts hpost hlen hlic hg hleast hmost hplane hfitted hz7 hlow hhigh hk hpart hz14 href hmaster hbuf hapart hseats
      htables hstruck hdown hfree
    have hfields := castFieldChecks_pass_of_make (n := n) (host := .ok d) hlic hg hmost hplane hfitted hz7 ⟨hlow, hhigh⟩ hk hpart
      hz14 href hbuf
    have hmember := castMemberChecks_pass (s := s) (c := slotCall n p (.ok d)) hapart hseats htables
      (partState_pass hstruck hdown) hfree
    exact posted_endsOk hpost hlen rfl (by decide) (fun v hv => by
      rw [hv]
      exact castSetCmd_make (Nat.one_le_iff_ne_zero.mp hleast) hfields rfl hmaster hmember htables)
  case add =>
    intro s n p k hpost hlen hleast hmost hlic hkernel hg hcast hseq hz hdesc hstruck hdown hroom
    exact posted_endsOk hpost hlen rfl (by decide) (fun v hv => by
      rw [hv]
      exact cueSheetAddCmd_of_met ⟨hlic, hg, hcast, hstruck, hdown⟩ ⟨hleast, hmost⟩ hkernel hseq hz hdesc hroom)
  case arm =>
    intro s n p k hpost hlen hlic hg hcast hspan hwaits hz hstruck hdown
    exact posted_endsOk hpost hlen rfl (by decide) (fun v hv => by
      rw [hv]
      exact cueArmCmd_of_met ⟨hlic, hg, hcast, hstruck, hdown⟩ hspan hwaits hz)
  case curtain =>
    intro s n p k hpost hlen hlic hg hcast hlead hz hstruck hdown
    exact posted_endsOk hpost hlen rfl (by decide) (fun v hv => by
      rw [hv]
      exact curtainSetCmd_of_met ⟨hlic, hg, hcast, hstruck, hdown⟩ hlead hz)
  case swap =>
    intro s n p k hpost hlen hlic hg hcast hrank hseat hnew hz hstruck hdown hfree
    exact posted_endsOk hpost hlen rfl (by decide) (fun v hv => by
      rw [hv]
      exact understudySwapCmd_of_met ⟨hlic, hg, hcast, hstruck, hdown⟩ hrank hseat hnew hz hfree)

end Sys2Proof.Machine
end

section
/-! Start-up (20_bringup_and_reset.md): RESET_N, the ROM, the loader's choice of a slot, Yalny's start, stalls and gallery, and READY. -/

namespace Sys2Proof.Machine

open Sys2Proof

section
variable {s : State}

/-! ## RESET_N (R679, R720, R768) -/

theorem resetNOp_low (s : State) (strap : Bool) : resetNOp s false strap = wholeReset s true := if_pos rfl

theorem resetNOp_released {strap : Bool} (hheld : s.itv.boot.held = true) (htrip : s.itv.pwr.tripPin = false) :
    resetNOp s true strap =
      { s with itv.boot.held := false, itv.boot.releasedAt := s.now, itv.boot.strapLow := strap } :=
  (if_neg Bool.false_ne_true).trans (if_pos (by rw [hheld, htrip]; rfl))

theorem resetNOp_tripped {strap : Bool} (htrip : s.itv.pwr.tripPin = true) : resetNOp s true strap = s :=
  (if_neg Bool.false_ne_true).trans (if_neg (by rw [htrip, Bool.not_true, Bool.and_false]; exact Bool.false_ne_true))

/-! ## ROM (R680, R688, R720, R767) -/

section
variable {ok : Bool} (hheld : s.itv.boot.held = false) (hnew : s.itv.boot.romDone = false) (hmode : s.itv.boot.mode = .starting)
  (hclock : s.itv.boot.lostA = false ∨ s.itv.boot.lostB = false)
include hheld hnew hmode hclock

theorem romPhaseOp_of_clock :
    romPhaseOp s ok =
      if s.itv.boot.strapLow || !ok then enterGreenroom { s with itv.boot.romDone := true }
      else { s with itv.boot.romDone := true } := by
  have hruns : (s.itv.boot.lostA && s.itv.boot.lostB) = false := Bool.and_eq_false_iff.mpr hclock
  exact if_neg (by simp [hheld, hnew, hmode, hruns])

theorem romPhaseOp_to_loader (hstrap : s.itv.boot.strapLow = false) : romPhaseOp s true = { s with itv.boot.romDone := true } :=
  (romPhaseOp_of_clock hheld hnew hmode hclock).trans (if_neg (by rw [hstrap]; exact Bool.false_ne_true))

theorem romPhaseOp_to_greenroom (hgreen : s.itv.boot.strapLow = true ∨ ok = false) :
    romPhaseOp s ok = enterGreenroom { s with itv.boot.romDone := true } :=
  (romPhaseOp_of_clock hheld hnew hmode hclock).trans (if_pos (by simpa using hgreen))

end

/-! ## Loader (R704) -/

theorem chooseSlot_of_passes {f g : Flash} {chk : SlotCheck} {k : Nat} {fell : Bool} (hrule : bootRule f = (g, k, fell))
    (hpass : slotPasses g chk k = true) : chooseSlot f chk = (g, some k, fell) := by
  unfold chooseSlot
  rw [hrule]
  exact if_pos hpass

theorem bootRule_of_noTrial {f : Flash} (htrial : f.trialSlot = none) : bootRule f = (f, f.activeSlot, false) := by
  unfold bootRule
  rw [htrial]

theorem bootRule_of_armedTrial {f : Flash} {t : Nat} (htrial : f.trialSlot = some t) (harmed : f.trialArmed = true) :
    bootRule f = ({ f with trialArmed := false }, t, false) := by
  unfold bootRule
  rw [htrial]
  exact if_pos harmed

theorem loadSlot_of_slot {chk : SlotCheck} {f : Flash} {k : Nat} (hchoice : chooseSlot s.itv.flash chk = (f, some k, false)) :
    loadSlot s chk = { s with itv.boot.slot := k, itv.flash := convertStore f k, itv.boot.loaderDone := true } := by
  unfold loadSlot
  rw [hchoice]
  rfl

theorem loadSlot_of_none {chk : SlotCheck} {f : Flash} (hchoice : chooseSlot s.itv.flash chk = (f, none, false)) :
    loadSlot s chk = enterGreenroom { s with itv.flash := f } := by
  unfold loadSlot
  rw [hchoice]
  rfl

theorem loaderPhaseOp_of_romDone {chk : SlotCheck} (hheld : s.itv.boot.held = false) (hrom : s.itv.boot.romDone = true)
    (hnew : s.itv.boot.loaderDone = false) (hmode : s.itv.boot.mode = .starting) : loaderPhaseOp s chk = loadSlot s chk :=
  if_neg (by simp [hheld, hrom, hnew, hmode])

/-! ## Yalny (R680, R682, R683, R715) -/

/-- Yalny with its stored chart, licences and power settings: it places the clusters, takes the reducer's wardrobe where CHORUS is
held, and runs. -/
def yalnyBegins (u : State) : State :=
  { u with
    itv.boot.started := true
    itv.boot.yalny := true
    itv.pwr.beatAt := u.now
    itv.boot.clusterMap := (placeClusters u.itv).1
    itv.coll.retired := (placeClusters u.itv).2
    itv.wards := if holdsChorus u.itv then kset u.itv.wards 16 (newWardrobe 0 0 reducerCounts) else u.itv.wards }

theorem yalnyStartOp_of_loaded (hheld : s.itv.boot.held = false) (hloaded : s.itv.boot.loaderDone = true)
    (hnew : s.itv.boot.started = false) (hmode : s.itv.boot.mode = .starting) :
    yalnyStartOp s true = noteState s (noteTrial (yalnyBegins (applyPower (applyLicences (loadStoredChart s))))) :=
  if_neg (by simp [hheld, hloaded, hnew, hmode])

/-! ## Stalls and gallery (R473, R474, R684) -/

section
variable (hstarted : s.itv.boot.started = true)
include hstarted

theorem stallsTrainedOp_of_untrained {ok : Bool} (hnew : s.itv.boot.stallsTrained = false) (hgood : s.itv.boot.stallsFailed = false) :
    stallsTrainedOp s ok =
      if ok then
        { s with
          itv.boot.stallsTrained := true
          itv.pool.scrubs := s.itv.pool.scrubs ++ [{ lo := 0, hi := stallsFrames, tier := some false }] }
      else checkReady (raiseEvent { s with itv.boot.stallsFailed := true } Ev.memory) :=
  if_neg (by simp [hstarted, hnew, hgood])

theorem galleryTrainedOp_of_supported {p : Population} (hnew : s.itv.boot.galleryDone = false) (hfits : supported p = true) :
    galleryTrainedOp s (some p) true = checkReady (noteState s { s with
      itv.boot.galleryDone := true
      itv.pool.found := some p
      itv.pool.galleryGiB := 8 * p.perChannel * p.gib
      itv.pool.scrubs := s.itv.pool.scrubs ++ [{ lo := 0, hi := 8 * p.perChannel * p.gib * 16384, tier := some true }] }) := by
  unfold galleryTrainedOp
  rw [hstarted, hnew]
  dsimp only
  rw [hfits]
  rfl

end

/-! ## READY (R685) and the first requests (R686) -/

theorem checkReady_of_settled (hmode : s.itv.boot.mode = .starting) (hyalny : s.itv.boot.yalny = true)
    (hstalls : s.itv.boot.stallsTrained = true ∧ s.itv.pool.stallsScrubbed = true ∨ s.itv.boot.stallsFailed = true)
    (hgallery : s.itv.boot.galleryDone = true) (hbook : s.itv.boot.bookDone = true) :
    checkReady s = noteState s { s with itv.boot.mode := .ready } :=
  if_pos (by
    have hpool : (s.itv.boot.stallsTrained && s.itv.pool.stallsScrubbed || s.itv.boot.stallsFailed) = true := by simpa using hstalls
    rw [hmode, hyalny, hpool, hgallery, hbook]
    rfl)

theorem originateOp_of_passed (hheld : s.itv.boot.held = false) (hlate : s.itv.boot.releasedAt + 200000000 ≤ s.now) :
    originateOp s = { s with itv.boot.originate := true } :=
  if_pos (by rw [hheld, passed_of_le hlate]; rfl)

theorem originateOp_of_early (hearly : s.now < s.itv.boot.releasedAt + 200000000) : originateOp s = s := by
  have hwait : passed s s.itv.boot.releasedAt 200000000 = false := decide_eq_false (Nat.not_le.mpr hearly)
  exact if_neg (by rw [hwait, Bool.and_false]; exact Bool.false_ne_true)

end

/-! ## The statement -/

/-- Settles O41: one lemma for each outcome of a row. ROLLBACK, by which a slot passes, is a field of flash in this model, and a script
on trial has BOW_PENDING from Yalny's start on (log 34). -/
theorem startUpGoesFromResetToReady : Obligations.StartUpGoesFromResetToReady := by
  refine ⟨?low, ?released, ?tripped, ?toLoader, ?toGreenroom, ?slot, ?noSlot, ?active, ?trial, ?yalny, ?stalls, ?stallsFail, ?gallery,
    ?ready, ?passed, ?early⟩
  case low => exact fun s strap => next_congr (resetNOp_low s strap)
  case released => exact fun _ _ hheld htrip => next_congr (resetNOp_released hheld htrip)
  case tripped => exact fun _ _ htrip => next_congr (resetNOp_tripped htrip)
  case toLoader =>
    exact fun _ hheld hnew hmode hclock hstrap => next_congr (romPhaseOp_to_loader hheld hnew hmode hclock hstrap)
  case toGreenroom =>
    exact fun _ _ hheld hnew hmode hclock hgreen => next_congr (romPhaseOp_to_greenroom hheld hnew hmode hclock hgreen)
  case slot =>
    exact fun _ _ _ _ hheld hrom hnew hmode hchoice =>
      next_congr ((loaderPhaseOp_of_romDone hheld hrom hnew hmode).trans (loadSlot_of_slot hchoice))
  case noSlot =>
    exact fun _ _ _ hheld hrom hnew hmode hchoice =>
      next_congr ((loaderPhaseOp_of_romDone hheld hrom hnew hmode).trans (loadSlot_of_none hchoice))
  case active => exact fun _ _ htrial hpass => chooseSlot_of_passes (bootRule_of_noTrial htrial) hpass
  case trial => exact fun _ _ _ htrial harmed hpass => chooseSlot_of_passes (bootRule_of_armedTrial htrial harmed) hpass
  case yalny => exact fun _ hheld hloaded hnew hmode => next_congr (yalnyStartOp_of_loaded hheld hloaded hnew hmode)
  case stalls => exact fun _ hstarted hnew hgood => next_congr (stallsTrainedOp_of_untrained hstarted hnew hgood)
  case stallsFail => exact fun _ hstarted hnew hgood => next_congr (stallsTrainedOp_of_untrained hstarted hnew hgood)
  case gallery => exact fun _ _ hstarted hnew hfits => next_congr (galleryTrainedOp_of_supported hstarted hnew hfits)
  case ready => exact fun _ hmode hyalny hstalls hgallery hbook => checkReady_of_settled hmode hyalny hstalls hgallery hbook
  case passed => exact fun _ hheld hlate => next_congr (originateOp_of_passed hheld hlate)
  case early => exact fun _ hearly => next_congr (originateOp_of_early hearly)

end Sys2Proof.Machine
end

section
/-! The wardrobe (12_wardrobe.md): its doorways ALLOC, HAND_ON and FREE, and the refill of a pool's free cache. -/

namespace Sys2Proof.Machine

open Sys2Proof

/-! ## A doorway request at the pool home (R457, R458, R190) -/

/-- A new doorway request in the queue of the pool home: the ATOMIC names doorway `d` of wardrobe `k`, which is `w` before the request
is taken up and after, and the home admits it. -/
structure AtDoor (s : State) (f : Flit) (c : Carve) (k : Nat) (w : Wardrobe) (d : Door) : Prop where
  kind : f.kind = Kind.atomic
  queued : f ∈ s.itv.dir.home
  page : doorwayOf s.itv f.offset = some k
  ward : kget s.itv.wards k = some w
  door : doorAt w f = some d
  meets : poolMeets (fromQueue s f) f true c
  pageKept : doorwayOf (arrived (fromQueue s f) .itv f).itv f.offset = some k
  wardKept : kget (arrived (fromQueue s f) .itv f).itv.wards k = some w

/-- The state in which the act of a doorway request begins: taken up by its flow, its page touched. -/
def doorState (s : State) (f : Flit) : State := touch (arrived (fromQueue s f) .itv f) f.offset (accessLen f)

/-- The end of a doorway request: its result joins the ring of its sender and is the reply. -/
def doorAnswer (f : Flit) (x : State × Nat × Bytes) : State := itvSend (keepAtomic x.1 .itv f x.2.2 x.2.1) (oldFor f x.2.1 x.2.2)

theorem doorwayReq_of_door {s : State} {f : Flit} {k : Nat} {w : Wardrobe} {d : Door} (hward : kget s.itv.wards k = some w)
    (hdoor : doorAt w f = some d) :
    doorwayReq s k f = doorAnswer f (doorAct (touch s f.offset (accessLen f)) k w f d) := by
  unfold doorwayReq
  rw [hward]
  dsimp only
  rw [hdoor]
  rfl

theorem poolPerform_of_doorway {s : State} {f : Flit} {c : Carve} {hw : HomeHw} {k : Nat} (hpage : doorwayOf s.itv f.offset = some k) :
    poolPerform s f c hw = doorwayReq s k f := by
  unfold poolPerform
  rw [hpage]

theorem doorOp_of_atDoor {s : State} {f : Flit} {c : Carve} {k : Nat} {w : Wardrobe} {d : Door} {x : State × Nat × Bytes}
    (h : AtDoor s f c k w d) (hact : doorAct (doorState s f) k w f d = x) : doorOp s f d = doorAnswer f x := by
  have hfound : (doorwayOf s.itv f.offset).bind (kget s.itv.wards) = some w := by
    rw [h.page]
    exact h.ward
  have hguard : doorOp s f d = fromHome s f Kind.atomic .ok := by
    unfold doorOp
    rw [hfound]
    exact if_pos h.door
  calc doorOp s f d
      = fromHome s f Kind.atomic .ok := hguard
    _ = poolServe (fromQueue s f) f .ok := fromHome_served h.kind h.queued
    _ = poolPerform (arrived (fromQueue s f) .itv f) f c .ok := poolServe_new h.meets
    _ = doorwayReq (arrived (fromQueue s f) .itv f) k f := poolPerform_of_doorway h.pageKept
    _ = doorAnswer f (doorAct (doorState s f) k w f d) := doorwayReq_of_door h.wardKept h.door
    _ = doorAnswer f x := congrArg _ hact

/-! ## What each doorway does (R459, R461 to R464) -/

section
variable {s : State} {f : Flit} {k : Nat} {w : Wardrobe} {p i : Nat}

/-- What ALLOC asks of its operand (R457, R459), as the guard of the doorway has it. -/
theorem allocOperand_fits {a : Nat} (hzero : a % 2 ^ 64 / 2 ^ 32 = 0) (hsize : 1 ≤ a % 2 ^ 32 ∧ a % 2 ^ 32 ≤ 4194304) :
    ¬(a % 2 ^ 64 / 2 ^ 32 ≠ 0 ∨ a % 2 ^ 32 = 0 ∨ a % 2 ^ 32 > 4194304) := by
  rintro (h | h | h) <;> omega

theorem doorAct_alloc_given (hzero : f.opA % 2 ^ 64 / 2 ^ 32 = 0) (hsize : 1 ≤ f.opA % 2 ^ 32 ∧ f.opA % 2 ^ 32 ≤ 4194304)
    (hgiven : (wardAlloc s k (f.opA % 2 ^ 32) (f.src, f.ctx)).2 = some (p, i)) :
    doorAct s k w f .alloc =
      ((wardAlloc s k (f.opA % 2 ^ 32) (f.src, f.ctx)).1, St.ok, doorWord 0 p (bufOffset w p i)) := by
  have htaken : wardAlloc s k (f.opA % 2 ^ 32) (callerOf f) = (_, some (p, i)) := Prod.ext rfl hgiven
  refine (if_neg (allocOperand_fits hzero hsize)).trans ?_
  rw [htaken]
  rfl

theorem doorAct_alloc_empty (hzero : f.opA % 2 ^ 64 / 2 ^ 32 = 0) (hsize : 1 ≤ f.opA % 2 ^ 32 ∧ f.opA % 2 ^ 32 ≤ 4194304)
    (hempty : (wardAlloc s k (f.opA % 2 ^ 32) (f.src, f.ctx)).2 = none) :
    doorAct s k w f .alloc =
      ((wardAlloc s k (f.opA % 2 ^ 32) (f.src, f.ctx)).1, St.ok, doorWord 1 (poolFor (f.opA % 2 ^ 32)) 0) := by
  have htaken : wardAlloc s k (f.opA % 2 ^ 32) (callerOf f) = (_, none) := Prod.ext rfl hempty
  refine (if_neg (allocOperand_fits hzero hsize)).trans ?_
  rw [htaken]
  rfl

/-- In a house without partitions HAND_ON may name any context of the new owner (R459). -/
theorem doorAct_handOn_own (hzero : f.opA % 2 ^ 64 / 2 ^ 48 = 0 ∧ f.opA / 2 ^ 96 = 0)
    (hseat : ownerSeat s.itv (BitVec.ofNat 16 (f.opA / 2 ^ 64)) = true) (hparts : s.itv.sec.parts = 0)
    (hown : doorBuffer w f = some (p, i, true)) :
    doorAct s k w f .handOn =
      ({ s with itv.wards := kset s.itv.wards k
                  { w with owners := kset w.owners (ownKey p i)
                             (BitVec.ofNat 16 (f.opA / 2 ^ 64), BitVec.ofNat 16 (f.opA / 2 ^ 80)) } },
        St.ok, doorWord 0 p (bufOffset w p i)) := by
  refine (if_neg ?_).trans ?_
  · rintro (h | h | h | h)
    · exact h hzero.1
    · exact h hzero.2
    · rw [hseat] at h
      exact Bool.false_ne_true h
    · exact h.1 hparts
  · rw [hown]

theorem doorAct_free_own (hzero : f.opA % 2 ^ 64 / 2 ^ 48 = 0) (hown : doorBuffer w f = some (p, i, true)) :
    doorAct s k w f .free = (wardFree s k p i, St.ok, doorWord 0 p (bufOffset w p i)) := by
  refine (if_neg (not_not_intro hzero)).trans ?_
  rw [hown]

theorem doorAct_free_foreign (hzero : f.opA % 2 ^ 64 / 2 ^ 48 = 0) (hforeign : doorBuffer w f = some (p, i, false)) :
    doorAct s k w f .free = (bumpWard s k p 2, St.ok, doorWord 2 p (bufOffset w p i)) := by
  refine (if_neg (not_not_intro hzero)).trans ?_
  rw [hforeign]

end

/-! ## The refill (R461) -/

theorem freeCacheRefillOp_of_held {s : State} {w : Fin 17} {p : Fin 8} {x : Wardrobe} (hward : kget s.itv.wards w.val = some x) :
    freeCacheRefillOp s w p = { s with itv.wards := kset s.itv.wards w.val (cacheTurn x p.val) } := by
  unfold freeCacheRefillOp
  rw [hward]

/-! ## The statement -/

/-- Settles O23: a doorway request is served at the home (`doorOp_of_atDoor`) and does what one lemma for each outcome of its doorway
gives. HAND_ON is stated for a house without partitions and for the caller's own buffer. -/
theorem wardrobeDoorwaysAllocateHandOnAndFree : Obligations.WardrobeDoorwaysAllocateHandOnAndFree := by
  refine ⟨?alloc, ?empty, ?handOn, ?free, ?foreign, ?refill⟩
  case alloc =>
    exact fun _ _ _ _ _ _ _ hk hq hpage hward hdoor hmeets hpage' hward' hzero hsize hgiven =>
      next_congr (doorOp_of_atDoor ⟨hk, hq, hpage, hward, hdoor, hmeets, hpage', hward'⟩ (doorAct_alloc_given hzero hsize hgiven))
  case empty =>
    exact fun _ _ _ _ _ hk hq hpage hward hdoor hmeets hpage' hward' hzero hsize hempty =>
      next_congr (doorOp_of_atDoor ⟨hk, hq, hpage, hward, hdoor, hmeets, hpage', hward'⟩ (doorAct_alloc_empty hzero hsize hempty))
  case handOn =>
    exact fun _ _ _ _ _ _ _ hk hq hpage hward hdoor hmeets hpage' hward' hzero hseat hparts hown =>
      next_congr (doorOp_of_atDoor ⟨hk, hq, hpage, hward, hdoor, hmeets, hpage', hward'⟩
        (doorAct_handOn_own hzero hseat hparts hown))
  case free =>
    exact fun _ _ _ _ _ _ _ hk hq hpage hward hdoor hmeets hpage' hward' hzero hown =>
      next_congr (doorOp_of_atDoor ⟨hk, hq, hpage, hward, hdoor, hmeets, hpage', hward'⟩ (doorAct_free_own hzero hown))
  case foreign =>
    exact fun _ _ _ _ _ _ _ hk hq hpage hward hdoor hmeets hpage' hward' hzero hforeign =>
      next_congr (doorOp_of_atDoor ⟨hk, hq, hpage, hward, hdoor, hmeets, hpage', hward'⟩ (doorAct_free_foreign hzero hforeign))
  case refill => exact fun _ _ _ _ hward => next_congr (freeCacheRefillOp_of_held hward)

end Sys2Proof.Machine
end

section
/-! Stalls and gallery (13_stalls_and_gallery.md): the byte memory of the pool, CXL.mem accesses of the window carve, and tier-policy
and wardrobe-carve as commands of the callboard. -/

namespace Sys2Proof.Machine

open Sys2Proof

/-! ## Byte memory -/

/-- A filter that keeps the entries of a key keeps what the table gives for it. -/
theorem kget_filter {α : Type} {m : List (Nat × α)} {q : Nat × α → Bool} {k : Nat} (h : ∀ v, q (k, v) = true) :
    kget (m.filter q) k = kget m k := by
  induction m with
  | nil => rfl
  | cons c m ih =>
    obtain ⟨j, v⟩ := c
    by_cases hj : j = k
    · subst hj
      rw [List.filter_cons_of_pos (h v), kget, kget, if_pos rfl, if_pos rfl]
    · rw [kget, if_neg hj, ← ih]
      cases hq : q (j, v) with
      | true => rw [List.filter_cons_of_pos hq, kget, if_neg hj]
      | false => rw [List.filter_cons_of_neg (by simp [hq])]

theorem memGet_memZero_outside (m : Mem) {a n x : Nat} (h : x < a ∨ a + n ≤ x) : memGet (memZero m a n) x = memGet m x := by
  unfold memGet memZero
  rw [kget_filter (fun _ => by simpa using h)]

theorem memGet_memWrite_outside (m : Mem) {a x : Nat} (d : Bytes) (h : x < a ∨ a + d.length ≤ x) :
    memGet (memWrite m a d) x = memGet m x :=
  h.elim (memGet_memWrite_lt m d) (memGet_memWrite_ge m d)

theorem memRead_memWrite {m : Mem} (a : Nat) (d : Bytes) (h : Memory.wf m = true) :
    memRead (memWrite m a d) a d.length = d := by
  refine List.ext_getElem (memRead_length _ a _) (fun i _ hi => ?_)
  rw [← List.getD_eq_getElem d 0 hi, ← memGet_memWrite a d i hi h]
  simp [memRead]

/-! ## CXL.mem accesses of the window (R491, R492) -/

section
variable {s : State} {o a : Nat} {k : Carve} {hw : HomeHw} {d old : Bytes} {v : Itvos} (hopen : windowOpen s = true)
include hopen

theorem cxlMemReadOp_of_unmapped (hat : windowAt s.itv (o / 64 * 64) = none) :
    cxlMemReadOp s o hw = emit s (.cxlData (zeros 64) false) := by
  simp only [cxlMemReadOp, hopen, hat, Bool.not_true, Bool.false_eq_true, if_false]

theorem cxlMemWriteOp_of_unmapped (hat : windowAt s.itv (o / 64 * 64) = none) :
    cxlMemWriteOp s o d = bumpPool s .cxlUnmapped := by
  simp only [cxlMemWriteOp, hopen, hat, Bool.not_true, Bool.false_eq_true, if_false]

section
variable (hat : windowAt s.itv (o / 64 * 64) = some (k, a))
include hat

theorem cxlMemReadOp_of_denied (hdenied : windowOk s.itv k = false) :
    cxlMemReadOp s o hw = emit s (.cxlData (zeros 64) true) := by
  simp only [cxlMemReadOp, cxlPoison, hopen, hat, hdenied, Bool.not_true, Bool.not_false, Bool.false_eq_true, if_false, if_true]

theorem cxlMemWriteOp_of_denied (hdenied : windowOk s.itv k = false) : cxlMemWriteOp s o d = bumpPool s .cxlNokey := by
  simp only [cxlMemWriteOp, hopen, hat, hdenied, Bool.not_true, Bool.not_false, Bool.false_eq_true, if_false, if_true]

variable (hok : windowOk s.itv k = true)
include hok

theorem cxlMemReadOp_of_data (hread : blockRead (touch s a 64).itv k.part (a / 64) = .ok d) :
    cxlMemReadOp s o .ok = emit (touch s a 64) (.cxlData d false) := by
  simp only [cxlMemReadOp, hopen, hat, hok, hread, Bool.not_true, Bool.false_eq_true, if_false]

theorem cxlMemReadOp_of_uncorrectable :
    cxlMemReadOp s o .uncorrectable = emit
      { poisonBlock (touch s a 64) (a / 64) with itv.cb.media := (touch s a 64).itv.cb.media ++ [o / 64 * 64] }
      (.cxlData (zeros 64) true) := by
  simp only [cxlMemReadOp, cxlPoison, hopen, hat, hok, Bool.not_true, Bool.false_eq_true, if_false]

theorem cxlMemWriteOp_of_stored (hwrite : poolWrite (touch s a 64).itv k.part a (pad 64 d) (fullMask 64) = (v, .ok old)) :
    cxlMemWriteOp s o d = { touch s a 64 with itv := v } := by
  simp only [cxlMemWriteOp, hopen, hat, hok, hwrite, Bool.not_true, Bool.false_eq_true, if_false]

end

end

/-! ## tier-policy and wardrobe-carve -/

section
variable {s : State} {n : Fin 8} {p : Bytes}

/-- A command whose payload has one length, posted and ending at once with a reply. Acceptance writes the callboard's slots alone, so
what is known of `s` is known, by computation, of the state in which the command runs. -/
theorem posted_completes {code len ms : Nat} {sel : Bytes → Bool} {f : Cmd} {t : State} {r : Reply} (hpost : posted s n code p)
    (hlen : p.length = len) (hsel : sel p = true) (hrow : rowOf code = some ⟨code, len, len, ms⟩)
    (hplain : len ≤ 4032 ∧ code ≠ 0x0108 ∧ code ≠ 0x0109) (hbulk : r.bulk = none)
    (hf : ∀ v, taken s n = { s with itv.cb.slots := v } → f (taken s n) (slotCall n p) = (t, some r)) :
    (.next (cmdRow s n code sel false (.ok []) true f) : Res) = .next (completeSlot t n.val r) := by
  obtain ⟨v, hv⟩ := exists_taken s n
  exact row_reply s n code p sel false (.ok []) true f _ t r hpost hsel hrow ⟨hlen.ge, hlen.le, hlen.trans_le hplain.1⟩ hplain.2
    hbulk (hf v hv)

theorem byteIs_of_eq {a v : Nat} (h : byteAt p a = v) : byteIs a v p = true := beq_iff_eq.mpr h

theorem byteIsOr_of_eq {a v : Nat} {vs : List Nat} (h : byteAt p a = v) : byteIsOr a v vs p = true :=
  Bool.or_eq_true_iff.mpr (.inl (beq_iff_eq.mpr h))

@[simp] theorem tierReply_bulk (v : Itvos) : (tierReply v).bulk = none := by
  unfold tierReply
  split <;> rfl

/-- The ranges that R481 gives the settings of a tier-policy. -/
structure TierSettings (p : Bytes) : Prop where
  enable : byteAt p 3 ≤ 1
  decay : 1 ≤ natAt p 4 2 ∧ natAt p 4 2 ≤ 1000
  demote : natAt p 8 2 < natAt p 6 2
  share : 1 ≤ byteAt p 10 ∧ byteAt p 10 ≤ 32
  rate : 16 ≤ natAt p 12 4 ∧ natAt p 12 4 ≤ 16384

theorem outOfRange_eq_false {x lo hi : Nat} (h : lo ≤ x ∧ x ≤ hi) : (decide (x < lo) || decide (x > hi)) = false := by
  simp [h]

theorem outOfRangeOne_eq_false {x hi : Nat} (h : 1 ≤ x ∧ x ≤ hi) : (x == 0 || decide (x > hi)) = false :=
  Bool.or_eq_false_iff.mpr ⟨beq_eq_false_iff_ne.mpr (Nat.one_le_iff_ne_zero.mp h.1), decide_eq_false (Nat.not_lt.mpr h.2)⟩

/-- tier-policy, ACTION 0 (R481, R577). -/
theorem tierPolicySettingsCmd_of_met (haction : byteAt p 0 ≤ 1) (hlic : holdsPool s.itv = true) (hset : TierSettings p)
    (hz : zeroAt p 11 1) :
    tierPolicySettingsCmd s (slotCall n p) =
      ({ s with itv.pool.enable := byteAt p 3 == 1, itv.pool.decayMs := natAt p 4 2, itv.pool.promote := natAt p 6 2,
                itv.pool.demote := natAt p 8 2, itv.pool.share := byteAt p 10, itv.pool.sweepRate := natAt p 12 4 },
        some (tierReply s.itv)) := by
  have hpromote : natAt p 6 2 ≠ 0 := Nat.ne_zero_of_lt hset.demote
  exact checked_pass _ _ _ <| pass_cons (unlicensed_fst hlic) <| pass_cons (decide_eq_false (Nat.not_lt.mpr haction)) <|
    pass_cons (decide_eq_false (Nat.not_lt.mpr hset.enable)) <| pass_cons (outOfRangeOne_eq_false hset.decay) <|
    pass_cons (beq_eq_false_iff_ne.mpr hpromote) <| pass_cons (decide_eq_false (Nat.not_le.mpr hset.demote)) <|
    pass_cons (outOfRangeOne_eq_false hset.share) <| pass_cons (mbz_fst hz) <| pass_cons (outOfRange_eq_false hset.rate) pass_nil

/-- tier-policy, ACTION 1 (R480, R577). -/
theorem tierPolicyClassCmd_of_met {k : Carve} (hlic : holdsPool s.itv = true)
    (hcarve : kget s.itv.pool.carves (byteAt p 1) = some k) (hward : k.ward = false) (hclass : byteAt p 2 ≤ 2) (hz : zeroAt p 11 1)
    (hroom : byteAt p 2 = 1 → k.cls ≠ .stalls → pinnedStalls s.itv + k.len / 65536 ≤ stallsFrames) :
    tierPolicyClassCmd s (slotCall n p) =
      ({ s with itv := setClass s.itv (byteAt p 1) k (classOf (byteAt p 2)) }, some (tierReply s.itv)) := by
  have hfits : (byteAt p 2 == 1 && k.cls != .stalls && decide (pinnedStalls s.itv + k.len / 65536 > stallsFrames)) = false := by
    simpa [and_imp] using hroom
  unfold tierPolicyClassCmd
  dsimp only
  rw [hcarve]
  exact checked_pass _ _ _ <| pass_cons (unlicensed_fst hlic) <| pass_cons hward <|
    pass_cons (decide_eq_false (Nat.not_lt.mpr hclass)) <| pass_cons (mbz_fst hz) <| pass_cons hfits pass_nil

/-- The eight pool counts that a wardrobe-carve asks for (R578). -/
def wardCounts (p : Bytes) : List Nat := (List.range 8).map (fun k => natAt p (16 + 4 * k) 4)

/-- What every wardrobe-carve asks: the POOL licence, a partition that exists and is neither struck nor down, a known ACTION, and
zeros after RIGHTS (R578). -/
structure WardrobeOpen (s : State) (p : Bytes) : Prop where
  licence : holdsPool s.itv = true
  part : partExists s.itv (byteAt p 0) = true
  action : byteAt p 1 ≤ 2
  zeros : zeroAt p 9 7
  notStruck : s.itv.sec.struck.getLsbD (byteAt p 0) = false
  notDown : s.itv.dir.down.getLsbD (byteAt p 0) = false

theorem wardMake_of_room {part base carve : Nat} {counts : List Nat} {val mask : BitVec 16} {rights : BitVec 3}
    (hbase : wardBase s.itv (wardLen counts) = some base) (hcarve : wardCarve s.itv = some carve)
    (hfull : wardFull s.itv part counts = false) (hstalls : stallsFull s.itv (wardLen counts / 65536) = false) :
    wardMake s part counts val mask rights =
      ({ s with itv := wardCreate s.itv part carve base counts val mask rights },
        some { status := St.ok, result := wardResult base carve }) := by
  unfold wardMake
  rw [hbase, hcarve, hfull, hstalls]
  rfl

section
variable (hopen : WardrobeOpen s p)
include hopen

/-- No check of the partition reads the callboard's slots. -/
theorem WardrobeOpen.of_slots (v : Vector Slot 8) : WardrobeOpen { s with itv.cb.slots := v } p :=
  ⟨hopen.licence, hopen.part, hopen.action, hopen.zeros, hopen.notStruck, hopen.notDown⟩

theorem WardrobeOpen.wardChecks_pass : ∀ x ∈ wardChecks s.itv (slotCall n p), x.1 = false :=
  pass_cons (unlicensed_fst hopen.licence) <| pass_cons (congrArg (!·) hopen.part) <|
    pass_cons (decide_eq_false (Nat.not_lt.mpr hopen.action)) pass_nil

theorem WardrobeOpen.partState_pass : ∀ x ∈ partState s.itv (byteAt p 0), x.1 = false :=
  Machine.partState_pass hopen.notStruck hopen.notDown

/-- ACTION 0 for a partition that has no wardrobe (R449, R463). -/
theorem wardrobeCarveCreateCmd_of_none {base carve : Nat} (hrights : byteAt p 8 ≤ 7) (hscrubbed : s.itv.pool.stallsScrubbed = true)
    (hnone : kget s.itv.wards (byteAt p 0) = none) (hbase : wardBase s.itv (wardLen (wardCounts p)) = some base)
    (hcarve : wardCarve s.itv = some carve) (hfull : wardFull s.itv (byteAt p 0) (wardCounts p) = false)
    (hstalls : stallsFull s.itv (wardLen (wardCounts p) / 65536) = false) :
    wardrobeCarveCreateCmd s (slotCall n p) =
      ({ s with itv := wardCreate s.itv (byteAt p 0) carve base (wardCounts p) (BitVec.ofNat 16 (natAt p 4 2))
                         (BitVec.ofNat 16 (natAt p 6 2)) (BitVec.ofNat 3 (byteAt p 8)) },
        some { status := St.ok, result := wardResult base carve }) := by
  unfold wardrobeCarveCreateCmd
  dsimp only
  rw [hnone]
  refine (checked_pass _ _ _ (pass_append (pass_append (pass_append hopen.wardChecks_pass
    (pass_cons (decide_eq_false (Nat.not_lt.mpr hrights)) <| pass_cons (mbz_fst hopen.zeros) pass_nil)) hopen.partState_pass)
    (pass_cons (congrArg (!·) hscrubbed) pass_nil))).trans ?_
  exact wardMake_of_room hbase hcarve hfull hstalls

/-- ACTION 1 for a wardrobe without owned buffers. -/
theorem wardrobeCarveReleaseCmd_of_unowned {w : Wardrobe} (hward : kget s.itv.wards (byteAt p 0) = some w) (hfree : w.owners = []) :
    wardrobeCarveReleaseCmd s (slotCall n p) =
      ({ s with itv := releaseCarve { s.itv with wards := kdel s.itv.wards (byteAt p 0) } w.carve }, some { status := St.ok }) := by
  unfold wardrobeCarveReleaseCmd wardRelease
  dsimp only
  rw [hward]
  exact checked_pass _ _ _ (pass_append (pass_append (pass_append hopen.wardChecks_pass
    (pass_cons rfl <| pass_cons (mbz_fst hopen.zeros) pass_nil)) hopen.partState_pass) (pass_cons (by simp [hfree]) pass_nil))

/-- ACTION 2 (R466). -/
theorem wardrobeCarveReclaimCmd_of_ward {w : Wardrobe} (hward : kget s.itv.wards (byteAt p 0) = some w) :
    wardrobeCarveReclaimCmd s (slotCall n p) =
      ((wardReclaim s (byteAt p 0) (fun o => o.1 == BitVec.ofNat 16 (natAt p 2 2))).1,
        some { status := St.ok,
               result := leBytes 4 (wardReclaim s (byteAt p 0) (fun o => o.1 == BitVec.ofNat 16 (natAt p 2 2))).2 }) := by
  unfold wardrobeCarveReclaimCmd
  dsimp only
  rw [hward]
  exact checked_pass _ _ _ (pass_append (pass_append hopen.wardChecks_pass
    (pass_cons rfl <| pass_cons (mbz_fst hopen.zeros) pass_nil)) hopen.partState_pass)

end

end

/-! ## The statements -/

/-- Settles O49: the canonical form after a write and after a clearing, the bytes written, and the bytes outside. That an unlisted
byte reads 0 is the model's choice (log 7). -/
theorem poolMemoryReadsBackWhatIsWritten : Obligations.PoolMemoryReadsBackWhatIsWritten :=
  fun m a n d hwf => ⟨memWrite_wf a d hwf, memZero_wf a n hwf, memRead_memWrite a d hwf, fun _ => memGet_memWrite_outside m d,
    fun _ => memGet_memZero m, fun _ => memGet_memZero_outside m⟩

/-- Settles O13: one lemma for each outcome of the two rows. -/
theorem cxlWindowAccessesReadAndWriteThePool : Obligations.CxlWindowAccessesReadAndWriteThePool := by
  refine ⟨?read, ?readUnmapped, ?readDenied, ?readLost, ?write, ?writeUnmapped, ?writeDenied⟩
  case read => exact fun _ _ _ _ _ hopen hat hok hread => next_congr (cxlMemReadOp_of_data hopen hat hok hread)
  case readUnmapped => exact fun _ _ _ hopen hat => next_congr (cxlMemReadOp_of_unmapped hopen hat)
  case readDenied => exact fun _ _ _ _ _ hopen hat hdenied => next_congr (cxlMemReadOp_of_denied hopen hat hdenied)
  case readLost => exact fun _ _ _ _ hopen hat hok => next_congr (cxlMemReadOp_of_uncorrectable hopen hat hok)
  case write => exact fun _ _ _ _ _ _ _ hopen hat hok hwrite => next_congr (cxlMemWriteOp_of_stored hopen hat hok hwrite)
  case writeUnmapped => exact fun _ _ _ hopen hat => next_congr (cxlMemWriteOp_of_unmapped hopen hat)
  case writeDenied => exact fun _ _ _ _ _ hopen hat hdenied => next_congr (cxlMemWriteOp_of_denied hopen hat hdenied)

/-- Settles O6: each command passes its checks and writes its table, whatever the callboard's slots hold. ACTION 0 of wardrobe-carve
is stated for a partition that has no wardrobe. -/
theorem tierAndWardrobeCommandsWriteTheirTables : Obligations.TierAndWardrobeCommandsWriteTheirTables := by
  refine ⟨?settings, ?cls, ?create, ?release, ?reclaim⟩
  case settings =>
    intro s n p hpost hlen haction hlic henable hleast hmost hdemote hone hshare hz hslow hfast
    exact posted_completes hpost hlen (byteIsOr_of_eq haction) rfl (by decide) (tierReply_bulk _) (fun v hv => by
      rw [hv]
      exact tierPolicySettingsCmd_of_met (by omega) hlic ⟨henable, ⟨hleast, hmost⟩, hdemote, ⟨hone, hshare⟩, ⟨hslow, hfast⟩⟩ hz)
  case cls =>
    intro s n p k hpost hlen haction hlic hcarve hward hclass hz hroom
    exact posted_completes hpost hlen (byteIs_of_eq haction) rfl (by decide) (tierReply_bulk _) (fun v hv => by
      rw [hv]
      exact tierPolicyClassCmd_of_met hlic hcarve hward hclass hz hroom)
  case create =>
    intro s n p base carve hpost hlen haction hlic hpart hrights hz hstruck hdown hscrubbed hnone hbase hcarve hfull hstalls
    have hopen : WardrobeOpen s p := ⟨hlic, hpart, by omega, hz, hstruck, hdown⟩
    exact posted_completes hpost hlen (byteIsOr_of_eq haction) rfl (by decide) rfl (fun v hv => by
      rw [hv]
      exact wardrobeCarveCreateCmd_of_none (hopen.of_slots v) hrights hscrubbed hnone hbase hcarve hfull hstalls)
  case release =>
    intro s n p w hpost hlen haction hlic hpart hward hfree hz hstruck hdown
    have hopen : WardrobeOpen s p := ⟨hlic, hpart, by omega, hz, hstruck, hdown⟩
    exact posted_completes hpost hlen (byteIs_of_eq haction) rfl (by decide) rfl (fun v hv => by
      rw [hv]
      exact wardrobeCarveReleaseCmd_of_unowned (hopen.of_slots v) hward hfree)
  case reclaim =>
    intro s n p w hpost hlen haction hlic hpart hward hz hstruck hdown
    have hopen : WardrobeOpen s p := ⟨hlic, hpart, by omega, hz, hstruck, hdown⟩
    exact posted_completes hpost hlen (byteIs_of_eq haction) rfl (by decide) rfl (fun v hv => by
      rw [hv]
      exact wardrobeCarveReclaimCmd_of_ward (hopen.of_slots v) hward)

end Sys2Proof.Machine
end

section
/-! Belug's apron (14_belug_apron.md): its interrupts, its configuration writes and its resets. -/

namespace Sys2Proof.Machine

open Sys2Proof

/-! ## INTR and its channel (R511, R526) -/

theorem upChannel_of_first {s : State} {n j : Nat} (hj : j < 24) (hup : (getCh s ((n + j) % 24)).up = true)
    (hdown : ∀ i < j, (getCh s ((n + i) % 24)).up = false) : upChannel s n = (n + j) % 24 := by
  have hfind : (List.range 24).find? (fun i => (getCh s ((n + i) % 24)).up) = some j := by
    rw [List.find?_range_eq_some]
    exact ⟨hup, List.mem_range.mpr hj, fun i hi => by simp [hdown i hi]⟩
  unfold upChannel
  rw [List.find?_map, Function.comp_def, hfind]
  rfl

theorem upChannel_of_up {s : State} {n : Nat} (hn : n < 24) (hup : (getCh s n).up = true) : upChannel s n = n := by
  have hmod : (n + 0) % 24 = n := Nat.mod_eq_of_lt hn
  rw [upChannel_of_first (j := 0) (by decide) (by rwa [hmod]) (fun i hi => absurd hi (Nat.not_lt_zero i)), hmod]

theorem raiseIrq_of_set {s : State} {i : Nat} (hset : s.blg.cause.getLsbD i = true) : raiseIrq s i = s := if_pos hset

/-- The INTR carries CAUSE as the new bit leaves it. -/
theorem raiseIrq_of_enabled {s : State} {i : Nat} (hclear : s.blg.cause.getLsbD i = false) (hmask : s.blg.mask.getLsbD i = true) :
    raiseIrq s i = (
      let c := setBit s.blg.cause i true
      let t := { s with blg.cause := c }
      let u := sendApron t (upChannel t s.blg.intChannel.toNat) { typ := 0x38, tail := c :: zeros 47 }
      if alertLow s.blg then u else emit u (.alert .blg true)) :=
  (if_neg (Bool.eq_false_iff.mp hclear)).trans (if_pos hmask)

/-! ## INT_CAUSE and BELUG_ALERT_N (R500, R526) -/

theorem alertLow_of_disjoint {b : Belug} (h : b.cause &&& b.mask = 0) : alertLow b = false := bne_eq_false_iff_eq.mpr h
theorem alertLow_of_meet {b : Belug} (h : b.cause &&& b.mask ≠ 0) : alertLow b = true := bne_iff_ne.mpr h

theorem noteAlert_of_same {s t : State} (h : alertLow s.blg = alertLow t.blg) : noteAlert s t = t := if_pos h

theorem noteAlert_of_released {s t : State} (hlow : alertLow s.blg = true) (hhigh : alertLow t.blg = false) :
    noteAlert s t = emit t (.alert .blg false) := by
  unfold noteAlert
  rw [hlow, hhigh]
  rfl

/-- Clearing causes never asserts BELUG_ALERT_N. -/
theorem and_and_eq_zero_of {a b m : BitVec 8} (h : a &&& m = 0) : a &&& b &&& m = 0 := by
  rw [BitVec.and_assoc, BitVec.and_comm b m, ← BitVec.and_assoc, h]
  exact BitVec.zero_and

section
variable {s : State} {v : Word}

theorem intCauseWriteOp_of_same
    (h : s.blg.cause &&& s.blg.mask = 0 ∨ s.blg.cause &&& ~~~(v.setWidth 8) &&& s.blg.mask ≠ 0) :
    intCauseWriteOp s v = { s with blg.cause := s.blg.cause &&& ~~~(v.setWidth 8) } := by
  refine noteAlert_of_same ?_
  rcases h with hnone | hleft
  · rw [alertLow_of_disjoint hnone]
    exact (alertLow_of_disjoint (and_and_eq_zero_of hnone)).symm
  · have hsome : s.blg.cause &&& s.blg.mask ≠ 0 := fun h => hleft (and_and_eq_zero_of h)
    rw [alertLow_of_meet hsome]
    exact (alertLow_of_meet hleft).symm

theorem intCauseWriteOp_of_released (hsome : s.blg.cause &&& s.blg.mask ≠ 0)
    (hnone : s.blg.cause &&& ~~~(v.setWidth 8) &&& s.blg.mask = 0) :
    intCauseWriteOp s v = emit { s with blg.cause := s.blg.cause &&& ~~~(v.setWidth 8) } (.alert .blg false) :=
  noteAlert_of_released (alertLow_of_meet hsome) (alertLow_of_disjoint hnone)

/-! ## VC_WEIGHT (R525) -/

theorem vcWeightWriteOp_of_fit (hsum : (vcWeights v).sum = 64) (hpos : 0 ∉ vcWeights v) :
    vcWeightWriteOp s v = { s with blg.vcWeight := v.setWidth 56 } :=
  if_neg (by simp [hsum, hpos])

theorem vcWeightWriteOp_of_unfit (h : (vcWeights v).sum ≠ 64 ∨ 0 ∈ vcWeights v) :
    vcWeightWriteOp s v = bumpBC s .cfgRefused :=
  if_pos (by simpa using h)

/-! ## Tallies (R517) -/

theorem packTally_of_count (v : Nat) : packTally 0 0 v = BitVec.ofNat 64 (v % 2 ^ 32) := by simp [packTally]

theorem tallyWriteOp_eq (s : State) (t : Nat) (v : Word) :
    tallyWriteOp s t v =
      tallyWaits { s with blg.tallies := kset s.blg.tallies t (BitVec.ofNat 64 (v.toNat % 2 ^ 32)) } t := by
  rw [← packTally_of_count]
  rfl

/-! ## The chip reset (R528) -/

theorem alertLow_resetBelug (b : Belug) (now : Nat) : alertLow (resetBelug b now) = false :=
  alertLow_of_disjoint (BitVec.zero_and (x := 0))

theorem belugResetOp_of_quiet (h : s.blg.cause &&& s.blg.mask = 0) :
    belugResetOp s = { s with blg := resetBelug s.blg s.now } :=
  noteAlert_of_same ((alertLow_of_disjoint h).trans (alertLow_resetBelug _ _).symm)

theorem belugResetOp_of_alert (h : s.blg.cause &&& s.blg.mask ≠ 0) :
    belugResetOp s = emit { s with blg := resetBelug s.blg s.now } (.alert .blg false) :=
  noteAlert_of_released (alertLow_of_meet h) (alertLow_resetBelug _ _)

/-! ## The end of the 250 ms (R677) -/

theorem startWaitEndOp_of_passed (hwait : s.blg.startWait = true) (hlate : s.blg.resetAt + 250000000 ≤ s.now) :
    startWaitEndOp s = sendWaiting
       { s with blg.startWait := false,
                blg.outflows := s.blg.outflows.map (fun e =>
                  (e.1, { e.2 with outst := e.2.outst.map (fun o => if o.waiting then { o with born := s.now } else o) })) } :=
  if_pos (by rw [hwait, passed_of_le hlate]; rfl)

/-! ## CFG_WR of a channel (R506) -/

theorem cfgMessage_of_met {ch a : Nat} {tag : BitVec 16} (hup : (getCh s ch).up = true) (halign : a % 8 = 0) (hin : a < 0x10000)
    (htag : tag.toNat < 4096) (hreset : a ≠ 0x128) :
    cfgMessage s ch tag a v = (
       let m : ApronMsg := { typ := 0x0B, tag := tag, addr := BitVec.ofNat 64 a, tail := leBytes 8 v.toNat ++ zeros 40 }
       settle (respond (cfgWrite (takeWords s ch m) a v) ch m St.ok 0 [])) := by
  unfold cfgMessage
  dsimp only
  rw [hup, if_neg (by decide), if_neg (by omega), if_neg (fun h => hreset h.1)]

end

/-! ## The statements -/

/-- Settles O53: what a cause bit sends depends on the bit alone, and the channel is the first that is UP from INT_CHANNEL on. -/
theorem anEnabledCauseSendsOneIntr : Obligations.AnEnabledCauseSendsOneIntr :=
  ⟨fun _ _ hclear hmask => raiseIrq_of_enabled hclear hmask, fun _ _ hset => raiseIrq_of_set hset,
    fun _ _ hn hup => upChannel_of_up hn hup, fun _ _ _ hj hup hdown => upChannel_of_first hj hup hdown⟩

/-- Settles O14: one lemma for each outcome of a write, and BELUG_ALERT_N by the enabled causes before and after. That a reset keeps
which reference inputs are lost and chooses the input anew (log 17), and that a write of a reserved offset changes nothing (log 73),
are the model's choices. -/
theorem belugRegistersTakeWrites : Obligations.BelugRegistersTakeWrites := by
  refine ⟨?cause, ?causeLast, ?homeMap, ?weight, ?weightRefused, ?tally, ?group, ?bp, ?quiet, ?alert, ?reset, ?hand, ?start, ?cfg⟩
  case cause => exact fun _ _ h => next_congr (intCauseWriteOp_of_same h)
  case causeLast => exact fun _ _ hsome hnone => next_congr (intCauseWriteOp_of_released hsome hnone)
  case homeMap => exact fun _ _ _ => rfl
  case weight => exact fun _ _ hsum hpos => next_congr (vcWeightWriteOp_of_fit hsum hpos)
  case weightRefused => exact fun _ _ h => next_congr (vcWeightWriteOp_of_unfit h)
  case tally => exact fun s t v => next_congr (tallyWriteOp_eq s t.val v)
  case group => exact fun _ _ _ _ => rfl
  case bp => exact fun _ _ => rfl
  case quiet => exact fun _ h => next_congr (belugResetOp_of_quiet h)
  case alert => exact fun _ h => next_congr (belugResetOp_of_alert h)
  case reset => exact fun _ => ⟨rfl, rfl, rfl⟩
  case hand => exact fun _ _ => rfl
  case start => exact fun _ hwait hlate => next_congr (startWaitEndOp_of_passed hwait hlate)
  case cfg => exact fun _ _ _ _ _ hup halign hin htag hreset => next_congr (cfgMessage_of_met hup halign hin htag hreset)

end Sys2Proof.Machine
end

section
/-! The callboard (15_callboard.md): what acceptance and completion leave in a slot, what its hardware answers itself, its interrupt
block, its mirror and the CXL link. -/

namespace Sys2Proof.Machine

open Sys2Proof

/-! ## The slots after an interrupt, acceptance and completion (R547, R550, R551) -/

@[simp] theorem getSlot_raiseVector (s : State) (v n : Nat) : getSlot (raiseVector s v) n = getSlot s n := by
  unfold raiseVector
  repeat' split
  all_goals rfl

section
variable (s : State) (n : Fin 8)

@[simp] theorem getSlot_taken :
    getSlot (taken s n) n.val =
      { getSlot s n.val with stCode := 0xFF, detail := 0, seqEcho := (getSlot s n.val).seq.setWidth 32, resultLen := 0,
                             running := some s.now } := slot_same s n _

theorem getSlot_taken_ne {m : Fin 8} (h : m ≠ n) : getSlot (taken s n) m.val = getSlot s m.val := slot_other s n m _ h

@[simp] theorem getSlot_completeSlot (r : Reply) :
    getSlot (completeSlot s n.val r) n.val =
      { getSlot s n.val with
        payload := memWrite (getSlot s n.val).payload 0 r.result
        resultLen := BitVec.ofNat 12 r.result.length
        stCode := BitVec.ofNat 8 r.status
        detail := BitVec.ofNat 16 r.detail
        own := false
        running := none } :=
  (getSlot_raiseVector _ _ _).trans (slot_same (forgetSlot s n.val) n _)

theorem getSlot_completeSlot_ne (r : Reply) {m : Fin 8} (h : m ≠ n) : getSlot (completeSlot s n.val r) m.val = getSlot s m.val :=
  (getSlot_raiseVector _ _ _).trans (slot_other (forgetSlot s n.val) n m _ h)

end

/-! ## The hardware's own answers (R547, R555 to R557, R681) -/

section
variable {s : State} {n : Fin 8}

theorem unknownCommandOp_of_unlisted (hwaits : waitsIn s n.val = true) (haccept : accepting s = true)
    (hrow : rowOf (getSlot s n.val).code.toNat = none) :
    unknownCommandOp s n = completeSlot (taken s n) n.val { status := St.badarg, detail := 0xFFFF } :=
  if_pos (by rw [hwaits, haccept, hrow]; rfl)

theorem hwAnswerOp_of_busy (hwaits : waitsIn s n.val = true)
    (hmode : s.itv.boot.mode = .switching ∨ s.itv.boot.mode = .starting ∧ s.itv.boot.yalny = false) :
    hwAnswerOp s n =
      completeSlot (modSlot s n.val (fun x => { x with seqEcho := x.seq.setWidth 32 })) n.val { status := St.busy } := by
  unfold hwAnswerOp
  rcases hmode with hmode | ⟨hmode, hyalny⟩
  · rw [hwaits, hmode]
    rfl
  · rw [hwaits, hmode, hyalny]
    rfl

theorem hwAnswerOp_of_denied (hwaits : waitsIn s n.val = true) (hmode : s.itv.boot.mode = .greenroom)
    (hgreen : greenAllowed s n.val = false) :
    hwAnswerOp s n =
      completeSlot (modSlot s n.val (fun x => { x with seqEcho := x.seq.setWidth 32 })) n.val { status := St.denied } := by
  unfold hwAnswerOp
  rw [hwaits, hmode, hgreen]
  rfl

theorem commandTimeoutOp_of_late {applied : Bool} {t : Nat} {row : CmdRow} (hrun : (getSlot s n.val).running = some t)
    (hrow : rowOf (getSlot s n.val).code.toNat = some row) (hlate : t + row.bound * 1000000 ≤ s.now) :
    commandTimeoutOp s n applied = completeSlot s n.val { status := St.timeout, detail := if applied then 0x8000 else 0 } := by
  unfold commandTimeoutOp
  rw [hrun, hrow]
  exact if_pos (passed_of_le hlate)

end

/-! ## The interrupt block (R543, R544, R758) -/

section
variable {s : State}

theorem eventCauseWriteOp_of_left {v : Word}
    (h : s.itv.cb.eventCause &&& ~~~(v.setWidth 8) ≠ 0 ∨ s.itv.cb.eventCause = 0) :
    eventCauseWriteOp s v = { s with itv.cb.eventCause := s.itv.cb.eventCause &&& ~~~(v.setWidth 8) } :=
  if_neg (by
    rw [Bool.and_eq_true, bne_iff_ne, decide_eq_true_eq]
    exact fun hlast => h.elim (· hlast.2) hlast.1)

theorem eventCauseWriteOp_of_last {v : Word} (hnone : s.itv.cb.eventCause &&& ~~~(v.setWidth 8) = 0)
    (hsome : s.itv.cb.eventCause ≠ 0) :
    eventCauseWriteOp s v = emit { s with itv.cb.eventCause := 0 } (.alert .itv false) := by
  unfold eventCauseWriteOp
  dsimp only
  rw [hnone]
  exact if_pos (Bool.and_eq_true_iff.mpr ⟨bne_iff_ne.mpr hsome, rfl⟩)

theorem flushVector_of_noneLatched {v : Nat} (h : s.itv.cb.pba.getLsbD v = false) : flushVector s v = s := by
  unfold flushVector
  rw [h]
  split <;> rfl

theorem raiseVector_of_open {v : Nat} {e : MsixEntry} (hentry : s.itv.cb.msix[v]? = some e) (hmask : e.masked = false)
    (hup : s.itv.cb.cxlUp = true) (hmaster : s.itv.cb.busMaster = true) : raiseVector s v = emit s (.msix v) := by
  unfold raiseVector
  rw [hentry]
  dsimp only
  rw [hmask, hup, hmaster]
  rfl

theorem flushVector_of_latched {v : Nat} {e : MsixEntry} (hentry : s.itv.cb.msix[v]? = some e) (hmask : e.masked = false)
    (hlatched : s.itv.cb.pba.getLsbD v = true) (hup : s.itv.cb.cxlUp = true) (hmaster : s.itv.cb.busMaster = true) :
    flushVector s v = emit { s with itv.cb.pba := setBit s.itv.cb.pba v false } (.msix v) := by
  unfold flushVector
  rw [hentry]
  exact (if_pos (by rw [hlatched, hmask, hup]; rfl)).trans (raiseVector_of_open hentry hmask hup hmaster)

theorem modMsix_eq (s : State) (v : Fin 16) (f : MsixEntry → MsixEntry) :
    modMsix s v.val f = { s with itv.cb.msix := s.itv.cb.msix.set v.val (f (s.itv.cb.msix.get v)) v.isLt } := dif_pos v.isLt

theorem modMsix_entry (s : State) (v : Fin 16) (f : MsixEntry → MsixEntry) :
    (modMsix s v.val f).itv.cb.msix[v.val]? = some (f (s.itv.cb.msix.get v)) := by
  rw [modMsix_eq]
  simp

theorem msixUnmaskOp_of_latched {v : Fin 16} (hlatched : s.itv.cb.pba.getLsbD v.val = true) (hup : s.itv.cb.cxlUp = true)
    (hmaster : s.itv.cb.busMaster = true) :
    msixUnmaskOp s v =
      emit { modMsix s v.val (fun e => { e with masked := false }) with itv.cb.pba := setBit s.itv.cb.pba v.val false }
        (.msix v.val) := by
  have hentry := modMsix_entry s v (fun e => { e with masked := false })
  unfold msixUnmaskOp
  rw [modMsix_eq] at hentry ⊢
  exact flushVector_of_latched hentry rfl hlatched hup hmaster

theorem msixUnmaskOp_of_noneLatched {v : Fin 16} (h : s.itv.cb.pba.getLsbD v.val = false) :
    msixUnmaskOp s v = modMsix s v.val (fun e => { e with masked := false }) := by
  unfold msixUnmaskOp
  rw [modMsix_eq]
  exact flushVector_of_noneLatched h

theorem foldl_flushVector_of_noneLatched (h : s.itv.cb.pba = 0) (vs : List Nat) : vs.foldl flushVector s = s := by
  induction vs with
  | nil => rfl
  | cons v vs ih => rw [List.foldl_cons, flushVector_of_noneLatched (by rw [h]; exact BitVec.getLsbD_zero), ih]

/-- With no message waiting the link's return sends none (R544). -/
theorem cxlLinkUpOp_of_noneLatched {rate width : Nat} (h : s.itv.cb.pba = 0) :
    cxlLinkUpOp s rate width = { s with itv.cb.cxlUp := true, itv.cb.cxlRate := rate, itv.cb.cxlWidth := width } := by
  unfold cxlLinkUpOp
  exact foldl_flushVector_of_noneLatched (by exact h) _

/-! ## The mirror (R541) -/

theorem mirrorRefreshOp_of_yalny (h : s.itv.boot.yalny = true) :
    mirrorRefreshOp s = { s with itv.cb.mirror := { mirrorOf s.itv with seq := s.itv.cb.mirror.seq + 2 } } := if_pos h

/-! ## Writes of BAR0 (R540, R543, R552) -/

theorem bar0Write_msixAddr (s : State) (e : Fin 16) (v : Word) :
    bar0Write s (0x1000 + 16 * e.val) v = modMsix s e.val (fun x => { x with addr := v }) := by
  have he := e.isLt
  have haddr : (0x1000 + 16 * e.val) / 8 * 8 = 0x1000 + 16 * e.val := by omega
  unfold bar0Write
  rw [haddr]
  dsimp only
  rw [if_pos (by omega), if_pos (by omega), show (0x1000 + 16 * e.val - 0x1000) / 16 = e.val by omega]

/-- The slots' registers stand from 0x4000 on, 0x1000 bytes for each. -/
theorem bar0Write_slot (s : State) (n : Fin 8) {off : Nat} (hoff : off < 0x1000) (v : Word) :
    bar0Write s (0x4000 + 0x1000 * n.val + off) v = slotWrite s n.val (off / 8 * 8) v := by
  have hn := n.isLt
  have haddr : (0x4000 + 0x1000 * n.val + off) / 8 * 8 = 0x4000 + 0x1000 * n.val + off / 8 * 8 := by omega
  unfold bar0Write
  rw [haddr]
  dsimp only
  rw [if_neg (by omega), if_neg (by omega), if_neg (by omega), if_pos (by omega),
    show (0x4000 + 0x1000 * n.val + off / 8 * 8 - 0x4000) / 0x1000 = n.val by omega,
    show (0x4000 + 0x1000 * n.val + off / 8 * 8) % 0x1000 = off / 8 * 8 by omega]

theorem slotWrite_seq {n : Nat} {v : Word} (hown : (getSlot s n).own = false) :
    slotWrite s n 8 v = modSlot s n (fun x => { x with seq := v }) := if_neg (Bool.eq_false_iff.mp hown)

theorem slotWrite_of_own {n off : Nat} {v : Word} (hown : (getSlot s n).own = true) :
    slotWrite s n off v = { s with itv.cb.cbIgnored := satAdd s.itv.cb.cbIgnored 1 } := if_pos hown

theorem bar0Write_seq {n : Fin 8} {v : Word} (hown : (getSlot s n.val).own = false) :
    bar0Write s (0x4008 + 0x1000 * n.val) v = modSlot s n.val (fun x => { x with seq := v }) := by
  rw [show 0x4008 + 0x1000 * n.val = 0x4000 + 0x1000 * n.val + 8 by omega, bar0Write_slot s n (by decide)]
  exact slotWrite_seq hown

theorem bar0Write_ignored {n : Fin 8} {off : Nat} {v : Word} (hoff : off < 0x1000) (hown : (getSlot s n.val).own = true) :
    bar0Write s (0x4000 + 0x1000 * n.val + off) v = { s with itv.cb.cbIgnored := satAdd s.itv.cb.cbIgnored 1 } :=
  (bar0Write_slot s n hoff v).trans (slotWrite_of_own hown)

end

/-! ## The statements -/

/-- Settles O54: the slot itself and the other seven after acceptance and after completion; the interrupt that completion raises
writes no slot. -/
theorem aCommandSlotIsAcceptedAndCompleted : Obligations.ACommandSlotIsAcceptedAndCompleted := by
  refine ⟨fun s n => ?accepted, fun s n r => ?completed⟩
  case accepted =>
    rw [getSlot_taken]
    exact ⟨rfl, rfl, rfl, rfl, rfl, rfl, rfl, fun _ => getSlot_taken_ne s n⟩
  case completed =>
    dsimp only
    rw [getSlot_completeSlot]
    exact ⟨rfl, rfl, rfl, rfl, rfl, rfl, rfl, rfl, rfl, fun _ => getSlot_completeSlot_ne s n r⟩

/-- Settles O11: one lemma for each answer. -/
theorem callboardHardwareAnswersWithoutYalny : Obligations.CallboardHardwareAnswersWithoutYalny :=
  ⟨fun _ _ hwaits haccept hrow => next_congr (unknownCommandOp_of_unlisted hwaits haccept hrow),
    fun _ _ hwaits hmode => next_congr (hwAnswerOp_of_busy hwaits hmode),
    fun _ _ hwaits hmode hgreen => next_congr (hwAnswerOp_of_denied hwaits hmode hgreen),
    fun _ _ _ _ _ hrun hrow hlate => next_congr (commandTimeoutOp_of_late hrun hrow hlate)⟩

/-- Settles O12: one lemma for each outcome of a row. That the mailbox command answers and changes nothing else is the model's choice
(log 5); the link's return is stated with no message waiting. -/
theorem interruptMirrorAndCxlRowsTakeEffect : Obligations.InterruptMirrorAndCxlRowsTakeEffect := by
  refine ⟨?cause, ?causeLast, ?unmask, ?unmaskNone, ?mirror, ?flr, ?perst, ?down, ?up, ?mailbox, ?mask, ?msixAddr, ?seq, ?ignored,
    ?pcie⟩
  case cause => exact fun _ _ h => next_congr (eventCauseWriteOp_of_left h)
  case causeLast => exact fun _ _ hnone hsome => next_congr (eventCauseWriteOp_of_last hnone hsome)
  case unmask => exact fun _ _ hlatched hup hmaster => next_congr (msixUnmaskOp_of_latched hlatched hup hmaster)
  case unmaskNone => exact fun _ _ h => next_congr (msixUnmaskOp_of_noneLatched h)
  case mirror => exact fun _ h => next_congr (mirrorRefreshOp_of_yalny h)
  case flr => exact fun _ => rfl
  case perst => exact fun _ => ⟨rfl, rfl⟩
  case down => exact fun _ => rfl
  case up => exact fun _ _ _ h => next_congr (cxlLinkUpOp_of_noneLatched h)
  case mailbox => exact fun _ _ _ => rfl
  case mask => exact fun _ _ => rfl
  case msixAddr => exact fun s e v => next_congr (bar0Write_msixAddr s e v)
  case seq => exact fun _ _ _ hown => next_congr (bar0Write_seq hown)
  case ignored => exact fun _ _ _ _ hoff hown => next_congr (bar0Write_ignored hoff hown)
  case pcie => exact fun _ _ _ => rfl

end Sys2Proof.Machine
end

section
/-! Commands of the callboard (16_commands.md): how a posted command ends, and the commands that only read. -/

namespace Sys2Proof.Machine

open Sys2Proof

section
variable {s : State} {n : Fin 8} {p : Bytes}

/-! ## A posted command and its end -/

section
variable {code least most ms : Nat} {sel : Bytes → Bool} {green landed : Bool} {host : HostRead} {f : Cmd} {t : State}
  (hpost : posted s n code p) (hlen : least ≤ p.length ∧ p.length ≤ most) (hsel : sel p = true)
  (hrow : rowOf code = some ⟨code, least, most, ms⟩) (hmost : most ≤ 4032)
include hpost hlen hsel hrow hmost

/-- A posted command that ends at once. Acceptance writes the callboard's slots alone, so what is known of `s` is known, by
computation, of the state in which the command runs. -/
theorem posted_ends {r : Reply} (hplain : code ≠ 0x0108 ∧ code ≠ 0x0109) (hbulk : r.bulk = none)
    (hf : ∀ v, taken s n = { s with itv.cb.slots := v } → f (taken s n) (slotCall n p host landed) = (t, some r)) :
    (.next (cmdRow s n code sel green host landed f) : Res) = .next (completeSlot t n.val r) := by
  obtain ⟨v, hv⟩ := exists_taken s n
  exact row_reply s n code p sel green host landed f _ t r hpost hsel hrow ⟨hlen.1, hlen.2, hlen.2.trans hmost⟩ hplain hbulk (hf v hv)

/-- A posted command that runs on. -/
theorem posted_runsOn
    (hf : ∀ v, taken s n = { s with itv.cb.slots := v } → f (taken s n) (slotCall n p host landed) = (t, none)) :
    (.next (cmdRow s n code sel green host landed f) : Res) = .next t := by
  obtain ⟨v, hv⟩ := exists_taken s n
  exact row_on s n code p sel green host landed f _ t hpost hsel hrow ⟨hlen.1, hlen.2, hlen.2.trans hmost⟩ (hf v hv)

/-- A posted command whose data lands in the host's buffer. -/
theorem posted_endsBulk {off : Nat} {x b : Bytes} (hplain : code ≠ 0x0108 ∧ code ≠ 0x0109) (hmaster : t.itv.cb.busMaster = true)
    (hf : ∀ v, taken s n = { s with itv.cb.slots := v } →
      f (taken s n) (slotCall n p host true) = (t, some { status := St.ok, result := x, bulk := some (off, b) })) :
    (.next (cmdRow s n code sel green host true f) : Res) = .next (endsBulk t n p off x b) := by
  obtain ⟨v, hv⟩ := exists_taken s n
  exact row_bulk s n code p sel green host f _ t off x b hpost hsel hrow ⟨hlen.1, hlen.2, hlen.2.trans hmost⟩ hplain hmaster (hf v hv)

/-- A posted chorus command, whose result is never empty (R575). -/
theorem posted_endsFull {st d : Nat} {x : Bytes} (hfull : x.isEmpty = false)
    (hf : ∀ v, taken s n = { s with itv.cb.slots := v } →
      f (taken s n) (slotCall n p host landed) = (t, some { status := st, detail := d, result := x })) :
    (.next (cmdRow s n code sel green host landed f) : Res) =
      .next (completeSlot t n.val { status := st, detail := d, result := x }) := by
  obtain ⟨v, hv⟩ := exists_taken s n
  exact row_full s n code p sel green host landed f _ t st d x hfull hpost hsel hrow ⟨hlen.1, hlen.2, hlen.2.trans hmost⟩ (hf v hv)

end

theorem length_within {len : Nat} (h : p.length = len) : len ≤ p.length ∧ p.length ≤ len := ⟨h.ge, h.le⟩

theorem zeroAt_within {a b k m : Nat} (h : zeroAt p a k) (hlow : a ≤ b) (hhigh : b + m ≤ a + k) : zeroAt p b m := fun i hi => by
  have hbyte := h (b + i - a) (by omega)
  rwa [show a + (b + i - a) = b + i by omega] at hbyte

theorem byteAt_of_zeroAt {a b k : Nat} (h : zeroAt p a k) (hlow : a ≤ b) (hhigh : b + 1 ≤ a + k) : byteAt p b = 0 :=
  congrArg BitVec.toNat (zeroAt_within (m := 1) h hlow hhigh 0 Nat.zero_lt_one)

@[simp] theorem taken_busMaster (s : State) (n : Fin 8) : (taken s n).itv.cb.busMaster = s.itv.cb.busMaster := by
  obtain ⟨v, hv⟩ := exists_taken s n
  rw [hv]

theorem notReachable_fst {host : HostRead} {landed : Bool} (h : s.itv.cb.busMaster = true) :
    (!hostReach s (slotCall n p host landed)) = false := congrArg (!·) h

/-! ## link-status (R566) and counters-read (R585) -/

theorem linkStatusCmd_of_met (hcount : 1 ≤ byteAt p 1 ∧ byteAt p 1 ≤ 15) (hports : byteAt p 0 + byteAt p 1 ≤ 72) (hz : zeroAt p 2 6) :
    linkStatusCmd s (slotCall n p) =
      (s, some { status := St.ok,
                 result := linkHead s ++ (List.range (byteAt p 1)).flatMap (fun i => portRecord s (byteAt p 0 + i)) }) := by
  have hfirst : ¬ byteAt p 0 > 71 := by omega
  have hspan : (byteAt p 1 == 0 || decide (byteAt p 1 > 15) || decide (byteAt p 0 + byteAt p 1 > 72)) = false :=
    Bool.or_eq_false_iff.mpr ⟨outOfRangeOne_eq_false hcount, decide_eq_false (Nat.not_lt.mpr hports)⟩
  exact checked_pass _ _ _ <| pass_cons (decide_eq_false hfirst) <| pass_cons hspan <| pass_cons (mbz_fst hz) pass_nil

theorem countersReadCmd_of_met (hset : byteAt p 0 ≤ 7) (hflags : byteAt p 1 ≤ 1) (hz : zeroAt p 2 6)
    (href : hostRefCheck p 8 1 = none) (hbuf : (countersData s.itv (byteAt p 0)).length ≤ (hostRef p 8).len) :
    countersReadCmd s (slotCall n p) =
      (if byteAt p 1 = 1 then clearCounters s (byteAt p 0) else s,
        some { status := St.ok, bulk := some (8, countersData s.itv (byteAt p 0)),
               result := leBytes 4 ((countersData s.itv (byteAt p 0)).length / 8) ++ zeros 4 ++ leBytes 8 s.itv.cue.count.toNat }) := by
  refine Eq.trans (checked_pass _ _ _ ?_) (if_neg (Nat.not_lt.mpr hbuf))
  exact pass_cons (decide_eq_false (Nat.not_lt.mpr hset)) <| pass_cons (decide_eq_false (Nat.not_lt.mpr hflags)) <|
    pass_cons (mbz_fst hz) <| pass_cons (refCheck_fst href) pass_nil

theorem clearCounters_cb (s : State) (k : Nat) : (clearCounters s k).itv.cb = s.itv.cb := by
  unfold clearCounters
  exact ite_obs (fun s : State => s.itv.cb) rfl rfl

/-! ## prompt-book-read and entrance-read (R343, R354, R574) -/

theorem promptBookReadCmd_of_met (hlic : holdsPool s.itv = true) (hgroup : natAt p 0 2 ≤ 4095)
    (hcount : 1 ≤ natAt p 8 4 ∧ natAt p 8 4 ≤ 2097152) (hflags : byteAt p 12 ≤ 1) (hz : zeroAt p 13 3)
    (href : hostRefCheck p 16 1 = none) (hbuf : 32 * natAt p 8 4 ≤ (hostRef p 16).len) (hmaster : s.itv.cb.busMaster = true)
    (hbook : s.itv.boot.bookDone = true) :
    promptBookReadCmd s (slotCall n p) = (
      let rs := bookWanted (if byteAt p 12 = 1 then s.itv.coll.mirror else s.itv.coll.book) (natAt p 0 2) (natAt p 2 6) (natAt p 8 4)
      (s, some { status := St.ok, result := leBytes 4 rs.length, bulk := some (16, rs.flatten) })) :=
  checked_pass _ _ _ <| pass_cons (unlicensed_fst hlic) <| pass_cons (decide_eq_false (Nat.not_lt.mpr hgroup)) <|
    pass_cons (outOfRangeOne_eq_false hcount) <| pass_cons (decide_eq_false (Nat.not_lt.mpr hflags)) <| pass_cons (mbz_fst hz) <|
    pass_cons (refCheck_fst href) <| pass_cons (decide_eq_false (Nat.not_lt.mpr hbuf)) <| pass_cons (notReachable_fst hmaster) <|
    pass_cons (congrArg (!·) hbook) pass_nil

theorem entranceReadCmd_of_met (hlic : holdsChorus s.itv = true) (hgroup : natAt p 0 2 ≤ 4095 ∨ natAt p 0 2 = 0xFFFF)
    (hflags : byteAt p 4 ≤ 1) (hz : zeroAt p 5 11) (href : hostRefCheck p 16 1 = none) (hbuf : 2097152 ≤ (hostRef p 16).len)
    (hmaster : s.itv.cb.busMaster = true) :
    entranceReadCmd s (slotCall n p) = (
      let rs := entrancesWanted s.itv.coll.entrances (natAt p 0 2) (if byteAt p 4 = 1 then none else some (natAt p 2 2))
      (s, some { status := St.ok, result := leBytes 4 rs.length, bulk := some (16, rs.flatten) })) := by
  have hnamed : (decide (natAt p 0 2 > 4095) && natAt p 0 2 != 0xFFFF) = false := by
    rcases hgroup with h | h
    · rw [decide_eq_false (Nat.not_lt.mpr h), Bool.false_and]
    · rw [h]
      rfl
  exact checked_pass _ _ _ <| pass_cons (unlicensed_fst hlic) <| pass_cons hnamed <|
    pass_cons (decide_eq_false (Nat.not_lt.mpr hflags)) <| pass_cons (mbz_fst hz) <| pass_cons (refCheck_fst href) <|
    pass_cons (decide_eq_false (Nat.not_lt.mpr hbuf)) <| pass_cons (notReachable_fst hmaster) pass_nil

/-! ## chorus-load and chorus-check (R434, R435, R575) -/

/-- What both commands ask of their payload. -/
structure ChorusObject (s : State) (p : Bytes) : Prop where
  zeros : zeroAt p 1 15
  ref : hostRefCheck p 16 0 = none
  fits : (hostRef p 16).len ≤ 721024
  master : s.itv.cb.busMaster = true

/-- The object in the host's buffer. -/
def chorusObject (p d : Bytes) : Bytes := pad (hostRef p 16).len d

/-- The end of a chorus command: a status with the checker's verdict. -/
def chorusReply (s : State) (obj : Bytes) (st detail handle : Nat) : State × Option Reply :=
  ((verdictResult s obj (checkObject obj) handle).1,
    some { status := st, detail := detail, result := (verdictResult s obj (checkObject obj) handle).2 })

theorem chorusObjectCmd_load_of_admitted {d : Bytes} (hobj : ChorusObject s p) (hlic : holdsKernel s.itv = true)
    (hslot : byteAt p 0 ≤ 63) (hreason : (checkObject (chorusObject p d)).reason = 0) (hnamed : kernelNamed s (byteAt p 0) = false)
    (hreset : s.itv.coll.resetting = 0) (hroom : wordsLoaded s (byteAt p 0) + objWords (chorusObject p d) ≤ 65536) :
    chorusObjectCmd true s (slotCall n p (.ok d)) = (
      let gen := kgetD s.itv.coll.gens (byteAt p 0) 0 + 1
      chorusReply
        { s with itv.coll.gens := kset s.itv.coll.gens (byteAt p 0) gen,
                 itv.coll.kernels := kset s.itv.coll.kernels (byteAt p 0) { obj := chorusObject p d, gen := gen } }
        (chorusObject p d) St.ok 0 ((gen * 65536 + byteAt p 0 + 1) % 2 ^ 32)) := by
  have hbusy : ¬(kernelNamed s (byteAt p 0) || coreResetting s) = true := by simp [hnamed, coreResetting, hreset]
  refine Eq.trans (checked_pass _ _ _ ?_) (Eq.trans (withHost_ok rfl (by exact hobj.master)) ?_)
  · exact pass_cons (unlicensed_fst hlic) <| pass_cons (decide_eq_false (Nat.not_lt.mpr hslot)) <| pass_cons (mbz_fst hobj.zeros) <|
      pass_cons (refCheck_fst hobj.ref) <| pass_cons (decide_eq_false (Nat.not_lt.mpr hobj.fits)) pass_nil
  · exact (if_neg (not_not_intro hreason)).trans ((if_neg Bool.false_ne_true).trans ((if_neg hbusy).trans (if_neg (Nat.not_lt.mpr hroom))))

theorem chorusObjectCmd_check {d : Bytes} (hobj : ChorusObject s p) (hslot : byteAt p 0 = 0) :
    chorusObjectCmd false s (slotCall n p (.ok d)) =
      chorusReply s (chorusObject p d) (if (checkObject (chorusObject p d)).reason = 0 then St.ok else St.denied)
        (checkObject (chorusObject p d)).reason 0 := by
  refine Eq.trans (checked_pass _ _ _ ?_) (Eq.trans (withHost_ok rfl (by exact hobj.master)) ?_)
  · exact pass_cons rfl <| pass_cons (bne_eq_false_iff_eq.mpr hslot) <| pass_cons (mbz_fst hobj.zeros) <|
      pass_cons (refCheck_fst hobj.ref) <| pass_cons (decide_eq_false (Nat.not_lt.mpr hobj.fits)) pass_nil
  · by_cases hreason : (checkObject (chorusObject p d)).reason = 0
    · rw [hreason]
      exact (if_neg (not_not_intro hreason)).trans (if_pos rfl)
    · rw [if_neg hreason]
      exact if_pos hreason

end

/-! ## The statements -/

/-- Settles O1: no reading command reads the callboard's slots, so its result on acceptance is the one of the state before. -/
theorem readCommandsAnswer : Obligations.ReadCommandsAnswer := by
  refine ⟨?ident, ?link, ?pace, ?run, ?counters⟩
  case ident =>
    exact fun s n hpost => posted_ends hpost (length_within rfl) rfl rfl (by decide) (by decide) rfl (fun v hv => by rw [hv]; rfl)
  case link =>
    intro s n p hpost hlen hleast hmost hports hz
    exact posted_ends hpost (length_within hlen) rfl rfl (by decide) (by decide) rfl (fun v hv => by
      rw [hv]
      exact linkStatusCmd_of_met ⟨hleast, hmost⟩ hports hz)
  case pace =>
    exact fun s n hpost => posted_ends hpost (length_within rfl) rfl rfl (by decide) (by decide) rfl (fun v hv => by rw [hv]; rfl)
  case run =>
    exact fun s n hpost => posted_ends hpost (length_within rfl) rfl rfl (by decide) (by decide) rfl (fun v hv => by rw [hv]; rfl)
  case counters =>
    intro s n p hpost hlen hset hflags hz href hbuf hmaster
    have hreach : (if byteAt p 1 = 1 then clearCounters (taken s n) (byteAt p 0) else taken s n).itv.cb.busMaster = true :=
      ite_obs (fun s : State => s.itv.cb.busMaster) (by rw [clearCounters_cb, taken_busMaster, hmaster])
        (by rw [taken_busMaster, hmaster])
    exact posted_endsBulk hpost (length_within hlen) rfl rfl (by decide) (by decide) hreach (fun v hv => by
      rw [hv]
      exact countersReadCmd_of_met hset hflags hz href hbuf)

/-- Settles O4: as for the other reads, and a load or a check returns the checker's verdict with every status. The handle modulo 2^32
and what the verdict holds where the checker did not reach (logs 3 and 24) are the model's choices. -/
theorem bookAndKernelCommandsAnswer : Obligations.BookAndKernelCommandsAnswer := by
  refine ⟨?book, ?entrance, ?load, ?check⟩
  case book =>
    intro s n p hpost hlen hlic hgroup hleast hmost hflags hz href hbuf hmaster hbook
    exact posted_endsBulk hpost (length_within hlen) rfl rfl (by decide) (by decide) ((taken_busMaster s n).trans hmaster)
      (fun v hv => by
        rw [hv]
        exact promptBookReadCmd_of_met hlic hgroup ⟨hleast, hmost⟩ hflags hz href hbuf hmaster hbook)
  case entrance =>
    intro s n p hpost hlen hlic hgroup hflags hz href hbuf hmaster
    exact posted_endsBulk hpost (length_within hlen) rfl rfl (by decide) (by decide) ((taken_busMaster s n).trans hmaster)
      (fun v hv => by
        rw [hv]
        exact entranceReadCmd_of_met hlic hgroup hflags hz href hbuf hmaster)
  case load =>
    intro s n p d hpost hlen hlic hslot hz href hfits hmaster hreason hnamed hreset hroom
    exact posted_endsFull hpost (length_within hlen) rfl rfl (by decide) (verdict_full _ _ _ _) (fun v hv => by
      rw [hv]
      exact chorusObjectCmd_load_of_admitted ⟨hz, href, hfits, hmaster⟩ hlic hslot hreason hnamed hreset hroom)
  case check =>
    intro s n p d hpost hlen hz href hfits hmaster
    exact posted_endsFull hpost (length_within hlen) rfl rfl (by decide) (verdict_full _ _ _ _) (fun v hv => by
      rw [hv]
      exact chorusObjectCmd_check ⟨zeroAt_within hz (by decide) (by decide), href, hfits, hmaster⟩ (byteAt_of_zeroAt hz (by decide) (by decide)))

end Sys2Proof.Machine
end

section
/-! Commands of the callboard (16_commands.md): charts and routes, pool carves, partitions and keys, power and peepholes. -/

namespace Sys2Proof.Machine

open Sys2Proof

section
variable {s : State} {n : Fin 8} {p : Bytes}

/-! ## seating-load (R567) -/

theorem noDrain_fst {s : State} (h : s.itv.routing.drains = []) : anyDrain s.itv = false := by
  unfold anyDrain
  rw [h]
  rfl

theorem seatingLoadCmd_of_met {d : Bytes} (href : hostRefCheck p 0 0 = none) (hz : zeroAt p 20 4)
    (hmaster : s.itv.cb.busMaster = true) (hgood : chartRefused (natAt p 16 4) (pad (hostRef p 0).len d) = none)
    (hserial : (parseChart (pad (hostRef p 0).len d)).serial = s.itv.fuse.serial)
    (hnew : (match s.itv.routing.chart with
      | some c => decide (natAt p 16 4 ≤ c.version)
      | none => false) = false)
    (hdrains : s.itv.routing.drains = []) :
    seatingLoadCmd s (slotCall n p (.ok d)) = (
      let c := parseChart (pad (hostRef p 0).len d)
      let x := rejudgeAll (modStore (applyChart s c) (fun x => { x with chart := some c }))
      (noteState s (rootOnChart x.1), some (seatingReply x.2.1 x.2.2))) := by
  have hstale : (match s.itv.routing.chart.map (·.version) with
      | some v => decide (natAt p 16 4 ≤ v)
      | none => false) = false := by
    cases hc : s.itv.routing.chart with
    | none => rfl
    | some c =>
      rw [hc] at hnew
      exact hnew
  refine Eq.trans (checked_pass _ _ _ ?_) (Eq.trans (withHost_ok rfl (by exact hmaster)) ?_)
  · exact pass_cons (refCheck_fst href) <| pass_cons (mbz_fst hz) pass_nil
  · dsimp only
    rw [show bufLen (slotCall n p (.ok d)) 0 = (hostRef p 0).len from rfl, hgood]
    exact checked_pass _ _ _ <| pass_cons (bne_eq_false_iff_eq.mpr hserial) <| pass_cons hstale <|
      pass_cons (noDrain_fst hdrains) pass_nil

theorem seatingReply_bulk (good bad : Nat) : (seatingReply good bad).bulk = none := rfl

/-! ## route-stage, route-commit and the end of a drain (R171 to R173, R568) -/

theorem routeStageCmd_of_met {d : Bytes} (href : hostRefCheck p 0 0 = none) (hsize : (hostRef p 0).len = 10752)
    (hmaster : s.itv.cb.busMaster = true) (hgood : tablesRefused s.itv.routing.portClass (pad 10752 d) = none)
    (hdrains : s.itv.routing.drains = []) :
    routeStageCmd s (slotCall n p (.ok d)) =
      ({ s with itv.routing.staged := parseTables (pad 10752 d), itv.routing.stagedNew := true, itv.routing.drained := false },
        some { status := St.ok }) := by
  have hlen : bufLen (slotCall n p (.ok d)) 0 = 10752 := hsize
  refine Eq.trans (checked_pass _ _ _ ?_) (Eq.trans (withHost_ok rfl (by exact hmaster)) ?_)
  · exact pass_cons (refCheck_fst href) <| pass_cons (bne_eq_false_iff_eq.mpr hlen) pass_nil
  · dsimp only
    rw [hlen, hgood]
    exact checked_pass _ _ _ <| pass_cons (noDrain_fst hdrains) pass_nil

section
variable {c : Call} (hnew : s.itv.routing.stagedNew = true) (hdrains : s.itv.routing.drains = [])
include hnew hdrains

theorem routeCommitCmd_of_undrained (hdrained : s.itv.routing.drained = false) :
    routeCommitCmd s c =
      ({ s with itv.routing.drains := [{ why := .commit, ports := allLeaving s.itv.routing, start := s.now, lastSent := s.now }] },
        some { status := St.draining }) := by
  unfold routeCommitCmd
  dsimp only
  rw [noDrain_fst hdrains, hnew, hdrained, hdrains]
  rfl

theorem routeCommitCmd_of_drained (hdrained : s.itv.routing.drained = true) :
    routeCommitCmd s c =
      ({ s with itv.routing.active := s.itv.routing.staged, itv.routing.stagedNew := false, itv.routing.drained := false,
                itv.routing.everActive := true }, some { status := St.ok }) := by
  unfold routeCommitCmd
  dsimp only
  rw [noDrain_fst hdrains, hnew, hdrained]
  rfl

end

theorem drainEnds_of_commit {d : Drain} (hwhy : d.why = .commit) (hquiet : passed s d.lastSent s.itv.routing.maxFlight = true)
    (hgone : leavingRemain s = false) : drainEnds s d = true := by
  unfold drainEnds
  rw [hwhy, hquiet, hgone]
  rfl

theorem routeDrainEndOp_of_commit {d : Drain} (hdrains : s.itv.routing.drains = [d]) (hwhy : d.why = .commit)
    (hquiet : passed s d.lastSent s.itv.routing.maxFlight = true) (hgone : leavingRemain s = false) :
    routeDrainEndOp s = { s with itv.routing.drains := [], itv.routing.drained := true } := by
  have hends := drainEnds_of_commit hwhy hquiet hgone
  unfold routeDrainEndOp
  rw [hdrains, List.filter_cons_of_pos hends, List.filter_cons_of_neg (by simp [hends])]
  unfold endDrain
  simp only [List.filter_nil, List.foldl_cons, List.foldl_nil, hwhy]

end

/-! ## The statements -/

/-- Settles O2: each command passes its checks and writes the routing state it names; the drain's end by the guard of a commit. -/
theorem routeCommandsStageCommitDrain : Obligations.RouteCommandsStageCommitDrain := by
  refine ⟨?seating, ?stage, ?undrained, ?drained, ?ended⟩
  case seating =>
    intro s n p d hpost hlen href hz hmaster hgood hserial hnew hdrains
    exact posted_ends hpost (length_within hlen) rfl rfl (by decide) (by decide) (seatingReply_bulk _ _) (fun v hv => by
      rw [hv]
      exact seatingLoadCmd_of_met href hz hmaster hgood hserial hnew hdrains)
  case stage =>
    intro s n p d hpost hlen href hsize hmaster hgood hdrains
    exact posted_ends hpost (length_within hlen) rfl rfl (by decide) (by decide) rfl (fun v hv => by
      rw [hv]
      exact routeStageCmd_of_met href hsize hmaster hgood hdrains)
  case undrained =>
    intro s n hpost hnew hdrains hdrained
    exact posted_ends hpost (length_within rfl) rfl rfl (by decide) (by decide) rfl (fun v hv => by
      rw [hv]
      exact routeCommitCmd_of_undrained hnew hdrains hdrained)
  case drained =>
    intro s n hpost hnew hdrains hdrained
    exact posted_ends hpost (length_within rfl) rfl rfl (by decide) (by decide) rfl (fun v hv => by
      rw [hv]
      exact routeCommitCmd_of_drained hnew hdrains hdrained)
  case ended => exact fun _ _ hdrains hwhy hquiet hgone => next_congr (routeDrainEndOp_of_commit hdrains hwhy hquiet hgone)

end Sys2Proof.Machine
end

section
/-! Commands of the callboard (16_commands.md): pool carves, partitions and their keys. -/

namespace Sys2Proof.Machine

open Sys2Proof

section
variable {s : State} {n : Fin 8} {p : Bytes}

/-! ## pool-carve (R490, R491, R497, R576) -/

/-- What pool-carve's create asks of the fields of its payload (R576). -/
structure CarveFields (s : State) (p : Bytes) : Prop where
  action : byteAt p 1 = 0
  unused : kget s.itv.pool.carves (byteAt p 0) = none
  part : partExists s.itv (byteAt p 2) = true
  zero3 : zeroAt p 3 1
  single : s.itv.sec.parts = 0 → natAt p 4 2 = 0 ∧ natAt p 6 2 = 0
  rights : byteAt p 8 ≤ 7
  cls : byteAt p 9 ≤ 2
  zero10 : zeroAt p 10 6
  baseAligned : natAt p 16 8 % 65536 = 0
  lenAligned : natAt p 24 8 % 65536 = 0
  lenPos : 1 ≤ natAt p 24 8
  inPool : natAt p 16 8 + natAt p 24 8 ≤ poolSize s.itv
  apart : s.itv.pool.carves.any (fun x => overlaps (natAt p 16 8) (natAt p 24 8) x.2.base x.2.len) = false

/-- The carve that a create lists. -/
def carveAsked (p : Bytes) : Carve :=
  { base := natAt p 16 8, len := natAt p 24 8, part := byteAt p 2, ctxValue := BitVec.ofNat 16 (natAt p 4 2),
    ctxMask := BitVec.ofNat 16 (natAt p 6 2), rights := BitVec.ofNat 3 (byteAt p 8), cls := classOf (byteAt p 9) }

theorem carveRange_fst (h : CarveFields s p) :
    (natAt p 16 8 % 65536 != 0 || decide (natAt p 16 8 + natAt p 24 8 > poolSize s.itv) ||
      s.itv.pool.carves.any (fun x => overlaps (natAt p 16 8) (natAt p 24 8) x.2.base x.2.len)) = false := by
  rw [h.apart, h.baseAligned, decide_eq_false (Nat.not_lt.mpr h.inPool)]
  rfl

/-- In a single-tenant house a field of a context is zero (R576). -/
theorem singleField_fst {x : Nat} (h : s.itv.sec.parts = 0 → x = 0) : (s.itv.sec.parts == 0 && x != 0) = false := by
  simpa using h

theorem poolCarveCreateCmd_of_met (hlic : holdsPool s.itv = true) (h : CarveFields s p)
    (hstruck : s.itv.sec.struck.getLsbD (byteAt p 2) = false) (hdown : s.itv.dir.down.getLsbD (byteAt p 2) = false)
    (hscrubbed : scrubBusy s.itv (byteAt p 9) = false) (hclean : scrubbing s.itv (natAt p 16 8) (natAt p 24 8) = false)
    (hroom : byteAt p 9 = 1 → pinnedStalls s.itv + natAt p 24 8 / 65536 ≤ stallsFrames) :
    poolCarveCreateCmd s (slotCall n p) =
      ({ s with itv := placePages { s.itv with pool.carves := kset s.itv.pool.carves (byteAt p 0) (carveAsked p) } (byteAt p 0)
                         (natAt p 16 8) (natAt p 24 8) (classOf (byteAt p 9)) }, some { status := St.ok }) := by
  have hunused : (kget s.itv.pool.carves (byteAt p 0)).isSome = false := by rw [h.unused]; rfl
  have haction : ¬ byteAt p 1 > 3 := by rw [h.action]; decide
  have hlen : (natAt p 24 8 % 65536 != 0 || natAt p 24 8 == 0) = false := by
    rw [h.lenAligned]
    exact beq_eq_false_iff_ne.mpr (Nat.one_le_iff_ne_zero.mp h.lenPos)
  have hfull : (byteAt p 9 == 1 && decide (pinnedStalls s.itv + natAt p 24 8 / 65536 > stallsFrames)) = false := by
    simpa using hroom
  refine checked_pass _ _ _ (pass_append (pass_append ?fields (partState_pass hstruck hdown)) ?busy)
  case fields =>
    exact pass_cons (unlicensed_fst hlic) <| pass_cons hunused <| pass_cons (decide_eq_false haction) <|
      pass_cons (congrArg (!·) h.part) <| pass_cons (mbz_fst h.zero3) <| pass_cons (singleField_fst (fun hs => (h.single hs).1)) <|
      pass_cons (singleField_fst (fun hs => (h.single hs).2)) <| pass_cons (decide_eq_false (Nat.not_lt.mpr h.rights)) <|
      pass_cons (decide_eq_false (Nat.not_lt.mpr h.cls)) <| pass_cons (mbz_fst h.zero10) <| pass_cons (carveRange_fst h) <|
      pass_cons hlen pass_nil
  case busy => exact pass_cons (Bool.or_eq_false_iff.mpr ⟨hscrubbed, hclean⟩) <| pass_cons hfull pass_nil

section
variable {k : Carve} (hlic : holdsPool s.itv = true) (hcarve : kget s.itv.pool.carves (byteAt p 0) = some k)
include hlic hcarve

theorem poolCarveReleaseCmd_of_met (hward : k.ward = false) (hz3 : zeroAt p 3 1) (hz10 : zeroAt p 10 6)
    (hstruck : s.itv.sec.struck.getLsbD k.part = false) (hdown : s.itv.dir.down.getLsbD k.part = false) :
    poolCarveReleaseCmd s (slotCall n p) = ({ s with itv := releaseCarve s.itv (byteAt p 0) }, some { status := St.ok }) := by
  unfold poolCarveReleaseCmd
  dsimp only
  rw [hcarve]
  exact checked_pass _ _ _ <| pass_append
    (pass_cons (unlicensed_fst hlic) <| pass_cons hward <| pass_cons (mbz_fst hz3) <| pass_cons (mbz_fst hz10) pass_nil)
    (partState_pass hstruck hdown)

theorem poolCarveWindowCmd_of_met (hfits : k.len ≤ windowBytes) (hz : zeroAt p 2 30) :
    poolCarveWindowCmd s (slotCall n p) = ({ s with itv.pool.window := some (byteAt p 0) }, some { status := St.ok }) := by
  unfold poolCarveWindowCmd
  dsimp only
  rw [hcarve]
  exact checked_pass _ _ _ <| pass_cons (unlicensed_fst hlic) <| pass_cons (decide_eq_false (Nat.not_lt.mpr hfits)) <|
    pass_cons (carveRest_fst hz) pass_nil

end

theorem poolCarveClearWindowCmd_of_met (hlic : holdsPool s.itv = true) (hz : zeroAt p 2 30) :
    poolCarveClearWindowCmd s (slotCall n p) = ({ s with itv.pool.window := none }, some { status := St.ok }) :=
  checked_pass _ _ _ <| pass_cons (unlicensed_fst hlic) <| pass_cons (carveRest_fst hz) pass_nil

/-! ## partition-set (R579) -/

/-- The seats' partitions that a partition-set gives. -/
def layoutAsked (p : Bytes) : List Nat := (List.range 72).map (fun i => byteAt p (8 + i))

theorem layoutAsked_getD {i : Nat} (hi : i < 72) : (layoutAsked p).getD i 0 = byteAt p (8 + i) := by
  simp [layoutAsked, hi]

/-- A layout that gives each seat a partition that exists, or none, has no refused byte. -/
theorem layoutRefused_eq_none (h : ∀ i < 72, byteAt p (8 + i) = 0xFF ∨ byteAt p (8 + i) < byteAt p 0) :
    (List.range 72).find? (fun i => (layoutAsked p).getD i 0 != 0xFF && decide (byteAt p 0 ≤ (layoutAsked p).getD i 0)) = none := by
  rw [List.find?_eq_none]
  intro i hi
  rw [layoutAsked_getD (List.mem_range.mp hi)]
  rcases h i (List.mem_range.mp hi) with hnone | hlt
  · simp [hnone]
  · simp [hlt]

theorem partitionSetCmd_of_met (hparts : byteAt p 0 ≤ 16) (hz : zeroAt p 1 7)
    (hseats : ∀ i < 72, byteAt p (8 + i) = 0xFF ∨ byteAt p (8 + i) < byteAt p 0) (hstrikes : s.itv.sec.strikes = [])
    (hloses : ∀ q < 16, partLoses s.itv.sec.parts (byteAt p 0) s.itv.sec.seatPart (layoutAsked p) q = true →
      partHolds s.itv q = false) :
    partitionSetCmd s (slotCall n p) =
      ({ s with itv.sec.parts := byteAt p 0, itv.sec.seatPart := layoutAsked p,
                itv.sec.layoutDigest := pad 48 (Config.sha384 (pad 80 p)) },
        some { status := St.ok, result := pad 48 (Config.sha384 (pad 80 p)) }) := by
  have hbad := congrArg Option.isSome (layoutRefused_eq_none hseats)
  have hnone : (List.range 16).any (fun q =>
      partLoses s.itv.sec.parts (byteAt p 0) s.itv.sec.seatPart (layoutAsked p) q && partHolds s.itv q) = false := by
    rw [List.any_eq_false]
    exact fun q hq => by simpa using hloses q (List.mem_range.mp hq)
  have hbusy : (!s.itv.sec.strikes.isEmpty || (List.range 16).any (fun q =>
      partLoses s.itv.sec.parts (byteAt p 0) s.itv.sec.seatPart (layoutAsked p) q && partHolds s.itv q)) = false := by
    rw [hstrikes, hnone]
    rfl
  exact checked_pass _ _ _ <| pass_cons (decide_eq_false (Nat.not_lt.mpr hparts)) <| pass_cons (mbz_fst hz) <| pass_cons hbad <|
    pass_cons hbusy pass_nil

/-! ## key-install and key-rotate (R486, R487, R580, R601, R603) -/

/-- What key-install and key-rotate ask: a blob that R600's checks pass, for a partition neither struck nor down. -/
structure BlobOpen (s : State) (n : Fin 8) (p : Bytes) (kind : Nat) : Prop where
  checks : ∀ x ∈ blobChecks s (slotCall n p) kind, x.1 = false
  notStruck : s.itv.sec.struck.getLsbD (byteAt p 0) = false
  notDown : s.itv.dir.down.getLsbD (byteAt p 0) = false

/-- No check of a blob reads the callboard's slots. -/
theorem BlobOpen.of_slots {kind : Nat} (h : BlobOpen s n p kind) (v : Vector Slot 8) :
    BlobOpen { s with itv.cb.slots := v } n p kind := ⟨h.checks, h.notStruck, h.notDown⟩

theorem BlobOpen.pass {kind : Nat} {held : Bool} (h : BlobOpen s n p kind) (hlic : held = true) :
    ∀ x ∈ [unlicensed held] ++ blobChecks s (slotCall n p) kind ++ partState s.itv (byteAt p 0), x.1 = false :=
  pass_append (pass_append (pass_cons (unlicensed_fst hlic) pass_nil) h.checks) (partState_pass h.notStruck h.notDown)

section
variable {f : Flit} {fs : List Flit} (hkind : byteAt p 1 = 0) (hlic : holdsChorus s.itv = true) (h : BlobOpen s n p 0)
  (hroom : s.itv.sec.jobKeys.length < 256)
include hkind hlic h hroom

theorem keyInstallJobCmd_of_met :
    keyInstallJobCmd s (slotCall n p) = (
      let b := slice p 16 (natAt p 8 2)
      let t := jobPushed (jobAccepted s (byteAt p 0) b) (byteAt p 0) b
      match jobFirst (jobAccepted s (byteAt p 0) b) (byteAt p 0) b with
      | [] => (t, some { status := St.ok })
      | f :: fs => ({ t with itv.sec.installing := t.itv.sec.installing ++ [(n.val, f :: fs)] }, none)) := by
  have hknown : decide (byteAt p 1 > 1) = false := by rw [hkind]; rfl
  have hfull : ∀ a : Bool, (a && decide (256 ≤ s.itv.sec.jobKeys.length)) = false := fun a => by
    rw [decide_eq_false (Nat.not_le.mpr hroom), Bool.and_false]
  refine Eq.trans (checked_pass _ _ _ ?_) ?_
  · exact pass_append (pass_append (pass_append (pass_cons hknown <| pass_cons (unlicensed_fst hlic) pass_nil) h.checks)
      (partState_pass h.notStruck h.notDown)) (pass_cons (hfull _) pass_nil)
  · dsimp only
    cases jobFirst (jobAccepted s (byteAt p 0) (slice p 16 (natAt p 8 2))) (byteAt p 0) (slice p 16 (natAt p 8 2)) with
    | nil => rfl
    | cons f fs => rfl

theorem keyInstallJobCmd_of_noPush
    (hfirst : jobFirst (jobAccepted s (byteAt p 0) (slice p 16 (natAt p 8 2))) (byteAt p 0) (slice p 16 (natAt p 8 2)) = []) :
    keyInstallJobCmd s (slotCall n p) =
      (jobPushed (jobAccepted s (byteAt p 0) (slice p 16 (natAt p 8 2))) (byteAt p 0) (slice p 16 (natAt p 8 2)),
        some { status := St.ok }) := by
  rw [keyInstallJobCmd_of_met hkind hlic h hroom]
  dsimp only
  rw [hfirst]

theorem keyInstallJobCmd_of_pushes
    (hfirst : jobFirst (jobAccepted s (byteAt p 0) (slice p 16 (natAt p 8 2))) (byteAt p 0) (slice p 16 (natAt p 8 2)) = f :: fs) :
    keyInstallJobCmd s (slotCall n p) = (
      let t := jobPushed (jobAccepted s (byteAt p 0) (slice p 16 (natAt p 8 2))) (byteAt p 0) (slice p 16 (natAt p 8 2))
      ({ t with itv.sec.installing := t.itv.sec.installing ++ [(n.val, f :: fs)] }, none)) := by
  rw [keyInstallJobCmd_of_met hkind hlic h hroom]
  dsimp only
  rw [hfirst]

end

theorem keyInstallPoolCmd_of_met (hlic : holdsPool s.itv = true) (h : BlobOpen s n p 1) (hnone : hasPoolKey s.itv (byteAt p 0) = false) :
    keyInstallPoolCmd s (slotCall n p) = (
      let b := slice p 16 (natAt p 8 2)
      let t := acceptBlob s b 1
      ({ t with itv.sec.poolKeys := kset t.itv.sec.poolKeys (byteAt p 0)
                  { key0 := ownKeyIn t b, cur := false, window := bitOf (byteAt b 7) 0 } }, some { status := St.ok })) :=
  checked_pass _ _ _ (pass_append (h.pass hlic) (pass_cons hnone pass_nil))

theorem keyRotateCmd_of_met (hlic : holdsPool s.itv = true) (h : BlobOpen s n p 1)
    (hsweeps : s.itv.pool.sweeps.any (fun x => x.part == byteAt p 0) = false) (hsome : hasPoolKey s.itv (byteAt p 0) = true) :
    keyRotateCmd s (slotCall n p) = (
      let b := slice p 16 (natAt p 8 2)
      let t := acceptBlob s b 1
      (rotateKey t (byteAt p 0) (ownKeyIn t b) (bitOf (byteAt b 7) 0), some { status := St.ok })) :=
  checked_pass _ _ _ (pass_append (h.pass hlic) (pass_cons hsweeps <| pass_cons (congrArg (!·) hsome) pass_nil))

/-! ## strike (R581, R611) -/

section
variable (hpart : partExists s.itv (byteAt p 0) = true) (hz : zeroAt p 1 7)
include hpart hz

theorem strikeCmd_of_new (hnew : s.itv.sec.struck.getLsbD (byteAt p 0) = false) :
    strikeCmd s (slotCall n p) = (strikePart s (byteAt p 0) (some n.val) none, none) :=
  Eq.trans (checked_pass _ _ _ (pass_cons (congrArg (!·) hpart) <| pass_cons (mbz_fst hz) pass_nil)) (if_neg (Bool.eq_false_iff.mp hnew))

theorem strikeCmd_of_struck (hstruck : s.itv.sec.struck.getLsbD (byteAt p 0) = true) :
    strikeCmd s (slotCall n p) = (s, some { status := St.ok }) :=
  Eq.trans (checked_pass _ _ _ (pass_cons (congrArg (!·) hpart) <| pass_cons (mbz_fst hz) pass_nil)) (if_pos hstruck)

end

end

/-! ## The statements -/

/-- Settles O5: each action passes its checks and writes the pool, whatever the callboard's slots hold. Where the pages of a new carve
are placed (log 47) and that the release of the window's carve clears the window (log 36) are the model's choices. -/
theorem poolCarveCommandsWriteOneCarve : Obligations.PoolCarveCommandsWriteOneCarve := by
  refine ⟨?create, ?release, ?window, ?clear⟩
  case create =>
    intro s n p hpost hlen haction hlic hunused hpart hz3 hsingle hrights hcls hz10 hbase hlen24 hpos hin hapart hstruck hdown
      hscrubbed hclean hroom
    exact posted_ends hpost (length_within hlen) (byteIsOr_of_eq haction) rfl (by decide) (by decide) rfl (fun v hv => by
      rw [hv]
      exact poolCarveCreateCmd_of_met hlic
        ⟨haction, hunused, hpart, hz3, hsingle, hrights, hcls, hz10, hbase, hlen24, hpos, hin, hapart⟩ hstruck hdown hscrubbed hclean
        hroom)
  case release =>
    intro s n p k hpost hlen haction hlic hcarve hward hz3 hz10 hstruck hdown
    exact posted_ends hpost (length_within hlen) (byteIs_of_eq haction) rfl (by decide) (by decide) rfl (fun v hv => by
      rw [hv]
      exact poolCarveReleaseCmd_of_met hlic hcarve hward hz3 hz10 hstruck hdown)
  case window =>
    intro s n p k hpost hlen haction hlic hcarve hfits hz
    exact posted_ends hpost (length_within hlen) (byteIs_of_eq haction) rfl (by decide) (by decide) rfl (fun v hv => by
      rw [hv]
      exact poolCarveWindowCmd_of_met hlic hcarve hfits hz)
  case clear =>
    intro s n p hpost hlen haction hlic hz
    exact posted_ends hpost (length_within hlen) (byteIs_of_eq haction) rfl (by decide) (by decide) rfl (fun v hv => by
      rw [hv]
      exact poolCarveClearWindowCmd_of_met hlic hz)

/-- Settles O7: the checks that each command shares, then what it leaves; a job blob's install ends at once or runs on by whether a
first push leaves. -/
theorem partitionAndKeyCommandsTakeTheirBlobs : Obligations.PartitionAndKeyCommandsTakeTheirBlobs := by
  refine ⟨?layout, ?job, ?jobPushes, ?pool, ?rotate, ?strike, ?again⟩
  case layout =>
    intro s n p hpost hlen hparts hz hseats hstrikes hloses
    exact posted_ends hpost (length_within hlen) rfl rfl (by decide) (by decide) rfl (fun v hv => by
      rw [hv]
      exact partitionSetCmd_of_met hparts hz hseats hstrikes hloses)
  case job =>
    intro s n p hpost hleast hmost hkind hlic hchecks hstruck hdown hroom hfirst
    exact posted_ends hpost ⟨hleast, hmost⟩ (byteIsOr_of_eq hkind) rfl (by decide) (by decide) rfl (fun v hv => by
      rw [hv] at hfirst ⊢
      exact keyInstallJobCmd_of_noPush hkind hlic ⟨hchecks, hstruck, hdown⟩ hroom hfirst)
  case jobPushes =>
    intro s n p f fs hpost hleast hmost hkind hlic hchecks hstruck hdown hroom hfirst
    exact posted_runsOn hpost ⟨hleast, hmost⟩ (byteIsOr_of_eq hkind) rfl (by decide) (fun v hv => by
      rw [hv] at hfirst ⊢
      exact keyInstallJobCmd_of_pushes hkind hlic ⟨hchecks, hstruck, hdown⟩ hroom hfirst)
  case pool =>
    intro s n p hpost hleast hmost hkind hlic hchecks hstruck hdown hnone
    exact posted_ends hpost ⟨hleast, hmost⟩ (byteIs_of_eq hkind) rfl (by decide) (by decide) rfl (fun v hv => by
      rw [hv]
      exact keyInstallPoolCmd_of_met hlic ⟨hchecks, hstruck, hdown⟩ hnone)
  case rotate =>
    intro s n p hpost hleast hmost hlic hchecks hstruck hdown hsweeps hsome
    exact posted_ends hpost ⟨hleast, hmost⟩ rfl rfl (by decide) (by decide) rfl (fun v hv => by
      rw [hv]
      exact keyRotateCmd_of_met hlic ⟨hchecks, hstruck, hdown⟩ hsweeps hsome)
  case strike =>
    intro s n p hpost hlen hpart hz hstruck
    exact posted_runsOn hpost (length_within hlen) rfl rfl (by decide) (fun v hv => by
      rw [hv]
      exact strikeCmd_of_new hpart hz hstruck)
  case again =>
    intro s n p hpost hlen hpart hz hstruck
    exact posted_ends hpost (length_within hlen) rfl rfl (by decide) (by decide) rfl (fun v hv => by
      rw [hv]
      exact strikeCmd_of_struck hpart hz hstruck)

end Sys2Proof.Machine
end

section
/-! Commands of the callboard (16_commands.md): power-cap, ghost-set and peephole-set. -/

namespace Sys2Proof.Machine

open Sys2Proof

section
variable {s : State} {n : Fin 8} {p : Bytes}

/-! ## power-cap and ghost-set (R582, R670, R671) -/

theorem powerCapCmd_of_met (hcap : 350 ≤ natAt p 0 2 ∧ natAt p 0 2 ≤ 1200) (hz : zeroAt p 2 6) :
    powerCapCmd s (slotCall n p) =
      (setCap s (natAt p 0 2), some { status := St.ok, result := newestRecord (setCap s (natAt p 0 2)) }) :=
  checked_pass _ _ _ <| pass_cons (outOfRange_eq_false hcap) <| pass_cons (mbz_fst hz) pass_nil

section
variable (hfloor : natAt p 0 2 ≤ 700) (hup : 1 ≤ natAt p 2 2 ∧ natAt p 2 2 ≤ 500) (hdown : 1 ≤ natAt p 4 2 ∧ natAt p 4 2 ≤ 500)
  (hz : zeroAt p 6 2)
include hfloor hup hdown hz

/-- The status says whether FLOOR is above the cap in force. -/
theorem ghostSetCmd_of_met :
    ghostSetCmd s (slotCall n p) = (
      let t := setGhost s (natAt p 0 2) (natAt p 2 2) (natAt p 4 2)
      let above := decide (natAt p 0 2 > t.itv.pwr.cap)
      (t, some { status := if above then St.degraded else St.ok, detail := b2n above, result := newestRecord t })) :=
  checked_pass _ _ _ <| pass_cons (decide_eq_false (Nat.not_lt.mpr hfloor)) <| pass_cons (outOfRangeOne_eq_false hup) <|
    pass_cons (outOfRangeOne_eq_false hdown) <| pass_cons (mbz_fst hz) pass_nil

theorem ghostSetCmd_of_within (hin : natAt p 0 2 ≤ (setGhost s (natAt p 0 2) (natAt p 2 2) (natAt p 4 2)).itv.pwr.cap) :
    ghostSetCmd s (slotCall n p) = (
      let t := setGhost s (natAt p 0 2) (natAt p 2 2) (natAt p 4 2)
      (t, some { status := St.ok, result := newestRecord t })) := by
  rw [ghostSetCmd_of_met hfloor hup hdown hz]
  dsimp only
  rw [decide_eq_false (Nat.not_lt.mpr hin)]
  rfl

theorem ghostSetCmd_of_above (habove : (setGhost s (natAt p 0 2) (natAt p 2 2) (natAt p 4 2)).itv.pwr.cap < natAt p 0 2) :
    ghostSetCmd s (slotCall n p) = (
      let t := setGhost s (natAt p 0 2) (natAt p 2 2) (natAt p 4 2)
      (t, some { status := St.degraded, detail := 1, result := newestRecord t })) := by
  rw [ghostSetCmd_of_met hfloor hup hdown hz]
  dsimp only
  rw [decide_eq_true habove]
  rfl

end

/-! ## peephole-set (R142, R151, R585) -/

/-- The ranges of a peephole's settings. -/
structure PeepSettings (p : Bytes) : Prop where
  dirs : byteAt p 1 ≤ 3
  count : byteAt p 3 = 0 ∨ 4 ≤ byteAt p 3 ∧ byteAt p 3 ≤ 24
  mode : byteAt p 4 ≤ 1
  zeros : zeroAt p 5 3

/-- The port a peephole-set names: one of 72, or all of them. -/
theorem peepholeSetCmd_of_met (hport : byteAt p 0 ≤ 71 ∨ byteAt p 0 = 255) (h : PeepSettings p) :
    peepholeSetCmd s (slotCall n p) =
      ((if byteAt p 0 = 255 then List.range 72 else [byteAt p 0]).foldl (fun t k =>
          modItvPort t k (fun q => { q with peep := peepOf k (byteAt p 1) (byteAt p 2) (byteAt p 3) (byteAt p 4) })) s,
        some { status := St.ok }) := by
  have hnamed : (decide (byteAt p 0 > 71) && byteAt p 0 != 255) = false := by
    rcases hport with hone | hall
    · rw [decide_eq_false (Nat.not_lt.mpr hone), Bool.false_and]
    · rw [hall]
      rfl
  have hcount : ((byteAt p 3 != 0 && decide (byteAt p 3 < 4)) || decide (byteAt p 3 > 24)) = false := by
    rcases h.count with hnone | ⟨hleast, hmost⟩
    · rw [hnone]
      rfl
    · rw [decide_eq_false (Nat.not_lt.mpr hleast), decide_eq_false (Nat.not_lt.mpr hmost), Bool.and_false, Bool.or_false]
  exact checked_pass _ _ _ <| pass_cons hnamed <| pass_cons (decide_eq_false (Nat.not_lt.mpr h.dirs)) <| pass_cons hcount <|
    pass_cons (decide_eq_false (Nat.not_lt.mpr h.mode)) <| pass_cons (mbz_fst h.zeros) pass_nil

theorem peepholeSetCmd_of_port (hport : byteAt p 0 ≤ 71) (h : PeepSettings p) :
    peepholeSetCmd s (slotCall n p) =
      (modItvPort s (byteAt p 0) (fun q =>
        { q with peep := peepOf (byteAt p 0) (byteAt p 1) (byteAt p 2) (byteAt p 3) (byteAt p 4) }), some { status := St.ok }) := by
  have hone : byteAt p 0 ≠ 255 := by omega
  rw [peepholeSetCmd_of_met (.inl hport) h, if_neg hone]
  rfl

theorem peepholeSetCmd_of_all (hall : byteAt p 0 = 255) (h : PeepSettings p) :
    peepholeSetCmd s (slotCall n p) =
      ((List.range 72).foldl (fun t k =>
          modItvPort t k (fun q => { q with peep := peepOf k (byteAt p 1) (byteAt p 2) (byteAt p 3) (byteAt p 4) })) s,
        some { status := St.ok }) := by
  rw [peepholeSetCmd_of_met (.inr hall) h, if_pos hall]

end

/-! ## The statements -/

/-- Settles O8: each command passes its checks; ghost-set's status by FLOOR against the cap in force, peephole-set's ports by the one
named or all. -/
theorem powerAndPeepholeCommandsTakeEffect : Obligations.PowerAndPeepholeCommandsTakeEffect := by
  refine ⟨?cap, ?ghost, ?ghostAbove, ?peep, ?peepAll⟩
  case cap =>
    intro s n p hpost hlen hleast hmost hz
    exact posted_ends hpost (length_within hlen) rfl rfl (by decide) (by decide) rfl (fun v hv => by
      rw [hv]
      exact powerCapCmd_of_met ⟨hleast, hmost⟩ hz)
  case ghost =>
    intro s n p hpost hlen hfloor hup hdown hz hin
    exact posted_ends hpost (length_within hlen) rfl rfl (by decide) (by decide) rfl (fun v hv => by
      rw [hv] at hin ⊢
      exact ghostSetCmd_of_within hfloor hup hdown hz hin)
  case ghostAbove =>
    intro s n p hpost hlen hfloor hup hdown hz habove
    exact posted_ends hpost (length_within hlen) rfl rfl (by decide) (by decide) rfl (fun v hv => by
      rw [hv] at habove ⊢
      exact ghostSetCmd_of_above hfloor hup hdown hz habove)
  case peep =>
    intro s n p hpost hlen hport hdirs hcount hmode hz
    exact posted_ends hpost (length_within hlen) rfl rfl (by decide) (by decide) rfl (fun v hv => by
      rw [hv]
      exact peepholeSetCmd_of_port hport ⟨hdirs, hcount, hmode, hz⟩)
  case peepAll =>
    intro s n p hpost hlen hall hdirs hcount hmode hz
    exact posted_ends hpost (length_within hlen) rfl rfl (by decide) (by decide) rfl (fun v hv => by
      rw [hv]
      exact peepholeSetCmd_of_all hall ⟨hdirs, hcount, hmode, hz⟩)

end Sys2Proof.Machine
end

section
/-! reset-partial at each of its levels (16_commands.md R586; R690 to R692, R697). -/

namespace Sys2Proof.Machine

open Sys2Proof

section
variable {s : State} {n : Fin 8} {p : Bytes}

/-! ## The fields of a reset-partial (R586) -/

theorem resetChecks_pass {targets actions : Nat} (hlevel : byteAt p 0 ≤ 5) (htarget : byteAt p 1 < targets)
    (haction : byteAt p 2 ≤ actions) (hz : zeroAt p 3 5) : ∀ x ∈ resetChecks (slotCall n p) targets actions, x.1 = false :=
  pass_cons (decide_eq_false (Nat.not_lt.mpr hlevel)) <| pass_cons (decide_eq_false (Nat.not_le.mpr htarget)) <|
    pass_cons (decide_eq_false (Nat.not_lt.mpr haction)) <| pass_cons (mbz_fst hz) pass_nil

/-! ## Level 0: the prompters (R555, R690) -/

theorem resetPrompterCmd_of_met (hchecks : ∀ x ∈ resetChecks (slotCall n p) 1 0, x.1 = false) :
    resetPrompterCmd s (slotCall n p) = (prompterReset s (some n.val), none) := checked_pass _ _ _ hchecks

/-! ## Level 1: a port (R74, R174) -/

theorem itvRef_val (q : Fin 72) : itvRef q.val = some (.itv q) := dif_pos q.isLt

theorem itvPort_val (s : State) (q : Fin 72) : itvPort s q.val = getPort s (.itv q) := by
  simp [itvPort, getPort, Vector.get_eq_getElem]

/-- The fields of a reset-partial at level 1: the port, and the action on it. -/
structure PortReset (p : Bytes) (q : Fin 72) (action : Nat) : Prop where
  level : byteAt p 0 = 1
  target : byteAt p 1 = q.val
  action : byteAt p 2 = action
  zeros : zeroAt p 3 5

section
variable {q : Fin 72} {why : DrainWhy}

theorem PortReset.checks_pass {action : Nat} (h : PortReset p q action) (hmost : action ≤ 2) :
    ∀ x ∈ resetChecks (slotCall n p) 72 2, x.1 = false := by
  obtain ⟨hlevel, htarget, haction, hz⟩ := h
  have hq := q.isLt
  exact resetChecks_pass (by omega) (by omega) (by omega) hz

theorem closePort_of_ready (hopen : closing s.itv q.val = false) (hst : (itvPort s q.val).st = .ready) :
    closePort s (slotCall n p) q.val why =
      ({ s with itv.routing.drains := s.itv.routing.drains ++
          [{ why := why, ports := setBit 0 q.val true, start := s.now, lastSent := s.now, slot := some n.val }] }, none) := by
  rw [itvPort_val] at hst
  unfold closePort
  rw [itvRef_val]
  dsimp only
  rw [hopen, hst]
  rfl

theorem closePort_of_notReady (hopen : closing s.itv q.val = false) (hst : (itvPort s q.val).st ≠ .ready) :
    closePort s (slotCall n p) q.val why =
      (endDrain s { why := why, ports := setBit 0 q.val true, start := s.now, lastSent := s.now }, some { status := St.ok }) := by
  rw [itvPort_val] at hst
  unfold closePort
  rw [itvRef_val]
  dsimp only
  rw [hopen, if_neg hst]
  rfl

section
variable {x : State × Option Reply}

theorem resetPortRehearseCmd_of_enabled (h : PortReset p q 0) (henabled : (itvPort s q.val).enabled = true)
    (hclose : closePort s (slotCall n p) q.val .rehearse = x) : resetPortRehearseCmd s (slotCall n p) = x := by
  rw [← hclose]
  rw [← h.target] at henabled ⊢
  exact checked_pass _ _ _ (pass_append (h.checks_pass (by decide)) (pass_cons (congrArg (!·) henabled) pass_nil))

theorem resetPortDisableCmd_of_met (h : PortReset p q 1) (hclose : closePort s (slotCall n p) q.val .disable = x) :
    resetPortDisableCmd s (slotCall n p) = x := by
  rw [← hclose, ← h.target]
  exact checked_pass _ _ _ (h.checks_pass (by decide))

end

section
variable (h : PortReset p q 2)
include h

theorem resetPortEnableCmd_of_met :
    resetPortEnableCmd s (slotCall n p) =
      (if (itvPort s q.val).enabled then s
        else modPort s (.itv q) (fun x => { x with enabled := true, reason := .none, waitMs := 0 }), some { status := St.ok }) := by
  unfold resetPortEnableCmd
  dsimp only
  rw [checked_pass _ _ _ (h.checks_pass (by decide)), h.target, itvRef_val, itvPort_val]
  dsimp only
  split <;> rfl

theorem resetPortEnableCmd_of_disabled (hdisabled : (itvPort s q.val).enabled = false) :
    resetPortEnableCmd s (slotCall n p) =
      (modPort s (.itv q) (fun x => { x with enabled := true, reason := .none, waitMs := 0 }), some { status := St.ok }) := by
  rw [resetPortEnableCmd_of_met h, hdisabled]
  rfl

theorem resetPortEnableCmd_of_enabled (henabled : (itvPort s q.val).enabled = true) :
    resetPortEnableCmd s (slotCall n p) = (s, some { status := St.ok }) := by
  rw [resetPortEnableCmd_of_met h, henabled]
  rfl

end

end

/-! ## Levels 2 to 5: a cluster, a core, a partition, the chip (R678, R690 to R692, R697) -/

theorem resetClusterCmd_of_met (hchecks : ∀ x ∈ resetChecks (slotCall n p) 18 0, x.1 = false)
    (hfree : s.itv.coll.resetting.getLsbD (byteAt p 1) = false) :
    resetClusterCmd s (slotCall n p) = (
      let k := byteAt p 1
      let t := { s with itv.coll.resetting := setBit s.itv.coll.resetting k true,
                        itv.coll.resetBy := kset s.itv.coll.resetBy k (some n.val, none) }
      ((servedBy s k).foldl (fun t g => remapOwn t g 0xFFFF) t, none)) :=
  checked_pass _ _ _ (pass_append hchecks (pass_cons hfree pass_nil))

theorem resetCoreCmd_of_met (hchecks : ∀ x ∈ resetChecks (slotCall n p) 2 0, x.1 = false) :
    resetCoreCmd s (slotCall n p) = (coreReset s (byteAt p 1), some { status := St.ok }) := checked_pass _ _ _ hchecks

theorem resetPartitionCmd_of_met (hchecks : ∀ x ∈ resetChecks (slotCall n p) 16 0, x.1 = false)
    (hpart : partExists s.itv (byteAt p 1) = true) (hstrikes : s.itv.sec.strikes.any (fun x => x.part == byteAt p 1) = false) :
    resetPartitionCmd s (slotCall n p) = (partitionReset s (byteAt p 1), some { status := St.ok }) :=
  checked_pass _ _ _ (pass_append hchecks (pass_cons (congrArg (!·) hpart) <| pass_cons hstrikes pass_nil))

theorem resetWholeChipCmd_of_met (hchecks : ∀ x ∈ resetChecks (slotCall n p) 1 0, x.1 = false) :
    resetWholeChipCmd s (slotCall n p) =
      ({ s with itv.boot.level5At := some (s.now + 1000000) }, some { status := St.ok }) := checked_pass _ _ _ hchecks

end

/-! ## The statement -/

/-- Settles O9: at each level the fields pass their checks, and at level 1 a READY port drains where another acts at once. The order
of the port's actions (log 13), and the core's and the partition's reset in one step (logs 14 and 15), are the model's choices. -/
theorem resetPartialActsAtItsLevel : Obligations.ResetPartialActsAtItsLevel := by
  refine ⟨?prompter, ?rehearseReady, ?rehearse, ?disableReady, ?disable, ?enable, ?enabled, ?cluster, ?core, ?partition, ?chip⟩
  case prompter =>
    intro s n p hpost hlen hlevel htarget haction hz
    have hchecks := resetChecks_pass (n := n) (targets := 1) (actions := 0) (by omega) (by omega) (by omega) hz
    exact posted_runsOn hpost (length_within hlen) (byteIsOr_of_eq hlevel) rfl (by decide) (fun v hv => by
      rw [hv]
      exact resetPrompterCmd_of_met hchecks)
  case rehearseReady =>
    intro s n p q hpost hlen hlevel htarget haction hz henabled hst hopen
    have hreset : PortReset p q 0 := ⟨hlevel, htarget, haction, hz⟩
    have hsel := Bool.and_eq_true_iff.mpr ⟨byteIs_of_eq hlevel, byteIsOr_of_eq (vs := [0, 1, 2]) haction⟩
    exact posted_runsOn hpost (length_within hlen) hsel rfl (by decide) (fun v hv => by
      rw [hv]
      exact resetPortRehearseCmd_of_enabled hreset henabled (closePort_of_ready hopen hst))
  case rehearse =>
    intro s n p q hpost hlen hlevel htarget haction hz henabled hst hopen
    have hreset : PortReset p q 0 := ⟨hlevel, htarget, haction, hz⟩
    have hsel := Bool.and_eq_true_iff.mpr ⟨byteIs_of_eq hlevel, byteIsOr_of_eq (vs := [0, 1, 2]) haction⟩
    exact posted_ends hpost (length_within hlen) hsel rfl (by decide) (by decide) rfl (fun v hv => by
      rw [hv]
      exact resetPortRehearseCmd_of_enabled hreset henabled (closePort_of_notReady hopen hst))
  case disableReady =>
    intro s n p q hpost hlen hlevel htarget haction hz hst hopen
    have hreset : PortReset p q 1 := ⟨hlevel, htarget, haction, hz⟩
    have hsel := Bool.and_eq_true_iff.mpr ⟨byteIs_of_eq hlevel, byteIs_of_eq haction⟩
    exact posted_runsOn hpost (length_within hlen) hsel rfl (by decide) (fun v hv => by
      rw [hv]
      exact resetPortDisableCmd_of_met hreset (closePort_of_ready hopen hst))
  case disable =>
    intro s n p q hpost hlen hlevel htarget haction hz hst hopen
    have hreset : PortReset p q 1 := ⟨hlevel, htarget, haction, hz⟩
    have hsel := Bool.and_eq_true_iff.mpr ⟨byteIs_of_eq hlevel, byteIs_of_eq haction⟩
    exact posted_ends hpost (length_within hlen) hsel rfl (by decide) (by decide) rfl (fun v hv => by
      rw [hv]
      exact resetPortDisableCmd_of_met hreset (closePort_of_notReady hopen hst))
  case enable =>
    intro s n p q hpost hlen hlevel htarget haction hz hdisabled
    have hreset : PortReset p q 2 := ⟨hlevel, htarget, haction, hz⟩
    have hsel := Bool.and_eq_true_iff.mpr ⟨byteIs_of_eq hlevel, byteIs_of_eq haction⟩
    exact posted_ends hpost (length_within hlen) hsel rfl (by decide) (by decide) rfl (fun v hv => by
      rw [hv]
      exact resetPortEnableCmd_of_disabled hreset hdisabled)
  case enabled =>
    intro s n p q hpost hlen hlevel htarget haction hz henabled
    have hreset : PortReset p q 2 := ⟨hlevel, htarget, haction, hz⟩
    have hsel := Bool.and_eq_true_iff.mpr ⟨byteIs_of_eq hlevel, byteIs_of_eq haction⟩
    exact posted_ends hpost (length_within hlen) hsel rfl (by decide) (by decide) rfl (fun v hv => by
      rw [hv]
      exact resetPortEnableCmd_of_enabled hreset henabled)
  case cluster =>
    intro s n p hpost hlen hlevel htarget haction hz hfree
    have hchecks := resetChecks_pass (n := n) (targets := 18) (actions := 0) (by omega) htarget (by omega) hz
    exact posted_runsOn hpost (length_within hlen) (byteIs_of_eq hlevel) rfl (by decide) (fun v hv => by
      rw [hv]
      exact resetClusterCmd_of_met hchecks hfree)
  case core =>
    intro s n p hpost hlen hlevel htarget haction hz
    have hchecks := resetChecks_pass (n := n) (targets := 2) (actions := 0) (by omega) htarget (by omega) hz
    exact posted_ends hpost (length_within hlen) (byteIs_of_eq hlevel) rfl (by decide) (by decide) rfl (fun v hv => by
      rw [hv]
      exact resetCoreCmd_of_met hchecks)
  case partition =>
    intro s n p hpost hlen hlevel htarget haction hz hpart hstrikes
    have hchecks := resetChecks_pass (n := n) (targets := 16) (actions := 0) (by omega) htarget (by omega) hz
    exact posted_ends hpost (length_within hlen) (byteIs_of_eq hlevel) rfl (by decide) (by decide) rfl (fun v hv => by
      rw [hv]
      exact resetPartitionCmd_of_met hchecks hpart hstrikes)
  case chip =>
    intro s n p hpost hlen hlevel htarget haction hz
    have hchecks := resetChecks_pass (n := n) (targets := 1) (actions := 0) (by omega) (by omega) (by omega) hz
    exact posted_ends hpost (length_within hlen) (byteIs_of_eq hlevel) rfl (by decide) (by decide) rfl (fun v hv => by
      rw [hv]
      exact resetWholeChipCmd_of_met hchecks)

end Sys2Proof.Machine
end

section
/-! Commands of the callboard (16_commands.md, 17_security.md, 21_firmware_update.md): script-stage, script-switch, script-bow,
licence-apply and attest-fetch. -/

namespace Sys2Proof.Machine

open Sys2Proof

/-! ## Fields of a part of a payload -/

theorem natAt_slice (p : Bytes) {a n b k : Nat} (h : b + k ≤ n) : natAt (slice p a n) b k = natAt p (a + b) k := by
  have htake : min k (n - b) = k := by omega
  unfold natAt slice
  rw [List.drop_take, List.take_take, List.drop_drop, htake]

theorem byteAt_slice (p : Bytes) {a n b : Nat} (h : b < n) : byteAt (slice p a n) b = byteAt p (a + b) := by
  unfold byteAt slice
  simp [List.getD_eq_getElem?_getD, h]

section
variable {s : State} {n : Fin 8} {p : Bytes}

theorem inGreen_of_accepting (h : accepting s = true) : inGreen s = false := by
  unfold inGreen
  cases hmode : s.itv.boot.mode <;> simp_all [accepting]

theorem inGreen_of_posted {code : Nat} (h : posted s n code p) : inGreen s = false := by
  obtain ⟨-, haccept, -⟩ := h
  exact inGreen_of_accepting haccept

/-! ## script-stage (R587, R706, R708) -/

/-- What R587 asks before the image is read, and that no flash write or relay is under way. -/
structure StageOpen (s : State) (p : Bytes) : Prop where
  green : inGreen s = false
  slot : byteAt p 0 ≤ 1
  idle : byteAt p 0 ≠ s.itv.boot.slot
  flags : byteAt p 1 = 0
  zeros : zeroAt p 2 2
  ref : hostRefCheck p 8 0 = none
  master : s.itv.cb.busMaster = true
  noBow : s.itv.boot.bowPending = false
  notSending : s.itv.relay.sending = none
  notReceiving : s.itv.relay.receiving = false
  notStaging : s.itv.relay.staging = none

theorem stageSlot_fst (h : StageOpen s p) : stageSlotBad s (byteAt p 0) = false := by
  have hfree := h.idle
  have hslot := h.slot
  simp [stageSlotBad, h.green, hfree, hslot]

theorem scriptStageCmd_of_met {d : Bytes} (h : StageOpen s p) (hgood : imageRefused s.itv (pad (hostRef p 8).len d) 0 = none) :
    scriptStageCmd s (slotCall n p (.ok d)) =
      (beginStage s (byteAt p 0) (parseImg (pad (hostRef p 8).len d)) false (some (.slot n.val)), none) := by
  have hslot : byteAt p 0 ≠ 255 := by have := h.slot; omega
  have hflags : (decide (byteAt p 1 > 1) || (inGreen s && byteAt p 1 != 0)) = false := by simp [h.flags]
  have hfree : (s.itv.boot.bowPending || s.itv.relay.sending.isSome || s.itv.relay.receiving || s.itv.relay.staging.isSome) =
      false := by simp [h.noBow, h.notSending, h.notReceiving, h.notStaging]
  refine Eq.trans (checked_pass _ _ _ ?_) (Eq.trans (withHost_ok rfl (by exact h.master)) ?_)
  · exact pass_cons (stageSlot_fst h) <| pass_cons hflags <| pass_cons (mbz_fst h.zeros) <| pass_cons (refCheck_fst h.ref) pass_nil
  · dsimp only
    rw [if_neg hslot, if_neg hslot, show bufLen (slotCall n p (.ok d)) 8 = (hostRef p 8).len from rfl, hgood, hfree, h.flags]
    rfl

/-! ## script-switch (R716, R718) -/

section
variable (hgreen : inGreen s = false) (hslot : byteAt p 0 ≤ 1) (hz : zeroAt p 1 7)
include hgreen hslot hz

/-- Out of greenroom the command ends with OK before the prompters restart. -/
theorem scriptSwitchCmd_of_met
    (hslotState : (!onTrial s && ((getImg s.itv.flash (byteAt p 0)).st == .empty || (getImg s.itv.flash (byteAt p 0)).st == .failed ||
      (getImg s.itv.flash (byteAt p 0)).st == .trial)) = false)
    (hformat : (!onTrial s && (getImg s.itv.flash (byteAt p 0)).st == .staged &&
      decide ((getImg s.itv.flash (byteAt p 0)).configOldest > s.itv.flash.store.format)) = false) :
    scriptSwitchCmd s (slotCall n p) =
      (prompterReset (endsOk (if !onTrial s && (getImg s.itv.flash (byteAt p 0)).st == .staged then setTrial s (byteAt p 0) else s) n)
        none, none) := by
  have hstrap : (inGreen s && s.itv.boot.strapLow) = false := by rw [hgreen, Bool.false_and]
  have hstays : inGreen (if !onTrial s && (getImg s.itv.flash (byteAt p 0)).st == .staged then setTrial s (byteAt p 0) else s) =
      false := ite_obs inGreen hgreen hgreen
  refine Eq.trans (checked_pass _ _ _ ?_) (if_neg (Bool.eq_false_iff.mp hstays))
  exact pass_cons (decide_eq_false (Nat.not_lt.mpr hslot)) <| pass_cons (mbz_fst hz) <| pass_cons hstrap <|
    pass_cons hslotState <| pass_cons hformat pass_nil

theorem scriptSwitchCmd_of_staged (htrial : s.itv.flash.trialSlot = none) (hstaged : (getImg s.itv.flash (byteAt p 0)).st = .staged)
    (hformat : (getImg s.itv.flash (byteAt p 0)).configOldest ≤ s.itv.flash.store.format) :
    scriptSwitchCmd s (slotCall n p) = (prompterReset (endsOk (setTrial s (byteAt p 0)) n) none, none) := by
  have honTrial : onTrial s = false := by simp [onTrial, htrial]
  rw [scriptSwitchCmd_of_met hgreen hslot hz (by rw [honTrial, hstaged]; rfl)
    (by rw [honTrial, hstaged, decide_eq_false (Nat.not_lt.mpr hformat)]; rfl), honTrial, hstaged]
  rfl

theorem scriptSwitchCmd_of_active (hactive : (getImg s.itv.flash (byteAt p 0)).st = .active) :
    scriptSwitchCmd s (slotCall n p) = (prompterReset (endsOk s n) none, none) := by
  have hsettled : (!onTrial s && (getImg s.itv.flash (byteAt p 0)).st == .staged) = false := by
    rw [hactive]
    exact Bool.and_false _
  rw [scriptSwitchCmd_of_met hgreen hslot hz (by rw [hactive]; exact Bool.and_false _) (by rw [hsettled, Bool.false_and]), hsettled]
  rfl

end

/-! ## script-bow (R716) -/

theorem scriptBowCmd_of_pending {c : Call} {t : Nat} (htrial : s.itv.flash.trialSlot = some t) (hbow : s.itv.boot.bowPending = true)
    (hdog : s.itv.boot.watchdogStopped = none) : scriptBowCmd s c = (takeBow s t, some { status := St.ok }) := by
  unfold scriptBowCmd
  rw [htrial, hbow, hdog]
  rfl

/-- The bow posted by a slot of the callboard. -/
theorem scriptBow_of_pending {n : Fin 8} {t : Nat} (hpost : posted s n 0x0603 []) (htrial : s.itv.flash.trialSlot = some t)
    (hbow : s.itv.boot.bowPending = true) (hdog : s.itv.boot.watchdogStopped = none) :
    exec (.scriptBow n) s = .next (endsOk (takeBow (taken s n) t) n) :=
  posted_ends hpost (length_within rfl) rfl rfl (by decide) (by decide) rfl (fun v hv => by
    rw [hv]
    exact scriptBowCmd_of_pending htrial hbow hdog)

/-! ## licence-apply (R588, R615, R616) -/

/-- What R588 and R615 ask of a licence in a payload, but for its signature. -/
structure LicenceFields (s : State) (p : Bytes) : Prop where
  length : p.length = 152
  count : natAt p 0 2 = 136
  zero2 : zeroAt p 2 14
  magic : natAt p 16 4 = 0x4E43494C
  format : natAt p 20 2 = 1
  feature : 1 ≤ byteAt p 22 ∧ byteAt p 22 ≤ 3
  zero23 : zeroAt p 23 1
  zero36 : zeroAt p 36 4
  zero48 : zeroAt p 48 8
  serial : natAt (slice p 16 136) 8 8 = s.itv.fuse.serial.toNat
  unheld : kget s.itv.flash.licences (byteAt p 22) = none

theorem licenceApplyCmd_of_met (h : LicenceFields s p)
    (hsigned : Config.ecdsaVerify Config.licenceKey ((slice p 16 136).take 40) (slice (slice p 16 136) 40 96) = true) :
    licenceApplyCmd s (slotCall n p) = (
      let b := slice p 16 136
      let t := { s with itv.flash.licences := kset s.itv.flash.licences (byteAt p 22) (natAt b 16 4, b) }
      let t := { t with itv.boot.licences := featuresOf t.itv }
      (t, some { status := St.ok, result := leBytes 1 (heldLicences t.itv).toNat })) := by
  have hfeature : byteAt (slice p 16 136) 6 = byteAt p 22 := byteAt_slice p (by decide)
  have hmagic : natAt (slice p 16 136) 0 4 = 0x4E43494C := (natAt_slice p (by decide)).trans h.magic
  have hformat : natAt (slice p 16 136) 4 2 = 1 := (natAt_slice p (by decide)).trans h.format
  have hcount : (natAt p 0 2 != 136 || p.length != 16 + natAt p 0 2) = false := by simp [h.count, h.length]
  unfold licenceApplyCmd
  dsimp only
  rw [hfeature, h.unheld]
  exact checked_pass _ _ _ <| pass_cons hcount <| pass_cons (mbz_fst h.zero2) <| pass_cons (bne_eq_false_iff_eq.mpr hmagic) <|
    pass_cons (bne_eq_false_iff_eq.mpr hformat) <| pass_cons (outOfRangeOne_eq_false h.feature) <| pass_cons (mbz_fst h.zero23) <|
    pass_cons (mbz_fst h.zero36) <| pass_cons (mbz_fst h.zero48) <| pass_cons (congrArg (!·) hsigned) <|
    pass_cons (bne_eq_false_iff_eq.mpr h.serial) <| pass_cons rfl pass_nil

/-! ## attest-fetch (R589, R614) -/

theorem attestFetchCmd_of_met (href : hostRefCheck p 32 1 = none)
    (hbuf : (attestReport s.itv (p.take 32) (freeDigest s).2).length ≤ (hostRef p 32).len) :
    attestFetchCmd s (slotCall n p) = (
      let r := attestReport s.itv (p.take 32) (freeDigest s).2
      ((freeDigest s).1, some { status := St.ok, result := leBytes 4 r.length, bulk := some (32, r) })) :=
  Eq.trans (checked_pass _ _ _ (pass_cons (refCheck_fst href) pass_nil)) (if_neg (Nat.not_lt.mpr hbuf))

end

/-! ## The statement -/

/-- Settles O10: each command passes its checks out of greenroom, where a posted command is. That CONFIG_DIGEST is free (log 49) and
that VERSION is not compared with the running one (log 34) are the model's choices; the bow burns ROLLBACK as a field of flash. -/
theorem firmwareLicenceAndAttestationCommandsTakeEffect : Obligations.FirmwareLicenceAndAttestationCommandsTakeEffect := by
  refine ⟨?stage, ?staged, ?active, ?bow, ?licence, ?attest⟩
  case stage =>
    intro s n p d hpost hlen hslot hidle hflags hz href hmaster hgood hbow hsending hreceiving hstaging
    have hgreen := inGreen_of_posted hpost
    exact posted_runsOn hpost (length_within hlen) rfl rfl (by decide) (fun v hv => by
      rw [hv]
      exact scriptStageCmd_of_met
        ⟨hgreen, hslot, hidle, hflags, hz, href, hmaster, hbow, hsending, hreceiving, hstaging⟩ hgood)
  case staged =>
    intro s n p hpost hlen hslot hz htrial hstaged hformat
    have hgreen := inGreen_of_posted hpost
    exact posted_runsOn hpost (length_within hlen) rfl rfl (by decide) (fun v hv => by
      rw [hv]
      exact scriptSwitchCmd_of_staged hgreen hslot hz htrial hstaged hformat)
  case active =>
    intro s n p hpost hlen hslot hz hactive
    have hgreen := inGreen_of_posted hpost
    exact posted_runsOn hpost (length_within hlen) rfl rfl (by decide) (fun v hv => by
      rw [hv]
      exact scriptSwitchCmd_of_active hgreen hslot hz hactive)
  case bow =>
    intro s n t hpost htrial hbow hdog
    exact scriptBow_of_pending hpost htrial hbow hdog
  case licence =>
    intro s n p hpost hlen hcount hz2 hmagic hformat hfeature hz23 hz36 hz48 hsigned hserial hunheld
    have hwithin : 17 ≤ p.length ∧ p.length ≤ 4032 := by omega
    exact posted_ends hpost hwithin rfl rfl (by decide) (by decide) rfl (fun v hv => by
      rw [hv]
      exact licenceApplyCmd_of_met ⟨hlen, hcount, hz2, hmagic, hformat, hfeature, hz23, hz36, hz48, hserial, hunheld⟩ hsigned)
  case attest =>
    intro s n p hpost hlen href hmaster hbuf
    exact posted_endsBulk hpost (length_within hlen) rfl rfl (by decide) (by decide) ((taken_busMaster s n).trans hmaster)
      (fun v hv => by
        rw [hv] at hbuf ⊢
        exact attestFetchCmd_of_met href hbuf)

end Sys2Proof.Machine
end

section
/-! Power and heat (19_power_thermal.md): samples, sprints, caps, floor state, the heartbeat, the coolant, the thermal limits, the pins
and the rails. -/

namespace Sys2Proof.Machine

open Sys2Proof

section
variable {s u : State}

/-! ## Samples and the ghost light (R642, R655) -/

/-- What follows a sample, the limits and the governor, leaves T, G and the samples kept. -/
theorem powerSampleOp_sample {real : Nat} (hheld : s.itv.boot.held = false) :
    sampleKey (powerSampleOp s real) = sampleKey (sampleIn s real) := by
  unfold powerSampleOp
  rw [if_neg (Bool.eq_false_iff.mp hheld)]
  dsimp only
  rw [governed_sample, sprintJudged_sample, overshootStep_sample, clampCheck_sample, notePeak_sample]

theorem powerSampleOp_of_held {real : Nat} (hheld : s.itv.boot.held = true) : powerSampleOp s real = s := if_pos hheld

theorem ghostStep_of_floor {p : Power} {r : Nat} (hfloor : floorActive p = true) : ghostStep p r = (r, 0) := if_pos hfloor

theorem ghostStep_of_beating {p : Power} {r : Nat} (hfloor : floorActive p = false) (hbeat : p.beatMissing = false) :
    ghostStep p r = (
      let e := min p.floor (min p.cap 900) * 100
      let t := max r (min (min 900 p.cap * 100) (max (p.ghostT - p.downSlew) (min e (p.ghostT + p.upSlew))))
      (t, t - r)) := by
  unfold ghostStep
  rw [hfloor, hbeat]
  rfl

/-! ## Sprints and the coolant (R643, R648, R649, R738) -/

theorem sprintCheck_of_idle (h : s.itv.pwr.sprinting = false) : sprintCheck s = s := if_neg (by rw [h]; exact Bool.false_ne_true)

theorem sprintCheck_of_ended (hsprint : s.itv.pwr.sprinting = true) (hover : sprintAllowed s = false) :
    sprintCheck s =
      putRecord { s with itv.pwr.sprinting := false, itv.pwr.sprintEndAt := some s.now } (powerRecord s 1 0 none) :=
  if_pos (by rw [hsprint, hover]; rfl)

/-! ## Caps (R650, R651) -/

section
variable (hjudge : s.itv.pwr.capJudge = true) (hlate : s.itv.pwr.capAt + 5000000 ≤ s.now)
include hjudge hlate

/-- The judgement of a cap 5 ms after its acceptance. -/
theorem capMissedOp_of_due :
    capMissedOp s = (
      let u := { s with itv.pwr.capJudge := false }
      if drawOf s.itv.pwr > s.itv.pwr.cap then
        putRecord { u with itv.pwr.overKind := 8 } (powerRecord u 8 (mJ (s.itv.pwr.overshoot.getD 0)) none)
      else u) := if_pos (by rw [hjudge, passed_of_le hlate]; rfl)

theorem capMissedOp_of_above (habove : s.itv.pwr.cap < drawOf s.itv.pwr) :
    capMissedOp s = (
      let u := { s with itv.pwr.capJudge := false }
      putRecord { u with itv.pwr.overKind := 8 } (powerRecord u 8 (mJ (s.itv.pwr.overshoot.getD 0)) none)) :=
  (capMissedOp_of_due hjudge hlate).trans (if_pos habove)

theorem capMissedOp_of_within (hin : drawOf s.itv.pwr ≤ s.itv.pwr.cap) : capMissedOp s = { s with itv.pwr.capJudge := false } :=
  (capMissedOp_of_due hjudge hlate).trans (if_neg (Nat.not_lt.mpr hin))

end

/-! ## Floor state (R652, R654) -/

theorem floorEndOp_of_over {t : Nat} (hshed : s.itv.pwr.shedUntil = some t) (hover : t ≤ s.now) :
    floorEndOp s = applySet (refloor s (endRecord { s with itv.pwr.shedUntil := none } 2 s.itv.pwr.capAt)) := by
  unfold floorEndOp
  rw [hshed]
  exact if_pos hover

theorem refloor_of_left (hwas : floorActive s.itv.pwr = true) (hnot : floorActive u.itv.pwr = false) :
    refloor s u = applyStored { u with itv.pwr.chorusPaused := false, itv.pwr.floorEndAt := some u.now } := by
  unfold refloor
  dsimp only
  rw [hwas, hnot]
  rfl

theorem refloor_of_active (his : floorActive u.itv.pwr = true) :
    refloor s u =
      { u with itv.pwr.chorusPaused := true, itv.pwr.throttle := true, itv.pwr.ghostG := 0, itv.pwr.floorEndAt := none } := by
  unfold refloor
  dsimp only
  rw [his]
  rfl

/-! ## The heartbeat (R663, R739) -/

theorem heartbeatLostOp_of_late (hbeat : s.itv.pwr.beatMissing = false) (hyalny : s.itv.boot.yalny = true)
    (hlate : s.itv.pwr.beatAt + 10000000000 ≤ s.now) :
    heartbeatLostOp s = (
      let u := { s with itv.pwr.beatMissing := true, itv.pwr.lostBeatAt := s.now }
      noteState s (putRecord u (powerRecord u 5 0 none))) :=
  if_pos (by rw [hbeat, hyalny, passed_of_le hlate]; rfl)

/-! ## Thermal limits (R659, R660) -/

theorem tjSampleOp_of_trip {tj : Nat} (hheld : s.itv.boot.held = false) (htrip : 1200 ≤ tj) :
    tjSampleOp s tj = tripOp { s with itv.pwr.tj := tj } :=
  (if_neg (Bool.eq_false_iff.mp hheld)).trans (if_pos htrip)

section
variable {tj : Nat} (hheld : s.itv.boot.held = false)
include hheld

/-- From 105.0 C floor state begins with its record (R659). -/
theorem tjSampleOp_of_floor (htj : 1050 ≤ tj ∧ tj < 1200) (htherm : s.itv.pwr.therm = .normal ∨ s.itv.pwr.therm = .hot) :
    tjSampleOp s tj = (
      let u := { s with itv.pwr.tj := tj }
      let v := { u with itv.pwr.therm := .floor, itv.pwr.coolSince := none, itv.pwr.floorSince := u.now }
      sprintCheck (refloor u (putRecord v (powerRecord v 4 0 none)))) := by
  have hup : thermUp s.itv.pwr.therm tj = some .floor := by
    rcases htherm with h | h <;> rw [h] <;> exact if_pos htj.1
  unfold tjSampleOp
  rw [if_neg (Bool.eq_false_iff.mp hheld), if_neg (Nat.not_le.mpr htj.2)]
  dsimp only
  rw [hup]

/-- From 100.0 C the die is hot. -/
theorem tjSampleOp_of_hot (htj : 1000 ≤ tj ∧ tj < 1050) (htherm : s.itv.pwr.therm = .normal) :
    tjSampleOp s tj = sprintCheck { s with itv.pwr.tj := tj, itv.pwr.therm := .hot, itv.pwr.coolSince := none } := by
  have hup : thermUp s.itv.pwr.therm tj = some .hot := by
    rw [htherm]
    exact (if_neg (Nat.not_le.mpr htj.2)).trans (if_pos htj.1)
  unfold tjSampleOp
  rw [if_neg (Bool.eq_false_iff.mp hheld), if_neg (by omega)]
  dsimp only
  rw [hup]

theorem tjSampleOp_of_cool (htj : tj < 1000) (htherm : s.itv.pwr.therm = .normal) :
    tjSampleOp s tj = { s with itv.pwr.tj := tj } := by
  have hup : thermUp s.itv.pwr.therm tj = none := by
    rw [htherm]
    exact (if_neg (by omega)).trans (if_neg (Nat.not_le.mpr htj))
  unfold tjSampleOp
  rw [if_neg (Bool.eq_false_iff.mp hheld), if_neg (by omega)]
  dsimp only
  rw [hup]
  exact if_pos (by rw [htherm]; rfl)

end

/-! ## PWR_SHED_N (R661, R667) -/

theorem floorActive_of_pin {p : Power} {t : Nat} (h : p.pinSince = some t) : floorActive p = true := by
  simp [floorActive, h]

theorem pwrShedOp_of_first (h : s.itv.pwr.pinSince = none) :
    pwrShedOp s =
      { s with itv.pwr.pinSince := some s.now, itv.pwr.pinRec := powerRecord s 3 0 none, itv.pwr.chorusPaused := true,
               itv.pwr.throttle := true, itv.pwr.ghostG := 0, itv.pwr.floorEndAt := none } := by
  unfold pwrShedOp
  rw [if_neg (by rw [h]; exact Bool.false_ne_true)]
  exact refloor_of_active (floorActive_of_pin rfl)

theorem pwrShedOp_of_held (h : s.itv.pwr.pinSince.isSome = true) : pwrShedOp s = s := if_pos h

theorem pwrShedReleaseOp_of_held {t : Nat} (h : s.itv.pwr.pinSince = some t) :
    pwrShedReleaseOp s = applySet (refloor s (putRecord { s with itv.pwr.pinSince := none }
      (putAt s.itv.pwr.pinRec 20 (leBytes 4 ((s.now - t) / 1000 - 1000))))) := by
  unfold pwrShedReleaseOp
  rw [h]

/-! ## The hourly estimator (R636) -/

theorem estimatorOp_of_due {e : EstInputs} (hyalny : s.itv.boot.yalny = true) (hlate : s.itv.mgmt.estAt + 3600000000000 ≤ s.now) :
    estimatorOp s e = (
      let f := s.itv.flash
      let high := f.highHours + b2n e.vddHigh
      let wear := f.wearHours + (if e.vddHigh then 4 else 1)
      let hist := f.history ++ [[e.paceDrift, e.serdesTrend, e.correctedPerDay, f.rowRepairs.sum, high]]
      let out := if f.hours + 1 < 168 then (0, 0, 0) else Config.lifeProjection hist wear
      { s with itv.flash.hours := f.hours + 1, itv.flash.wearHours := wear, itv.flash.highHours := high, itv.flash.history := hist,
               itv.mgmt.estAt := s.now, itv.mgmt.lifeDate := out.1, itv.mgmt.lifeLow := out.2.1, itv.mgmt.lifeHigh := out.2.2 }) :=
  if_neg (by rw [hyalny, passed_of_le hlate]; exact Bool.false_ne_true)

end

/-! ## The statements -/

/-- Settles O39: one lemma for each outcome; T, G and the samples by what the limits and the governor leave (`powerSampleOp_sample`). -/
theorem samplesGovernPowerAndGhostLight : Obligations.SamplesGovernPowerAndGhostLight := by
  refine ⟨?sample, ?held, ?floor, ?ghost, ?account, ?sprintEnds, ?missed, ?met, ?floorEnd, ?leave, ?stay, ?beat, ?coolant, ?stale⟩
  case sample =>
    intro s real hheld
    have hkey := powerSampleOp_sample (real := real) hheld
    simp only [sampleKey, Prod.mk.injEq] at hkey
    obtain ⟨hT, hG, hsamples⟩ := hkey
    exact ⟨_, rfl, hT, hG, hsamples⟩
  case held => exact fun _ _ hheld => next_congr (powerSampleOp_of_held hheld)
  case floor => exact fun _ _ hfloor => ghostStep_of_floor hfloor
  case ghost => exact fun _ _ hfloor hbeat => ghostStep_of_beating hfloor hbeat
  case account => exact fun _ hidle => next_congr (sprintCheck_of_idle hidle)
  case sprintEnds =>
    intro s u hu hsprint hover
    subst hu
    exact next_congr (sprintCheck_of_ended hsprint hover)
  case missed => exact fun _ hjudge hlate habove => next_congr (capMissedOp_of_above hjudge hlate habove)
  case met => exact fun _ hjudge hlate hin => next_congr (capMissedOp_of_within hjudge hlate hin)
  case floorEnd => exact fun _ _ hshed hover => next_congr (floorEndOp_of_over hshed hover)
  case leave => exact fun _ _ hwas hnot => refloor_of_left hwas hnot
  case stay => exact fun _ _ his => refloor_of_active his
  case beat => exact fun _ hbeat hyalny hlate => next_congr (heartbeatLostOp_of_late hbeat hyalny hlate)
  case coolant => exact fun _ _ hidle => next_congr (sprintCheck_of_idle hidle)
  case stale => exact fun _ hsprint hover => next_congr (sprintCheck_of_ended hsprint hover)

/-- Settles O40: one lemma for each outcome of a row. The estimator's projection (R636) is opaque in this model (log 6). -/
theorem thermalLimitsPinsAndRailsAct : Obligations.ThermalLimitsPinsAndRailsAct := by
  refine ⟨?floor, ?hot, ?cool, ?trip, ?pin, ?shed, ?shedHeld, ?release, ?brown, ?rail, ?acked, ?unacked, ?hour⟩
  case floor => exact fun _ _ hheld htj htherm => next_congr (tjSampleOp_of_floor hheld htj htherm)
  case hot => exact fun _ _ hheld htj htherm => next_congr (tjSampleOp_of_hot hheld htj htherm)
  case cool => exact fun _ _ hheld htj htherm => next_congr (tjSampleOp_of_cool hheld htj htherm)
  case trip => exact fun _ _ hheld htrip => next_congr (tjSampleOp_of_trip hheld htrip)
  case pin => exact fun _ => rfl
  case shed => exact fun _ hnone => next_congr (pwrShedOp_of_first hnone)
  case shedHeld => exact fun _ hsome => next_congr (pwrShedOp_of_held hsome)
  case release => exact fun _ _ hsome => next_congr (pwrShedReleaseOp_of_held hsome)
  case brown => exact fun _ => rfl
  case rail => exact fun _ _ => rfl
  case acked => exact fun _ => rfl
  case unacked => exact fun _ => rfl
  case hour => exact fun _ _ hyalny hlate => next_congr (estimatorOp_of_due hyalny hlate)

end Sys2Proof.Machine
end

section
/-! The management plane (22_management_plane.md): sessions and their messages; and the bow (21_firmware_update.md), from either
plane. -/

namespace Sys2Proof.Machine

open Sys2Proof

section
variable {s : State} {k : Nat} {seq : Word} {body : Bytes} {x : Session}

/-! ## Sessions (R613, R726, R741, R743) -/

section
variable (hserved : mgmtServed s = true)
include hserved

theorem sessionOpenOp_of_room (hroom : s.itv.mgmt.sessions.length < 4) (hanchor : s.itv.flash.anchor.isSome = true ∨ inGreen s = true) :
    sessionOpenOp s true =
      { s with itv.mgmt.nextSession := s.itv.mgmt.nextSession + 1,
               itv.mgmt.sessions := kset s.itv.mgmt.sessions s.itv.mgmt.nextSession {} } := by
  unfold sessionOpenOp
  dsimp only
  rw [hserved, if_neg (by decide), if_neg (Nat.not_le.mpr hroom)]
  exact if_pos (by simpa using hanchor)

theorem sessionOpenOp_of_full {ok : Bool} (hfull : 4 ≤ s.itv.mgmt.sessions.length) :
    sessionOpenOp s ok =
      emit { s with itv.mgmt.nextSession := s.itv.mgmt.nextSession + 1 } (.closed s.itv.mgmt.nextSession) := by
  unfold sessionOpenOp
  dsimp only
  rw [hserved, if_neg (by decide)]
  exact if_pos hfull

end

theorem resultUnreadOp_of_late {t : Nat} (hunread : (getSess s k).bind (·.unread) = some t) (hlate : t + 10000000000 ≤ s.now) :
    resultUnreadOp s k = closeSession s k := by
  unfold resultUnreadOp
  rw [hunread]
  exact if_pos (passed_of_le hlate)

/-! ## HELLO (R731) -/

section
variable (hsess : getSess s k = some x)
include hsess

section
variable (hfirst : x.hello = false) (hrole : byteAt body 0 ≤ 1) (hz : firstSet body 1 7 = none)
include hfirst hrole hz

/-- The first HELLO claims its role; a second rack manager's session closes. -/
theorem helloOp_of_first :
    helloOp s k seq body =
      if byteAt body 0 == 1 && s.itv.mgmt.sessions.any (fun y => y.2.rack) then closeSession s k
      else (
        let t := modSess s k (fun x => { x with hello := true, rack := byteAt body 0 == 1 })
        sendNymco t k 0x02 (identResult t.itv)) := by
  unfold helloOp
  rw [hsess]
  dsimp only
  rw [hfirst, if_neg Bool.false_ne_true, if_neg (Nat.not_lt.mpr hrole), hz]

theorem helloOp_of_claimed (hfree : byteAt body 0 = 0 ∨ s.itv.mgmt.sessions.any (fun y => y.2.rack) = false) :
    helloOp s k seq body = (
      let t := modSess s k (fun x => { x with hello := true, rack := byteAt body 0 == 1 })
      sendNymco t k 0x02 (identResult t.itv)) := by
  rw [helloOp_of_first hsess hfirst hrole hz, if_neg (by rcases hfree with h | h <;> simp [h])]

theorem helloOp_of_secondRack (hrack : byteAt body 0 = 1) (htaken : s.itv.mgmt.sessions.any (fun y => y.2.rack) = true) :
    helloOp s k seq body = closeSession s k := by
  rw [helloOp_of_first hsess hfirst hrole hz, hrack, htaken]
  rfl

end

/-! ## Messages after the HELLO -/

section
variable (hhello : x.hello = true)
include hhello

theorem onSession_of_hello (f : State → Session → State) : onSession s k f = f s x := by
  unfold onSession
  rw [hsess]
  exact if_pos hhello

/-! ### COMMAND (R564, R730) -/

section
variable (hlen : 8 + natAt body 4 4 ≤ body.length) (hz : natAt body 2 2 = 0)
include hlen hz

/-- A well-formed COMMAND: its meaning decides. -/
theorem commandOp_of_wellFormed :
    commandOp s k seq body =
      match mgmtCmd (natAt body 0 2) (slice body 8 (natAt body 4 4)), rowOf (natAt body 0 2) with
      | some f, some row =>
        if inGreen s && !greenCode (natAt body 0 2) (slice body 8 (natAt body 4 4)) then sessReply s k seq { status := St.denied }
        else if x.cmds.length ≥ 8 || !mgmtServed s then sessReply s k seq { status := St.busy }
        else
          runCmd (modSess s k (fun x => { x with cmds := x.cmds ++ [(natAt body 0 2, seq)] }))
            { payload := clipLen (natAt body 0 2) (slice body 8 (natAt body 4 4)) (body.drop (8 + natAt body 4 4)),
              who := .sess k seq, host := .ok (body.drop (8 + natAt body 4 4)) } (natAt body 4 4) row f
      | _, _ => sessReply s k seq { status := St.denied } := by
  have hshort : ¬ body.length < 8 := by omega
  have hzero : ¬ (natAt body 2 2 != 0) = true := by rw [hz]; decide
  exact (onSession_of_hello hsess hhello _).trans ((if_neg hshort).trans ((if_neg hzero).trans (if_neg (Nat.not_lt.mpr hlen))))

theorem commandOp_of_met {f : Cmd} {row : CmdRow}
    (hcmd : mgmtCmd (natAt body 0 2) (slice body 8 (natAt body 4 4)) = some f) (hrow : rowOf (natAt body 0 2) = some row)
    (hgreen : inGreen s = false) (hserved : mgmtServed s = true) (hroom : x.cmds.length < 8) :
    commandOp s k seq body =
      runCmd (modSess s k (fun x => { x with cmds := x.cmds ++ [(natAt body 0 2, seq)] }))
        { payload := clipLen (natAt body 0 2) (slice body 8 (natAt body 4 4)) (body.drop (8 + natAt body 4 4)),
          who := .sess k seq, host := .ok (body.drop (8 + natAt body 4 4)) } (natAt body 4 4) row f := by
  rw [commandOp_of_wellFormed hsess hhello hlen hz, hcmd, hrow]
  dsimp only
  rw [hgreen, hserved, decide_eq_false (Nat.not_le.mpr hroom)]
  rfl

theorem commandOp_of_unmarked (hcmd : mgmtCmd (natAt body 0 2) (slice body 8 (natAt body 4 4)) = none) :
    commandOp s k seq body = sessReply s k seq { status := St.denied } := by
  rw [commandOp_of_wellFormed hsess hhello hlen hz, hcmd]

end

/-! ### The rack manager (R731, R732, R739, R744) -/

theorem heartbeatOp_of_rack (hrack : x.rack = true) (hbeat : s.itv.pwr.beatMissing = false) :
    heartbeatOp s k = { s with itv.pwr.beatAt := s.now, itv.pwr.beatMissing := false } :=
  (onSession_of_hello hsess hhello _).trans ((if_pos hrack).trans (if_neg (Bool.eq_false_iff.mp hbeat)))

theorem powerSetOp_of_rack {v c : Option Nat} (hrack : x.rack = true) (hgreen : inGreen s = false) (hgood : powerSetBad body = none)
    (hparts : powerSetParts body = (v, c, none)) (hsome : v.isSome = true ∨ c.isSome = true) :
    powerSetOp s k seq body = (
      let u := setLevels (modStore s (fun st => { st with vset := v.or st.vset, cap := c.or st.cap, ghost := st.ghost })) v c
      sessReply u k seq { status := St.ok, detail := 0, result := newestRecord u }) := by
  unfold powerSetOp
  rw [onSession_of_hello hsess hhello, hrack, hgreen, hgood, hparts]
  dsimp only
  rw [if_pos (Bool.or_eq_true_iff.mpr hsome)]
  rfl

theorem powerSetOp_of_operator (hrack : x.rack = false) : powerSetOp s k seq body = sessReply s k seq { status := St.denied } :=
  (onSession_of_hello hsess hhello _).trans (if_pos (by rw [hrack]; rfl))

/-! ### Telemetry, SPDM, the anchor and unknown types (R727, R728, R737, R740, R745) -/

theorem subscribeOp_of_good (hgreen : inGreen s = false) (hgood : subscribeBad body = none) :
    subscribeOp s k seq body =
      sessReply (modSess s k (fun x =>
        { x with streams := BitVec.ofNat 8 (byteAt body 0), sets := BitVec.ofNat 8 (byteAt body 1), period := natAt body 4 4,
                 snapAt := s.now })) k seq { status := St.ok } := by
  unfold subscribeOp
  rw [onSession_of_hello hsess hhello, hgreen, if_neg Bool.false_ne_true, hgood]

theorem spdmOp_of_session (msg : Bytes) : spdmOp s (some k) msg = sendNymco (spdmReply s msg).1 k 0x40 (spdmReply s msg).2 := by
  unfold spdmOp
  exact onSession_of_hello hsess hhello _

theorem anchorSetOp_of_good {cert : Bytes} (hopen : inGreen s = false ∨ s.itv.flash.anchor = none)
    (hcert : Config.isAnchorCert cert = true) :
    anchorSetOp s k seq cert = closeAll { sessReply s k seq { status := St.ok } with itv.flash.anchor := some cert } := by
  unfold anchorSetOp
  rw [onSession_of_hello hsess hhello, if_neg (by rcases hopen with h | h <;> simp [h]), hcert]
  rfl

theorem nymcoUnknownTypeOp_of_hello (typ : Nat) :
    nymcoUnknownTypeOp s k typ seq = sessReply s k seq
      { status := St.badarg, detail := if [0x01, 0x10, 0x20, 0x21, 0x30, 0x40, 0x50].contains typ then 2 else 0 } := by
  unfold nymcoUnknownTypeOp
  rw [hsess]
  exact if_pos (by rw [hhello]; rfl)

end

theorem telemetrySnapshotOp_of_due (hstream : x.streams.getLsbD 4 = true) (hlate : x.snapAt + x.period * 1000000 ≤ s.now) :
    telemetrySnapshotOp s k = (
      let sets := (List.range 8).filter (fun i => x.sets.getLsbD i)
      sendNymco (modSess s k (fun x => { x with snapAt := s.now })) k 0x31
        (leBytes 1 4 ++ zeros 3 ++ leBytes 4 sets.length ++ sets.flatMap (snapshotOf s.itv))) := by
  unfold telemetrySnapshotOp
  rw [hsess]
  exact if_pos (by rw [hstream, passed_of_le hlate]; rfl)

end

theorem spdmOp_of_bus (msg : Bytes) (hserved : mgmtServed s = true) :
    spdmOp s none msg = emit (spdmReply s msg).1 (.spdm (spdmReply s msg).2) := if_pos hserved

end

/-! ## The statement on sessions -/

/-- Settles O44: each message of a session that has sent its HELLO acts as `onSession_of_hello` gives. DENIED for an operator's
POWER_SET and the RESULT that answers SUBSCRIBE (log 19), and the free SEQ of what Itvos sends itself (log 43), are the model's
choices. -/
theorem sessionsCarryCommandsAndSettings : Obligations.SessionsCarryCommandsAndSettings := by
  refine ⟨?opened, ?full, ?closed, ?hello, ?secondRack, ?command, ?unmarked, ?beat, ?powerSet, ?operator, ?subscribe, ?snapshot,
    ?unread, ?spdmBus, ?spdm, ?anchor, ?unknown⟩
  case opened => exact fun _ hserved hroom hanchor => next_congr (sessionOpenOp_of_room hserved hroom hanchor)
  case full => exact fun _ _ hserved hfull => next_congr (sessionOpenOp_of_full hserved hfull)
  case closed => exact fun _ _ => rfl
  case hello =>
    exact fun _ _ _ _ _ hsess hfirst hrole hz hfree => next_congr (helloOp_of_claimed hsess hfirst hrole hz hfree)
  case secondRack =>
    exact fun _ _ _ _ _ hsess hfirst hrack hz htaken =>
      next_congr (helloOp_of_secondRack hsess hfirst (by omega) hz hrack htaken)
  case command =>
    exact fun _ _ _ _ _ _ _ hsess hhello hlen hz hcmd hrow hgreen hserved hroom =>
      next_congr (commandOp_of_met hsess hhello hlen hz hcmd hrow hgreen hserved hroom)
  case unmarked =>
    exact fun _ _ _ _ _ hsess hhello hlen hz hcmd => next_congr (commandOp_of_unmarked hsess hhello hlen hz hcmd)
  case beat => exact fun _ _ _ hsess hhello hrack hbeat => next_congr (heartbeatOp_of_rack hsess hhello hrack hbeat)
  case powerSet =>
    exact fun _ _ _ _ _ _ _ hsess hhello hrack hgreen hgood hparts hsome =>
      next_congr (powerSetOp_of_rack hsess hhello hrack hgreen hgood hparts hsome)
  case operator => exact fun _ _ _ _ _ hsess hhello hrack => next_congr (powerSetOp_of_operator hsess hhello hrack)
  case subscribe => exact fun _ _ _ _ _ hsess hhello hgreen hgood => next_congr (subscribeOp_of_good hsess hhello hgreen hgood)
  case snapshot => exact fun _ _ _ hsess hstream hlate => next_congr (telemetrySnapshotOp_of_due hsess hstream hlate)
  case unread => exact fun _ _ _ hunread hlate => next_congr (resultUnreadOp_of_late hunread hlate)
  case spdmBus => exact fun _ msg hserved => next_congr (spdmOp_of_bus msg hserved)
  case spdm => exact fun _ _ msg _ hsess hhello => next_congr (spdmOp_of_session hsess hhello msg)
  case anchor => exact fun _ _ _ _ _ hsess hhello hopen hcert => next_congr (anchorSetOp_of_good hsess hhello hopen hcert)
  case unknown => exact fun _ _ typ _ _ hsess hhello => next_congr (nymcoUnknownTypeOp_of_hello hsess hhello typ)

/-! ## The bow (R716) -/

section
variable (f : Flash) (k : Nat) (g : Img → Img)

theorem getImg_modImg_same : getImg (modImg f k g) k = g (getImg f k) := by
  unfold getImg modImg
  split <;> rfl

/-- The two slots, 0 and 1, hold separate images. -/
theorem getImg_modImg_ne {j : Nat} (hj : j < 2) (hk : k < 2) (hne : j ≠ k) : getImg (modImg f k g) j = getImg f j := by
  have hslots : (k = 0 ∧ j = 1) ∨ (k = 1 ∧ j = 0) := by omega
  rcases hslots with ⟨rfl, rfl⟩ | ⟨rfl, rfl⟩ <;> rfl

theorem modImg_rollback : (modImg f k g).rollback = f.rollback := by
  unfold modImg
  split <;> rfl

theorem modImg_store : (modImg f k g).store = f.store := by
  unfold modImg
  split <;> rfl

end

/-- The images of the slots once slot `t` is the active one. -/
def bowImages (f : Flash) (t : Nat) : Flash :=
  modImg (modImg f f.activeSlot (fun x => if f.activeSlot = t then x else { x with st := .staged })) t
    (fun x => { x with st := .active })

theorem takeBow_flash (s : State) (t : Nat) :
    (takeBow s t).itv.flash =
      { bowImages s.itv.flash t with
          activeSlot := t, trialSlot := none, trialArmed := false, other := none,
          rollback := max (bowImages s.itv.flash t).rollback (getImg (bowImages s.itv.flash t) t).svn } := rfl

section
variable {f : Flash} {t : Nat} (ht : t < 2) (hact : f.activeSlot < 2) (hne : f.activeSlot ≠ t)
include ht hact hne

theorem getImg_bowImages_trial : getImg (bowImages f t) t = { getImg f t with st := .active } := by
  unfold bowImages
  rw [getImg_modImg_same, getImg_modImg_ne _ _ _ ht hact hne.symm]

theorem getImg_bowImages_old : getImg (bowImages f t) f.activeSlot = { getImg f f.activeSlot with st := .staged } := by
  unfold bowImages
  rw [getImg_modImg_ne _ _ _ hact ht hne, getImg_modImg_same, if_neg hne]

end

theorem bowImages_rollback (f : Flash) (t : Nat) : (bowImages f t).rollback = f.rollback := by
  unfold bowImages
  rw [modImg_rollback, modImg_rollback]

theorem bowImages_store (f : Flash) (t : Nat) : (bowImages f t).store = f.store := by
  unfold bowImages
  rw [modImg_store, modImg_store]

/-- A session's entry stands apart from flash and boot. -/
theorem modSess_flash (s : State) (k : Nat) (f : Session → Session) : (modSess s k f).itv.flash = s.itv.flash := by
  unfold modSess
  split <;> rfl

theorem modSess_boot (s : State) (k : Nat) (f : Session → Session) : (modSess s k f).itv.boot = s.itv.boot := by
  unfold modSess
  split <;> rfl

/-- A script-bow of a session, while the bow is pending. -/
theorem runCmd_scriptBow_of_pending {s : State} {k t : Nat} {seq : Word} {p : Bytes} {host : HostRead}
    (htrial : s.itv.flash.trialSlot = some t) (hbow : s.itv.boot.bowPending = true) (hdog : s.itv.boot.watchdogStopped = none) :
    runCmd s { payload := p, who := .sess k seq, host := host } 0 ⟨0x0603, 0, 0, 100⟩ scriptBowCmd =
      completeSess (takeBow s t) k seq { status := St.ok } := by
  have hfits : ¬ (0 > 4032 && !isMgmt { payload := p, who := .sess k seq, host := host }) = true := Bool.false_ne_true
  unfold runCmd
  rw [if_neg hfits, if_neg (by decide), scriptBowCmd_of_pending htrial hbow hdog]
  rfl

/-- Settles O52: the images by `getImg_bowImages_trial` and `getImg_bowImages_old`; both planes run the one `scriptBowCmd`. That
ROLLBACK, fuse bits by R707, is a field of flash is the model's choice (log 34). -/
theorem theBowMakesTheTrialScriptActive : Obligations.TheBowMakesTheTrialScriptActive := by
  refine ⟨?effect, ?callboard, ?session⟩
  case effect =>
    intro s t ht hact hne f g
    have hg : g = _ := takeBow_flash s t
    refine ⟨by rw [hg], ?trial, ?old, by rw [hg], ?rollback, by rw [hg], ?store⟩
    case trial => exact congrArg Img.st (getImg_bowImages_trial ht hact hne)
    case old => exact congrArg Img.st (getImg_bowImages_old ht hact hne)
    case rollback =>
      rw [hg]
      dsimp only
      rw [bowImages_rollback, getImg_bowImages_trial ht hact hne]
      exact max_def_lt _ _
    case store => exact bowImages_store f t
  case callboard =>
    intro s n t hpost htrial hbow hdog
    exact scriptBow_of_pending hpost htrial hbow hdog
  case session =>
    intro s k seq x t hsess hhello hgreen hserved hroom htrial hbow hdog
    refine next_congr ((commandOp_of_met hsess hhello (by decide) (by decide) rfl rfl hgreen hserved hroom).trans ?_)
    exact runCmd_scriptBow_of_pending ((congrArg Flash.trialSlot (modSess_flash ..)).trans htrial)
      ((congrArg Boot.bowPending (modSess_boot ..)).trans hbow) ((congrArg Boot.watchdogStopped (modSess_boot ..)).trans hdog)

end Sys2Proof.Machine
end
